-- ==== Sys2Proof/Word.lean ====
section
/-! DEFINITION. The widths the manual fixes: bytes, parcels, scalar words, vector and predicate registers, addresses (R7, R156, R180, R232). -/

namespace Sys2Proof

/-- The smallest unit the module addresses. -/
abbrev Byte := BitVec 8

/-- A 16-bit unit of text (R297). -/
abbrev Parcel := BitVec 16

/-- The contents of a scalar register (R232). -/
abbrev Word := BitVec 64

/-- The contents of a vector register (R232). -/
abbrev Vec := BitVec 512

/-- The contents of a predicate register, one bit for each byte lane (R232). -/
abbrev Pred := BitVec 64

/-- A text address: virtual address bits [55:0] (R297). -/
abbrev TextAddr := BitVec 56

/-- A physical address as it travels in slots and registers (R156). -/
abbrev PAddr := BitVec 48

end Sys2Proof
end

