-- ==== Sys2Proof/Machine/Sparse.lean ====
section
/-! DEFINITION. Sparse storage by number: lists of (key, value) with keys strictly rising. `Map` holds records and registers,
an unlisted key reading as a given value; byte storage also lists no entry equal to what an unlisted address reads as. -/

namespace Sys2Proof.Machine

/-- Values by number, keys strictly rising. -/
abbrev Map (α : Type) := List (Nat × α)

/-- The value at a key; an unlisted key reads as `d`. -/
def mapGet {α : Type} (d : α) : Map α → Nat → α
  | [], _ => d
  | (a, v) :: r, k => if k < a then d else if k = a then v else mapGet d r k

/-- The value at a key, if it is listed. -/
def mapFind {α : Type} : Map α → Nat → Option α
  | [], _ => none
  | (a, v) :: r, k => if k < a then none else if k = a then some v else mapFind r k

/-- Sets the value at a key. -/
def mapSet {α : Type} : Map α → Nat → α → Map α
  | [], k, v => [(k, v)]
  | (a, w) :: r, k, v =>
    if k < a then (k, v) :: (a, w) :: r else if k = a then (k, v) :: r else (a, w) :: mapSet r k v

/-- Removes a key. -/
def mapDel {α : Type} : Map α → Nat → Map α
  | [], _ => []
  | (a, w) :: r, k => if k < a then (a, w) :: r else if k = a then r else (a, w) :: mapDel r k

/-- Sets the value at a key in canonical form: an entry equal to the unlisted value is not listed. -/
def cellSet {α : Type} [DecidableEq α] (d : α) (m : Map α) (k : Nat) (v : α) : Map α :=
  if v = d then mapDel m k else mapSet m k v

/-- A value before the first one that does not precede it. -/
def putInOrder {α : Type} (le : α → α → Bool) (x : α) : List α → List α
  | [] => [x]
  | y :: r => if le x y then x :: y :: r else y :: putInOrder le x r

/-- A list in order; equals stay as they stood. -/
def inOrder {α : Type} (le : α → α → Bool) (l : List α) : List α := l.foldr (putInOrder le) []

/-- Keys strictly rise from above `lo`. -/
def sortedFrom {α : Type} : Nat → Map α → Bool
  | _, [] => true
  | lo, (a, _) :: r => lo ≤ a && sortedFrom (a + 1) r

/-- The canonical form: keys strictly rising and no entry equal to the unlisted value. -/
def cellsWf {α : Type} [DecidableEq α] (d : α) (m : Map α) : Bool :=
  sortedFrom 0 m && m.all (fun e => decide (e.2 ≠ d))

end Sys2Proof.Machine
end

