-- ==== Sys2Proof/Syntax.lean ====
section
/-! DEFINITION. The words and the steps of the module: one constructor of `Instr` for each row of the opcode table.
Words carry their fields; what the outside world or the module's timing decides about a row that no word encodes
(a command, a message, an event) is a value of `Args`, which the state holds beside it. -/

namespace Sys2Proof

/-- The three engines of a core (R221). -/
inductive Eng where
  | t | m | c
  deriving DecidableEq, Repr, Inhabited

/-- What a pool peer's firmware and sequencer may ask or tell (R64, R65; notes/assumptions/29.md): a borrower sends a task record (`post`)
or takes one back (`kill`), sends a stream's hand-off entry (`entry`), cancels it (`cancel`) and releases it (`release`); the lender tells
that a record is gone (`done`), that a task of it has faulted (`fault`), and what a hand-off engine reports (`report`). -/
inductive PeerReq where
  | lend | borrow | reclaim | post | kill | entry | cancel | release | done | fault | report
  deriving DecidableEq, Repr, Inhabited

/-- S-form layout A (Table 14-1). -/
structure AForm where
  xd : BitVec 6
  xa : BitVec 6
  ba : BitVec 1
  xb : BitVec 6
  bb : BitVec 1
  fn : BitVec 2
  deriving DecidableEq, Repr

/-- S-form layout B (Table 14-1). -/
structure BForm where
  xd : BitVec 6
  xa : BitVec 6
  ba : BitVec 1
  imm : BitVec 9
  deriving DecidableEq, Repr

/-- S-form layout C (Table 14-1). -/
structure CForm where
  off : BitVec 22
  deriving DecidableEq, Repr

/-- S-form layout D (Table 14-1). -/
structure DForm where
  xa : BitVec 6
  xb : BitVec 6
  off : BitVec 10
  deriving DecidableEq, Repr

/-- S-form layout E (Table 14-1). -/
structure EForm where
  xd : BitVec 6
  xa : BitVec 6
  ba : BitVec 1
  csr : BitVec 9
  deriving DecidableEq, Repr

/-- S-form layout F (Table 14-1). -/
structure FForm where
  p : BitVec 7
  mode : BitVec 2
  off : BitVec 13
  deriving DecidableEq, Repr

/-- The fields of a V-form word (Table 14-3). -/
structure VForm where
  fn8 : BitVec 8
  pg : BitVec 7
  d : BitVec 8
  dw : BitVec 2
  dt : BitVec 1
  a : BitVec 8
  aw : BitVec 2
  ab : BitVec 1
  b : BitVec 8
  bw : BitVec 2
  bb : BitVec 1
  deriving DecidableEq, Repr

/-- The fields of LIX (R307). -/
structure IForm where
  xd : BitVec 6
  h : BitVec 1
  imm : BitVec 32
  deriving DecidableEq, Repr

/-- A request slot with the flit fields that travel end to end (Tables 2-1 and 2-2). -/
structure Slot where
  src : Nat
  dst : Nat
  addr : PAddr
  op : Byte
  len : Nat
  tag : BitVec 16
  core : BitVec 10
  nmask : BitVec 64
  arg : BitVec 64
  payload : List Byte
  deriving DecidableEq, Repr

/-- A line flit with its line header (Table 2-5). -/
structure LineMsg where
  src : Nat
  dst : Nat
  addr : PAddr
  lop : Byte
  status : Byte
  tag : BitVec 16
  core : BitVec 10
  ctag : BitVec 2
  ltime : BitVec 48
  line : List Byte
  deriving DecidableEq, Repr

/-- What one start finds (Table 4-9): the environment's part of the start stages. -/
structure SelfTest where
  /-- stage 1: the ROM digest checks -/
  romOk : Bool
  /-- stage 2: sites that fail BIST -/
  badSites : List Nat
  /-- stage 2: (site, column, layer, failed segments) -/
  segFail : List (Nat × Nat × Nat × BitVec 8)
  /-- stage 2: (P-die index, WBOK) where some pair fails -/
  wbok : List (Nat × BitVec 8)
  /-- stage 3: (site, edge, modules that passed) where some module fails -/
  linkOk : List (Nat × Nat × BitVec 8)
  /-- stage 3: fabric ports that fail to train -/
  badPorts : List Nat
  /-- stage 5: the PUF seed reconstructs -/
  pufOk : Bool
  deriving DecidableEq, Repr

/-- What the outside world or the module's timing decides about one step that no word encodes: the numbers that
name its place, the value written, the message that arrives. Each row of the table says which of them it reads. -/
structure Args where
  /-- the site, core, region, port, slot, operation or stream the step is at -/
  n : Nat
  /-- a second number: layer, edge, ring, queue, entry, index, length -/
  k : Nat
  /-- a third number: offset, entry, block number -/
  c : Nat
  /-- bytes of an access -/
  size : Nat
  /-- a physical address -/
  addr : PAddr
  /-- the value written or received -/
  val : Word
  /-- an outcome: passed, signed, is the base register -/
  flag : Bool
  /-- bytes received -/
  data : List Byte
  /-- temperatures by sensor number -/
  temps : List (Nat × BitVec 16)
  /-- media errors that the storage has found by now: physical address, uncorrectable (R18, R176) -/
  flaws : List (Nat × Bool)
  /-- what a pool peer asks -/
  peer : PeerReq
  msg : Slot
  line : LineMsg
  test : SelfTest
  deriving DecidableEq, Repr

/-- One constructor for each row of the opcode table: the words with fields, then the words without, then the steps of
the module that no word encodes. What those steps read stands in `Args`. -/
inductive Instr where
  -- S-form words (Table 14-2)
  | add (f : AForm)
  | sub (f : AForm)
  | and (f : AForm)
  | or (f : AForm)
  | xor (f : AForm)
  | shl (f : AForm)
  | shr (f : AForm)
  | mul (f : AForm)
  | div (f : AForm)
  | rem (f : AForm)
  | min (f : AForm)
  | max (f : AForm)
  | cset (f : AForm)
  | bits (f : AForm)
  | field (f : AForm)
  | sel (f : AForm)
  | addi (f : BForm)
  | andi (f : BForm)
  | ori (f : BForm)
  | xori (f : BForm)
  | shli (f : BForm)
  | shri (f : BForm)
  | shai (f : BForm)
  | cseti (f : BForm)
  | xput (f : AForm)
  | xtake (f : AForm)
  | b (f : CForm)
  | call (f : CForm)
  | jr (f : BForm)
  | beq (f : DForm)
  | bne (f : DForm)
  | blt (f : DForm)
  | bge (f : DForm)
  | bltu (f : DForm)
  | bgeu (f : DForm)
  | bp (f : FForm)
  | csrr (f : EForm)
  | csrw (f : EForm)
  | csrs (f : EForm)
  | csrc (f : EForm)
  | fence (kind : BitVec 3) (scope : BitVec 2) (slot : BitVec 4)
  | svc (n : BitVec 8)
  | icinv (f : AForm)
  | getid (f : AForm)
  | ldb (f : BForm)
  | ldh (f : BForm)
  | ldw (f : BForm)
  | ldd (f : BForm)
  | ldbs (f : BForm)
  | ldhs (f : BForm)
  | ldws (f : BForm)
  | stb (f : BForm)
  | sth (f : BForm)
  | stw (f : BForm)
  | std (f : BForm)
  | ldf (f : BForm)
  | ldc (f : BForm)
  | ste (f : BForm)
  | sts (f : AForm)
  | stn (f : BForm)
  | allot (f : BForm)
  | rotcfg (f : BForm)
  | rotset (f : AForm)
  | ctxsv (f : AForm)
  | ctxld (f : AForm)
  | grpset (f : AForm)
  | asgen (f : AForm)
  | cohset (f : AForm)
  | probe (f : AForm)
  -- V-form and VI-form words (Table 14-4)
  | lix (f : IForm)
  | vadd (f : VForm)
  | vsub (f : VForm)
  | vmul (f : VForm)
  | vfma (f : VForm)
  | vfms (f : VForm)
  | vmin (f : VForm)
  | vmax (f : VForm)
  | vabs (f : VForm)
  | vneg (f : VForm)
  | vdiv (f : VForm)
  | vsqrt (f : VForm)
  | vrcp (f : VForm)
  | vrsq (f : VForm)
  | vexp2 (f : VForm)
  | vlog2 (f : VForm)
  | vscl (f : VForm)
  | vcmp (f : VForm)
  | vsel (f : VForm)
  | vand (f : VForm)
  | vor (f : VForm)
  | vxor (f : VForm)
  | vnot (f : VForm)
  | vshl (f : VForm)
  | vshr (f : VForm)
  | vcvt (f : VForm)
  | vqmx (f : VForm)
  | vdqmx (f : VForm)
  | vqnb (f : VForm)
  | vdqnb (f : VForm)
  | vrand (f : VForm)
  | vbdot (f : VForm)
  | vpack (f : VForm)
  | vred (f : VForm)
  | vscan (f : VForm)
  | vperm (f : VForm)
  | vbcast (f : VForm)
  | vextr (f : VForm)
  | vins (f : VForm)
  | vslide (f : VForm)
  | vzip (f : VForm)
  | vunzip (f : VForm)
  | vmov (f : VForm)
  | viota (f : VForm)
  | pand (f : VForm)
  | por (f : VForm)
  | pxor (f : VForm)
  | pnot (f : VForm)
  | pwhile (f : VForm)
  | pcnt (f : VForm)
  | pfirst (f : VForm)
  | vld (f : VForm)
  | vst (f : VForm)
  | vldx (f : VForm)
  | vstx (f : VForm)
  | vldf (f : VForm)
  | vste (f : VForm)
  | vgath (f : VForm)
  | vscat (f : VForm)
  | touch (f : VForm)
  | cstat (f : VForm)
  | waitc (f : VForm)
  | defer (f : VForm)
  | resolve (f : VForm)
  | poison (f : VForm)
  | rcpdef (f : VForm)
  | rcpdrop (f : VForm)
  | rcpkill (f : VForm)
  | rempty (f : VForm)
  | rstate (f : VForm)
  | amoadd (f : VForm)
  | amomin (f : VForm)
  | amomax (f : VForm)
  | amoand (f : VForm)
  | amoor (f : VForm)
  | amoxor (f : VForm)
  | amoswp (f : VForm)
  | amocas (f : VForm)
  | amofadd (f : VForm)
  | vamoadd (f : VForm)
  | fadd (f : VForm)
  | fset (f : VForm)
  | farm (f : VForm)
  | binit (f : VForm)
  | bexp (f : VForm)
  | bwait (f : VForm)
  | btest (f : VForm)
  | binv (f : VForm)
  | rginit (f : VForm)
  | rgtake (f : VForm)
  | sbind (f : VForm)
  | sunbind (f : VForm)
  | sstat (f : VForm)
  -- M words (Table 14-5)
  | mpushx (take trap : BitVec 1) (x : BitVec 6)
  | mpopx (x : BitVec 6)
  | mshl (n : BitVec 6)
  | mmma (slot : BitVec 4) (emptyA markC acc : BitVec 1)
  | mmva (slot : BitVec 4) (emptyA markC acc : BitVec 1)
  | mepi (slot : BitVec 4)
  | mwait (ph : BitVec 1)
  | mskipz (n : BitVec 8)
  | mconst (c slot : BitVec 4)
  | mlit (p : BitVec 13)
  -- C words (Table 14-5)
  | cpushx (take trap : BitVec 1) (x : BitVec 6)
  | cpopx (x : BitVec 6)
  | cshl (n : BitVec 6)
  | ccopy (resolve : BitVec 1)
  | ccopy2 (resolve : BitVec 1)
  | cgath (resolve : BitVec 1)
  | cscat (resolve : BitVec 1)
  | cfill (resolve : BitVec 1)
  | cpage (resolve : BitVec 1)
  | ccoll (ty op : BitVec 4)
  | cwait (ph : BitVec 1)
  | cskipz (n : BitVec 8)
  | clit (p : BitVec 13)
  -- A-words (Table 14-6)
  | loop (c : BitVec 7)
  | loopX (x : BitVec 6)
  | endl (rot : BitVec 1)
  | leave (cond : BitVec 2) (r : BitVec 6)
  | abr (cond : BitVec 2) (r : BitVec 6) (off : BitVec 16)
  | acall (off : BitVec 16)
  | slip (n : BitVec 4)
  -- E-ops (Table 14-7)
  | elda (d : BitVec 3)
  | eadd (d s : BitVec 3)
  | emul (d s : BitVec 3)
  | efma (d s : BitVec 3)
  | emax (d s : BitVec 3)
  | econ (d : BitVec 3) (c : BitVec 4)
  | erow (d s : BitVec 3)
  | eact (d s : BitVec 3) (f : BitVec 5)
  | ecvt (d s : BitVec 3) (sat : BitVec 1) (ty : BitVec 4)
  | estat (d s : BitVec 3)
  | eqkv (d s : BitVec 3) (ty : BitVec 4)
  | eres (d : BitVec 3)
  | est (s : BitVec 3) (ty : BitVec 4)
  | esel (d s c : BitVec 3)
  | emov (d s : BitVec 3)
  -- S-form words (Table 14-2), no field
  | trapf | sret | brk | xdisp | isync | pause | swctx | park
  -- V-form and VI-form words (Table 14-4), no field
  | brkl
  -- M words (Table 14-5), no field
  | mnop | mdup | mdrop | mswap | mover | madd | mor | mswpw | mbar | mbrk
  -- C words (Table 14-5), no field
  | cnop | cdup | cdrop | cswap | cover | cadd | cor | cdecomp | cpref | choff | cflush | cbar | cbrk
  -- A-words (Table 14-6), no field
  | anop | aret | sync | next | halt | abrk
  -- E-ops (Table 14-7), no field
  | eend
  -- Package, sensors, power (chapter 1)
  | powerUp | stageOverrun | startRetryReset | inputPowerRemoved | sensorSample | thstatWarnClear | tlimWrite
  | lpwrWrite | layerTransitionDone | capTick | droopAlarm | droopHoldEnd | heldStartAdmit | staggeredRegionStart
  | registerWrite
  -- Die links and fabric ports (chapters 2, 3)
  | flitReceive | nakReceive | nullFlitSend | retrainStart | linkForceRetrain | retrainAttemptEnd
  | retrainAttemptTimeout | fabricFlitReceive | fabricNakReceive | portRetrainStart | portRetrainAttemptEnd
  | portRetrainAttemptTimeout
  -- Request slots, responses, lines and bulk data (chapter 2)
  | rdline | rdpart | wrmask | tagst | tagld | slotAmoadd | slotAmomin | slotAmomax | slotAmoand | slotAmoor
  | slotAmoxor | slotAmoswp | slotAmocas | slotAmofadd | slotVamoadd | slotFadd | slotFset | slotFarm | cellopTouch
  | cellopCstat | cellopDefer | cellopResolve | cellopPoison | cellopWaitc | cellopHeadQuery | bopen | bulkFlit
  | ldata | lwrite | lwritev | rdata | done | err | pend | pendTimer | responseTimeout
  -- Host window and slot words (chapter 4)
  | hostMemRead | hostMemWrite | submit | slotFree | slotStateUndo | cancelWord | evheadWrite | msixUnmask
  -- Mailbox commands (chapter 4)
  | identify | status | attest | bootlog | updateConfig | setPlan | loadText | loadWeights | loadWeightsDone
  | mapRegion | unmap | openSpace | closeSpace | setTier | cancel | drain | drainComplete | queryStream | lend
  | borrow | reclaim | reclaimAnswer | reclaimGraceExpire | debugHalt | debugResume | debugRead | debugWrite
  | debugBreak | resetModule | moduleReset | thermalRead | thermalSet | powerCap
  -- Sideband, sequencer and hand-off (chapters 4 to 6, 10)
  | spdmRequest | admission | streamEnd | retirement | tiermissEvent | ltimeWarn | ltimeSelfDrain | ltimeLimit
  | logicalTimeTick | handoffSend | hblkSent | handoffTimerExpire | hblk | blockLanded | cack | hcancel | cmark
  | cxack | cxackSequencer | srcdone | cnote | hfail | hrej
  -- Frames, dispatcher, contexts, tiles, cells, stash (chapters 6 to 9, 12)
  | frefopAttach | frefopRead | tkpost | predDecrement | ringDescriptorWrite | dispatchSelect | contextSwap
  | backgroundSpillDone | debugHaltTake | asyncRetire | fqcmdResume | fqcmdKill | fqcmdComplete | faultQueueTimeout
  | tileTaskIssue | tileTaskComplete | bankPairSwap | evalTableRetry | evalPostRetry | waiterTableRetry
  | tagwaitRetry | engineEvalEnd | stashConfigWrite | stmapdWrite
  -- Encodings that are not instructions; the pool peer
  | illegalEncoding | poolPeerRequest
  deriving DecidableEq, Repr

/-- The step is one that no word encodes. -/
def Instr.isStep (i : Instr) : Bool :=
  match i with
  | .powerUp | .stageOverrun | .startRetryReset | .inputPowerRemoved | .sensorSample | .thstatWarnClear
  | .tlimWrite | .lpwrWrite | .layerTransitionDone | .capTick | .droopAlarm | .droopHoldEnd | .heldStartAdmit
  | .staggeredRegionStart | .registerWrite | .flitReceive | .nakReceive | .nullFlitSend | .retrainStart
  | .linkForceRetrain | .retrainAttemptEnd | .retrainAttemptTimeout | .fabricFlitReceive | .fabricNakReceive
  | .portRetrainStart | .portRetrainAttemptEnd | .portRetrainAttemptTimeout | .rdline | .rdpart | .wrmask
  | .tagst | .tagld | .slotAmoadd | .slotAmomin | .slotAmomax | .slotAmoand | .slotAmoor | .slotAmoxor
  | .slotAmoswp | .slotAmocas | .slotAmofadd | .slotVamoadd | .slotFadd | .slotFset | .slotFarm | .cellopTouch
  | .cellopCstat | .cellopDefer | .cellopResolve | .cellopPoison | .cellopWaitc | .cellopHeadQuery | .bopen
  | .bulkFlit | .ldata | .lwrite | .lwritev | .rdata | .done | .err | .pend | .pendTimer | .responseTimeout
  | .hostMemRead | .hostMemWrite | .submit | .slotFree | .slotStateUndo | .cancelWord | .evheadWrite
  | .msixUnmask | .identify | .status | .attest | .bootlog | .updateConfig | .setPlan | .loadText
  | .loadWeights | .loadWeightsDone | .mapRegion | .unmap | .openSpace | .closeSpace | .setTier | .cancel
  | .drain | .drainComplete | .queryStream | .lend | .borrow | .reclaim | .reclaimAnswer | .reclaimGraceExpire
  | .debugHalt | .debugResume | .debugRead | .debugWrite | .debugBreak | .resetModule | .moduleReset
  | .thermalRead | .thermalSet | .powerCap | .spdmRequest | .admission | .streamEnd | .retirement
  | .tiermissEvent | .ltimeWarn | .ltimeSelfDrain | .ltimeLimit | .logicalTimeTick | .handoffSend | .hblkSent
  | .handoffTimerExpire | .hblk | .blockLanded | .cack | .hcancel | .cmark | .cxack | .cxackSequencer
  | .srcdone | .cnote | .hfail | .hrej | .frefopAttach | .frefopRead | .tkpost | .predDecrement
  | .ringDescriptorWrite | .dispatchSelect | .contextSwap | .backgroundSpillDone | .debugHaltTake
  | .asyncRetire | .fqcmdResume | .fqcmdKill | .fqcmdComplete | .faultQueueTimeout | .tileTaskIssue
  | .tileTaskComplete | .bankPairSwap | .evalTableRetry | .evalPostRetry | .waiterTableRetry | .tagwaitRetry
  | .engineEvalEnd | .stashConfigWrite | .stmapdWrite | .illegalEncoding | .poolPeerRequest => true
  | _ => false

end Sys2Proof
end

