-- ==== Sys2Proof/Machine/DieState.lean ====
section
/-! DEFINITION. The state of one die: control block registers (chapters 1, 8, 9), links (chapter 2), hand-off engine (chapter
6), dispatcher (chapter 7), image pool (chapter 12), and of a power region (Table 1-8). Field defaults are the values at
reset; where the manual states none, notes/assumptions/5.md and 6.md do. -/

namespace Sys2Proof.Machine

/-- A line of a cache (R166, R171, R172): its bytes, which of them are newer than the home's, and for a software-coherent line the
generation it was filled under, for a hardware-coherent one the end of its lease. -/
structure Line where
  addr : Nat
  cls : BitVec 2
  data : List Byte
  dirty : BitVec 128 := 0
  stamp : BitVec 16 := 0
  lease : BitVec 48 := 0
  deriving DecidableEq, Repr

/-- An entry of a translation cache (R182): the page, and the leaf that a walk found, with the generation it began under. -/
structure Tlb where
  asid : BitVec 12
  /-- address bits above the page's, and whether the page is one of 4 MiB -/
  page : Nat
  big : Bool
  g : Bool
  gen : BitVec 16
  raw : Nat
  deriving DecidableEq, Repr

/-- A sensor word (Table 1-5). -/
structure Sensor where
  temp : BitVec 16 := 0
  seq : BitVec 8 := 0
  valid : Bool := false
  deriving DecidableEq, Repr

/-- LPWR of one DRAM layer (Table 1-7) with the target that waits for a transition to end (R27). -/
structure Lpwr where
  target : BitVec 2 := 0
  state : BitVec 2 := 0
  busy : Bool := false
  queued : Option (BitVec 2) := none
  deriving DecidableEq, Repr

/-- A weight bank pair (Table 8-6). -/
structure WPair where
  act : BitVec 1 := 0
  epoch : BitVec 16 := 0
  deriving DecidableEq, Repr

/-- A pair of 16-bit saturating error counters (Table 8-7). -/
structure ErrCnt where
  ce : BitVec 16 := 0
  ue : BitVec 16 := 0
  deriving DecidableEq, Repr

/-- An evaluation table entry in use (R192, R199 to R201). -/
structure Eval where
  /-- line address of the head cell -/
  cell : Nat
  /-- KIND of its record -/
  kind : Nat
  depth : Nat
  /-- the cell its evaluator waits on -/
  waitsOn : Option Nat := none
  /-- the loader: core, task, stream, ASID; none for a loader in another module -/
  core : Option Nat := none
  stream : BitVec 20 := 0
  asid : BitVec 12 := 0
  /-- the failed command has been run again (R201) -/
  retried : Bool := false
  deriving DecidableEq, Repr

/-- A flit queued at a link: its virtual channel, its bytes, and the input whose buffer it still holds (R42). -/
structure Queued where
  vc : Nat
  bytes : List Byte
  inp : Option Nat := none
  deriving DecidableEq, Repr

/-- Link or port registers (Table 2-8) and retry state (R42, R46 to R48, R56). -/
structure Link where
  state : BitVec 3 := 1
  half : Bool := false
  modok : BitVec 8 := 0
  rtcount : BitVec 8 := 0
  force : Bool := false
  crcerr : BitVec 32 := 0
  replay : BitVec 32 := 0
  lcrc : Bool := false
  replim : Bool := false
  timeout : Bool := false
  down : Bool := false
  proto : Bool := false
  txflit : BitVec 32 := 0
  rxflit : BitVec 32 := 0
  /-- queued flits, oldest first -/
  queue : List Queued := []
  /-- next SEQ to send -/
  seq : BitVec 12 := 0
  /-- sent and not acknowledged, oldest first -/
  buffer : List (BitVec 12 × Nat × List Byte) := []
  /-- next SEQ expected -/
  expect : BitVec 12 := 0
  /-- a failed flit is being discarded until its replay -/
  dropping : Bool := false
  nakSeq : BitVec 12 := 0
  nakRun : Nat := 0
  /-- when CRC failures were found, newest first -/
  failAt : List Nat := []
  /-- training attempts of the current retrain that have failed -/
  attempts : Nat := 0
  /-- credits held per virtual channel -/
  credits : List Nat := [32, 32, 64, 8]
  /-- buffers freed and not yet returned, per virtual channel -/
  owed : List Nat := [0, 0, 0, 0]
  /-- virtual channel whose credits are returned next -/
  crNext : Nat := 0
  deriving DecidableEq, Repr

/-- A bulk transfer open at its destination (R41). -/
structure Bulk where
  src : Nat
  bxid : BitVec 8
  dst : Nat
  addr : Nat
  count : Nat
  /-- bulk flits consumed -/
  got : Nat
  tag : BitVec 16
  core : BitVec 10
  err : BitVec 8
  /-- a hand-off image: stream and BSN (R122) -/
  block : Option (BitVec 20 × Nat) := none
  /-- its flits are discarded -/
  discard : Bool := false
  /-- a hand-off image as far as it has come; its lines are written in one pass (R124) -/
  data : List Byte := []
  deriving DecidableEq, Repr

/-- Hand-off entry of a stream on a die (R110). -/
structure HoEntry where
  stream : BitVec 20
  plen : Nat
  ntb : Nat
  layers : Nat
  heads : Nat
  conv : Nat
  /-- F, frames of each (layer, head) (R101) -/
  frames : Nat
  /-- per layer: destination site, has alternate route -/
  dests : List (Nat × Bool)
  /-- on a D-stack: frames as free-frame numbers, in pop order -/
  list : List Nat := []
  /-- the pool that those frames are of, where it is not that of the plan in force: on a lent die the borrower's (R66) -/
  pool : Option (Nat × Nat) := none
  /-- physical address of the received bitmap -/
  bitmapAt : Nat := 0
  /-- BSNs received -/
  received : List Nat := []
  /-- highest BSN the source engine has accepted -/
  lastBsn : Option Nat := none
  /-- source: HCANCEL received; destinations whose CXACK has come, as blocks name them -/
  cancelled : Bool := false
  acked : List Nat := []
  /-- blocks released unsent, and after sending -/
  unsent : Nat := 0
  sentRel : Nat := 0
  srcdone : Bool := false
  /-- destination: cancellation in effect; per source, which of its markers have come, a bit for each route -/
  inEffect : Bool := false
  marks : List (Nat × Nat) := []
  deriving DecidableEq, Repr

/-- States of a block at its source (Table 6-2); RELEASED blocks are not held. -/
inductive SrcSt where
  | queued | sending | wait | held | cancelWait
  deriving DecidableEq, Repr

/-- A block at its source (R121, R123). -/
structure SrcBlock where
  stream : BitVec 20
  bsn : Nat
  st : SrcSt
  attempt : Nat := 0
  route : Nat := 0
  /-- routes that have carried it -/
  used : List Nat := []
  /-- a resend waits for the engine; the route it must take, where it must -/
  due : Bool := false
  via : Option Nat := none
  /-- transfer number of the attempt under way -/
  bxid : Nat := 0
  /-- destination site; 128 + w for remote window w -/
  dst : Nat
  cell : Nat
  conv : Nat
  /-- operation that launched it, which holds its source range, barrier and byte count -/
  op : Nat
  deriving DecidableEq, Repr

/-- A block at its destination (Table 6-3); EXPECTED blocks are not held. -/
inductive DstSt where
  | landing | committed | abandoned
  deriving DecidableEq, Repr

structure DstBlock where
  stream : BitVec 20
  bsn : Nat
  st : DstSt
  src : Nat
  /-- lines of the landing range, in the image's order -/
  lines : List Nat
  deriving DecidableEq, Repr

/-- Hand-off engine registers (Table 6-5). -/
structure HoRegs where
  retrylim : BitVec 8 := 8
  order : Bool := false
  conv : Bool := false
  rej : Bool := false
  ref : Bool := false
  proto : Bool := false
  limit : Bool := false
  sent : BitVec 32 := 0
  resent : BitVec 32 := 0
  commit : BitVec 32 := 0
  dup : BitVec 32 := 0
  latedisc : BitVec 32 := 0
  marks : BitVec 32 := 0
  cancels : BitVec 32 := 0
  released : BitVec 32 := 0
  frefCount : BitVec 16 := 0
  frefOk : Bool := false
  frefStr : BitVec 20 := 0
  deriving DecidableEq, Repr

/-- States of a task (Table 7-3). -/
inductive TaskSt where
  | free | blocked | waitring | eligible | running | suspended | draining | faulted
  deriving DecidableEq, Repr

def TaskSt.code : TaskSt → Nat
  | .free => 0 | .blocked => 1 | .waitring => 2 | .eligible => 3 | .running => 4 | .suspended => 5
  | .draining => 6 | .faulted => 7

/-- A loop record (Table 7-2): its 128 bytes as posted, and what the dispatcher holds beside them. -/
structure Record where
  bytes : List Byte := List.replicate 128 0
  st : TaskSt := .free
  errmark : Bool := false
  pass : Nat := 0
  eclass : Nat := 0
  seq : Word := 0
  /-- cores of the task that have not halted or parked -/
  cores : List Nat := []
  /-- cores that the task was dispatched on, and those of them that stand parked (R135, R143) -/
  used : List Nat := []
  parked : List Nat := []
  /-- asynchronous count (R143) -/
  async : Nat := 0
  /-- image slots that hold its suspended cores: core and slot address -/
  images : List (Nat × Nat) := []
  /-- the dispatcher posted it for a PROGRAM evaluation (R193) -/
  eval : Bool := false
  /-- the sequencer of the module that has borrowed the die sent it (R65) -/
  foreign : Bool := false
  deriving DecidableEq, Repr

/-- A ring descriptor (Table 7-4). -/
structure Ring where
  /-- bytes 0 to 11 as written, which are held until a write covers byte 16 (R137); HDR, SLOTS and STRIDE in effect -/
  raw : List Byte := List.replicate 12 0
  hdr : Word := 0
  slots : BitVec 16 := 0
  stride : BitVec 16 := 0
  cidx : Nat := 0
  pidx : Nat := 0
  valid : Bool := false
  deriving DecidableEq, Repr

/-- A fault queue entry (Table 7-6); `held` is a KILL (1) or COMPLETE (2) held by R146. -/
structure FqEntry where
  task : BitVec 12
  core : BitVec 10
  kind : BitVec 8
  cause : BitVec 8
  addr : Word
  info : Word
  image : Word
  stream : BitVec 20
  evalid : BitVec 16
  time : Word
  held : BitVec 8 := 0
  deriving DecidableEq, Repr

/-- A range unit (Table 7-7). -/
structure RangeUnit where
  next : BitVec 48 := 0
  remain : BitVec 48 := 0
  minc : BitVec 16 := 1
  pdiv : BitVec 12 := 1
  takes : BitVec 32 := 0
  deriving DecidableEq, Repr

/-- A part of an operand range with the translation taken at launch (R205): physical address, length, class, DEFER. -/
structure Seg where
  pa : Nat
  len : Nat
  cls : BitVec 2
  defer : Bool
  deriving DecidableEq, Repr

/-- A tile-task queue entry (Table 7-9) with what the launch word copied (R434). -/
structure TileTask where
  g : Word
  aref : Word
  cref : Word
  w : Word
  bar : Option Nat
  arg : BitVec 8
  /-- 1 waiting, 2 issued, 3 draining -/
  st : Nat
  /-- module-wide number of the issuing core -/
  core : Nat
  task : BitVec 12
  array : Nat
  /-- 0 MMMA, 1 MMVA, 2 marker; a marker's recorded phase -/
  kind : Nat
  phase : Bool
  qseq : Nat
  /-- the launched operation it belongs to -/
  op : Nat
  a : List Seg
  c : List Seg
  wseg : List Seg
  image : List Byte
  consts : List (BitVec 32)
  /-- side ranges of the program: row scales, quantiser scales, statistics, residual -/
  rows : List Seg
  qscale : List Seg
  stats : List Seg
  resid : List Seg
  srseed : Word
  srctr : Word
  /-- operand bytes as they stood at issue (R153) -/
  aBytes : List Byte
  wBytes : List Byte
  cBytes : List Byte
  /-- first error code of its operand reads, 0 none -/
  err : BitVec 8
  /-- a marker's first condition held before its second; both have held at one time (R154) -/
  late : Bool
  due : Bool := false
  /-- the array has consumed its operands: their pins have ended (R153) -/
  consumed : Bool := false
  deriving DecidableEq, Repr

/-- The weight tile a systolic array holds (R152): pair, offset, format, epoch, and the record it runs. -/
structure ArraySt where
  tile : Option (Nat × Nat × Nat × BitVec 16) := none
  busy : Bool := false
  deriving DecidableEq, Repr

/-- A pre-emption request (R141): victim core, the record it serves, urgent. -/
structure PreReq where
  core : Nat
  record : Nat
  urgent : Bool
  deriving DecidableEq, Repr

/-- An entry of an E-die's proxy table (R60): the originals of a request from another module. -/
structure Proxy where
  tag : BitVec 16
  smod : BitVec 12
  port : Nat
  src : Nat
  origTag : BitVec 16
  origBxid : BitVec 8
  /-- the transfer number it goes on with; a bulk transfer -/
  bxid : BitVec 8 := 0
  isBulk : Bool := false
  /-- the stream that a hand-off message names -/
  stream : BitVec 20 := 0
  /-- answers still to come: one for each slot of the request (R39) -/
  left : Nat := 1
  deriving DecidableEq, Repr

/-- A bulk transfer that an E-die passes out of the module: source, number, port, module, site there, flits to come. -/
structure OutBulk where
  src : Nat
  bxid : BitVec 8
  port : Nat
  rmod : BitVec 12
  dst : Nat
  left : Nat
  deriving DecidableEq, Repr

/-- One die. -/
structure Die where
  usable : Bool := true
  warn : Nat := 95
  throt : Nat := 105
  trip : Nat := 115
  thWarn : Bool := false
  thThrot : Bool := false
  thTrip : Bool := false
  sensors : Map Sensor := []
  lpwr : Map Lpwr := []
  /-- SEGFAIL of the layer-columns with a failed segment, at 16 c + L; VALID of all of them (Table 1-4) -/
  carve : Map (BitVec 8) := []
  carved : Bool := false
  wbok : BitVec 8 := 0xFF
  wpairs : Map WPair := []
  colErr : Map ErrCnt := []
  wErr : ErrCnt := {}
  sErr : ErrCnt := {}
  pool : BitVec 2 := 0
  peer : BitVec 12 := 0
  launch : BitVec 32 := 0
  resolved : BitVec 32 := 0
  poisonedCnt : BitVec 32 := 0
  wretry : BitVec 32 := 0
  tiermiss : BitVec 32 := 0
  selfdep : Bool := false
  depthTrap : Bool := false
  malf : Bool := false
  media : Bool := false
  evals : Map Eval := []
  gens : Map (BitVec 16) := []
  nearGen : BitVec 16 := 0
  /-- near cache: lines homed on other dies (R172) -/
  near : List Line := []
  /-- shared translation cache, newest first (R182) -/
  tlb : List Tlb := []
  links : Map Link := []
  ho : HoRegs := {}
  entries : Map HoEntry := []
  srcs : List SrcBlock := []
  dsts : List DstBlock := []
  /-- free frames in list order, reference counts, attached frames by stream -/
  freeFrames : List Nat := []
  frameRefs : Map Nat := []
  attached : Map (List Nat) := []
  pbase : BitVec 48 := 0
  pslots : BitVec 16 := 0
  pfull : BitVec 32 := 0
  /-- image slots in use -/
  pused : List Nat := []
  /-- cores whose spill or PARK waits for a slot and is counted in PFULL -/
  pwait : List Nat := []
  records : Map Record := []
  rings : Map Ring := []
  fq : Map FqEntry := []
  ranges : Map RangeUnit := []
  /-- masks 1 to 255; mask 0 unless the plan changes it -/
  masks : Map (BitVec 1024) := []
  mask0 : Option (BitVec 1024) := none
  badrec : Bool := false
  busyErr : Bool := false
  under : Bool := false
  badring : Bool := false
  fqfull : Bool := false
  dispatched : BitVec 32 := 0
  preempts : BitVec 32 := 0
  urgents : BitVec 32 := 0
  wlate : BitVec 32 := 0
  aged : BitVec 32 := 0
  nextSeq : Word := 0
  nextQseq : Nat := 0
  requests : List PreReq := []
  /-- the head that holds a reservation, and its cores (R140) -/
  reserved : Option (Nat × List Nat) := none
  /-- P-die queue entries at 0 to 1,023; D-stack entry e of core c at 16 c + e -/
  tiles : Map TileTask := []
  arrays : Map ArraySt := []
  proxies : List Proxy := []
  /-- requests that wait at a port for a proxy entry: port and flit (R60) -/
  portHeld : List (Nat × List Byte) := []
  outBulks : List OutBulk := []
  /-- error retirements held while the fault queue is full (R144) -/
  heldFaults : List FqEntry := []
  deriving DecidableEq, Repr

/-- A power region (Table 1-8). -/
structure Region where
  pcap : BitVec 16 := 660
  cstep : BitVec 12 := 256
  pmon : BitVec 16 := 0
  capReq : Nat := 16
  alarm : Bool := false
  active : Bool := false
  dcount : BitVec 8 := 0
  dhold : BitVec 4 := 2
  csheld : BitVec 32 := 0
  /-- weight of the starts admitted in the last µs, in quarter amperes -/
  recent : Nat := 0
  /-- held starts in arrival order: site, queue entry, weight -/
  held : List (Nat × Nat × Nat) := []
  /-- starts of staggered launches still to begin: site, record (R33) -/
  staggered : List (Nat × Nat) := []
  deriving DecidableEq, Repr

end Sys2Proof.Machine
end

