-- ==== Sys2Proof/Machine/CoreState.lean ====
section
/-! DEFINITION. The state of one core: its two contexts (Table 11-4), and what belongs to the core itself (R228, Tables
8-4, 8-5, 12-2, 15-4). Field defaults are the values at reset; where the manual states none, notes/assumptions/3.md does. -/

namespace Sys2Proof.Machine

/-- Fill states of a register (R232). UNALLOTTED is not stored: it follows from VALLOT. -/
inductive Fill where
  | full | empty | dropped
  deriving DecidableEq, Repr

/-- A register with its fill state. `pend` says that an issued producer has emptied it, and the fill state it had before
(R232, R233, R393). -/
structure Reg (α : Type) where
  val : α
  fill : Fill := .full
  pend : Option Fill := none
  deriving DecidableEq, Repr

/-- The three kinds of register that fields name (R232, R234). -/
inductive Kind where
  | x | v | p
  deriving DecidableEq, Repr

/-- The code of a register kind (R234). -/
def Kind.code : Kind → Nat
  | .x => 0
  | .v => 1
  | .p => 2

/-- A recipe slot in use (R246). The body keeps its names with the rotation they were resolved under. -/
structure Recipe where
  body : List Instr
  kind : Kind
  /-- physical number of the target -/
  target : Nat
  /-- pinned sources: kind and physical number -/
  pins : List (Kind × Nat)
  /-- VSIZE, PSIZE, VRRB, PRRB when RCPDEF executed -/
  rot : BitVec 32
  deriving DecidableEq, Repr

/-- A bound stream port (R237, R424). -/
structure Stream where
  base : Word
  es : Nat
  write : Bool
  c0 : Nat
  c1 : Nat
  c2 : Nat
  s0 : Word
  s1 : Word
  s2 : Word
  /-- elements moved so far -/
  pos : Nat
  deriving DecidableEq, Repr

/-- An entry of a loop stack (R450). -/
structure LoopEntry where
  left : Word
  body : TextAddr
  deriving DecidableEq, Repr

/-- What one engine holds of a context (R221 to R227, R308, R426 to R430, R450). -/
structure EngCtx where
  pc : TextAddr := 0
  acount : Nat := 0
  halted : Bool := true
  /-- the engine waits at a rendezvous word (R227) -/
  atMeet : Bool := false
  loops : List LoopEntry := []
  rets : List TextAddr := []
  /-- parameter stack, top first; M and C only -/
  params : List Word := []
  /-- literals of the run in progress (R308) -/
  litRun : Nat := 0
  /-- words of its own tag still to be passed over (R427) -/
  skip : Nat := 0
  /-- BREG, the physical address of a barrier object (R429) -/
  breg : Option Nat := none
  deriving DecidableEq, Repr

/-- An entry of the A-log (R223): position, address and, for a decision word, T's outcome. -/
structure ALog where
  pos : Nat
  addr : TextAddr
  outcome : Option (Bool × Word)
  deriving DecidableEq, Repr

/-- A live transient (R243): the register it stands for, and how many more T words see it. -/
structure Transient where
  kind : Kind
  reg : Nat
  val : Vec
  left : Nat
  /-- the producer's address and the SRCTR it issued with (R245) -/
  pc : TextAddr
  srctr : Word
  /-- no later transient of the register has replaced it; the window goes back to its producer all the same (R245) -/
  live : Bool := true
  deriving DecidableEq, Repr

/-- Phases of a loop record (R136). -/
inductive Phase where
  | prologue | kernel | epilogue
  deriving DecidableEq, Repr

/-- A context (Table 11-4). -/
structure Ctx where
  x : Map (Reg Word) := []
  v : Map (Reg Vec) := []
  p : Map (Reg Pred) := []
  vallot : Nat := 64
  recipes : Map Recipe := []
  streams : Map Stream := []
  t : EngCtx := {}
  m : EngCtx := {}
  c : EngCtx := {}
  alog : List ALog := []
  flags : BitVec 7 := 0
  trapen : BitVec 7 := 0
  rmode : BitVec 3 := 0
  srseed : Word := 0
  srctr : Word := 0
  vsize : Nat := 0
  psize : Nat := 0
  vrrb : Nat := 0
  prrb : Nat := 0
  slipw : Nat := 2
  /-- DISPL0 in [63:48] down to DISPL3 in [15:0] -/
  displ : Word := 0
  phase : Phase := .prologue
  remain : BitVec 32 := 0
  ker : TextAddr := 0
  epi : TextAddr := 0
  taskid : BitVec 19 := 0
  streamid : BitVec 20 := 0
  evalid : BitVec 16 := 0
  asid : BitVec 12 := 0
  serial : BitVec 16 := 0
  window : List Transient := []
  deriving DecidableEq, Repr

/-- A stash map entry (Table 8-4): granule and virtual address bits [55:11]. -/
structure StMap where
  gran : Nat := 0
  valid : Bool := false
  va : Nat := 0
  deriving DecidableEq, Repr

/-- What a stash granule holds: the entry whose lines it holds, and those of them that it has (R166). Their bytes stand in the
scratchpad too. -/
structure Granule where
  entry : Nat := 0
  held : List Line := []
  deriving DecidableEq, Repr

/-- A GMEM register (Table 15-4) with the collectives counted through it (R449). -/
structure Gmem where
  group : BitVec 8 := 0
  valid : Bool := false
  member : BitVec 16 := 0
  count : Nat := 0
  deriving DecidableEq, Repr

/-- A range scoreboard entry (R168): an incoming or outgoing range of the core's scratchpad and its copy. -/
structure Score where
  op : Nat
  incoming : Bool
  lo : Nat
  len : Nat
  deriving DecidableEq, Repr

/-- An epilogue slot (R438): 66-byte image, 16 constants. -/
structure EpiSlot where
  image : List Byte := List.replicate 66 0
  consts : List (BitVec 32) := List.replicate 16 0
  /-- an image has been written since start -/
  filled : Bool := false
  deriving DecidableEq, Repr

/-- An armed displaced-word substitution (R269): address, parcels, and the engines it waits for. -/
structure Subst where
  addr : TextAddr
  word : List Parcel
  engs : List Eng
  deriving DecidableEq, Repr

/-- T has gone on behind an access that has not been answered (R252, R254): the context as it stands without what T has executed since,
how many words that was, and whether the next one traps, which waits for the answer. -/
structure Ahead where
  base : Ctx
  words : Nat := 0
  due : Bool := false
  deriving DecidableEq, Repr

/-- A core: two banks, trap CSRs (Table 12-2), stash, groups, scoreboard, epilogue slots. -/
structure Core where
  ctx : Ctx := {}
  /-- MODEL FIELD: what T has executed behind an unanswered access -/
  ahead : Option Ahead := none
  shadow : Option Ctx := none
  /-- the shadow bank stands prepared for a fresh context that a pre-emption request will bring (R264) -/
  prepared : Bool := false
  bank : BitVec 1 := 0
  /-- the active context holds a task (R139) -/
  running : Bool := false
  sup : Bool := false
  tcause : BitVec 8 := 0
  tpct : TextAddr := 0
  tpcm : TextAddr := 0
  tpcc : TextAddr := 0
  taddr : Word := 0
  tinfo : Word := 0
  /-- TSTAT.ENG, PPRIV, INTRAP, HALTED -/
  teng : BitVec 2 := 0
  ppriv : Bool := false
  intrap : Bool := false
  thalted : BitVec 3 := 0
  tick : BitVec 48 := 0
  genl1 : BitVec 16 := 0
  /-- L1 data cache, most recently used first (R171) -/
  l1 : List Line := []
  /-- translation cache, newest first (R182) -/
  tlb : List Tlb := []
  /-- instruction cache: blocks of 64 bytes by physical address, and by engine number the block in its fetch buffer (R220) -/
  text : Map (List Byte) := []
  bufs : Map (Nat × List Byte) := []
  wlate : BitVec 32 := 0
  stashb : Nat := 0
  stashn : Nat := 0
  stmapi : Nat := 0
  stmap : Map StMap := []
  granules : Map Granule := []
  gmem : Map Gmem := []
  scores : List Score := []
  epis : Map EpiSlot := []
  subst : Option Subst := none
  /-- a debug halt is requested; the core is in debug halt (R270) -/
  haltReq : Bool := false
  inHalt : Bool := false
  /-- a double trap waits to be parked, with its nested cause (R260) -/
  parkPending : Option (BitVec 8) := none
  nextSerial : BitVec 16 := 0
  /-- where CTXSV has saved contexts that this core launched operations from: serial, image (R257, R357) -/
  saved : List (BitVec 16 × Nat) := []
  deriving DecidableEq, Repr

end Sys2Proof.Machine
end

