-- ==== Sys2Proof/Machine/State.lean ====
section
/-! DEFINITION. The state of the module: cores, dies, power regions, memory with its tags and records, waiting accesses,
launched operations, flits and messages in flight, the firmware, the sequencer and the host interface; the reasons a step can
stop; and the state after reset. Plain data throughout. -/

namespace Sys2Proof.Machine

/-- One part of an access: physical address, length, class of its page, DEFER, the virtual address it came from and the
element it belongs to (R205, R403). -/
structure Piece where
  pa : Nat
  len : Nat
  cls : BitVec 2
  defer : Bool
  va : Word
  elem : Nat
  /-- the access went through a stash entry (Table 8-2) -/
  stash : Bool
  /-- the page is not cached (Table 8-8) -/
  nc : Bool := false
  deriving DecidableEq, Repr

/-- No part of an access. -/
def noPiece : Piece := { pa := 0, len := 0, cls := 0, defer := false, va := 0, elem := 0, stash := false }

/-- What an access does at its home. -/
inductive Action where
  /-- read the bytes -/
  | load
  /-- write the nibbles that the mask selects -/
  | store
  /-- a copy of a new value over whole lines that makes cells VALUE (R194) -/
  | resolveWrite
  /-- LDF; LDC with `clear` (Table 8-3) -/
  | tagLoad (clear : Bool)
  /-- STE 0, STS 1, STS.E 2 (Table 8-3) -/
  | tagStore (rule : Nat)
  /-- Table 17-6 by op9 − 0x070; `uns` for the unsigned forms -/
  | amo (op : Nat) (uns : Bool) (ty : BitVec 4)
  /-- VAMOADD -/
  | vamo (ty : BitVec 4)
  /-- FADD 0, FSET 1, FARM 2 (Table 17-8) -/
  | flag (op : Nat)
  /-- TOUCH 0, CSTAT 1, DEFER 2, RESOLVE 3, POISON 4, WAITC 5, head query 6 (R196) -/
  | cell (op : Nat)
  /-- BWAIT and MWAIT/CWAIT on a barrier object, with the phase to leave (R216) -/
  | barWait (phase : Bool)
  deriving DecidableEq, Repr

/-- An access as it arrives at its home. -/
structure Access where
  act : Action
  pieces : List Piece
  /-- operand bytes, over the pieces in order -/
  data : List Byte := []
  /-- which nibbles are written, over the pieces in order; two entries a byte -/
  mask : List Bool := []
  /-- compare value, flag operand, poison reason -/
  arg : Word := 0
  /-- a scalar load or store, which control space accepts (R158) -/
  scalar : Bool := false
  deriving DecidableEq, Repr

/-- Where the bytes an access returns go. -/
inductive Dest where
  | none
  /-- a scalar register: bytes kept, sign-extended or not -/
  | x (r : Nat) (bytes : Nat) (signed : Bool)
  /-- vector registers by physical number: nibble i of the data goes to nibble `nibs[i]` of the group -/
  | v (rs : List Nat) (nibs : List Nat)
  /-- nowhere: the word is executed again once the access could perform (a stream port, a replayed load) -/
  | again
  deriving DecidableEq, Repr

/-- Who made an access: an engine of a core, a request slot from another die or module, a launched operation, an
evaluation of a site. -/
inductive Who where
  | core (n : Nat) (e : Eng)
  | slot (m : Slot)
  | op (id : Nat)
  | eval (site : Nat) (entry : Nat)
  deriving DecidableEq, Repr

/-- Where an access waits (R162, R194, R216, R153); on the way to a home over a link that retrains (R48), or at a home whose clocks
have stopped (R24). -/
inductive WaitOn where
  | tag (word : Nat)
  | cell (line : Nat)
  | flag (addr : Nat)
  | barrier (addr : Nat)
  | pin (line : Nat)
  | path (addr : Nat)
  deriving DecidableEq, Repr

/-- A waiting access; the list of them is in arrival order. `retry` marks one that found its wait table full. -/
structure Waiter where
  who : Who
  acc : Access
  dest : Dest
  on : WaitOn
  /-- parcels of the waiting word -/
  len : Nat
  retry : Bool
  deriving DecidableEq, Repr

/-- Kinds of launched operation (R428). -/
inductive OpKind where
  | copy | gather | fill | decomp | flush | tile | handoff | coll | eval
  deriving DecidableEq, Repr

/-- A launched operation that has not retired. -/
structure Op where
  id : Nat
  kind : OpKind
  core : Nat
  eng : Eng
  serial : BitVec 16
  task : BitVec 19
  stream : BitVec 20
  evalid : BitVec 16
  asid : BitVec 12 := 0
  /-- barrier object and the bytes it will count (Table 18-2) -/
  bar : Option Nat
  count : Nat
  /-- text address of the launch word -/
  word : TextAddr
  /-- pairs of source and destination parts, in order; for a fill no source -/
  src : List Seg
  dst : List Seg
  resolve : Bool
  /-- source bytes at launch where R170 asks for them -/
  snap : Option (List Byte)
  /-- fill pattern; decompression: symbol size, bytes out; collective: op, type, count, group, instance, member, size -/
  nums : List Nat
  /-- the task's record still counts it -/
  live : Bool := true
  /-- bytes of source lines that it has waited for, as they stood when it was served (R194) -/
  taken : List (Nat × List Byte) := []
  /-- latest time of its writes to hardware-coherent lines (R217) -/
  wtime : BitVec 48 := 0
  /-- sites whose homes it has written lines of (R218) -/
  wrote : List Nat := []
  /-- what it writes, once its sources have been read: bytes with codes, and its own error -/
  out : Option (List (Byte × Nat) × Option (Nat × Nat)) := none
  deriving DecidableEq, Repr

/-- A message between sites of the module, or out of it (R122, R39). -/
structure Msg where
  slot : Slot
  /-- the row that receives it -/
  row : Instr
  /-- image of an HBLK, line of a line flit -/
  data : List Byte
  line : Option LineMsg
  deriving DecidableEq, Repr

/-- A flit on a wire: the site and link at which it arrives. -/
structure Flight where
  site : Nat
  edge : Nat
  bytes : List Byte
  deriving DecidableEq, Repr

/-- A request outstanding at its requester (R50): a T access through a remote window (R59), part by part. -/
structure Request where
  core : Nat
  eng : Eng
  tag : BitVec 16
  acc : Access
  dest : Dest
  len : Nat
  /-- the part that is out and those not yet sent, each with its offset in the access; and bytes received -/
  part : Nat × Piece
  rest : List (Nat × Piece)
  got : List Byte
  /-- the launched operation it belongs to; 0 for a TOUCH, which its engine does not wait for -/
  op : Option Nat := none
  /-- its parts are only checked yet: the stores follow (R394) -/
  checking : Bool := false
  /-- answers still to come to the slots of the part that is out, before the last (R39) -/
  more : Nat := 0
  /-- offsets of operand bytes that are marked poisoned (R176) -/
  bad : List Nat := []
  /-- its home has sent PEND: it waits there (R50) -/
  pended : Bool := false
  deriving DecidableEq, Repr

/-- Lines that an issued tile-task has pinned (R153). -/
structure Pin where
  site : Nat
  entry : Nat
  line : Nat
  deriving DecidableEq, Repr

/-- Write time and lease end of a hardware-coherent line (R206). -/
structure LineTime where
  wts : BitVec 48 := 0
  lease : BitVec 48 := 0
  deriving DecidableEq, Repr

/-- Module states (R78). -/
inductive ModSt where
  | starting | noPlan | serving | draining | drained | minimal
  deriving DecidableEq, Repr

def ModSt.code : ModSt → Nat
  | .starting => 0 | .noPlan => 1 | .serving => 2 | .draining => 3 | .drained => 4 | .minimal => 5

/-- What the CXL primary mailbox returns for a command (R77, R78): its own return codes, or the status of a background command. -/
inductive CxlCode where
  | success | unsupported | background
  deriving DecidableEq, Repr

/-- Stream states (Table 5-1). -/
inductive StreamSt where
  | queued | prefill | handoff | decode | retiring | done | cancelling | cancelled | failed
  deriving DecidableEq, Repr

/-- A model instance of a plan (Table 5-3). -/
structure Inst where
  layers : Nat
  heads : Nat
  ctxlim : Nat
  eos : BitVec 32
  vocab : Nat
  tensors : Nat
  conv : Nat
  deriving DecidableEq, Repr

/-- A destination set of a rotation: per layer its D-stack site and whether it has an alternate route (Table 5-3). -/
abbrev DestSet := List (Nat × Bool)

/-- A tensor of a plan (Table 5-3). -/
structure Tensor where
  inst : Nat
  index : Nat
  dest : Nat
  len : Nat
  digest : List Byte
  deriving DecidableEq, Repr

/-- An entry of the weight schedule (Table 5-3): bank pair, and each tensor with the layer at which its MSWPW takes effect. -/
structure SwapPlan where
  site : Nat
  pair : Nat
  order : List (Nat × Nat)
  deriving DecidableEq, Repr

/-- An entry of a prefill placement (Table 5-3): a layer range of an instance, its P-dies, and for each tile-task of it the site and the
bank pair. -/
structure Placement where
  inst : Nat
  lo : Nat
  hi : Nat
  dies : List Nat
  assign : List (Nat × Nat × Nat)
  deriving DecidableEq, Repr

/-- What a field of an argument block takes from its template or from the stream entry (R467): bytes, the stream id, PLEN, TOKLIM, SEED,
the prompt, the head cell of a block (layer, block), the frame of a page (layer, head, page). -/
inductive ArgItem where
  | bytes (bs : List Byte)
  | streamId | plen | toklim | seed | prompt
  | cell (layer block : Nat)
  | frame (layer head page : Nat)
  deriving DecidableEq, Repr

/-- An argument block: virtual address, bytes, and the fields at their offsets; every other byte is 0. -/
structure ArgBlock where
  va : Nat
  len : Nat
  items : List (Nat × ArgItem)
  deriving DecidableEq, Repr

/-- A task record that a template makes for a stream: site and 128 bytes; whether it is a decode task; its index in the task table, where
the plan names it; the argument blocks that are filled with it; the module whose die it is, for a die that is borrowed. -/
structure Template where
  inst : Nat
  site : Nat
  decode : Bool
  bytes : List Byte
  index : Option Nat := none
  args : List ArgBlock := []
  peer : Option (BitVec 12) := none
  deriving DecidableEq, Repr

/-- What a plan says (Tables 5-2 and 5-3), as the firmware holds it. -/
structure Plan where
  /-- instance number to its entry -/
  insts : Map Inst := []
  /-- prefill placements (kind 2) -/
  placement : List Placement := []
  /-- weight schedule (kind 3) -/
  schedule : List SwapPlan := []
  rotation : Map (List DestSet) := []
  /-- D-stack site: first frame number, frame count -/
  pools : Map (Nat × Nat) := []
  /-- planned routes: source, destination, ROUTE, alternate ROUTE -/
  routes : List (Nat × Nat × BitVec 24 × Option (BitVec 24)) := []
  /-- group: spans of site, first core, last core -/
  groups : Map (List (Nat × Nat × Nat)) := []
  templates : List Template := []
  /-- ring descriptors: site, ring, 32 bytes -/
  rings : List (Nat × Nat × List Byte) := []
  masks : List (Nat × Nat × BitVec 1024) := []
  tensors : List Tensor := []
  layers : List (Nat × Nat × BitVec 2) := []
  /-- image pools: site, base, slots -/
  imagePools : List (Nat × Nat × Nat) := []
  /-- first rule of Table 5-4 that the image breaks by its form: rule, section kind, entry -/
  reject : Option (Nat × Nat × Nat) := none
  deriving DecidableEq, Repr, Inhabited

/-- An entry of the stream table (R94, R101). -/
structure StreamEnt where
  id : BitVec 20
  st : StreamSt
  slot : Nat
  inst : Nat
  prio : Nat
  /-- host address of the prompt, and its tokens as read at admission (R67, R70) -/
  paddr : Word
  prompt : List (BitVec 32) := []
  plen : Nat
  toklim : Nat
  oaddr : Word
  olen : Nat
  seed : Word
  tempr : BitVec 32
  topp : BitVec 32
  topk : Nat
  ntok : Nat := 0
  cause : Nat := 0
  /-- chosen destination set and popped frames: site, free-frame numbers -/
  dset : DestSet := []
  frames : List (Nat × List Nat) := []
  ntb : Nat := 0
  tiermiss : BitVec 32 := 0
  /-- BSNs in CNOTEs -/
  committed : List Nat := []
  /-- SRCDONE and CXACK received, by site -/
  srcdone : List Nat := []
  cxacked : List Nat := []
  /-- task records posted for it: site, index, decode -/
  tasks : List (Nat × Nat × Bool) := []
  /-- the same on borrowed dies, with their module, until it tells that they are gone; and the borrowed dies that have its entry -/
  far : List (BitVec 12 × Nat × Nat × Bool) := []
  farSites : List (BitVec 12 × Nat) := []
  deriving DecidableEq, Repr

/-- A configuration record copy in boot flash (Table 4-12). -/
structure Flash where
  body : List Byte := []
  sig : List Byte := []
  deriving DecidableEq, Repr

/-- A loaded text image (R81). -/
structure TextImage where
  inst : Nat
  asid : Nat
  va : Word
  len : Nat
  deriving DecidableEq, Repr

/-- A breakpoint table entry (R268). -/
structure Break where
  va : Word
  asid : BitVec 12
  parcels : Nat
  hits : BitVec 16
  lastCore : BitVec 10
  lastSite : BitVec 7
  word : Word
  deriving DecidableEq, Repr

/-- A remote window (Table 3-2). -/
structure Fwin where
  rmod : BitVec 12 := 0
  valid : Bool := false
  port : BitVec 7 := 0
  altv : Bool := false
  altport : BitVec 7 := 0
  /-- the dies of the module behind it that are borrowed -/
  sites : BitVec 64 := 0
  deriving DecidableEq, Repr

/-- A background mailbox command (R78). -/
inductive Background where
  /-- instance, tensor index, host address, length -/
  | loadWeights (inst index : Nat) (host : Word) (len : Nat)
  | drain (count : Nat)
  | reclaim (peer : BitVec 12) (sites : BitVec 64)
  | reset (clr : Bool)
  deriving DecidableEq, Repr

/-- A reclaim under way at the borrower (R65): of which module, which dies; whether the grace time has ended. -/
structure Reclaim where
  peer : BitVec 12
  sites : BitVec 64
  expired : Bool := false
  deriving DecidableEq, Repr

/-- A message of the firmware or the sequencer to a pool peer (R65; notes/assumptions/29.md): what it asks or tells, site and record, and
its content. -/
structure PeerNote where
  peer : BitVec 12
  ask : PeerReq
  site : Nat
  index : Nat := 0
  data : List Byte := []
  deriving DecidableEq, Repr

/-- E-die N: firmware, sequencer and host interface (chapters 4 and 5). -/
structure Firmware where
  st : ModSt := .starting
  /-- the start stages have begun since the input came (R85) -/
  started : Bool := false
  /-- a fatal stage failure waits for its reset (R85) -/
  retryReset : Bool := false
  attempts : BitVec 8 := 0
  causes : List (List Byte) := []
  flash0 : Flash := {}
  flash1 : Flash := {}
  /-- which copy is in use; its fields stand below (R89) -/
  inUse : Option Nat := none
  cfgSeq : Nat := 0
  modid : BitVec 12 := 0
  dbg : Bool := false
  keyDigest : List Byte := []
  idOk : Bool := false
  /-- the seed the start derived its key from (R90) -/
  seed : List Byte := []
  update : List Byte := []
  /-- measurement chain: items (kind, digest) and C after ROM, after CONFIG, now (R91) -/
  items : List (Nat × List Byte) := []
  chain : List Byte := List.replicate 64 0
  chainCfg : List Byte := List.replicate 64 0
  dbgItem : Bool := false
  plan : Option Plan := none
  planDigest : List Byte := []
  slots : Map (List Byte) := []
  gens : Map (BitVec 4) := []
  sloterr : BitVec 16 := 0
  ltwarn : Bool := false
  selfDrain : Bool := false
  ring : Map (List Byte) := []
  evIndex : Nat := 0
  evPhase : Bool := true
  evhead : BitVec 12 := 0
  evHeld : List (List Byte) := []
  msixMask : BitVec 5 := 0x1F
  msixPend : BitVec 5 := 0
  /-- message address and data of each vector, as the host writes the MSI-X table (R76) -/
  msixTable : Map (Word × BitVec 32) := []
  /-- MSI-X messages sent, newest first: vector, address and data of its entry of the table (R76) -/
  msix : List (Nat × Word × BitVec 32) := []
  /-- the last command's CXL return code, and its output payload, RESULT first; empty while a background part runs (R77, R78) -/
  cxl : CxlCode := .success
  out : List Byte := []
  /-- data of the last host read, and whether it was marked poisoned (R69) -/
  hostRead : List Byte := []
  hostPoison : Bool := false
  /-- error completion of the last host access of the window, 0 for none (R20, R25, R157) -/
  hostErr : BitVec 8 := 0
  /-- the last answer on the I3C sideband (R23, R93) -/
  spdm : List Byte := []
  background : Option Background := none
  window : Map Nat := []
  roots : Map Nat := []
  texts : List TextImage := []
  /-- tensors loaded: instance, index -/
  loaded : List (Nat × Nat) := []
  tier : Map Nat := []
  fwin : Map Fwin := []
  breaks : Map Break := []
  groups : Map (List (Nat × Nat × Nat)) := []
  /-- the bytes of entries that GRPSET has written (R148) -/
  groupRaw : Map (List Byte) := []
  streams : Map StreamEnt := []
  /-- admission queue: stream-table entries in order of SUBMIT -/
  queue : List Nat := []
  pointers : Map Nat := []
  mediaInst : List Nat := []
  reclaims : List Reclaim := []
  /-- absent slow-tier and DEFER pages that core supervisors have reported: core, address (Table 12-3) -/
  absent : List (Nat × Word) := []
  /-- the last answer to a pool peer (R65), and what has been sent to pool peers otherwise, in order -/
  peerAnswer : List Byte := []
  peerOut : List PeerNote := []
  /-- links that went DOWN since the last accepted plan: site, edge (R49) -/
  newDown : List (Nat × Nat) := []
  deriving DecidableEq, Repr

/-- The element an epilogue processor is at (R441). -/
structure EpiRun where
  /-- a run is in progress and its next E-op is at this index of the program -/
  at_ : Option Nat := none
  regs : List (BitVec 32) := List.replicate 8 0
  prog : List Parcel := []
  consts : List (BitVec 32) := List.replicate 16 0
  mode : BitVec 3 := 0
  /-- s, the dot product -/
  s : BitVec 32 := 0
  /-- group and position (R441) -/
  group : Nat := 0
  pos : Nat := 0
  /-- element number used for the generator -/
  j : Nat := 0
  srseed : Word := 0
  srctr : Word := 0
  flags : BitVec 7 := 0
  /-- bytes of the row-scale vector, quantiser scales and residual -/
  rows : List Byte := []
  scales : List Byte := []
  resid : List Byte := []
  /-- type of C or Y -/
  cty : BitVec 4 := 0
  rowLen : Nat := 0
  /-- statistics: group to maximum and sum (R443) -/
  stats : Map (BitVec 32 × BitVec 32) := []
  /-- the element stored, if any -/
  out : Option (BitVec 32) := none
  /-- the array is a systolic one: rows by group, columns by position -/
  mmma : Bool := true
  /-- the E-op is not legal where it stands (R440) -/
  bad : Bool := false
  deriving DecidableEq, Repr

/-- Why a step of the model ends without a next state. No meaning raises one: what the manual describes as stopping an
instruction is a trap, a refused launch or an error response, and those are next states. -/
inductive Fault where
  /-- raised by the step alone: the agenda holds a word, or a step that names a site, core, layer or size that does not exist,
  which the outside world cannot bring; safe -/
  | noSuchPlace
  deriving DecidableEq, Repr

/-- What the model does not run. -/
inductive Refusal where
  /-- an instruction with no meaning yet; raised by its arm of `exec` alone; safe -/
  | notModelled (mnemonic : String)
  deriving DecidableEq, Repr

/-- The module. -/
structure State where
  /-- MODEL FIELD: the core and engine that move next, and how often in a row engines have found nothing to do -/
  turn : Nat := 0
  eng : Eng := .t
  stalls : Nat := 0
  /-- MODEL FIELD: how many turns the module's own steps have had -/
  beat : Nat := 0
  /-- MODEL FIELD: what the outside world and the module's timing bring next, in order (notes/assumptions/1.md) -/
  agenda : List (Instr × Args) := []
  /-- MODEL FIELD: what the step in progress reads -/
  arg : Args
  /-- MODEL FIELD: how many free values have been drawn, and the next operation number -/
  fresh : Nat := 0
  nextOp : Nat := 1
  epi : EpiRun := {}
  /-- clock edges delivered since start (R30, R341) -/
  cycle : Word := 0
  cores : Map Core := []
  dies : Map Die := []
  regions : Map Region := []
  fw : Firmware := {}
  mem : List Host.Cell := []
  hostMem : List Host.Cell := []
  /-- scratchpad tags by physical word address: 0 EMPTY, 1 FULL, 2 BARRIER, 3 POISONED; FULL where unlisted -/
  tags : Map (BitVec 2) := []
  /-- cell tags by line address: 0 VALUE, 1 DEFERRED, 2 RUNNING, 3 POISON; VALUE where unlisted -/
  cellTags : Map (BitVec 2) := []
  /-- evaluation that a RUNNING cell is bound to, by line address -/
  bound : Map (BitVec 16) := []
  /-- lines marked poisoned, by line address -/
  poison : Map Bool := []
  /-- bytes of a poisoned line that stores have written since it was marked, by line address (R176) -/
  rewritten : Map (BitVec 128) := []
  /-- owner of a core-private frame, by frame number -/
  owners : Map (Option Nat) := []
  /-- class that COHSET gave a frame -/
  classes : Map (BitVec 2) := []
  times : Map LineTime := []
  waiters : List Waiter := []
  pins : List Pin := []
  ops : List Op := []
  msgs : List Msg := []
  wires : List Flight := []
  requests : List Request := []
  /-- what accesses have brought for words that are executed again and for operations: the word's or the operation's key, physical
  address, bytes; no bytes for a store that has performed; `farErr` and `farDone` say what else stands here -/
  arrived : List (Nat × Nat × List Byte) := []
  bulks : List Bulk := []
  /-- heads behind remote windows that have been asked for their tag (R191): request tag, FOLLOW line; and what they answered -/
  queries : List (BitVec 16 × Nat) := []
  heads : Map Nat := []
  /-- latest logical time that arrivals have carried, by barrier object (R217) -/
  barTimes : Map (BitVec 48) := []
  /-- sites whose homes counted operations have written, by barrier object (R218) -/
  barSites : Map (List Nat) := []
  /-- latest write time of a line that another module has stored to, which an acquire brings (R63) -/
  farTime : BitVec 48 := 0
  /-- logical time of every core that has never been written to (R207) -/
  idleTick : BitVec 48 := 0
  deriving DecidableEq, Repr

/-- A slot with nothing in it. -/
def noSlot : Slot :=
  { src := 0, dst := 0, addr := 0, op := 0, len := 0, tag := 0, core := 0, nmask := 0, arg := 0, payload := [] }

/-- A line flit with nothing in it. -/
def noLine : LineMsg :=
  { src := 0, dst := 0, addr := 0, lop := 0, status := 0, tag := 0, core := 0, ctag := 0, ltime := 0, line := [] }

/-- A start that finds nothing failed. -/
def allPass : SelfTest :=
  { romOk := true, badSites := [], segFail := [], wbok := [], linkOk := [], badPorts := [], pufOk := true }

/-- The arguments of no step. -/
def noArgs : Args :=
  { n := 0, k := 0, c := 0, size := 0, addr := 0, val := 0, flag := false, data := [], temps := [], flaws := [], peer := .lend,
    msg := noSlot, line := noLine, test := allPass }

/-- The module right after reset: every field at the value its declaration gives. -/
def State.reset : State := { arg := noArgs }

end Sys2Proof.Machine
end

