-- ==== Sys2Proof/Config.lean ====
section
/-! DEFINITION. What the manual leaves open and the model does not choose: constants with no body, so that no proof can see a
value of them. Each is named in the assumption log. -/

namespace Sys2Proof.Config

/-- The n-th free byte: an overlapped byte of a copy (notes/assumptions/13.md). -/
opaque freeByte : Nat → Byte

/-- Which of the free image slots a spill or PARK takes (R265, notes/assumptions/12.md). -/
opaque slotChoice : Nat → Nat

/-- Whether a cached translation that a walk would not give any more, of a core at a cycle, is used (R182,
notes/assumptions/38.md). -/
opaque oldTranslation : Nat → Nat → Bool

/-- Whether a line of a near cache whose bytes the home does not hold is still there, for a die at a cycle (R172,
notes/assumptions/38.md). -/
opaque nearKeeps : Nat → Nat → Bool

/-- Whether a block of text that memory does not hold any more is still in the instruction cache, of a core at a cycle (R220,
notes/assumptions/38.md). -/
opaque oldText : Nat → Nat → Bool

/-- Where a hand-off engine keeps a stream's received bitmap, in 8-byte words of its stack (R110, notes/assumptions/25.md): site and
entry. -/
opaque bitmapPlace : Nat → Nat → Nat

/-- The token of a step whose logits give no order or no finite sums (R103, notes/assumptions/26.md). -/
opaque freeToken : Nat → Nat

/-- The count of a shifted element that the operand of counts has no element for: the words of elements and counts, and the position
(R373, notes/assumptions/40.md). -/
opaque missingCount : Nat → Nat → Nat → Nat

/-- The content of a plan's sections, whose entries the manual does not lay out (notes/assumptions/10.md). -/
opaque parsePlan : List Byte → Machine.Plan

/-- Whether a signature over a configuration record's body verifies under the record key in ROM (R89, notes/assumptions/11.md). -/
opaque recordSigOk : List Byte → List Byte → Bool

/-- Byte `i` of the ML-DSA-87 signature by the key of a seed over a message (R92). -/
opaque signatureByte : List Byte → List Byte → Nat → Byte

/-- Byte `i` of the ROM image's digest (R91). -/
opaque romDigestByte : Nat → Byte

/-- Byte `i` of the PUF seed that helper data reconstruct (R90). -/
opaque pufByte : List Byte → Nat → Byte

/-- The module's serial number (IDENTIFY). -/
opaque serial : Word

/-- What SPDM 1.4 puts before the measurement blocks of a response (R93): request, number of blocks. -/
opaque spdmHead : List Byte → Nat → List Byte

/-- What SPDM 1.4 puts after them: request, the response so far, and the key's seed where a signature is asked for. -/
opaque spdmTail : List Byte → List Byte → List Byte → List Byte

end Sys2Proof.Config
end

