-- ==== Sys2Proof/Machine/Fields.lean ====
section
/-! DEFINITION. Reading the fields of words: type codes, rounding fields, widths, and the legality of every word
(Tables 14-2 to 14-7, R299 to R312, and the field rules of chapters 15 to 18). -/

namespace Sys2Proof

/-- fn8 [7:4], the operation type (R306). -/
def VForm.ty (f : VForm) : BitVec 4 := f.fn8.extractLsb' 4 4

/-- fn8 [3:0], rounding field and SAT (R306). -/
def VForm.fn (f : VForm) : BitVec 4 := f.fn8.extractLsb' 0 4

/-- fn[3:1], the rounding mode code (R279). -/
def VForm.mode (f : VForm) : BitVec 3 := f.fn8.extractLsb' 1 3

/-- fn[0], the saturation bit (R279). -/
def VForm.sat (f : VForm) : Bool := f.fn8.getLsbD 0

/-- b8 [7:4], the second type of a field in role T (Table 14-12). -/
def VForm.ty2 (f : VForm) : BitVec 4 := f.b.extractLsb' 4 4

/-- imm11: b8, bw and bb read together (R303). -/
def VForm.imm (f : VForm) : BitVec 11 := f.b ++ f.bw ++ f.bb

/-- The number of members a width field names (R304). -/
def width (w : BitVec 2) : Nat := 2 ^ w.toNat

/-- Bits of an element of a type code (Table 13-1); NB4 codes are 4 bits. -/
def tyBits (t : BitVec 4) : Nat :=
  match t.toNat with
  | 0 | 8 => 32
  | 1 | 2 | 9 => 16
  | 3 | 4 | 10 | 12 => 8
  | 5 | 6 => 6
  | 7 | 11 | 14 => 4
  | 13 => 64
  | _ => 8

/-- L(t): elements of a type in one register (Table 16-1). -/
def tyLanes (t : BitVec 4) : Nat :=
  match tyBits t with
  | 4 => 128
  | 6 => 64
  | 8 => 64
  | 16 => 32
  | 32 => 16
  | _ => 8

/-- Class F of Table 16-2. -/
def isF (t : BitVec 4) : Bool := t.toNat ≤ 4

/-- Class I of Table 16-2. -/
def isI (t : BitVec 4) : Bool :=
  match t.toNat with
  | 8 | 9 | 10 | 12 | 13 => true
  | _ => false

/-- Class W of Table 16-2. -/
def isW (t : BitVec 4) : Bool := isF t || isI t

/-- Class B of Table 16-2. -/
def isB (t : BitVec 4) : Bool := isW t || t == 7 || t == 11

/-- The floating-point types of Table 13-1. -/
def isFp (t : BitVec 4) : Bool := t.toNat ≤ 7

/-- The MX element types (R288). -/
def isMx (t : BitVec 4) : Bool := (3 ≤ t.toNat && t.toNat ≤ 7) || t == 10

/-- What a field of a V-form word holds (Table 14-12). -/
inductive Role where
  | v | p | x | t | i | none | free
  deriving DecidableEq, Repr

/-- A register-number field with its width against its role (Table 14-12, R304). -/
def roleOk (r : Role) (n : BitVec 8) (w : BitVec 2) : Bool :=
  match r with
  | .v => if n.toNat < 240 then n.toNat % width w == 0 else n.toNat < 248 && w == 0
  | .p => n.toNat < 128 && w == 0
  | .x => n.toNat < 64 && w == 0
  | .t => n.extractLsb' 0 4 == 0 && w == 0
  | .none => n == 0 && w == 0
  | .i | .free => true

/-- d, a and b against their roles, with trap bits, and pg (R303). -/
def rolesOk (d a b : Role) (pg : Bool) (f : VForm) : Bool :=
  roleOk d f.d f.dw && roleOk a f.a f.aw && roleOk b f.b f.bw &&
    (a != .none || f.ab == 0) && ((b != .none && b != .t) || f.bb == 0) && (pg || f.pg == 0)

/-- R305 and R365: where a transient destination may be named. -/
def dtOk (f : VForm) : Bool := f.dt == 0 || (f.dw == 0 && f.d.toNat < 240)

/-- fn[3:1] is a mode, and 000 in class I (R279, R366). -/
def roundOk (t m : BitVec 4) : Bool :=
  let mode := m.extractLsb' 1 3
  mode != 7 && (!isI t || mode == 0)

/-- fn[3:1] is a mode (R279). -/
def modeOk (f : VForm) : Bool := f.mode != 7

/-- The width of the wide operand of a block instruction, as a width code (Table 16-4). -/
def blockWidth (wide : BitVec 4) (n128 : Bool) : BitVec 2 :=
  let base : Nat := match tyBits wide with
    | 32 => 2
    | 16 => 1
    | _ => 0
  BitVec.ofNat 2 (base + if n128 then 1 else 0)

/-- Target kinds of the recipe and register-state words (Table 14-4). -/
def kindRole (k : BitVec 2) : Role :=
  match k.toNat with
  | 0 => .x
  | 1 => .v
  | _ => .p

def kindOf (f : VForm) : BitVec 2 := f.fn8.extractLsb' 0 2

/-- The kind is not 3, and the register field has the role it names, width single, no port (R412, R414, R415). -/
def kindOk (f : VForm) (n : BitVec 8) (w : BitVec 2) (port : Bool) : Bool :=
  kindOf f != 3 && roleOk (kindRole (kindOf f)) n w && w == 0 && (port || kindOf f != 1 || n.toNat < 240)

/-- The scope and group slot of FENCE and ICINV (R302). -/
def scopeOk (scope : BitVec 2) (slot : Nat) : Bool := if scope == 1 then slot < 4 else slot == 0

/-- The widest element-wise shape: every operand named has one width (R367). -/
def sameW3 (f : VForm) : Bool := f.dw == f.aw && f.aw == f.bw
def sameW2 (f : VForm) : Bool := f.dw == f.aw

/-- Legality of a V-form word by its opcode (Table 14-4, R303 to R306, and chapters 16 and 17). -/
def vOk (op : BitVec 9) (f : VForm) : Bool :=
  let fn := f.fn
  let t := f.ty
  let noDt := f.dt == 0
  match op.toNat with
  | 0x000 | 0x001 | 0x002 | 0x003 | 0x004 =>
    rolesOk .v .v .v true f && dtOk f && sameW3 f && isW t && roundOk t fn
  | 0x005 | 0x006 => rolesOk .v .v .v true f && dtOk f && sameW3 f && isW t && fn == 0
  | 0x007 | 0x008 =>
    rolesOk .v .v .none true f && dtOk f && sameW2 f && ((isF t && fn == 0) || (isI t && f.mode == 0))
  | 0x009 | 0x00F => rolesOk .v .v .v true f && dtOk f && sameW3 f && isF t && modeOk f
  | 0x00A | 0x00B | 0x00C | 0x00D | 0x00E =>
    rolesOk .v .v .none true f && dtOk f && sameW2 f && isF t && modeOk f
  | 0x010 => rolesOk .p .v .v true f && dtOk f && f.aw == 0 && f.bw == 0 && isW t && fn.toNat ≤ 6
  | 0x011 | 0x012 | 0x013 | 0x014 => rolesOk .v .v .v true f && dtOk f && sameW3 f && isB t && fn == 0
  | 0x015 => rolesOk .v .v .none true f && dtOk f && sameW2 f && isB t && fn == 0
  | 0x016 | 0x017 =>
    let imm := fn.getLsbD 0
    let kind := fn.extractLsb' 1 2
    (if imm then rolesOk .v .v .i true f && f.imm.toNat ≤ 63 else rolesOk .v .v .v true f) && dtOk f && (isI t || t == 11) && !fn.getLsbD 3 &&
      (if op == 0x016 then kind == 0 else kind != 3)
  | 0x018 => rolesOk .v .v .t true f && dtOk f && t.toNat ≤ 13 && f.ty2.toNat ≤ 13 && modeOk f
  | 0x019 =>
    rolesOk .v .v .t true f && noDt && f.dw == 1 && isMx t && f.ty2.toNat ≤ 2 &&
      f.aw == blockWidth f.ty2 (t == 7) && modeOk f
  | 0x01A =>
    rolesOk .v .v .t true f && dtOk f && f.aw == 1 && isF t && isMx f.ty2 &&
      f.dw == blockWidth t (f.ty2 == 7) && modeOk f
  | 0x01B =>
    rolesOk .v .v .free true f && noDt && f.dw == 1 && f.bw == 0 && f.bb == 0 && t == 14 && f.ty2.toNat ≤ 2 &&
      f.b.extractLsb' 2 2 == 0 && f.aw == blockWidth f.ty2 true && modeOk f
  | 0x01C =>
    rolesOk .v .v .none true f && dtOk f && f.aw == 1 && isF t && f.dw == blockWidth t true && modeOk f
  | 0x01D => rolesOk .v .none .none true f && noDt && isW t && fn == 0
  | 0x01E =>
    rolesOk .v .v .v true f && dtOk f && f.dw == 0 && f.aw == f.bw && fn == 0 &&
      ((1 ≤ t.toNat && t.toNat ≤ 7) || t == 10) && width f.aw * tyLanes t / 32 ≤ 16
  | 0x01F =>
    rolesOk .v .v .v true f && dtOk f && f.dw == 0 && f.aw == 0 && f.bw == 0 && roundOk t fn &&
      (match t.toNat with
        | 1 | 2 | 3 | 4 | 8 | 9 | 10 | 11 | 12 => true
        | _ => false)
  | 0x020 | 0x021 =>
    rolesOk .v .v .free true f && dtOk f && f.bw == 0 && f.bb == 0 && f.b.toNat ≤ 2 && isW t && roundOk t fn &&
      (if op == 0x020 then f.dw == 0 else sameW2 f)
  | 0x022 => rolesOk .v .v .v true f && dtOk f && sameW3 f && isW t && fn == 0
  | 0x023 => rolesOk .v .x .none true f && dtOk f && isB t && fn == 0
  | 0x024 => rolesOk .x .v .i false f && noDt && isB t && fn == 0 && f.imm.toNat < width f.aw * tyLanes t
  | 0x025 => rolesOk .v .x .i false f && dtOk f && isB t && fn == 0 && f.imm.toNat < width f.dw * tyLanes t
  | 0x026 => rolesOk .v .v .i true f && dtOk f && isB t && fn == 0
  | 0x027 | 0x028 => rolesOk .v .v .v true f && dtOk f && sameW3 f && isB t && f.mode == 0
  | 0x029 => rolesOk .v .v .none true f && dtOk f && sameW2 f && isB t && fn == 0
  | 0x02A => rolesOk .v .x .none true f && dtOk f && (isI t || t == 11) && fn == 0
  | 0x030 | 0x031 | 0x032 => rolesOk .p .p .p false f && dtOk f && f.fn8 == 0
  | 0x033 => rolesOk .p .p .none false f && dtOk f && f.fn8 == 0
  | 0x034 => rolesOk .p .x .x false f && dtOk f && isW t && fn == 0
  | 0x035 => rolesOk .x .p .none false f && noDt && isW t && fn == 0
  | 0x036 => rolesOk .p .p .none false f && dtOk f && isW t && fn == 0
  | 0x040 => rolesOk .v .x .i true f && dtOk f && f.d.toNat < 240 && f.fn8 == 0
  | 0x041 => rolesOk .v .x .i true f && noDt && f.d.toNat < 240 && f.fn8 == 0
  | 0x042 | 0x043 => rolesOk .v .x .x true f && noDt && f.d.toNat < 240 && f.fn8 == 0
  | 0x046 | 0x047 => rolesOk .v .x .i true f && noDt && f.dw == 0 && f.fn8 == 0
  | 0x044 | 0x045 =>
    let n := width f.dw * tyLanes t
    rolesOk .v .x .v true f && noDt && isB t && fn == 0 && n ≤ 128 && width f.bw == max 1 (n / 16)
  | 0x050 => rolesOk .none .x .i false f && noDt && f.fn8 == 0
  | 0x051 | 0x055 => rolesOk .x .x .i false f && noDt && f.fn8 == 0
  | 0x052 | 0x053 => rolesOk .v .x .i false f && noDt && f.dw == 1 && f.fn8 == 0
  | 0x054 => rolesOk .none .x .x false f && noDt && f.fn8 == 0
  | 0x060 =>
    kindOk f f.d f.dw true && rolesOk .free .x .i false f && noDt && !f.fn8.getLsbD 2 && f.imm.toNat ≤ 3
  | 0x061 => kindOk f f.d f.dw true && rolesOk .free .none .none false f && noDt && f.fn8.toNat ≤ 3
  | 0x068 => kindOk f f.d f.dw false && rolesOk .free .none .none false f && noDt && f.fn8.toNat ≤ 3
  | 0x062 => rolesOk .none .none .none false f && noDt && f.fn8.extractLsb' 0 3 == 0
  | 0x069 => kindOk f f.a f.aw false && rolesOk .x .free .none false f && noDt && f.fn8.toNat ≤ 3
  | 0x070 | 0x073 | 0x074 | 0x075 | 0x076 | 0x077 =>
    rolesOk .x .x .x false f && noDt && (t == 8 || t == 13) && fn == 0
  | 0x071 | 0x072 => rolesOk .x .x .x false f && noDt && (t == 8 || t == 13) && fn.toNat ≤ 1
  | 0x078 => rolesOk .x .x .x false f && noDt && t.toNat ≤ 2 && fn == 0
  | 0x079 => rolesOk .v .x .none true f && noDt && (t == 8 || t == 13 || t.toNat ≤ 2) && fn == 0
  | 0x080 | 0x081 | 0x082 => rolesOk .x .x .x false f && noDt && f.fn8 == 0
  | 0x083 | 0x084 => rolesOk .none .x .x false f && noDt && f.fn8 == 0
  | 0x085 => rolesOk .x .x .i false f && noDt && f.fn8 == 0 && f.imm.toNat ≤ 1
  | 0x086 => rolesOk .x .x .none false f && noDt && f.fn8 == 0
  | 0x087 => rolesOk .none .x .none false f && noDt && f.fn8 == 0
  | 0x088 => rolesOk .x .x .x false f && noDt && f.fn8.toNat < 64
  | 0x089 =>
    rolesOk .x .none .none false f && noDt && f.fn8.toNat < 64 && 1 ≤ f.d.toNat && f.d.toNat ≤ 62
  | 0x090 => rolesOk .none .x .none false f && noDt && f.fn8.toNat < 8
  | 0x091 => rolesOk .none .none .none false f && noDt && f.fn8.toNat < 8
  | 0x092 => rolesOk .x .none .none false f && noDt && f.fn8.toNat < 8
  | _ => false

/-- Table 18-6: the operations and element types of CCOLL. -/
def collOk (ty op : BitVec 4) : Bool :=
  match op.toNat with
  | 0 | 1 | 2 | 3 => ty.toNat ≤ 2 || ty == 8 || ty == 13
  | 4 | 5 => isW ty
  | _ => false

def bZero (f : BForm) : Bool := f.xd == 0 && f.xa == 0 && f.ba == 0
def xbZero (f : AForm) : Bool := f.xb == 0 && f.bb == 0

/-- The CSR numbers of Table 15-3. -/
def csrExists (n : BitVec 9) : Bool :=
  match n.toNat with
  | 0x000 | 0x001 | 0x002 | 0x003 | 0x004 | 0x010 | 0x011 | 0x012 | 0x013 | 0x014 | 0x020 | 0x021 | 0x022 | 0x023
  | 0x030 | 0x031 | 0x032 | 0x033 | 0x040 | 0x041 | 0x042 | 0x043 | 0x050 | 0x051 | 0x052 | 0x053 | 0x054 | 0x055
  | 0x056 | 0x057 | 0x058 | 0x059 | 0x05A | 0x05B | 0x05C | 0x060 | 0x061 | 0x062 | 0x063 => true
  | _ => false

end Sys2Proof
end

