-- ==== Sys2Proof/WellFormed.lean ====
section
/-! DEFINITION. Which terms of `Instr` are words or steps of the module: required-zero fields and value ranges of Tables
14-2 to 14-7 (R300 to R311), field rules of chapters 15 to 18, and for the rows no word encodes the ranges of the
numbers they name (sites R3, cores R5, regions R6, links R52, ports R57, slots R70). -/

namespace Sys2Proof

/-- A module-wide number of a core that exists (R5). -/
def coreOk (n : Nat) : Bool :=
  let site := n / 1024
  site < 64 && (if (site % 8 + site / 8) % 2 == 0 then n % 1024 < 256 else true)

/-- A request slot between sites that exist, with at most 32 payload bytes (Table 2-2). -/
def slotOk (m : Slot) : Bool := m.src < 68 && m.dst < 68 && m.payload.length ≤ 32

/-- The encoding rules and the ranges of every row. -/
def Instr.wf (i : Instr) : Bool :=
  match i with
  | .powerUp => true
  | .stageOverrun => true
  | .startRetryReset => true
  | .inputPowerRemoved => true
  | .sensorSample => true
  | .thstatWarnClear => true
  | .tlimWrite => true
  | .lpwrWrite => true
  | .layerTransitionDone => true
  | .capTick => true
  | .droopAlarm => true
  | .droopHoldEnd => true
  | .heldStartAdmit => true
  | .staggeredRegionStart => true
  | .registerWrite => true
  | .flitReceive => true
  | .nakReceive => true
  | .nullFlitSend => true
  | .retrainStart => true
  | .linkForceRetrain => true
  | .retrainAttemptEnd => true
  | .retrainAttemptTimeout => true
  | .fabricFlitReceive => true
  | .fabricNakReceive => true
  | .portRetrainStart => true
  | .portRetrainAttemptEnd => true
  | .portRetrainAttemptTimeout => true
  | .rdline => true
  | .rdpart => true
  | .wrmask => true
  | .tagst => true
  | .tagld => true
  | .slotAmoadd => true
  | .slotAmomin => true
  | .slotAmomax => true
  | .slotAmoand => true
  | .slotAmoor => true
  | .slotAmoxor => true
  | .slotAmoswp => true
  | .slotAmocas => true
  | .slotAmofadd => true
  | .slotVamoadd => true
  | .slotFadd => true
  | .slotFset => true
  | .slotFarm => true
  | .cellopTouch => true
  | .cellopCstat => true
  | .cellopDefer => true
  | .cellopResolve => true
  | .cellopPoison => true
  | .cellopWaitc => true
  | .cellopHeadQuery => true
  | .bopen => true
  | .bulkFlit => true
  | .ldata => true
  | .lwrite => true
  | .lwritev => true
  | .rdata => true
  | .done => true
  | .err => true
  | .pend => true
  | .pendTimer => true
  | .responseTimeout => true
  | .hostMemRead => true
  | .hostMemWrite => true
  | .submit => true
  | .slotFree => true
  | .slotStateUndo => true
  | .cancelWord => true
  | .evheadWrite => true
  | .msixUnmask => true
  | .identify => true
  | .status => true
  | .attest => true
  | .bootlog => true
  | .updateConfig => true
  | .setPlan => true
  | .loadText => true
  | .loadWeights => true
  | .loadWeightsDone => true
  | .mapRegion => true
  | .unmap => true
  | .openSpace => true
  | .closeSpace => true
  | .setTier => true
  | .cancel => true
  | .drain => true
  | .drainComplete => true
  | .queryStream => true
  | .lend => true
  | .borrow => true
  | .reclaim => true
  | .reclaimAnswer => true
  | .reclaimGraceExpire => true
  | .debugHalt => true
  | .debugResume => true
  | .debugRead => true
  | .debugWrite => true
  | .debugBreak => true
  | .resetModule => true
  | .moduleReset => true
  | .thermalRead => true
  | .thermalSet => true
  | .powerCap => true
  | .spdmRequest => true
  | .admission => true
  | .streamEnd => true
  | .retirement => true
  | .tiermissEvent => true
  | .ltimeWarn => true
  | .ltimeSelfDrain => true
  | .ltimeLimit => true
  | .logicalTimeTick => true
  | .handoffSend => true
  | .hblkSent => true
  | .handoffTimerExpire => true
  | .hblk => true
  | .blockLanded => true
  | .cack => true
  | .hcancel => true
  | .cmark => true
  | .cxack => true
  | .cxackSequencer => true
  | .srcdone => true
  | .cnote => true
  | .hfail => true
  | .hrej => true
  | .frefopAttach => true
  | .frefopRead => true
  | .tkpost => true
  | .predDecrement => true
  | .ringDescriptorWrite => true
  | .dispatchSelect => true
  | .contextSwap => true
  | .backgroundSpillDone => true
  | .debugHaltTake => true
  | .asyncRetire => true
  | .fqcmdResume => true
  | .fqcmdKill => true
  | .fqcmdComplete => true
  | .faultQueueTimeout => true
  | .tileTaskIssue => true
  | .tileTaskComplete => true
  | .bankPairSwap => true
  | .evalTableRetry => true
  | .evalPostRetry => true
  | .waiterTableRetry => true
  | .tagwaitRetry => true
  | .engineEvalEnd => true
  | .stashConfigWrite => true
  | .stmapdWrite => true
  | .add f => f.fn.toNat ≤ 2
  | .sub f => f.fn.toNat ≤ 2
  | .and f => f.fn.toNat ≤ 1
  | .or f => f.fn.toNat ≤ 1
  | .xor f => f.fn.toNat ≤ 1
  | .shl f => f.fn == 0
  | .shr f => f.fn.toNat ≤ 2
  | .mul _ => true
  | .div f => f.fn.toNat ≤ 1
  | .rem f => f.fn.toNat ≤ 1
  | .min f => f.fn.toNat ≤ 1
  | .max f => f.fn.toNat ≤ 1
  | .cset _ => true
  | .bits f => xbZero f
  | .field f => f.fn.toNat ≤ 2
  | .sel f => f.fn == 0
  | .addi _ => true
  | .andi _ => true
  | .ori _ => true
  | .xori _ => true
  | .shli f => f.imm.toNat ≤ 63
  | .shri f => f.imm.toNat ≤ 63
  | .shai f => f.imm.toNat ≤ 63
  | .cseti _ => true
  | .xput f => xbZero f && f.fn == 0
  | .xtake f => xbZero f && f.fn == 0
  | .b _ => true
  | .call _ => true
  | .jr _ => true
  | .beq _ => true
  | .bne _ => true
  | .blt _ => true
  | .bge _ => true
  | .bltu _ => true
  | .bgeu _ => true
  | .bp _ => true
  | .csrr f => csrExists f.csr && f.xa == 0 && f.ba == 0
  | .csrw f => csrExists f.csr
  | .csrs f => csrExists f.csr
  | .csrc f => csrExists f.csr
  | .fence kind scope slot => kind.toNat ≤ 4 && scopeOk scope slot.toNat
  | .trapf => true
  | .svc _ => true
  | .sret => true
  | .brk => true
  | .xdisp => true
  | .isync => true
  | .icinv f => f.xd.toNat ≤ 3 && scopeOk f.fn f.xd.toNat
  | .getid f => f.xa == 0 && f.ba == 0 && xbZero f && f.fn.toNat ≤ 2
  | .pause => true
  | .ldb _ => true
  | .ldh _ => true
  | .ldw _ => true
  | .ldd _ => true
  | .ldbs _ => true
  | .ldhs _ => true
  | .ldws _ => true
  | .stb _ => true
  | .sth _ => true
  | .stw _ => true
  | .std _ => true
  | .ldf _ => true
  | .ldc _ => true
  | .ste _ => true
  | .sts f => xbZero f && f.fn.toNat ≤ 1
  | .stn _ => true
  | .allot f => f.xa == 0 && f.ba == 0 && 16 ≤ f.imm.toNat && f.imm.toNat ≤ 240 && f.imm.toNat % 16 == 0
  | .rotcfg f => bZero f
  | .rotset f => f.xd == 0 && xbZero f && f.fn == 0
  | .swctx => true
  | .park => true
  | .ctxsv f => f.xd == 0 && xbZero f && f.fn == 0
  | .ctxld f => f.xd == 0 && xbZero f && f.fn == 0
  | .grpset f => f.xd == 0 && f.fn == 0
  | .asgen f => f.xd == 0 && xbZero f && f.fn == 0
  | .cohset f => f.xd == 0 && f.fn == 0
  | .probe f => xbZero f && f.fn.toNat ≤ 2
  | .lix _ => true
  | .brkl => true
  | .vadd f => vOk 0x000 f
  | .vsub f => vOk 0x001 f
  | .vmul f => vOk 0x002 f
  | .vfma f => vOk 0x003 f
  | .vfms f => vOk 0x004 f
  | .vmin f => vOk 0x005 f
  | .vmax f => vOk 0x006 f
  | .vabs f => vOk 0x007 f
  | .vneg f => vOk 0x008 f
  | .vdiv f => vOk 0x009 f
  | .vsqrt f => vOk 0x00A f
  | .vrcp f => vOk 0x00B f
  | .vrsq f => vOk 0x00C f
  | .vexp2 f => vOk 0x00D f
  | .vlog2 f => vOk 0x00E f
  | .vscl f => vOk 0x00F f
  | .vcmp f => vOk 0x010 f
  | .vsel f => vOk 0x011 f
  | .vand f => vOk 0x012 f
  | .vor f => vOk 0x013 f
  | .vxor f => vOk 0x014 f
  | .vnot f => vOk 0x015 f
  | .vshl f => vOk 0x016 f
  | .vshr f => vOk 0x017 f
  | .vcvt f => vOk 0x018 f
  | .vqmx f => vOk 0x019 f
  | .vdqmx f => vOk 0x01A f
  | .vqnb f => vOk 0x01B f
  | .vdqnb f => vOk 0x01C f
  | .vrand f => vOk 0x01D f
  | .vbdot f => vOk 0x01E f
  | .vpack f => vOk 0x01F f
  | .vred f => vOk 0x020 f
  | .vscan f => vOk 0x021 f
  | .vperm f => vOk 0x022 f
  | .vbcast f => vOk 0x023 f
  | .vextr f => vOk 0x024 f
  | .vins f => vOk 0x025 f
  | .vslide f => vOk 0x026 f
  | .vzip f => vOk 0x027 f
  | .vunzip f => vOk 0x028 f
  | .vmov f => vOk 0x029 f
  | .viota f => vOk 0x02A f
  | .pand f => vOk 0x030 f
  | .por f => vOk 0x031 f
  | .pxor f => vOk 0x032 f
  | .pnot f => vOk 0x033 f
  | .pwhile f => vOk 0x034 f
  | .pcnt f => vOk 0x035 f
  | .pfirst f => vOk 0x036 f
  | .vld f => vOk 0x040 f
  | .vst f => vOk 0x041 f
  | .vldx f => vOk 0x042 f
  | .vstx f => vOk 0x043 f
  | .vldf f => vOk 0x046 f
  | .vste f => vOk 0x047 f
  | .vgath f => vOk 0x044 f
  | .vscat f => vOk 0x045 f
  | .touch f => vOk 0x050 f
  | .cstat f => vOk 0x051 f
  | .waitc f => vOk 0x055 f
  | .defer f => vOk 0x052 f
  | .resolve f => vOk 0x053 f
  | .poison f => vOk 0x054 f
  | .rcpdef f => vOk 0x060 f
  | .rcpdrop f => vOk 0x061 f
  | .rcpkill f => vOk 0x062 f
  | .rempty f => vOk 0x068 f
  | .rstate f => vOk 0x069 f
  | .amoadd f => vOk 0x070 f
  | .amomin f => vOk 0x071 f
  | .amomax f => vOk 0x072 f
  | .amoand f => vOk 0x073 f
  | .amoor f => vOk 0x074 f
  | .amoxor f => vOk 0x075 f
  | .amoswp f => vOk 0x076 f
  | .amocas f => vOk 0x077 f
  | .amofadd f => vOk 0x078 f
  | .vamoadd f => vOk 0x079 f
  | .fadd f => vOk 0x080 f
  | .fset f => vOk 0x081 f
  | .farm f => vOk 0x082 f
  | .binit f => vOk 0x083 f
  | .bexp f => vOk 0x084 f
  | .bwait f => vOk 0x085 f
  | .btest f => vOk 0x086 f
  | .binv f => vOk 0x087 f
  | .rginit f => vOk 0x088 f
  | .rgtake f => vOk 0x089 f
  | .sbind f => vOk 0x090 f
  | .sunbind f => vOk 0x091 f
  | .sstat f => vOk 0x092 f
  | .mnop => true
  | .mdup => true
  | .mdrop => true
  | .mswap => true
  | .mover => true
  | .mpushx _ _ _ => true
  | .mpopx _ => true
  | .madd => true
  | .mshl _ => true
  | .mor => true
  | .mmma _ _ _ _ => true
  | .mmva _ _ _ _ => true
  | .mswpw => true
  | .mepi slot => slot != 0
  | .mbar => true
  | .mwait _ => true
  | .mskipz n => n != 0
  | .mbrk => true
  | .mconst _ slot => slot != 0
  | .mlit _ => true
  | .cnop => true
  | .cdup => true
  | .cdrop => true
  | .cswap => true
  | .cover => true
  | .cpushx _ _ _ => true
  | .cpopx _ => true
  | .cadd => true
  | .cshl _ => true
  | .cor => true
  | .ccopy _ => true
  | .ccopy2 _ => true
  | .cdecomp => true
  | .cgath _ => true
  | .cscat _ => true
  | .cfill _ => true
  | .cpref => true
  | .choff => true
  | .cpage _ => true
  | .ccoll ty op => collOk ty op
  | .cflush => true
  | .cbar => true
  | .cwait _ => true
  | .cskipz n => n != 0
  | .cbrk => true
  | .clit _ => true
  | .anop => true
  | .loop c => c != 0
  | .loopX _ => true
  | .endl _ => true
  | .leave cond r => cond != 0 || r == 0
  | .abr cond r _ => cond != 0 || r == 0
  | .acall _ => true
  | .aret => true
  | .sync => true
  | .next => true
  | .halt => true
  | .slip n => 1 ≤ n.toNat && n.toNat ≤ 8
  | .abrk => true
  | .eend => true
  | .elda _ => true
  | .eadd _ _ => true
  | .emul _ _ => true
  | .efma _ _ => true
  | .emax _ _ => true
  | .econ _ _ => true
  | .erow _ _ => true
  | .eact _ _ f => f.toNat ≤ 4
  | .ecvt _ _ _ _ => true
  | .estat _ _ => true
  | .eqkv _ _ _ => true
  | .eres _ => true
  | .est _ _ => true
  | .esel _ _ _ => true
  | .emov _ _ => true
  | .illegalEncoding => true
  | .poolPeerRequest => true

/-- The ranges of what a step reads: the rows not named here take any value. -/
def argsOk (i : Instr) (a : Args) : Bool :=
  match i with
  | .stageOverrun => 1 ≤ a.n && a.n ≤ 6
  | .sensorSample | .thstatWarnClear | .tlimWrite | .handoffSend | .hblkSent | .handoffTimerExpire | .blockLanded
  | .frefopAttach | .frefopRead | .dispatchSelect | .evalTableRetry | .evalPostRetry | .waiterTableRetry => a.n < 68
  | .lpwrWrite | .layerTransitionDone => a.n < 68 && 1 ≤ a.k && a.k ≤ 12
  | .capTick | .droopAlarm | .droopHoldEnd | .heldStartAdmit | .staggeredRegionStart => a.n < 16
  | .registerWrite => coreOk a.n && (a.size == 4 || a.size == 8)
  | .flitReceive => a.n < 68 && a.k < 26 && a.data.length == 256
  | .nakReceive | .nullFlitSend | .retrainStart | .linkForceRetrain | .retrainAttemptEnd | .retrainAttemptTimeout =>
    a.n < 68 && a.k < 26
  | .fabricFlitReceive => a.n < 72 && a.data.length == 272
  | .fabricNakReceive | .portRetrainStart | .portRetrainAttemptEnd | .portRetrainAttemptTimeout => a.n < 72
  | .rdline | .rdpart | .wrmask | .tagst | .tagld | .slotAmoadd | .slotAmomin | .slotAmomax | .slotAmoand | .slotAmoor
  | .slotAmoxor | .slotAmoswp | .slotAmocas | .slotAmofadd | .slotVamoadd | .slotFadd | .slotFset | .slotFarm
  | .cellopTouch | .cellopCstat | .cellopDefer | .cellopResolve | .cellopPoison | .cellopWaitc | .cellopHeadQuery
  | .bopen | .rdata | .done | .err | .pend | .hblk | .cack | .hcancel | .cmark | .cxack | .cxackSequencer | .srcdone
  | .cnote | .hfail | .hrej => slotOk a.msg
  | .bulkFlit => a.n < 68 && a.k < 68 && a.data.length == 240
  | .ldata | .lwrite | .lwritev => a.line.line.length == 128
  | .submit | .slotFree | .slotStateUndo | .cancelWord => a.n < 65536
  | .msixUnmask => a.n < 5
  | .logicalTimeTick | .contextSwap | .backgroundSpillDone | .debugHaltTake | .tagwaitRetry | .stashConfigWrite
  | .stmapdWrite => coreOk a.n
  | .tkpost | .predDecrement => a.n < 64 && a.k < 4096
  | .ringDescriptorWrite => a.n < 64 && a.k < 4096 && a.c < 32 && (a.size == 4 || a.size == 8)
  | .fqcmdResume | .fqcmdKill | .fqcmdComplete | .faultQueueTimeout => a.n < 64 && a.k < 256
  | .tileTaskIssue => a.n < 64 && a.k ≤ 1024
  | .tileTaskComplete => a.n < 64 && a.k ≤ 1024 && a.c < 1024
  | .bankPairSwap => a.n < 64 && a.k < 8
  | .engineEvalEnd => a.n < 64
  | .poolPeerRequest => a.peer != .post || (a.k < 64 && a.c < 4096 && a.data.length == 128)
  | _ => true

/-- `Instr.wf` as a proposition. -/
abbrev WellFormed (i : Instr) : Prop := i.wf = true

end Sys2Proof
end

