-- ==== Sys2Proof/Machine/Ops.lean ====
section
/-! DEFINITION. The named operations on the state: little-endian numbers (R7), cores, dies and contexts, storage behind physical
addresses (Table 8-1), and taking a trap and returning from one (Table 12-2, R259 to R261). -/

namespace Sys2Proof.Machine

/-- Operations of the module that always go on. -/
abbrev H := StateM State

/-- The number that bytes hold, least significant first (R7). -/
def leNat : List Byte → Nat
  | [] => 0
  | b :: bs => b.toNat + 256 * leNat bs

/-- The low `n` bytes of a number, least significant first (R7). -/
def leBytes : Nat → Nat → List Byte
  | 0, _ => []
  | n + 1, v => BitVec.ofNat 8 v :: leBytes n (v / 256)

/-- `n` bytes of a list from offset `o`; bytes past its end are 0. -/
def slice (bs : List Byte) (o n : Nat) : List Byte :=
  let r := (bs.drop o).take n
  r ++ List.replicate (n - r.length) 0

/-- The number in `n` bytes at offset `o`. -/
def field (bs : List Byte) (o n : Nat) : Nat := leNat (slice bs o n)

/-- Bits [hi:lo] of a number. -/
def bits (v hi lo : Nat) : Nat := v / 2 ^ lo % 2 ^ (hi + 1 - lo)

/-- Replaces bytes from offset `o`. -/
def patch (bs : List Byte) (o : Nat) (new : List Byte) : List Byte :=
  bs.take o ++ new ++ bs.drop (o + new.length)

def b2n (b : Bool) : Nat := if b then 1 else 0

/-! ## Cores, contexts, dies -/

def State.core (s : State) (n : Nat) : Core := mapGet { tick := s.idleTick } s.cores n
def State.setCore (s : State) (n : Nat) (c : Core) : State := { s with cores := mapSet s.cores n c }
def State.modCore (s : State) (n : Nat) (f : Core → Core) : State := s.setCore n (f (s.core n))
def State.die (s : State) (n : Nat) : Die := mapGet {} s.dies n
def State.setDie (s : State) (n : Nat) (d : Die) : State := { s with dies := mapSet s.dies n d }
def State.modDie (s : State) (n : Nat) (f : Die → Die) : State := s.setDie n (f (s.die n))
def State.region (s : State) (g : Nat) : Region := mapGet {} s.regions g
def State.modRegion (s : State) (g : Nat) (f : Region → Region) : State :=
  { s with regions := mapSet s.regions g (f (s.region g)) }
def State.modFw (s : State) (f : Firmware → Firmware) : State := { s with fw := f s.fw }

/-- Something has gone on: no engine in a row has found nothing to do. -/
def State.goOn (s : State) : State := { s with stalls := 0 }

/-- The context that the core of the turn executes. -/
def State.ctx (s : State) : Ctx := (s.core s.turn).ctx
def State.setCtx (s : State) (c : Ctx) : State := s.modCore s.turn (fun k => { k with ctx := c })

def Ctx.eng (c : Ctx) (e : Eng) : EngCtx :=
  match e with
  | .t => c.t
  | .m => c.m
  | .c => c.c

def Ctx.setEng (c : Ctx) (e : Eng) (x : EngCtx) : Ctx :=
  match e with
  | .t => { c with t := x }
  | .m => { c with m := x }
  | .c => { c with c := x }

/-- Engine numbers of TSTAT.ENG (Table 12-2). -/
def engCode : Eng → Nat
  | .t => 0
  | .m => 1
  | .c => 2

/-- Site of a core, and its number on the die (R5). -/
def siteOf (core : Nat) : Nat := core / 1024
def numOf (core : Nat) : Nat := core % 1024

/-- Chequerboard of the grid (R3). -/
def isP (site : Nat) : Bool := site < 64 && (site % 8 + site / 8) % 2 == 0
def isD (site : Nat) : Bool := site < 64 && (site % 8 + site / 8) % 2 == 1

/-- Site of the k-th D-stack and of the j-th P-die in site order (R4). -/
def dSite (k : Nat) : Nat := 2 * k + (if k / 4 % 2 == 0 then 1 else 0)
def pSite (j : Nat) : Nat := 2 * j + (if j / 4 % 2 == 0 then 0 else 1)

/-- Cores on a die (R14, R15). -/
def coresOf (site : Nat) : Nat := if isP site then 256 else if isD site then 1024 else 0

/-- Power region of a grid site (R6). -/
def regionOf (site : Nat) : Nat := 4 * (site / 8 / 2) + site % 8 / 2

/-- The next free value's number; each draw takes a new one (notes/assumptions/7.md). -/
def drawFresh : H Nat := do
  let s ← get
  set { s with fresh := s.fresh + 1 }
  pure s.fresh

/-! ## DRAM carving (R17 to R19) -/

def popcount8 (b : BitVec 8) : Nat := (List.range 8).foldl (fun n i => n + b2n (b.getLsbD i)) 0

/-- SEGFAIL of column c, layer L. -/
def Die.segfail (d : Die) (c l : Nat) : BitVec 8 := mapGet 0 d.carve (16 * c + l)

/-- Banks of a layer-column that survive (R17). -/
def Die.banks (d : Die) (c l : Nat) : Nat :=
  let n := popcount8 (d.segfail c l)
  if n > 4 then 0 else 16 - 2 * n

/-- DCOLCAP: granules of a column. -/
def Die.colGran (d : Die) (c : Nat) : Nat :=
  if d.carve.isEmpty then 192 else (List.range 12).foldl (fun n i => n + d.banks c (i + 1)) 0

/-- COLBASE: first stack granule of a column. -/
def Die.colBase (d : Die) (c : Nat) : Nat :=
  if d.carve.isEmpty then 192 * c else (List.range c).foldl (fun n i => n + d.colGran i) 0

/-- DSTKCAP: granules of the stack. -/
def Die.stackCap (d : Die) : Nat := d.colBase 64

/-- Bank numbers of a layer-column that survive, ascending. -/
def Die.bankList (d : Die) (c l : Nat) : List Nat :=
  if d.banks c l = 0 then [] else (List.range 16).filter (fun b => !(d.segfail c l).getLsbD (b / 2))

/-- Layer and bank of each granule of a column, in order (DREMAP). -/
def Die.remap (d : Die) (c : Nat) : List (Nat × Nat) :=
  (List.range 12).flatMap (fun i => (d.bankList c (i + 1)).map (fun b => (i + 1, b)))

/-- Column of a stack granule and its number in the column. -/
def Die.colOf (d : Die) (g : Nat) : Nat × Nat :=
  if d.carve.isEmpty then (g / 192, g % 192)
  else
    ((List.range 64).foldl (fun (r : Nat × Nat × Bool) c =>
      if r.2.2 then r else if r.2.1 < d.colGran c then (c, r.2.1, true) else (c, r.2.1 - d.colGran c, false))
      (0, g, false) |> fun r => (r.1, r.2.1))

/-- The DRAM layer that holds a stack granule. -/
def Die.layerOf (d : Die) (g : Nat) : Nat :=
  let (c, k) := d.colOf g
  if d.carve.isEmpty then k / 16 + 1 else ((d.remap c).getD k (0, 0)).1

/-! ## Storage behind physical addresses (Table 8-1) -/

/-- What answers instead of storage: trap cause, MCAUSE and ECODE in TINFO place (Table 8-2), error code (Table 2-4). -/
structure MemErr where
  cause : Nat
  info : Nat
  code : Nat
  deriving DecidableEq, Repr

def errHole : MemErr := ⟨0x40, 0x100, 2⟩
def errUnbacked : MemErr := ⟨0x40, 0x200, 2⟩
def errLayerOff : MemErr := ⟨0x40, 0x300, 3⟩
def errTier : MemErr := ⟨0x40, 0x400, 2⟩
def errRemote (code : Nat) : MemErr := ⟨0x40, 0x500 + 0x1000 * code, code⟩
def errRange : MemErr := ⟨0x19, 0, 2⟩

/-- Rows of Table 8-1. -/
inductive Space where
  | dram (k : Nat)
  | weight (j off : Nat)
  | pad (core off : Nat)
  | slow (off : Nat)
  | remote (w off : Nat)
  | control (off : Nat)
  | unbacked
  deriving DecidableEq, Repr

def padBase : Nat := 0x030000000000

def spaceOf (pa : Nat) : Space :=
  if pa < 0x018000000000 then .dram (pa / 0x000C00000000)
  else if pa < 0x020000000000 then .unbacked
  else if pa < 0x020800000000 then .weight ((pa - 0x020000000000) / 0x40000000) ((pa - 0x020000000000) % 0x40000000)
  else if pa < padBase then .unbacked
  else if pa < 0x030080000000 then .pad ((pa - padBase) / 0x8000) ((pa - padBase) % 0x8000)
  else if pa < 0x040000000000 then .unbacked
  else if pa < 0x440000000000 then .slow (pa - 0x040000000000)
  else if pa < 0x700000000000 then .unbacked
  else if pa < 0xB00000000000 then .remote ((pa - 0x700000000000) / 0x40000000000) ((pa - 0x700000000000) % 0x40000000000)
  else if pa < 0xFF0000000000 then .unbacked
  else .control (pa - 0xFF0000000000)

def isDram (pa : Nat) : Bool := pa < 0x018000000000

def isPad (pa : Nat) : Bool :=
  match spaceOf pa with
  | .pad _ _ => true
  | _ => false

/-- Physical address of offset `off` of a core's scratchpad window (R160). -/
def padAddr (core off : Nat) : Nat := padBase + core * 0x8000 + off

/-- A scratchpad offset inside its core's stash (R164). -/
def inStash (s : State) (core off : Nat) : Bool :=
  let c := s.core core
  c.stashb * 0x800 ≤ off && off < (c.stashb + c.stashn) * 0x800

/-- Where a byte is stored: in host memory or not, and its number there. -/
structure Place where
  host : Bool
  key : Nat
  deriving DecidableEq, Repr

/-- The storage behind a physical address, or why there is none. Layers that sleep count as present (R25). -/
def locate (s : State) (pa : Nat) : Except MemErr Place :=
  match spaceOf pa with
  | .dram k =>
    let d := s.die (dSite k)
    let g := pa % 0x000C00000000 / 0x400000
    if g ≥ d.stackCap then .error errHole
    else if d.lpwr.isEmpty then .ok ⟨false, pa⟩
    else if (mapGet {} d.lpwr (d.layerOf g)).target == 3 then .error errLayerOff
    else .ok ⟨false, pa⟩
  | .weight j off =>
    let shadow := off ≥ 0x20000000
    let o := off % 0x20000000
    if o ≥ 0x18000000 then .error errUnbacked
    else
      let pair := o / 0x03000000
      let d := s.die (pSite j)
      if !d.wbok.getLsbD pair then .error errHole
      else
        let half := ((mapGet {} d.wpairs pair).act.toNat + b2n shadow) % 2
        .ok ⟨false, 0x020000000000 + j * 0x40000000 + half * 0x20000000 + o⟩
  | .pad core off =>
    if !coreOk core then .error errUnbacked
    else if off ≥ 0x6000 then .error errRange
    else .ok ⟨false, pa⟩
  | .slow off =>
    match mapFind s.fw.tier (off / 0x10000) with
    | some base => .ok ⟨true, base + off % 0x10000⟩
    | none => .error errTier
  | .remote w _ =>
    if (mapGet {} s.fw.fwin w).valid then .error (errRemote 0) else .error (errRemote 4)
  | .control _ => .error errUnbacked
  | .unbacked => .error errUnbacked

/-- One byte of storage. -/
def readAt (s : State) (p : Place) : Byte := mapGet 0 (if p.host then s.hostMem else s.mem) p.key

/-- Writes one byte of storage in canonical form. -/
def writeAt (s : State) (p : Place) (b : Byte) : State :=
  if p.host then { s with hostMem := cellSet 0 s.hostMem p.key b } else { s with mem := cellSet 0 s.mem p.key b }

/-- The byte at a physical address; 0 where there is no storage. -/
def readPhys (s : State) (pa : Nat) : Byte :=
  match locate s pa with
  | .ok p => readAt s p
  | .error _ => 0

/-- Writes the byte at a physical address; nothing where there is no storage. -/
def writePhys (s : State) (pa : Nat) (b : Byte) : State :=
  match locate s pa with
  | .ok p => writeAt s p b
  | .error _ => s

def readBytes (s : State) (pa n : Nat) : List Byte := (List.range n).map (fun i => readPhys s (pa + i))

def writeBytes (s : State) (pa : Nat) : List Byte → State
  | [] => s
  | b :: bs => writeBytes (writePhys s pa b) (pa + 1) bs

/-- `n` bytes of host memory. -/
def hostRead (s : State) (a n : Nat) : List Byte := (List.range n).map (fun i => mapGet 0 s.hostMem (a + i))

def hostWrite (s : State) (a : Nat) : List Byte → State
  | [] => s
  | b :: bs => hostWrite { s with hostMem := cellSet 0 s.hostMem a b } (a + 1) bs

/-- Home site of an address (R156): where its atomics, cells and waiters are. -/
def homeSite (pa : Nat) : Nat :=
  match spaceOf pa with
  | .dram k => dSite k
  | .weight j _ => pSite j
  | .pad core _ => siteOf core
  | .slow off => dSite (off / 65536 % 32)
  | .remote _ _ => 64
  | .control _ => 64
  | .unbacked => 64

/-- Number of the home slice of a line within its die, 64 at most (R156): the column, or address bits. -/
def homeSlice (s : State) (pa : Nat) : Nat :=
  match spaceOf pa with
  | .dram k => ((s.die (dSite k)).colOf (pa % 0x000C00000000 / 0x400000)).1
  | _ => pa / 128 % 64

/-! ## Tags, cells, marks -/

def lineOf (pa : Nat) : Nat := pa / 128 * 128

/-- The lines that a waiting store of several parts has had checked, up to the one it waits at: their homes hold them for it (R394). Those
above that one are not held, so that no two stores wait for each other (DEDUCED, notes/assumptions/37.md). -/
def Waiter.holds (w : Waiter) : List Nat :=
  let before (l : Nat) : List Nat := ((w.acc.pieces.takeWhile fun p => lineOf p.pa != l).map fun p => lineOf p.pa).filter (· < l)
  match w.who, w.acc.act, w.on with
  | .core _ _, .store, .cell l | .core _ _, .store, .pin l => before l
  | .core _ _, .vamo _, .cell l | .core _ _, .vamo _, .pin l => before l
  | _, _, _ => []

/-- A home holds a line for a store that waits elsewhere, or that has parts behind a remote window (R394). -/
def State.heldLine (s : State) (pa : Nat) : Bool :=
  s.waiters.any (fun w => w.holds.contains (lineOf pa)) ||
    s.requests.any fun r => r.op.isNone && r.acc.act != .load && r.acc.pieces.any fun p => lineOf p.pa == lineOf pa

/-- Writes of a line wait: a tile-task has pinned it (R153), or its home holds it for another store (R394). -/
def State.pinned (s : State) (pa : Nat) : Bool := s.pins.any (fun q => q.line == lineOf pa) || s.heldLine pa

/-- Tag of a scratchpad word (R160). -/
def State.tag (s : State) (pa : Nat) : BitVec 2 := mapGet 1 s.tags (pa / 4)
def State.setTag (s : State) (pa : Nat) (t : BitVec 2) : State := { s with tags := cellSet 1 s.tags (pa / 4) t }

/-- Tag of a cell (R184). -/
def State.cellTag (s : State) (pa : Nat) : BitVec 2 := mapGet 0 s.cellTags (lineOf pa)
def State.setCellTag (s : State) (pa : Nat) (t : BitVec 2) : State :=
  { s with cellTags := cellSet 0 s.cellTags (lineOf pa) t }

/-- The line that a mark stands for: that of the storage behind a weight bank's address, whose halves exchange (R154, R176). -/
def poisonLine (s : State) (pa : Nat) : Nat :=
  match spaceOf pa with
  | .weight _ _ => lineOf (match locate s pa with
    | .ok p => p.key
    | .error _ => pa)
  | _ => lineOf pa

/-- Poison mark of a line (R176). -/
def State.poisoned (s : State) (pa : Nat) : Bool := mapGet false s.poison (poisonLine s pa)
def State.setPoison (s : State) (pa : Nat) (b : Bool) : State :=
  { s with poison := cellSet false s.poison (poisonLine s pa) b, rewritten := mapDel s.rewritten (poisonLine s pa) }

/-- Stores have written bytes of a line: a mark goes once they have covered all 128 (R176). -/
def State.cover (s : State) (pa : Nat) (bytes : BitVec 128) : State :=
  if !s.poisoned pa then s
  else
    let now := mapGet 0 s.rewritten (poisonLine s pa) ||| bytes
    if now == BitVec.allOnes 128 then s.setPoison pa false else { s with rewritten := mapSet s.rewritten (poisonLine s pa) now }

/-- A saturating count of errors (Table 8-7). -/
def ErrCnt.count (e : ErrCnt) (ue : Bool) : ErrCnt :=
  if ue then { e with ue := if e.ue == 0xFFFF then e.ue else e.ue + 1 } else { e with ce := if e.ce == 0xFFFF then e.ce else e.ce + 1 }

/-- A copy of a line in an SRAM array that a cache keeps (R176): an uncorrectable error in a clean one is refetched, in a dirty one it
marks the line. `keep` takes the copy out. -/
def copyError (s : State) (site line : Nat) (ue : Bool) (held : List Line) (drop : State → State) : State :=
  let s := s.modDie site fun d => { d with sErr := d.sErr.count ue }
  match ue, held.find? (·.addr == line) with
  | true, some l => if l.dirty == 0 then drop s else (drop s).setPoison line true
  | _, _ => s

/-- An error in a core's L1 or stash. -/
def coreCopyError (s : State) (n line : Nat) (ue : Bool) : State :=
  if !coreOk n then s
  else
    let c := s.core n
    copyError s (siteOf n) line ue (c.l1 ++ c.granules.flatMap (·.2.held)) fun s => s.modCore n fun c =>
      { c with l1 := c.l1.filter (·.addr != line),
               granules := c.granules.map fun g => (g.1, { g.2 with held := g.2.held.filter (·.addr != line) }) }

/-- An error in a die's L2: in its near copy of a line, or in a line that it is home to. -/
def l2Error (s : State) (site line : Nat) (ue : Bool) : State :=
  if site ≥ 64 then s
  else if homeSite line == site then
    let s := s.modDie site fun d => { d with sErr := d.sErr.count ue }
    if ue then s.setPoison line true else s
  else copyError s site line ue (s.die site).near fun s => s.modDie site fun d => { d with near := d.near.filter (·.addr != line) }

/-- The storage at an address has found an error in its data: a corrected one is counted, an uncorrectable one is counted and marks
the line, or tags the scratchpad word POISONED (R18, R175, R176). Errors in the slow tier are the host's, which counts none here.
Above bit 48 an address names the array that found the error: 1 + n the caches of core n, 2^17 + n the L2 of site n. -/
def mediaError (s : State) (pa : Nat) (ue : Bool) : State :=
  let mark (s : State) : State := if ue then s.setPoison pa true else s
  if pa ≥ 2 ^ 65 then l2Error s (pa / 2 ^ 48 - 2 ^ 17) (lineOf (pa % 2 ^ 48)) ue
  else if pa ≥ 2 ^ 48 then coreCopyError s (pa / 2 ^ 48 - 1) (lineOf (pa % 2 ^ 48)) ue
  else match spaceOf pa with
  | .dram k => mark (s.modDie (dSite k) fun d =>
      let c := (d.colOf (pa % 0x000C00000000 / 0x400000)).1
      { d with colErr := mapSet d.colErr c ((mapGet {} d.colErr c).count ue) })
  | .weight j _ => mark (s.modDie (pSite j) fun d => { d with wErr := d.wErr.count ue })
  | .pad c off =>
    if !coreOk c || off ≥ 0x6000 then s
    else
      let s := s.modDie (siteOf c) fun d => { d with sErr := d.sErr.count ue }
      if ue then s.setTag pa 3 else s
  | .slow _ => mark s
  | _ => s

/-- The media errors that an event of the outside world brings with it. -/
def mediaErrors (s : State) (fs : List (Nat × Bool)) : State := fs.foldl (fun (s : State) f => mediaError s f.1 f.2) s

/-! ## Taking a trap and returning from one -/

/-- S(n), the supervisor's entry on site n (R260), which TVEC holds. -/
def tvec (site : Nat) : Nat := 0xFF0030000000 + site * 0x10000

def getEval (s : State) (id : Nat) : Option Eval := mapFind (s.die (id / 1024)).evals (id % 1024)

/-- Records the cell on which an evaluator waits (R200). -/
def putWait (s : State) (e : Nat) (c : Option Nat) : State :=
  match getEval s e with
  | some ev => s.modDie (e / 1024) fun d => { d with evals := mapSet d.evals (e % 1024) { ev with waitsOn := c } }
  | none => s

/-- The evaluator of an EVALID waits on a line no more (R200). -/
def endWait (s : State) (evalid : BitVec 16) (l : Nat) : State :=
  if evalid == 0 then s
  else if ((getEval s evalid.toNat).bind (·.waitsOn)) == some (lineOf l) then putWait s evalid.toNat none else s

/-- Where what has been brought for a word of an engine is kept. -/
def wordKey (core : Nat) (e : Eng) : Nat := core + 2 ^ 17 * engCode e

/-- The engine waits for an access that a home or another die answers. -/
def engineWaits (s : State) (n : Nat) (e : Eng) : Bool :=
  s.waiters.any (fun w => w.who == .core n e) || s.requests.any (fun r => r.core == n && r.eng == e && r.op.isNone)

/-- An engine of a core is in the middle of a word, some accesses of which have performed. -/
def midWord (s : State) (n : Nat) (e : Eng) : Bool := s.arrived.any (·.1 == wordKey n e) && !engineWaits s n e

/-- Another engine of a core has a remote access that is not answered yet, or is in the middle of a word. Of two engines in the middle of
words only one waits for the other. -/
def othersBusy (s : State) (n : Nat) (e : Eng) : Bool :=
  s.requests.any (fun r => r.core == n && r.eng != e && r.op.isNone) ||
    [Eng.t, .m, .c].any fun g => g != e && midWord s n g && !(midWord s n e && decide (engCode e < engCode g))

/-- What T has executed behind an unanswered access is undone: it had no effect (R254). The other engines' part stands. -/
def Core.unwind (k : Core) : Core :=
  match k.ahead with
  | none => k
  | some a => { k with ahead := none, ctx := { a.base with m := k.ctx.m, c := k.ctx.c, alog := k.ctx.alog, slipw := k.ctx.slipw } }

/-- T has executed one more word behind an unanswered access. -/
def Core.countAhead (k : Core) (e : Eng) : Core :=
  match e, k.ahead with
  | .t, some a => { k with ahead := some { a with words := a.words + 1 } }
  | _, _ => k

/-- Withdraws every access of a core that waits (R259, R263): it has not performed, and its word is executed again, with all that T has
executed behind it. A withdrawn BWAIT leaves its barrier's count of waiters. -/
def withdraw (s : State) (core : Nat) : State :=
  let mine (w : Waiter) : Bool := match w.who with
    | .core n _ => n == core
    | _ => false
  let s := s.waiters.foldl (fun (s : State) w =>
    match mine w, w.on with
    | true, .barrier b =>
      let w2 := leNat (readBytes s (b + 8) 4)
      writeBytes s (b + 8) (leBytes 4 (w2 - (if w2 ≥ 65536 then 65536 else 0)))
    | true, .cell l => endWait s (s.core core).ctx.evalid l
    | _, _ => s) s
  { s.modCore core Core.unwind with
    waiters := s.waiters.filter (fun w => !mine w), requests := s.requests.filter (fun r => r.core != core || r.op.isSome),
    arrived := s.arrived.filter fun r => !([Eng.t, .m, .c].any fun e => r.1 == wordKey core e) }

/-- A register as it was before its pending producer issued (R393). -/
def unpend {α : Type} (r : Reg α) : Reg α :=
  match r.pend with
  | some f => { r with pend := none, fill := f }
  | none => r

/-- Every destination of a withdrawn access as it was before issue. -/
def clearPending (c : Ctx) : Ctx :=
  { c with x := c.x.map (fun e => (e.1, unpend e.2)), v := c.v.map (fun e => (e.1, unpend e.2)) }

/-- The engines that a trap's engine number names. -/
def trapEngs (n : Nat) : List Eng :=
  match n with
  | 0 => [.t]
  | 1 => [.m]
  | 2 => [.c]
  | _ => [.t, .m, .c]

/-- The trap is raised by the word that an armed substitution displaced (R269). -/
def byDisplaced (c : Core) (eng : Nat) : Bool :=
  match c.subst with
  | some z => (trapEngs eng).any fun e => z.engs.contains e && (c.ctx.eng e).pc == z.addr
  | none => false

/-- An engine has executed the displaced word: its substitution disarms (R269). -/
def Core.disarm (c : Core) (e : Eng) (pc : TextAddr) : Core :=
  match c.subst with
  | some z =>
    if z.addr == pc then
      let left := z.engs.filter (· != e)
      { c with subst := if left.isEmpty then none else some { z with engs := left } }
    else c
  | none => c

/-- Takes a trap (R259, Table 12-2): engine 0 T, 1 M, 2 C, 3 all. Every engine's address and halted mark are saved, the status
and the mode change, and T goes on at TVEC. Inside a transient window T restarts at the window's producer, with SRCTR as it
was when that issued (R245). While INTRAP is 1 it is a double trap, which the core parks with its nested cause (R260). -/
def takeTrap (s : State) (core eng cause : Nat) (addr info : Word) : State :=
  let s := withdraw s core
  let c := s.core core
  if c.intrap then s.setCore core { c with parkPending := some (BitVec.ofNat 8 cause) }
  else
    let x := clearPending c.ctx
    let win := x.window.head?
    let tpc := match win with
      | some w => w.pc
      | none => x.t.pc
    let ctr := match win with
      | some w => w.srctr
      | none => x.srctr
    let i : Word := if win.isSome && eng == 0 then info ||| (1 <<< 62) else info
    let disp := byDisplaced c eng
    let i : Word := if disp then i ||| (1 <<< 63) else i
    let x' := { x with window := [], srctr := ctr,
                       t := { x.t with pc := BitVec.ofNat 56 (tvec (siteOf core)), halted := false, atMeet := false },
                       m := { x.m with atMeet := false }, c := { x.c with atMeet := false } }
    let s := s.modDie (siteOf core) (fun d => { d with requests := d.requests.filter (fun r => r.core != core) })
    s.setCore core { c with
      ctx := x', tcause := BitVec.ofNat 8 cause, taddr := addr, tinfo := i, tpct := tpc, tpcm := x.m.pc, tpcc := x.c.pc,
      subst := if disp then none else c.subst, teng := BitVec.ofNat 2 eng, ppriv := c.sup, intrap := true, sup := true,
      thalted := BitVec.ofNat 3 (b2n x.t.halted + 2 * b2n x.m.halted + 4 * b2n x.c.halted) }

/-- Returns from a trap (R261): privilege from PPRIV, INTRAP clear, each engine at its TPC, halted engines halted. -/
def returnTrap (s : State) (core : Nat) : State :=
  let c := s.core core
  let x := c.ctx
  let x' := { x with t := { x.t with pc := c.tpct, halted := c.thalted.getLsbD 0 },
                     m := { x.m with pc := c.tpcm, halted := c.thalted.getLsbD 1 },
                     c := { x.c with pc := c.tpcc, halted := c.thalted.getLsbD 2 } }
  s.setCore core { c with ctx := x', sup := c.ppriv, intrap := false }

/-- The message of a vector: a write of its table entry's data to its address (R76). -/
def sendMsix (f : Firmware) (v : Nat) : Firmware := { f with msix := (v, mapGet (0, 0) f.msixTable v) :: f.msix }

/-- Raises an MSI-X vector: sent, or kept pending while masked (R76). -/
def raiseMsix (s : State) (v : Nat) : State :=
  s.modFw fun f => if f.msixMask.getLsbD v then { f with msixPend := f.msixPend ||| (1 <<< v) } else sendMsix f v

/-! ## Power states of DRAM layers (R25 to R27) -/

/-- Stack granules of a layer. -/
def layerGrans (d : Die) (l : Nat) : List Nat := (List.range d.stackCap).filter (fun g => d.layerOf g == l)

/-- Every byte and every mark of a granule of a stack becomes 0 (R26). -/
def zeroRange (s : State) (lo hi : Nat) : State :=
  let keep {α : Type} (f : Nat → Nat) (m : Map α) : Map α := m.filter fun e => !(lo ≤ f e.1 && f e.1 < hi)
  { s with mem := keep id s.mem, cellTags := keep id s.cellTags, bound := keep id s.bound, poison := keep id s.poison,
           rewritten := keep id s.rewritten, tags := keep (4 * ·) s.tags }

def zeroLayer (s : State) (n l : Nat) : State :=
  let d := s.die n
  let k := (n - (if n % 2 == 1 then 1 else 0)) / 2
  (layerGrans d l).foldl (fun (s : State) g => zeroRange s (k * 0x000C00000000 + g * 0x400000) (k * 0x000C00000000 + (g + 1) * 0x400000)) s

/-- Begins a layer's move to a target. A layer that leaves OFF is zero before it serves an access (R26). -/
def startLayer (s : State) (n l : Nat) (t : BitVec 2) : State :=
  let was := mapGet {} (s.die n).lpwr l
  let s := if was.state == 3 && t != 3 then zeroLayer s n l else s
  s.modDie n fun d => { d with lpwr := mapSet d.lpwr l { was with target := t, busy := was.state != t, queued := none } }

/-- The end of a layer's transition; the last target written during it comes next (R27). -/
def endLayer (s : State) (n l : Nat) : State :=
  let was := mapGet {} (s.die n).lpwr l
  let s := s.modDie n fun d => { d with lpwr := mapSet d.lpwr l { was with state := was.target, busy := false, queued := none } }
  match was.queued with
  | some t => startLayer s n l t
  | none => s

/-- An access to a layer that is GATED or in RET, or moves there, wakes it: it is served and the layer stays ON (R25). While another
target waits for the transition to end, the access is served and the transition goes on (R27). -/
def wake (s : State) (pa : Nat) : State :=
  match spaceOf pa with
  | .dram k =>
    let n := dSite k
    let d := s.die n
    if d.lpwr.isEmpty then s
    else
      let l := d.layerOf (pa % 0x000C00000000 / 0x400000)
      let w := mapGet {} d.lpwr l
      if w.target == 3 || w.queued.isSome || (w.target == 0 && w.state == 0) then s
      else
        let s := if w.busy then endLayer s n l else s
        s.modDie n fun d => { d with lpwr := mapSet d.lpwr l { mapGet {} d.lpwr l with state := 0 } }
  | _ => s

end Sys2Proof.Machine
end

