-- ==== Sys2Proof/Machine/Sha3.lean ====
section
/-! DEFINITION. The Keccak sponge (FIPS 202) behind SHA3-512 and SHAKE, and CRC-32C: what the manual names for measurements, plan
digests, key generation and flits (R37, R90, R91, R96). Rotations and round constants are computed from their definitions. -/

namespace Sys2Proof.Machine

/-- A state of 1,600 bits, one row of five lanes for each y. -/
abbrev Sheet := List (List (BitVec 64))

/-- The lane in column x of row y, both modulo 5. -/
def Sheet.lane (a : Sheet) (x y : Nat) : BitVec 64 := (a.getD (y % 5) []).getD (x % 5) 0

/-- The state whose lanes a function gives. -/
def sheetOf (f : Nat → Nat → BitVec 64) : Sheet := [0, 1, 2, 3, 4].map fun y => [0, 1, 2, 3, 4].map fun x => f x y

/-- Parity of each column. -/
def Sheet.columns (a : Sheet) : List (BitVec 64) :=
  a.foldl (fun c row => c.zipWith (· ^^^ ·) row) [0, 0, 0, 0, 0]

/-- The walk of the ρ step: from column 1 of row 0 it goes to (y, 2x + 3y), and its t-th place turns by a triangular number. -/
def turns : Nat → Nat → Nat → Nat → List ((Nat × Nat) × Nat)
  | 0, _, _, _ => []
  | n + 1, t, x, y => ((x, y), (t + 1) * (t + 2) / 2 % 64) :: turns n (t + 1) y ((2 * x + 3 * y) % 5)

def turnTable : List ((Nat × Nat) × Nat) := turns 24 0 1 0

def turnOf (x y : Nat) : Nat := ((turnTable.find? fun e => e.1 == (x % 5, y % 5)).map (·.2)).getD 0

/-- The turns by column and row of where a lane goes, so that a round looks none up. -/
def turnSheet : List (List Nat) := [0, 1, 2, 3, 4].map fun y => [0, 1, 2, 3, 4].map fun x => turnOf (x + 3 * y) x

/-- The feedback register of the round constants: x^8 + x^6 + x^5 + x^4 + 1. -/
def feedback (r : Nat) : Nat := if r < 128 then 2 * r else (2 * r - 256).xor 0x71

/-- Constants of the rounds to come, from the register as it stands: bit 2^j − 1 is the j-th output. -/
def constantsFrom : Nat → Nat → List (BitVec 64)
  | 0, _ => []
  | n + 1, r =>
    let go := [0, 1, 2, 3, 4, 5, 6].foldl (fun (k : BitVec 64 × Nat) j =>
      (if k.2 % 2 = 1 then k.1 ||| (1 <<< (2 ^ j - 1)) else k.1, feedback k.2)) (0, r)
    go.1 :: constantsFrom n go.2

def roundConstants : List (BitVec 64) := constantsFrom 24 1

/-- One round: θ, ρ and π, χ, ι. -/
def keccakRound (a : Sheet) (iota : BitVec 64) : Sheet :=
  let c := a.columns
  let spread := [4, 0, 1, 2, 3].zipWith (fun p n => c.getD p 0 ^^^ (c.getD n 0).rotateLeft 1) [1, 2, 3, 4, 0]
  let mixed : Sheet := a.map fun row => row.zipWith (· ^^^ ·) spread
  let moved := sheetOf fun x y => (mixed.lane (x + 3 * y) x).rotateLeft ((turnSheet.getD y []).getD x 0)
  let out := sheetOf fun x y => moved.lane x y ^^^ (moved.lane (x + 2) y &&& ~~~ moved.lane (x + 1) y)
  match out with
  | (l :: ls) :: rows => ((l ^^^ iota) :: ls) :: rows
  | other => other

def permute (a : Sheet) : Sheet := roundConstants.foldl keccakRound a

/-- The lane that eight bytes spell, the first lowest. -/
def laneOf : List Byte → BitVec 64
  | [] => 0
  | b :: bs => (laneOf bs <<< 8) ||| b.zeroExtend 64

/-- The bytes of a state in order. -/
def Sheet.bytes (a : Sheet) : List Byte :=
  a.flatMap fun row => row.flatMap fun l => [0, 1, 2, 3, 4, 5, 6, 7].map fun i => l.extractLsb' (8 * i) 8

/-- Takes one block into the state. -/
def soak (a : Sheet) (block : List Byte) : Sheet :=
  permute (sheetOf fun x y => a.lane x y ^^^ laneOf ((block.drop (8 * x + 40 * y)).take 8))

def soakAll : Nat → Nat → Sheet → List Byte → Sheet
  | 0, _, a, _ => a
  | n + 1, rate, a, bs => soakAll n rate (soak a (bs.take rate)) (bs.drop rate)

/-- The padding that fills the last block: the domain's first bits, zeros, the last bit. -/
def padding (rate : Nat) (domain : Byte) (len : Nat) : List Byte :=
  match rate - len % rate with
  | 0 | 1 => [domain ||| 0x80]
  | k + 2 => domain :: (List.replicate k 0 ++ [0x80])

/-- At least `n` blocks of output. -/
def wring : Nat → Nat → Sheet → List Byte
  | 0, _, _ => []
  | n + 1, rate, a => a.bytes.take rate ++ wring n rate (permute a)

/-- `n` bytes of the sponge of a rate and a domain over a message. -/
def sponge (rate : Nat) (domain : Byte) (n : Nat) (bs : List Byte) : List Byte :=
  let m := bs ++ padding rate domain bs.length
  (wring (n / rate + 1) rate (soakAll (m.length / rate) rate (sheetOf fun _ _ => 0) m)).take n

/-- SHA3-512: 64 bytes. -/
def sha3 (bs : List Byte) : List Byte := sponge 72 0x06 64 bs

def shake128 (n : Nat) (bs : List Byte) : List Byte := sponge 168 0x1F n bs
def shake256 (n : Nat) (bs : List Byte) : List Byte := sponge 136 0x1F n bs

/-- CRC-32C: reflected polynomial 0x82F63B78, initial value and final XOR all ones. -/
def crcBit (c : BitVec 32) : BitVec 32 := if c.getLsbD 0 then (c >>> 1) ^^^ 0x82F63B78 else c >>> 1

def crcByte (c : BitVec 32) (b : Byte) : BitVec 32 := Nat.repeat crcBit 8 (c ^^^ b.zeroExtend 32)

def crc32c (bs : List Byte) : BitVec 32 := ~~~ (bs.foldl crcByte 0xFFFFFFFF)

end Sys2Proof.Machine
end

