-- ==== Sys2Proof/Machine/Net.lean ====
section
/-! DEFINITION. The network between the dies: edges (R13), routes (R44, R45, R48, R49), flits and slots in bytes (Tables 2-1,
2-2, 2-5), queues with credits and replay buffers (R42, R46), and posting a message toward its site (R38, R122). -/

namespace Sys2Proof.Machine

/-! ## Edges and routes -/

/-- Grid site that port `k` of an E-die faces (Table 1-1). -/
def facing (edie k : Nat) : Nat :=
  match edie with
  | 64 => k
  | 65 => 8 * k + 7
  | 66 => 56 + k
  | _ => 8 * k

/-- Where the link at an edge of a site leads: the neighbour and its edge (R13). Directions are 0 N, 1 E, 2 S, 3 W. -/
def neighbour (site edge : Nat) : Nat × Nat :=
  let x := site % 8
  let y := site / 8
  if site ≥ 64 then (facing site (edge % 8), site - 64)
  else
    match edge with
    | 0 => if y > 0 then (site - 8, 2) else (64, x)
    | 1 => if x < 7 then (site + 1, 3) else (65, y)
    | 2 => if y < 7 then (site + 8, 0) else (66, x)
    | _ => if x > 0 then (site - 1, 1) else (67, y)

/-- Port of an E-die at which a flit from it to another E-die enters the grid (R44). -/
def cornerPort (src dst : Nat) : Nat :=
  match src, dst with
  | 64, 65 => 7
  | 64, _ => 0
  | 65, 66 => 7
  | 65, _ => 0
  | 66, 65 => 7
  | 66, _ => 0
  | _, 66 => 7
  | _, _ => 0

/-- The edge by which a site sends a flit in dimension order (R44). -/
def dorEdge (site dst : Nat) : Nat :=
  if site ≥ 64 then
    if dst ≥ 64 then cornerPort site dst
    else if site = 64 ∨ site = 66 then dst % 8 else dst / 8
  else if dst ≥ 64 then dst - 64
  else if site % 8 < dst % 8 then 1
  else if site % 8 > dst % 8 then 3
  else if site / 8 < dst / 8 then 2
  else 0

/-- The edge a flit leaves by and its ROUTE field after it (R45). DESIGN CHOICE (notes/assumptions/39.md): a planned route begins at the
first grid die, so an E-die that forms a flit with HOPS of 1 or more sends it by the port of dimension order and leaves ROUTE. -/
def nextEdge (site dst : Nat) (route : BitVec 24) : Nat × BitVec 24 :=
  let r := route.toNat
  if r % 16 ≥ 1 ∧ site < 64 then (bits r 5 4, BitVec.ofNat 24 (r % 16 - 1 + r / 64 * 16))
  else (dorEdge site dst, route)

/-- The links a flit crosses from a site: site and edge of each, for at most `n` hops. -/
def pathOf : Nat → Nat → Nat → BitVec 24 → List (Nat × Nat)
  | 0, _, _, _ => []
  | n + 1, site, dst, route =>
    if site = dst then []
    else
      let (e, route') := nextEdge site dst route
      (site, e) :: pathOf n (neighbour site e).1 dst route'

def State.link (s : State) (site e : Nat) : Link := mapGet {} (s.die site).links e
def State.modLink (s : State) (site e : Nat) (f : Link → Link) : State :=
  s.modDie site fun d => { d with links := mapSet d.links e (f (mapGet {} d.links e)) }

def linkDown (s : State) (l : Nat × Nat) : Bool := (s.link l.1 l.2).state == 0
def linkBusy (s : State) (l : Nat × Nat) : Bool := (s.link l.1 l.2).state != 2

/-- The plan's route and alternate of a pair of sites. -/
def planRoute (s : State) (src dst : Nat) : Option (BitVec 24 × Option (BitVec 24)) :=
  match s.fw.plan with
  | none => none
  | some p => (p.routes.find? (fun r => r.1 == src && r.2.1 == dst)).map (fun r => r.2.2)

/-- Routes a message of VC2 or VC3 may take: the primary, then the alternate. -/
def routesOf (s : State) (src dst : Nat) : BitVec 24 × Option (BitVec 24) := (planRoute s src dst).getD (0, none)

/-- The route a die sends by (R48, R49): VC2 and VC3 take the plan's route, or the alternate while a link of the route
retrains or is DOWN; VC0 and VC1 follow dimension order, and once a plan has been accepted since a link went DOWN they go
around it as the plan's alternates do. -/
def chooseRoute (s : State) (src dst vc : Nat) : BitVec 24 :=
  let (r, alt) := routesOf s src dst
  if vc ≥ 2 then
    match alt with
    | some a =>
      let worse (p : State → Nat × Nat → Bool) : Bool := (pathOf 20 src dst r).any (p s) && !(pathOf 20 src dst a).any (p s)
      if worse linkBusy || worse linkDown then a else r
    | none => r
  else if (pathOf 20 src dst 0).any (fun l => linkDown s l && !s.fw.newDown.contains l) then
    match [some r, alt].findSome? (fun x => match x with
      | some a => if (pathOf 20 src dst a).any (linkDown s) then none else some a
      | none => none) with
    | some a => a
    | none => 0
  else 0

/-- No path: a link of the route between two sites is DOWN (R49). -/
def pathDown (s : State) (src dst : Nat) : Bool :=
  src < 68 && dst < 68 && (pathOf 20 src dst (chooseRoute s src dst 0)).any (linkDown s)

/-- The same for a bulk transfer, which may take the plan's alternate (R48, R49). -/
def bulkDown (s : State) (src dst : Nat) : Bool :=
  src < 68 && dst < 68 && (pathOf 20 src dst (chooseRoute s src dst 2)).any (linkDown s)

/-- A link of the way that a die sends VC0 and VC1 by retrains: their traffic waits for it (R48). -/
def pathRetrains (s : State) (src dst : Nat) : Bool :=
  src < 68 && dst < 68 && (pathOf 20 src dst (chooseRoute s src dst 0)).any fun l => (s.link l.1 l.2).state == 3

/-- A region in which a die has tripped (R24, R107). -/
def tripped (s : State) (site : Nat) : Bool :=
  s.dies.any fun d => d.2.thTrip && if site < 64 then d.1 < 64 && regionOf d.1 == regionOf site else d.1 == site

/-- A die on the way of VC0 and VC1 between two sites, the last included, has stopped its clocks (R24). -/
def pathTripped (s : State) (src dst : Nat) : Bool :=
  s.dies.any (fun d => d.2.thTrip) && src < 68 && dst < 68 &&
    (pathOf 20 src dst (chooseRoute s src dst 0)).any fun l => tripped s (neighbour l.1 l.2).1

/-- Nothing gets from one site to another, or back, for now: a link of the way retrains (R48), or a die of it has stopped (R24). -/
def wayHeld (s : State) (src dst : Nat) : Bool :=
  tripped s dst || (src != dst && (pathRetrains s src dst || pathRetrains s dst src || pathTripped s src dst || pathTripped s dst src))

/-- An access from a site cannot reach the home of an address, or its answer the site, for now. -/
def pathHeld (s : State) (src pa : Nat) : Bool := wayHeld s src (homeSite pa)

/-- A flit between two dies, counted at each link it crosses (R52). -/
def countPath (s : State) (src dst : Nat) : State :=
  if src = dst ∨ src ≥ 68 ∨ dst ≥ 68 then s
  else (pathOf 20 src dst (chooseRoute s src dst 0)).foldl (fun (s : State) l =>
    let o := neighbour l.1 l.2
    (s.modLink l.1 l.2 fun k => { k with txflit := k.txflit + 1 }).modLink o.1 o.2 fun k => { k with rxflit := k.rxflit + 1 }) s

/-- The request and the answer of an access between a site and a home (notes/assumptions/20.md). -/
def countAccess (s : State) (src pa : Nat) : State := countPath (countPath s src (homeSite pa)) (homeSite pa) src

/-! ## Slots, lines and flits in bytes -/

/-- A request slot (Table 2-2). -/
def slotBytes (m : Slot) : List Byte :=
  leBytes 6 m.addr.toNat ++ [m.op, BitVec.ofNat 8 m.len] ++ leBytes 2 m.tag.toNat ++ leBytes 2 m.core.toNat ++
    leBytes 8 m.nmask.toNat ++ leBytes 8 m.arg.toNat ++ slice m.payload 0 32

def slotOf (src dst : Nat) (b : List Byte) : Slot :=
  { src := src, dst := dst, addr := BitVec.ofNat 48 (field b 0 6), op := BitVec.ofNat 8 (field b 6 1), len := field b 7 1,
    tag := BitVec.ofNat 16 (field b 8 2), core := BitVec.ofNat 10 (field b 10 2), nmask := BitVec.ofNat 64 (field b 12 8),
    arg := BitVec.ofNat 64 (field b 20 8), payload := slice b 28 32 }

/-- The payload of a line flit (Table 2-5). -/
def lineBytes (l : LineMsg) : List Byte :=
  leBytes 6 l.addr.toNat ++ [l.lop, l.status] ++ leBytes 2 l.tag.toNat ++ leBytes 2 l.core.toNat ++
    [BitVec.ofNat 8 l.ctag.toNat] ++ leBytes 6 l.ltime.toNat ++ List.replicate 13 0 ++ slice l.line 0 128 ++
    List.replicate 80 0

def lineOfBytes (src dst : Nat) (b : List Byte) : LineMsg :=
  { src := src, dst := dst, addr := BitVec.ofNat 48 (field b 0 6), lop := BitVec.ofNat 8 (field b 6 1),
    status := BitVec.ofNat 8 (field b 7 1), tag := BitVec.ofNat 16 (field b 8 2), core := BitVec.ofNat 10 (field b 10 2),
    ctag := BitVec.ofNat 2 (field b 12 1), ltime := BitVec.ofNat 48 (field b 13 6), line := slice b 32 128 }

/-- A flit with its hop fields zero (Table 2-1). -/
def mkFlit (kind vc nslot src dst : Nat) (route : BitVec 24) (bxid : Nat) (payload : List Byte) : List Byte :=
  [BitVec.ofNat 8 (kind + 4 * vc + 16 * nslot), BitVec.ofNat 8 src, BitVec.ofNat 8 dst] ++ leBytes 3 route.toNat ++
    [BitVec.ofNat 8 bxid] ++ List.replicate 9 0 ++ slice payload 0 240

def flitKind (b : List Byte) : Nat := field b 0 1 % 4
def flitVc (b : List Byte) : Nat := field b 0 1 / 4 % 4
def flitSlots (b : List Byte) : Nat := field b 0 1 / 16 % 8
def flitSrc (b : List Byte) : Nat := field b 1 1 % 128
def flitDst (b : List Byte) : Nat := field b 2 1 % 128
def flitRoute (b : List Byte) : BitVec 24 := BitVec.ofNat 24 (field b 3 3)
def flitBxid (b : List Byte) : BitVec 8 := BitVec.ofNat 8 (field b 6 1)
def flitSeq (b : List Byte) : BitVec 12 := BitVec.ofNat 12 (field b 7 3)
def flitAck (b : List Byte) : BitVec 12 := BitVec.ofNat 12 (field b 7 3 / 4096)
def flitNull (b : List Byte) : Bool := (b.getD 10 0).getLsbD 2
def flitNak (b : List Byte) : Bool := (b.getD 10 0).getLsbD 3

/-- CRC of a flit: bytes 0 to 11 and 16 to 255. -/
def flitCrc (b : List Byte) : List Byte := leBytes 4 (crc32c (slice b 0 12 ++ slice b 16 240)).toNat

/-- Writes the hop fields of a flit (Table 2-1). -/
def withHop (b : List Byte) (seq ack : BitVec 12) (crvc : Nat) (null nak : Bool) (crcnt : Nat) : List Byte :=
  let b := patch b 7 (leBytes 3 (seq.toNat + 4096 * ack.toNat) ++
    [BitVec.ofNat 8 (crvc + 4 * b2n null + 8 * b2n nak), BitVec.ofNat 8 crcnt])
  patch b 12 (flitCrc b)

/-- A null flit (R37). -/
def nullFlit (src dst : Nat) : List Byte := mkFlit 0 0 0 src dst 0 0 []

/-! ## Sending -/

/-- The virtual channel whose credits the next flit returns: the next in rotation with any owed (R42). -/
def creditDue (l : Link) : Nat :=
  (((List.range 4).map fun i => (l.crNext + i) % 4).find? (fun v => l.owed.getD v 0 > 0)).getD l.crNext

/-- A port of an E-die, as a link number (R57). -/
def isPort (edge : Nat) : Bool := edge ≥ 8

/-- Bytes of a 272-byte fabric flit (Table 3-1) from an inner flit, the port's numbers in its header. -/
def withFabric (dmod smod : BitVec 12) (port : Nat) (inner : List Byte) (seq ack : BitVec 12) (null nak : Bool) (crvc crcnt : Nat) :
    List Byte :=
  let h := leBytes 2 dmod.toNat ++ leBytes 2 smod.toNat ++ [BitVec.ofNat 8 port] ++ leBytes 3 (seq.toNat + 4096 * ack.toNat) ++
    [BitVec.ofNat 8 (b2n null + 2 * b2n nak + 4 * crvc), BitVec.ofNat 8 crcnt, 0, 0]
  h ++ leBytes 4 (crc32c (h ++ inner)).toNat ++ inner

/-- A queued port flit is its inner flit behind two bytes of DMOD. -/
def portPayload (b : List Byte) : List Byte := b.drop 2

/-- The module at the far end of a port is outside; what leaves by a port stands on the wires at site 68. -/
def outside : Nat := 68

/-- An E-die's proxy table is full, so its ports hold back what VC0 and VC2 are owed (R60). -/
def proxiesFull (s : State) (site : Nat) : Bool := (s.die site).proxies.length ≥ 4096

/-- The virtual channel and the count of the credits that the next flit of a link returns. -/
def creditOut (s : State) (site e : Nat) : Nat × Nat :=
  let l := s.link site e
  let l := if isPort e && proxiesFull s site then { l with owed := (l.owed.set 0 0).set 2 0 } else l
  let v := creditDue l
  (v, l.owed.getD v 0)

/-- A flit has returned `cr` credits of a virtual channel; what is held back stays owed. -/
def Link.returned (l : Link) (cv cr : Nat) : Link := { l with owed := l.owed.set cv (l.owed.getD cv 0 - cr), crNext := (cv + 1) % 4 }

/-- An input buffer is free again: its credit is owed (R42). -/
def freeInput (s : State) (site e vc : Nat) : State :=
  s.modLink site e fun l => { l with owed := l.owed.set vc (l.owed.getD vc 0 + 1) }

/-- A flit has left its die's queue. -/
def Queued.leave (s : State) (site : Nat) (f : Queued) : State :=
  match f.inp with
  | some e => freeInput s site e f.vc
  | none => s

/-- Sends one queued flit of a link that is UP, numbering it and keeping it for replay (R46, R56). -/
def transmit (s : State) (site e vc : Nat) (b : List Byte) : State :=
  let l := s.link site e
  let (cv, cr) := creditOut s site e
  let ack := l.expect - 1
  let wire := if isPort e then
      withFabric (BitVec.ofNat 12 (field b 0 2)) s.fw.modid ((site - 64) * 18 + e - 8) (portPayload b) l.seq ack false false cv cr
    else withHop b l.seq ack cv false false cr
  let onto := if isPort e then (outside, (site - 64) * 18 + e - 8) else neighbour site e
  let s := s.modLink site e fun l => { l.returned cv cr with
    seq := l.seq + 1, buffer := l.buffer ++ [(l.seq, vc, b ++ [BitVec.ofNat 8 cv, BitVec.ofNat 8 cr])], txflit := l.txflit + 1,
    credits := l.credits.set vc (l.credits.getD vc 0 - 1) }
  { s with wires := s.wires ++ [⟨onto.1, onto.2, wire⟩] }

/-- Flits the replay buffer holds (R46, R56). -/
def replayRoom (e : Nat) : Nat := if isPort e then 512 else 256

/-- Sends what a link may send: in order within each virtual channel, while credits and the replay buffer allow (R42, R43). -/
def pumpFrom (site e : Nat) (blocked : List Nat) (kept : List Queued) : List Queued → State → State
  | [], s => s.modLink site e fun l => { l with queue := kept }
  | f :: q, s =>
    let l := s.link site e
    if blocked.contains f.vc || l.credits.getD f.vc 0 == 0 || l.buffer.length ≥ replayRoom e then
      pumpFrom site e (f.vc :: blocked) (kept ++ [f]) q s
    else pumpFrom site e blocked kept q (f.leave (transmit s site e f.vc f.bytes) site)

def pump (s : State) (site e : Nat) : State :=
  let l := s.link site e
  if l.state == 2 then pumpFrom site e [] [] l.queue s else s

/-- The row that a slot which has arrived is executed as (Table 2-3, Table 6-1); none for an unlisted operation. -/
def rowOf (m : Slot) : Option Instr :=
  match m.op.toNat with
  | 0x00 => some .rdline
  | 0x01 => some .rdpart
  | 0x02 => some .wrmask
  | 0x03 => some .tagst
  | 0x04 => some .tagld
  | 0x10 => some .slotAmoadd
  | 0x11 => some .slotAmomin
  | 0x12 => some .slotAmomax
  | 0x13 => some .slotAmoand
  | 0x14 => some .slotAmoor
  | 0x15 => some .slotAmoxor
  | 0x16 => some .slotAmoswp
  | 0x17 => some .slotAmocas
  | 0x18 => some .slotAmofadd
  | 0x19 => some .slotVamoadd
  | 0x20 => some .slotFadd
  | 0x21 => some .slotFset
  | 0x22 => some .slotFarm
  | 0x28 =>
    match m.arg.toNat % 16 with
    | 0 => some .cellopTouch
    | 1 => some .cellopCstat
    | 2 => some .cellopDefer
    | 3 => some .cellopResolve
    | 4 => some .cellopPoison
    | 5 => some .cellopWaitc
    | 6 => some .cellopHeadQuery
    | _ => none
  | 0x30 => some .bopen
  | 0x40 => some .rdata
  | 0x41 => some .done
  | 0x42 => some .err
  | 0x43 => some .pend
  | 0x60 => some .hblk
  | 0x61 => some .cack
  | 0x62 => some .hcancel
  | 0x63 => some .cmark
  | 0x64 => some (if m.dst == 64 then .cxackSequencer else .cxack)
  | 0x65 => some .srcdone
  | 0x66 => some .cnote
  | 0x67 => some .hfail
  | 0x68 => some .hrej
  | _ => none

/-- The virtual channel of an operation (Tables 2-3 and 6-1). -/
def vcOf (m : Slot) : Nat :=
  let op := m.op.toNat
  if op < 0x30 then 0
  else if op = 0x30 ∨ op = 0x60 ∨ op = 0x63 then 2
  else if op < 0x50 then 1
  else 3

/-- A slot that its site executes next. -/
def arriveMsg (s : State) (row : Instr) (m : Slot) (data : List Byte) (line : Option LineMsg) : State :=
  { s with msgs := s.msgs ++ [{ slot := m, row := row, data := data, line := line }] }

/-- A response to a slot: RDATA, DONE, ERR or PEND with its TAG and CORE (R39). -/
def responseSlot (m : Slot) (op arg : Nat) (payload : List Byte) : Slot :=
  { noSlot with src := m.dst, dst := m.src, addr := m.addr, op := BitVec.ofNat 8 op, len := payload.length, tag := m.tag,
                core := m.core, arg := BitVec.ofNat 64 arg, payload := payload }

/-- A VAMOADD or a cell operation may have more than 32 bytes of operand. -/
def bigSlot (m : Slot) : Bool := m.op == 0x19 || m.op == 0x28

/-- Bytes that each slot of an operation carries of it: a VAMOADD's slots bring their NMASK with them. -/
def slotUnit (m : Slot) : Nat := if m.op == 0x19 then 40 else 32

/-- What one slot carries of an operation. -/
def slotData (m : Slot) : List Byte := slice m.payload 0 32 ++ if m.op == 0x19 then leBytes 8 m.nmask.toNat else []

/-- Slots that `n` bytes of operand travel in. -/
def slotCount (n : Nat) : Nat := max 1 ((n + 31) / 32)

/-- The slots that an operation travels in: 32 bytes of a longer operand each, in one flit (notes/assumptions/17.md). -/
def slotParts (m : Slot) (data : List Byte) : List Slot :=
  let u := slotUnit m
  if !bigSlot m || data.length ≤ u then [m]
  else (List.range (min 4 ((data.length + u - 1) / u))).map fun i =>
    { m with addr := m.addr + BitVec.ofNat 48 (32 * i), len := min 32 (m.len - 32 * i), payload := slice data (u * i) 32,
             nmask := if m.op == 0x19 then BitVec.ofNat 64 (field data (u * i + 32) 8) else m.nmask }

/-- A slot brings more of the operand of the one before it, of the same line. -/
def continues (m n : Slot) : Bool :=
  bigSlot m && n.op == m.op && n.tag == m.tag && n.core == m.core && n.arg == m.arg &&
    n.addr == m.addr + BitVec.ofNat 48 m.len && lineOf n.addr.toNat == lineOf m.addr.toNat && m.len % 32 == 0 && m.len != 0

/-- Operations of a flit with their operands, from its slots in order. -/
def joinSlots : List Slot → List (Slot × List Byte)
  | [] => []
  | m :: ms =>
    match joinSlots ms with
    | [] => [(m, slotData m)]
    | (n, d) :: r => if continues m n then ({ m with len := m.len + n.len }, slotData m ++ d) :: r else (m, slotData m) :: (n, d) :: r

/-- The slots of a request flit (R38). -/
def rawSlots (b : List Byte) : List Slot :=
  (List.range (min 4 (flitSlots b))).map fun i => slotOf (flitSrc b) (flitDst b) (slice b (16 + 60 * i) 60)

/-- Operations of a request flit. -/
def flitSlotList (b : List Byte) : List (Slot × List Byte) := joinSlots (rawSlots b)

/-- An error response that tells its source which hand-off message it answers: OP, ARG and PAYLOAD stand in LEN, NMASK and
PAYLOAD (notes/assumptions/24.md). -/
def errBack (m : Slot) (code : Nat) : Slot :=
  let e := responseSlot m 0x42 code []
  if m.op == 0x60 || m.op == 0x63 then { e with len := m.op.toNat, nmask := m.arg, payload := m.payload } else e

/-- The traffic of a link or port that is DOWN (R49): the die answers each VC0 slot with ERR 0x04 itself, a bulk transfer
gets ERR 0x04 at its source, whichever of its flits is met, a cancel marker goes back to take the other route (R127), other messages
and responses are discarded. -/
def discardFlit (s : State) (b : List Byte) : State :=
  let back (s : State) (m : Slot) : State := arriveMsg s .err (errBack m 4) [] none
  match flitKind b, flitVc b with
  | 0, 0 | 0, 2 => (rawSlots b).foldl back s
  | 1, 0 =>
    let l := lineOfBytes (flitSrc b) (flitDst b) (slice b 16 240)
    back s { noSlot with src := l.src, dst := l.dst, addr := l.addr, tag := l.tag, core := l.core }
  | 2, _ => arriveMsg s .err { noSlot with src := flitDst b, dst := flitSrc b, op := 0x42, arg := 4, len := 0x30,
                                           nmask := (flitBxid b).zeroExtend 64 } [] none
  | _, _ => s

/-- The 256 bytes of a flit as a link's queue holds it: at a port behind its DMOD. -/
def innerOf (e : Nat) (b : List Byte) : List Byte := if isPort e then portPayload b else b

/-- Queues a flit at a link, or treats it as traffic of a DOWN link. -/
def enqueue (s : State) (site e vc : Nat) (b : List Byte) (inp : Option Nat := none) : State :=
  let f : Queued := ⟨vc, b, inp⟩
  if (s.link site e).state == 0 then f.leave (discardFlit s (innerOf e b)) site
  else pump (s.modLink site e fun l => { l with queue := l.queue ++ [f] }) site e

/-- Sends a flit formed at a site, by its first hop (R44, R45). -/
def inject (s : State) (kind vc nslot src dst : Nat) (route : BitVec 24) (bxid : Nat) (payload : List Byte) : State :=
  let (e, route') := nextEdge src dst route
  enqueue s src e vc (mkFlit kind vc nslot src dst route' bxid payload)

/-- Posts a slot toward its site; at its own site it has arrived (R38, R122). -/
def postOn (s : State) (m : Slot) (data : List Byte) (route : BitVec 24) : State :=
  if m.src = m.dst ∨ m.src ≥ 68 then
    match rowOf m with
    | some r => arriveMsg s r m data none
    | none => s
  else
    let ps := slotParts m data
    inject s 0 (vcOf m) ps.length m.src m.dst route 0 (ps.flatMap slotBytes)

def postSlot (s : State) (m : Slot) (data : List Byte := []) : State :=
  postOn s m data (chooseRoute s m.src m.dst (vcOf m))

/-- Sends what the manual gives no slot for, a tier-miss event or a predecessor decrement, to its site; over a DOWN link it ends as its
virtual channel's traffic does (notes/assumptions/20.md). -/
def postEvent (s : State) (row : Instr) (m : Slot) : State :=
  if !pathDown s m.src m.dst then arriveMsg s row m [] none
  else if row == .predDecrement then arriveMsg s .err (responseSlot m 0x42 4 []) [] none
  else s

/-- The port that a window's traffic takes: PORT, or ALTPORT while PORT retrains (Table 3-2). -/
def windowPort (s : State) (w : Fwin) : Nat :=
  let p := w.port.toNat
  if w.altv && (s.link (64 + p / 18) (8 + p % 18)).state == 3 then w.altport.toNat else p

/-- No port of a window in use is up (R66). -/
def windowLost (s : State) (w : Fwin) : Bool :=
  let down (p : BitVec 7) : Bool := linkDown s (64 + p.toNat / 18, 8 + p.toNat % 18)
  w.valid && down w.port && (!w.altv || down w.altport)

/-- E-die that carries the traffic of the window of an address. -/
def windowSite (s : State) (pa : Nat) : Nat :=
  match spaceOf pa with
  | .remote w _ => 64 + windowPort s (mapGet {} s.fw.fwin w) / 18
  | _ => 64

/-- Posts a line flit (R40). -/
def postLine (s : State) (l : LineMsg) : State :=
  let vc := if l.lop == 0 then 1 else 0
  if l.src = l.dst then
    arriveMsg s (match l.lop.toNat with
      | 0 => .ldata
      | 1 => .lwrite
      | _ => .lwritev) { noSlot with src := l.src, dst := l.dst, addr := l.addr, tag := l.tag, core := l.core } [] (some l)
  else inject s 1 vc 0 l.src l.dst (chooseRoute s l.src l.dst vc) 0 (lineBytes l)

/-- The bulk flits of a transfer, all on one route (R41). -/
def postBulk (src dst bxid : Nat) (route : BitVec 24) : Nat → List Byte → State → State
  | 0, _, s => s
  | n + 1, bs, s =>
    let s := if src = dst then
        arriveMsg s .bulkFlit { noSlot with src := src, dst := dst, arg := BitVec.ofNat 64 bxid } (slice bs 0 240) none
      else inject s 2 2 0 src dst route bxid (slice bs 0 240)
    postBulk src dst bxid route n (bs.drop 240) s

/-- Flits that `n` bytes take (R41). -/
def bulkFlits (n : Nat) : Nat := (n + 239) / 240

end Sys2Proof.Machine
end

