-- ==== Sys2Proof/Machine/Cache.lean ====
section
/-! DEFINITION. Caches of data (R164 to R167, R171 to R173, R204): the L1 of a core, its stash, and the near cache of a die; filling
them, storing into them, and giving their dirty bytes back to the homes. Set numbers, and what leaves a near cache, are choices of
the model (notes/assumptions/38.md). -/

namespace Sys2Proof.Machine

/-- The two nibble selections of byte `i`; an empty mask selects all. -/
def nibSel (mask : List Bool) (i : Nat) : Bool × Bool :=
  if mask.isEmpty then (true, true) else (mask.getD (2 * i) false, mask.getD (2 * i + 1) false)

/-- A selection of whole bytes only. -/
def wholeBytes (mask : List Bool) (o len : Nat) : Bool := (List.range len).all fun i => let r := nibSel mask (o + i); r.1 == r.2

/-! ## Lines -/

/-- Class of an access: the one that COHSET gave its frame last, else that of its translation (R205, R214). -/
def State.classOf (s : State) (p : Piece) : BitVec 2 := (mapFind s.classes (p.pa / 0x10000)).getD p.cls

/-- A cache may hold the piece's line (Table 8-1, Table 8-8): DRAM or slow tier, not NC, its class that of its frame (R214); and what lies
behind a remote window, but for the scratchpads there, whose words have tags (R61, notes/assumptions/38.md). -/
def mayHold (s : State) (p : Piece) : Bool :=
  !p.nc && s.classOf p == p.cls && match spaceOf p.pa with
    | .dram _ | .slow _ => true
    | .remote _ off => !isPad off
    | _ => false

/-- A line lies behind a remote window: only the L1 of a core that has read it may hold it (R61). -/
def isFar (a : Nat) : Bool :=
  match spaceOf a with
  | .remote _ _ => true
  | _ => false

/-- A copy is a hit (R171, R206): a private line always, a software-coherent one while its stamp is the generation, a
hardware-coherent one while the core's time does not exceed its lease. -/
def Line.fits (l : Line) (gen : BitVec 16) (tick : BitVec 48) : Bool :=
  match l.cls.toNat with
  | 0 => true
  | 1 => l.stamp == gen
  | _ => tick.toNat ≤ l.lease.toNat

/-- The bytes of a line with those that an older copy of it has dirty (R171). -/
def keepDirty (old : Line) (fresh : List Byte) : List Byte :=
  (List.range 128).map fun i => if old.dirty.getLsbD i then old.data.getD i 0 else fresh.getD i 0

/-- Writes the dirty bytes of a line at its home. -/
def writeDirty (s : State) (l : Line) : State :=
  if l.dirty == 0 then s
  else
    let s := wake s l.addr
    let s := (List.range 128).foldl (fun (s : State) i =>
      if l.dirty.getLsbD i then writePhys s (l.addr + i) (l.data.getD i 0) else s) s
    s.cover l.addr l.dirty

/-! ## The near cache of a die (R172) -/

def nearFind (s : State) (site a : Nat) : Option Line := (s.die site).near.find? (·.addr == a)

def dropNear (s : State) (site a : Nat) : State :=
  if (s.die site).near.isEmpty then s else s.modDie site fun d => { d with near := d.near.filter (·.addr != a) }

/-- Lines that a die's L2 holds: 64 MiB on a P-die, 32 MiB on a D-stack (Table 0-1). -/
def nearSize (site : Nat) : Nat := if isP site then 0x80000 else 0x40000

/-- Puts a line first in a die's near cache; the oldest leaves when there is no room for it, its dirty bytes written back. -/
def putNear (s : State) (site : Nat) (l : Line) : State :=
  let near := l :: (s.die site).near.filter (·.addr != l.addr)
  let out := near.drop (nearSize site)
  out.foldl writeDirty (s.modDie site fun d => { d with near := near.take (nearSize site) })

/-- A line of another die's home in this module, which the near cache may keep. -/
def nearLine (site a : Nat) : Bool := homeSite a != site && !isFar a

/-- The near cache's copy, where it is still there (notes/assumptions/38.md). -/
def nearCopy (s : State) (site a : Nat) : Option Line :=
  match nearFind s site a with
  | none => none
  | some l => if l.data == readBytes s a 128 || Config.nearKeeps site s.cycle.toNat then some l else none

/-- A near copy is a hit by the rules of an L1 (R171, R172): of a hardware-coherent line while the core's time does not exceed the lease it
was granted, and the home has not been written since (notes/assumptions/38.md). -/
def nearFits (s : State) (site : Nat) (tick : BitVec 48) (cls : BitVec 2) (l : Line) : Bool :=
  l.cls == cls && l.fits (s.die site).nearGen tick && (cls != 2 || (mapGet {} s.times l.addr).wts.toNat ≤ l.lease.toNat)

/-- The near cache serves a line. -/
def nearHit (s : State) (site : Nat) (tick : BitVec 48) (a : Nat) (cls : BitVec 2) : Bool :=
  nearLine site a && match nearCopy s site a with
    | some l => nearFits s site tick cls l
    | none => false

/-- The lease that a copy of a line has for a reader at a time: no later than that time plus 15 (R206). -/
def grant (s : State) (a : Nat) (tick : BitVec 48) : BitVec 48 :=
  let e := (mapGet {} s.times a).lease
  if e.toNat < tick.toNat + 15 then e else tick + 15

/-- What a core's miss reads: the home's bytes, through the near cache for a line of another die. -/
def readThrough (s : State) (site : Nat) (tick : BitVec 48) (a : Nat) (cls : BitVec 2) : List Byte × State :=
  if !nearLine site a then (readBytes s a 128, s)
  else
    let gen := (s.die site).nearGen
    match nearCopy s site a with
    | some l =>
      if nearFits s site tick cls l then (l.data, s)
      else
        let bs := keepDirty l (readBytes s a 128)
        (bs, putNear s site { l with cls := cls, data := bs, stamp := gen, lease := grant s a tick })
    | none =>
      let s := match nearFind s site a with
        | some l => writeDirty s l
        | none => s
      let bs := readBytes s a 128
      (bs, putNear s site { addr := a, cls := cls, data := bs, stamp := gen, lease := grant s a tick })

/-- Gives a line's dirty bytes back: to its home with `far` or where the home is on the die, else to the die's near cache
(Table 10-2). -/
def giveBack (s : State) (site : Nat) (far : Bool) (l : Line) : State :=
  if l.dirty == 0 then s
  else if !far && nearLine site l.addr then
    let r := readThrough s site 0 l.addr l.cls
    let n := (nearFind r.2 site l.addr).getD { l with data := r.1, dirty := 0 }
    putNear r.2 site { n with data := keepDirty l n.data, dirty := n.dirty ||| l.dirty }
  else
    let s := writeDirty s l
    match nearFind s site l.addr with
    | some n => putNear s site { n with data := keepDirty l n.data, dirty := n.dirty &&& ~~~l.dirty }
    | none => s

/-! ## L1 and stash of a core -/

/-- Set of a line in the L1 (DESIGN CHOICE: the low line bits). -/
def l1Set (a : Nat) : Nat := a / 128 % 32

/-- Puts a line first in the L1; the set's fifth line leaves (R171). -/
def l1Put (s : State) (n : Nat) (l : Line) : State :=
  let c := s.core n
  let rest := c.l1.filter (·.addr != l.addr)
  let out := (rest.filter (fun x => l1Set x.addr == l1Set l.addr)).drop 3
  let s := s.setCore n { c with l1 := l :: rest.filter (fun x => !out.contains x) }
  out.foldl (fun s x => giveBack s (siteOf n) false x) s

/-- The map entry whose range holds an address, of a core (R166). -/
def stashOf (c : Core) (va : Word) : Option (Nat × StMap) :=
  if c.stashn = 0 then none else c.stmap.find? (fun e => e.2.valid && e.2.va == va.toNat / 2048)

/-- The line that a stash has for a piece. -/
def stashFind (c : Core) (p : Piece) : Option Line :=
  match stashOf c p.va with
  | some (e, m) =>
    let g := mapGet {} c.granules m.gran
    if g.entry = e then g.held.find? (·.addr == lineOf p.pa) else none
  | none => none

/-- A granule of a stash gives its dirty lines back to their homes and holds none (R165, R166). -/
def emptyGranule (s : State) (n g : Nat) : State :=
  let s := (mapGet {} (s.core n).granules g).held.foldl (fun s l => giveBack s (siteOf n) true l) s
  s.modCore n fun c => { c with granules := mapDel c.granules g }

/-- The granule of a piece's entry holds no other entry's lines (R166). -/
def stashBind (s : State) (n : Nat) (p : Piece) : State :=
  let c := s.core n
  match stashOf c p.va with
  | some (e, m) => if (mapGet { entry := e } c.granules m.gran).entry = e then s else emptyGranule s n m.gran
  | none => s

/-- Puts a line into the granule of its entry, and its bytes into the scratchpad (R166). -/
def stashPut (s : State) (n : Nat) (p : Piece) (l : Line) : State :=
  let s := stashBind s n p
  let c := s.core n
  match stashOf c p.va with
  | some (e, m) =>
    let held := (mapGet {} c.granules m.gran).held.filter (·.addr != l.addr)
    let s := s.setCore n { c with granules := mapSet c.granules m.gran { entry := e, held := l :: held } }
    writeBytes s (padAddr n ((c.stashb + m.gran) * 0x800 + p.va.toNat % 2048 / 128 * 128)) l.data
  | none => s

/-- The copy of a piece's line that its core has. -/
def copyFind (s : State) (n : Nat) (p : Piece) : Option Line :=
  if p.stash then stashFind (s.core n) p else (s.core n).l1.find? (·.addr == lineOf p.pa)

def copyPut (s : State) (n : Nat) (p : Piece) (l : Line) : State := if p.stash then stashPut s n p l else l1Put s n l

/-- The copy that serves a load or store of a core now (R166, R171). -/
def copyHit (s : State) (n : Nat) (p : Piece) : Option Line :=
  if !mayHold s p then none
  else (copyFind s n p).filter fun l => l.cls == p.cls && l.fits (s.core n).genl1 (s.core n).tick

/-- A store that a cache takes: whole bytes of a line that is written back (R171, R179), not of a DEFER page, nor of a pinned line
(R153). -/
def mayWrite (s : State) (mask : List Bool) (o : Nat) (p : Piece) : Bool :=
  mayHold s p && !isFar p.pa && p.cls != 2 && !p.defer && wholeBytes mask o p.len && !s.pinned p.pa

/-- The frame's owner record lets a copy serve a core: its home has nothing to claim or to refuse (R213). -/
def ownerLets (s : State) (n : Nat) (p : Piece) : Bool :=
  match mapGet none s.owners (p.pa / 0x10000) with
  | none => p.cls != 0
  | some o => o == n && p.cls == 0

/-- Its die's near cache serves a piece of a core. -/
def nearServes (s : State) (n : Nat) (p : Piece) : Bool := mayHold s p && nearHit s (siteOf n) (s.core n).tick (lineOf p.pa) p.cls

/-- A core's load that a near copy of a hardware-coherent line serves raises its time to the line's write time (R206). -/
def nearTime (s : State) (n : Nat) (p : Piece) : State :=
  let w := (mapGet {} s.times (lineOf p.pa)).wts
  if p.cls != 2 || (copyHit s n p).isSome || w.toNat ≤ (s.core n).tick.toNat then s else s.modCore n fun c => { c with tick := w }

/-- The core's caches, or its die's near cache, serve a piece without its home. -/
def servedHere (s : State) (who : Who) (act : Action) (mask : List Bool) (o : Nat) (p : Piece) : Bool :=
  match who, act with
  | .core n _, .load => ownerLets s n p && ((copyHit s n p).isSome || nearServes s n p)
  | .core n _, .store => ownerLets s n p && mayWrite s mask o p && ((copyHit s n p).isSome || nearServes s n p)
  | _, _ => false

/-- Every line that a core has: L1 and stash. -/
def linesHeld (c : Core) : List Line := c.l1 ++ c.granules.flatMap (·.2.held)

/-- What a core keeps of its lines. -/
def keepLines (c : Core) (f : Line → Option Line) : Core :=
  { c with l1 := c.l1.filterMap f, granules := c.granules.map fun g => (g.1, { g.2 with held := g.2.held.filterMap f }) }

/-- A line that a core has elsewhere than it looks for it leaves, its dirty bytes given back. -/
def dropOwn (s : State) (n a : Nat) : State :=
  let out := (linesHeld (s.core n)).filter (·.addr == a)
  if out.isEmpty then s
  else (out.foldl (fun s l => giveBack s (siteOf n) true l) s).modCore n fun c =>
    keepLines c fun l => if l.addr == a then none else some l

/-- The line that a core's load or store finds in its cache, filled from its home where it must be. A stale line keeps its dirty
bytes (R171). -/
def fillLine (s : State) (n : Nat) (p : Piece) : Line × State :=
  match copyHit s n p with
  | some l => (l, s)
  | none =>
    let a := lineOf p.pa
    let old := copyFind s n p
    let s := if old.isSome then s else dropOwn s n a
    let near := (nearFind s (siteOf n) a).filter fun _ => nearServes s n p
    let (bs, s) := readThrough s (siteOf n) (s.core n).tick a p.cls
    let l : Line := { addr := a, cls := p.cls, data := bs, stamp := (s.core n).genl1,
                      lease := ((near.map (·.lease)).getD (grant s a (s.core n).tick)) }
    match old with
    | some o => ({ l with data := keepDirty o bs, dirty := o.dirty }, s)
    | none => (l, s)

/-- A core's load of a piece through its cache. -/
def cacheLoad (s : State) (n : Nat) (p : Piece) : List Byte × State :=
  let (l, s) := fillLine s n p
  (slice l.data (p.pa % 128) p.len, copyPut s n p l)

/-- A core's store of the selected bytes of a piece into its cache. -/
def cacheStore (s : State) (n : Nat) (mask : List Bool) (o : Nat) (p : Piece) (data : List Byte) : State :=
  let (l, s) := fillLine s n p
  let at_ (i : Nat) : Bool := p.pa % 128 ≤ i && i < p.pa % 128 + p.len && (nibSel mask (o + i - p.pa % 128)).1
  let bits : Nat := (List.range 128).foldl (fun b i => if at_ i then b + 2 ^ i else b) 0
  copyPut s n p { l with
    data := (List.range 128).map fun i => if at_ i then data.getD (o + i - p.pa % 128) 0 else l.data.getD i 0,
    dirty := l.dirty ||| BitVec.ofNat 128 bits }

/-! ## Taking lines out, and cleaning them -/

/-- Writes a core's lines that `sel` picks, and its die's near copies of them, back to their homes and drops them (R173, R204). -/
def dropCopies (s : State) (n : Nat) (sel : Nat → Bool) : State :=
  let d := s.die (siteOf n)
  if (s.core n).l1.isEmpty && (s.core n).granules.isEmpty && d.near.isEmpty then s
  else
    let s := (d.near.filter (fun l => sel l.addr)).foldl writeDirty s
    let s := s.modDie (siteOf n) fun d => { d with near := d.near.filter fun l => !sel l.addr }
    let s := ((linesHeld (s.core n)).filter (fun l => sel l.addr)).foldl writeDirty s
    s.modCore n fun c => keepLines c fun l => if sel l.addr then none else some l

/-- Gives back a core's dirty lines that `sel` picks, which stay as clean ones. -/
def cleanLines (s : State) (n : Nat) (far : Bool) (sel : Nat → Bool) : State :=
  let out := (linesHeld (s.core n)).filter fun l => sel l.addr && l.dirty != 0
  if out.isEmpty then s
  else
    let s := out.foldl (fun s l => giveBack s (siteOf n) far l) s
    s.modCore n fun c => keepLines c fun l => some (if sel l.addr then { l with dirty := 0 } else l)

/-- Writes a die's dirty near lines to their homes (Table 10-2, module scope). -/
def cleanNear (s : State) (site : Nat) : State :=
  let out := (s.die site).near.filter (·.dirty != 0)
  if out.isEmpty then s
  else (out.foldl writeDirty s).modDie site fun d => { d with near := d.near.map fun l => { l with dirty := 0 } }

/-- A release by a core, of die scope (2) or module scope (3): what Table 10-2 writes back. -/
def releaseScope (s : State) (n scope : Nat) : State :=
  match scope with
  | 2 => cleanLines s n false fun _ => true
  | 3 => cleanNear (cleanLines s n true fun _ => true) (siteOf n)
  | _ => s

/-- A dirty line that a release writes back stands pinned (R153): the release waits. -/
def releasePinned (s : State) (n scope : Nat) : Bool :=
  let pinned (l : Line) : Bool := l.dirty != 0 && s.pinned l.addr
  (scope == 2 || scope == 3) &&
    ((linesHeld (s.core n)).any pinned || (scope == 3 && (s.die (siteOf n)).near.any pinned))

/-- The L1 generation goes on; at its wrap clean software-coherent lines leave first (R171). -/
def Core.nextGen (c : Core) : Core :=
  let c := if c.genl1 == 0xFFFF then keepLines c fun l => if l.cls == 1 && l.dirty == 0 then none else some l else c
  { c with genl1 := c.genl1 + 1 }

/-- The near cache's generation goes on in the same way (R172). -/
def Die.nextNear (d : Die) : Die :=
  let near := if d.nearGen == 0xFFFF then d.near.filter fun l => !(l.cls == 1 && l.dirty == 0) else d.near
  { d with near := near, nearGen := d.nearGen + 1 }

/-- An acquire of die scope by a core (R171, R210). What other modules have written counts as in the past (R63). -/
def acquire (s : State) (core : Nat) : State :=
  s.modCore core fun c => { c.nextGen with tick := if c.tick.toNat < s.farTime.toNat then s.farTime else c.tick }

/-- An acquire of module scope: the die's near-cache generation advances too (R172, R210). -/
def acquireModule (s : State) (core : Nat) : State := (acquire s core).modDie (siteOf core) Die.nextNear

/-- What a launched operation reads and writes leaves the caches of its core first, dirty bytes written back (R204). -/
def dropRanges (s : State) (n : Nat) (gs : List Seg) : State :=
  dropCopies s n fun l => gs.any fun g => g.pa < l + 128 && l < g.pa + g.len

/-- Every copy of the lines of some frames leaves every cache, its dirty bytes written back (R214). -/
def dropFrames (s : State) (frames : List Nat) : State :=
  let sel (a : Nat) : Bool := frames.contains (a / 0x10000)
  let s := s.cores.foldl (fun (s : State) c => dropCopies s c.1 sel) s
  s.dies.foldl (fun (s : State) d =>
    if d.2.near.any (fun l => sel l.addr) then
      ((d.2.near.filter (fun l => sel l.addr)).foldl writeDirty s).modDie d.1 fun d =>
        { d with near := d.near.filter fun l => !sel l.addr }
    else s) s

end Sys2Proof.Machine
end

