-- ==== Sys2Proof/Machine/Flags.lean ====
section
/-! DEFINITION. The sticky flags of Table 12-1 and the cause that TRAPF raises for them (R256). Which flags a result sets is
computed where the result is: `deliverFp`, `deliverFpInt`, `deliverInt` (Table 13-6), `addVal` and its companions (R285). -/

namespace Sys2Proof.Machine

/-- FLAGS bits of Table 12-1. -/
def fNV : BitVec 7 := 1
def fDZ : BitVec 7 := 2
def fOF : BitVec 7 := 4
def fUF : BitVec 7 := 8
def fNX : BitVec 7 := 16
def fSAT : BitVec 7 := 32
def fIOV : BitVec 7 := 64

/-- Flags that are set and enabled: TRAPF raises its trap when there is one (R256). -/
def enabledFlags (flags trapen : BitVec 7) : BitVec 7 := flags &&& trapen

end Sys2Proof.Machine
end

