-- ==== Sys2Proof/Machine/Num.lean ====
section
/-! DEFINITION. Exact values and the one rounding step of chapter 13: formats (Tables 13-1, 13-2), `roundTo` (R280), the
generator (R281), delivery with overflow and saturation (Table 13-6), and the correctly rounded functions (R286). -/

namespace Sys2Proof.Machine

/-- An operand or an exact result: a NaN, an infinity, or sign and magnitude `num / den`. -/
inductive Val where
  | nan
  | inf (neg : Bool)
  | fin (neg : Bool) (num den : Nat)
  deriving DecidableEq, Repr

/-- Exponent and significand widths and bias (Table 13-2). -/
structure Fmt where
  ebits : Nat
  mbits : Nat
  bias : Nat
  deriving DecidableEq, Repr

/-- The floating-point formats by type code. -/
def fmtOf (t : Nat) : Fmt :=
  match t with
  | 0 => ⟨8, 23, 127⟩
  | 1 => ⟨8, 7, 127⟩
  | 2 => ⟨5, 10, 15⟩
  | 3 => ⟨4, 3, 7⟩
  | 4 => ⟨5, 2, 15⟩
  | 5 => ⟨2, 3, 1⟩
  | 6 => ⟨3, 2, 3⟩
  | _ => ⟨2, 1, 1⟩

/-- Types 0, 1, 2 and 4 have infinities. -/
def hasInf (t : Nat) : Bool := t ≤ 2 || t == 4

/-- Code of the largest finite magnitude (Table 13-2). -/
def maxCode (t : Nat) : Nat :=
  match t with
  | 0 => 0x7F7FFFFF
  | 1 => 0x7F7F
  | 2 => 0x7BFF
  | 3 => 0x7E
  | 4 => 0x7B
  | 5 => 0x1F
  | 6 => 0x1F
  | _ => 0x7

/-- The canonical NaN of types 0 to 4 (Table 13-2). -/
def nanCode (t : Nat) : Nat :=
  match t with
  | 0 => 0x7FC00000
  | 1 => 0x7FC0
  | 2 => 0x7E00
  | 3 => 0x7F
  | 4 => 0x7E
  | _ => 0

/-- Code of +∞ in types 0, 1, 2 and 4. -/
def infCode (t : Nat) : Nat := (2 ^ (fmtOf t).ebits - 1) * 2 ^ (fmtOf t).mbits

/-- The sign bit of a floating-point type. -/
def signBit (t : Nat) : Nat := 2 ^ ((fmtOf t).ebits + (fmtOf t).mbits)

def withSign (t : Nat) (neg : Bool) (c : Nat) : Nat := if neg then c + signBit t else c

/-- The magnitude `m × 2^e` as a fraction. -/
def scaled (neg : Bool) (m : Nat) (e : Int) : Val :=
  if 0 ≤ e then .fin neg (m * 2 ^ e.toNat) 1 else .fin neg m (2 ^ (-e).toNat)

/-- The value of a floating-point code (R275). -/
def decodeFp (t : Nat) (c : Nat) : Val :=
  let f := fmtOf t
  let m := c % 2 ^ f.mbits
  let e := c / 2 ^ f.mbits % 2 ^ f.ebits
  let neg := c / signBit t % 2 == 1
  if hasInf t && e == 2 ^ f.ebits - 1 then (if m == 0 then .inf neg else .nan)
  else if t == 3 && e == 15 && m == 7 then .nan
  else if e == 0 then scaled neg m (1 - (f.bias : Int) - f.mbits)
  else scaled neg (2 ^ f.mbits + m) ((e : Int) - f.bias - f.mbits)

/-- Two's complement reading of `b` bits. -/
def sext (b c : Nat) : Int := if c % 2 ^ b ≥ 2 ^ (b - 1) then (c % 2 ^ b : Int) - 2 ^ b else (c % 2 ^ b : Int)

/-- Low `b` bits of an integer. -/
def wrapTo (b : Nat) (v : Int) : Nat := (v % (2 ^ b : Int)).toNat

/-- UINT8 is the one unsigned type. -/
def isUns (t : Nat) : Bool := t == 12

/-- The integer an integer code stands for (R277). -/
def decodeInt (t : Nat) (c : Nat) : Int :=
  let b := tyBits (BitVec.ofNat 4 t)
  if isUns t then ((c % 2 ^ b : Nat) : Int) else sext b c

def ofInt (v : Int) : Val := .fin (v < 0) v.natAbs 1

/-- The exact value of a code of any type 0x0 to 0xD. -/
def decodeAny (t c : Nat) : Val := if t ≤ 7 then decodeFp t c else ofInt (decodeInt t c)

/-- `floor(log2(num / den))` for positive `num` and `den`. -/
def floorLog2 (num den : Nat) : Int :=
  let k : Int := (Nat.log2 num : Int) - Nat.log2 den
  if 0 ≤ k then (if num < den * 2 ^ k.toNat then k - 1 else k)
  else (if num * 2 ^ (-k).toNat < den then k - 1 else k)

/-- Draw of the generator at a position (R281). -/
def draw (seed ctr : Word) (j : Nat) : Nat :=
  let z : Word := seed + (ctr + BitVec.ofNat 64 j) * 0x9E3779B97F4A7C15
  let z : Word := (z ^^^ (z >>> 30)) * 0xBF58476D1CE4E5B9
  let z : Word := (z ^^^ (z >>> 27)) * 0x94D049BB133111EB
  let z : Word := z ^^^ (z >>> 31)
  (z >>> 48).toNat

/-- All 64 bits after mixing, which VRAND and sampling use (R281). -/
def drawWord (seed ctr : Word) (j : Nat) : Word :=
  let z : Word := seed + (ctr + BitVec.ofNat 64 j) * 0x9E3779B97F4A7C15
  let z : Word := (z ^^^ (z >>> 30)) * 0xBF58476D1CE4E5B9
  let z : Word := (z ^^^ (z >>> 27)) * 0x94D049BB133111EB
  z ^^^ (z >>> 31)

/-- Chooses between a lattice point and the next (R280): whether the next is taken. `odd` says the lower one's last
significand bit is 1; `r / d` is how far the value lies from the lower towards the next, with 0 < r < d. -/
def takesHi (mode : Nat) (neg odd : Bool) (r d dr : Nat) : Bool :=
  match mode with
  | 0 => if 2 * r = d then odd else 2 * r > d
  | 1 => false
  | 2 => !neg
  | 3 => neg
  | 4 => 2 * r ≥ d
  | _ => dr < r * 65536 / d

/-- Rounding onto the integers (R287): magnitude and whether it is inexact. -/
def roundInt (mode : Nat) (neg : Bool) (num den dr : Nat) : Nat × Bool :=
  let q := num / den
  let r := num % den
  if r = 0 then (q, false) else (if takesHi mode neg (q % 2 == 1) r den dr then q + 1 else q, true)

/-- Rounding onto a format's lattice with the exponent unbounded above (R280): significand `q` and exponent `e` of
`q × 2^e`, whether the result is inexact, and whether the value lay below the smallest normal. -/
def roundFp (f : Fmt) (mode : Nat) (neg : Bool) (num den dr : Nat) : Nat × Int × Bool × Bool :=
  let emin : Int := 1 - (f.bias : Int)
  let l := floorLog2 num den
  let e : Int := (if l < emin then emin else l) - f.mbits
  let n := if 0 ≤ e then num else num * 2 ^ (-e).toNat
  let d := if 0 ≤ e then den * 2 ^ e.toNat else den
  let q := n / d
  let r := n % d
  if r = 0 then (q, e, false, l < emin)
  else (if takesHi mode neg (q % 2 == 1) r d dr then q + 1 else q, e, true, l < emin)

/-- The code of `q × 2^e` as `roundFp` leaves it, without its sign; it may lie past the largest finite code. -/
def packFp (f : Fmt) (q : Nat) (e : Int) : Nat :=
  let base := (e + f.mbits - (1 - (f.bias : Int))).toNat
  base * 2 ^ f.mbits + q

/-- Overflow of a rounded magnitude and infinities with SAT = 0 (Table 13-6, floating-point destinations). -/
def overflowFp (t mode : Nat) (neg : Bool) : Nat × BitVec 7 :=
  if hasInf t then
    let toInf := match mode with
      | 1 => false
      | 2 => !neg
      | 3 => neg
      | _ => true
    (withSign t neg (if toInf then infCode t else maxCode t), fOF ||| fNX)
  else if t == 3 then (0x7F, fOF ||| fNX)
  else (withSign t neg (maxCode t), fOF ||| fNX)

/-- Delivers an exact value in a floating-point type (R280, Table 13-6): code and flags. A zero keeps its sign. -/
def deliverFp (t mode : Nat) (sat : Bool) (v : Val) (dr : Nat) : Nat × BitVec 7 :=
  match v with
  | .nan => if t ≤ 4 then (nanCode t, 0) else (0, fNV)
  | .inf neg =>
    if sat then (withSign t neg (maxCode t), fSAT)
    else if hasInf t then (withSign t neg (infCode t), 0)
    else if t == 3 then (0x7F, fNV)
    else (withSign t neg (maxCode t), fNV)
  | .fin neg num den =>
    if num = 0 then (withSign t neg 0, 0)
    else
      let (q, e, nx, tiny) := roundFp (fmtOf t) mode neg num den dr
      let c := packFp (fmtOf t) q e
      if c > maxCode t then
        if sat then (withSign t neg (maxCode t), fSAT ||| fNX) else overflowFp t mode neg
      else (withSign t neg c, (if nx then fNX else 0) ||| (if nx && tiny then fUF else 0))

/-- The range of an integer type. -/
def intMin (t : Nat) : Int := if isUns t then 0 else -(2 ^ (tyBits (BitVec.ofNat 4 t) - 1) : Int)
def intMax (t : Nat) : Int :=
  if isUns t then 255 else (2 ^ (tyBits (BitVec.ofNat 4 t) - 1) : Int) - 1

/-- Floating-point value to an integer type (Table 13-6); a clamp of a finite value adds NX, whatever SAT is (R287). -/
def deliverFpInt (t mode : Nat) (sat : Bool) (v : Val) (dr : Nat) : Nat × BitVec 7 :=
  let b := tyBits (BitVec.ofNat 4 t)
  let bad := if sat then fSAT else fNV
  match v with
  | .nan => (0, fNV)
  | .inf neg => (wrapTo b (if neg then intMin t else intMax t), bad)
  | .fin neg num den =>
    let (q, nx) := roundInt mode neg num den dr
    let r : Int := if neg then -(q : Int) else q
    if r < intMin t then (wrapTo b (intMin t), bad ||| fNX)
    else if r > intMax t then (wrapTo b (intMax t), bad ||| fNX)
    else (wrapTo b r, if nx then fNX else 0)

/-- Integer value to an integer type (Table 13-6, R277): low bits with IOV, or clamped with SAT. -/
def deliverInt (t : Nat) (sat : Bool) (v : Int) : Nat × BitVec 7 :=
  let b := tyBits (BitVec.ofNat 4 t)
  if intMin t ≤ v ∧ v ≤ intMax t then (wrapTo b v, 0)
  else if sat then (wrapTo b (if v < intMin t then intMin t else intMax t), fSAT)
  else (wrapTo b v, fIOV)

/-- A value as a conversion delivers it: a zero is +0, for no rule of a conversion gives it a sign (R276, R280). -/
def plainZero : Val → Val
  | .fin _ 0 den => .fin false 0 den
  | v => v

/-- Conversion between any two types 0x0 to 0xD (R287). -/
def convert (src dst mode : Nat) (sat : Bool) (c dr : Nat) : Nat × BitVec 7 :=
  if src ≤ 7 then
    if dst ≤ 7 then deliverFp dst mode sat (plainZero (decodeFp src c)) dr else deliverFpInt dst mode sat (decodeFp src c) dr
  else if dst ≤ 7 then deliverFp dst mode sat (ofInt (decodeInt src c)) dr
  else
    -- a clamp of a finite value adds NX (R287)
    let r := deliverInt dst sat (decodeInt src c)
    (r.1, if r.2 == fSAT then fSAT ||| fNX else r.2)

/-- Comparison of two finite magnitudes with signs: −1, 0, 1 as an order. -/
def cmpFin (na : Bool) (a da : Nat) (nb : Bool) (b db : Nat) : Ordering :=
  let x : Int := (if na then -(a : Int) else a) * db
  let y : Int := (if nb then -(b : Int) else b) * da
  compare x y

/-- Comparison of two values; none when either is a NaN. Zeros of either sign are equal. -/
def cmpVal (a b : Val) : Option Ordering :=
  match a, b with
  | .nan, _ => none
  | _, .nan => none
  | .inf x, .inf y => some (if x == y then .eq else if x then .lt else .gt)
  | .inf x, .fin _ _ _ => some (if x then .lt else .gt)
  | .fin _ _ _, .inf y => some (if y then .gt else .lt)
  | .fin n1 a1 d1, .fin n2 a2 d2 => some (cmpFin n1 a1 d1 n2 a2 d2)

/-- Negation of a value; a NaN stays. -/
def negVal : Val → Val
  | .nan => .nan
  | .inf n => .inf (!n)
  | .fin n a d => .fin (!n) a d

/-- Exact sum (R276, R285): value and NV. A zero sum of unlike addends is −0 only in RDN. -/
def addVal (mode : Nat) (a b : Val) : Val × BitVec 7 :=
  match a, b with
  | .nan, _ => (.nan, 0)
  | _, .nan => (.nan, 0)
  | .inf x, .inf y => if x == y then (.inf x, 0) else (.nan, fNV)
  | .inf x, .fin _ _ _ => (.inf x, 0)
  | .fin _ _ _, .inf y => (.inf y, 0)
  | .fin n1 a1 d1, .fin n2 a2 d2 =>
    if a1 = 0 ∧ a2 = 0 ∧ n1 = n2 then (.fin n1 0 1, 0)
    else
      let d := if d1 ≤ d2 then d2 else d1
      let s : Int := if d2 % d1 = 0 ∨ d1 % d2 = 0 then
          (if n1 then -((a1 * (d / d1) : Nat) : Int) else (a1 * (d / d1) : Nat)) +
            (if n2 then -((a2 * (d / d2) : Nat) : Int) else (a2 * (d / d2) : Nat))
        else (if n1 then -((a1 * d2 : Nat) : Int) else (a1 * d2 : Nat)) +
            (if n2 then -((a2 * d1 : Nat) : Int) else (a2 * d1 : Nat))
      let dd := if d2 % d1 = 0 ∨ d1 % d2 = 0 then d else d1 * d2
      if s = 0 then (.fin (mode == 3) 0 1, 0) else (.fin (s < 0) s.natAbs dd, 0)

/-- Exact product (R276, R285). -/
def mulVal (a b : Val) : Val × BitVec 7 :=
  match a, b with
  | .nan, _ => (.nan, 0)
  | _, .nan => (.nan, 0)
  | .inf x, .inf y => (.inf (x != y), 0)
  | .inf x, .fin n m _ => if m = 0 then (.nan, fNV) else (.inf (x != n), 0)
  | .fin n m _, .inf y => if m = 0 then (.nan, fNV) else (.inf (y != n), 0)
  | .fin n1 a1 d1, .fin n2 a2 d2 => (.fin (n1 != n2) (a1 * a2) (d1 * d2), 0)

/-- Exact quotient with the special cases of Table 13-5. -/
def divVal (a b : Val) : Val × BitVec 7 :=
  match a, b with
  | .nan, _ => (.nan, 0)
  | _, .nan => (.nan, 0)
  | .inf _, .inf _ => (.nan, fNV)
  | .inf x, .fin n _ _ => (.inf (x != n), 0)
  | .fin n _ _, .inf y => (.fin (n != y) 0 1, 0)
  | .fin n1 a1 d1, .fin n2 a2 d2 =>
    if a2 = 0 then (if a1 = 0 then (.nan, fNV) else (.inf (n1 != n2), fDZ))
    else (.fin (n1 != n2) (a1 * d2) (d1 * a2), 0)

/-- Integer square root, bit by bit from bit `k`. -/
def isqrtFrom : Nat → Nat → Nat → Nat
  | 0, n, r => if (r + 1) * (r + 1) ≤ n then r + 1 else r
  | k + 1, n, r => isqrtFrom k n (if (r + 2 ^ (k + 1)) * (r + 2 ^ (k + 1)) ≤ n then r + 2 ^ (k + 1) else r)

def isqrt (n : Nat) : Nat := isqrtFrom (Nat.log2 n / 2 + 1) n 0

/-- Fraction bits that stand for an irrational result; see `midpoint`. -/
def fracBits : Nat := 256

/-- An irrational magnitude whose floor at `fracBits` bits is `r`: the middle of that cell, which lies on the same side of
every rounding boundary and of every draw as the exact value (notes/assumptions/16.md). -/
def midpoint (neg : Bool) (r : Nat) : Val := .fin neg (2 * r + 1) (2 ^ (fracBits + 1))

/-- The square root of a positive fraction, exact where it is rational. -/
def sqrtFrac (num den : Nat) : Val :=
  let g := Nat.gcd num den
  let n := num / g
  let d := den / g
  let rn := isqrt n
  let rd := isqrt d
  if rn * rn = n ∧ rd * rd = d then .fin false rn rd
  else
    -- scaled so that small arguments keep their leading bits
    let k := fracBits + Nat.log2 d
    .fin false (2 * isqrt (n * 2 ^ (2 * k) / d) + 1) (2 ^ (k + 1))

/-- VSQRT (Table 13-5). -/
def sqrtVal (a : Val) : Val × BitVec 7 :=
  match a with
  | .nan => (.nan, 0)
  | .inf neg => if neg then (.nan, fNV) else (.inf false, 0)
  | .fin neg n d => if n = 0 then (.fin neg 0 1, 0) else if neg then (.nan, fNV) else (sqrtFrac n d, 0)

/-- VRSQ (Table 13-5). -/
def rsqVal (a : Val) : Val × BitVec 7 :=
  match a with
  | .nan => (.nan, 0)
  | .inf neg => if neg then (.nan, fNV) else (.fin false 0 1, 0)
  | .fin neg n d => if n = 0 then (.inf neg, fDZ) else if neg then (.nan, fNV) else (sqrtFrac d n, 0)

/-- VRCP (Table 13-5). -/
def rcpVal (a : Val) : Val × BitVec 7 := divVal (.fin false 1 1) a

/-- Working bits of the series below, and `floor(ln 2 × 2^320)`. -/
def workBits : Nat := 320
def ln2Work : Nat :=
  0xb17217f7d1cf79abc9e3b39803f2f6af40f343267298b62d8a0d175b8baafa2be7b876206debac98

/-- Terms of the exponential series of `y / 2^workBits`, from term `t` with number `n`. -/
def expSeries : Nat → Nat → Nat → Nat → Nat
  | 0, _, _, _ => 0
  | fuel + 1, y, t, n => t + expSeries fuel y (t * y / 2 ^ workBits / (n + 1)) (n + 1)

/-- VEXP2 (Table 13-5): exact at integers, else the middle of its cell. -/
def exp2Val (a : Val) : Val × BitVec 7 :=
  match a with
  | .nan => (.nan, 0)
  | .inf neg => if neg then (.fin false 0 1, 0) else (.inf false, 0)
  | .fin neg num den =>
    let whole : Int := if neg then -(((num + den - 1) / den : Nat) : Int) else ((num / den : Nat) : Int)
    -- fraction above `whole`
    let fnum := if neg then ((num + den - 1) / den) * den - num else num % den
    let i : Int := if whole > 4096 then 4096 else if whole < -4096 then -4096 else whole
    if fnum = 0 then (scaled false 1 i, 0)
    else
      let y := ln2Work * fnum / den
      let e := expSeries 90 y (2 ^ workBits) 0
      let r := e / 2 ^ (workBits - fracBits)
      (match scaled false 1 i with
        | .fin _ n d => .fin false ((2 * r + 1) * n) (2 ^ (fracBits + 1) * d)
        | v => v, 0)

/-- Terms of the series of the inverse hyperbolic tangent of `z / 2^workBits`, `p` the running power. -/
def atanhSeries : Nat → Nat → Nat → Nat → Nat
  | 0, _, _, _ => 0
  | fuel + 1, z2, p, n => p / n + atanhSeries fuel z2 (p * z2 / 2 ^ workBits) (n + 2)

/-- VLOG2 (Table 13-5): exact at powers of two, else the middle of its cell. -/
def log2Val (a : Val) : Val × BitVec 7 :=
  match a with
  | .nan => (.nan, 0)
  | .inf neg => if neg then (.nan, fNV) else (.inf false, 0)
  | .fin neg num den =>
    if num = 0 then (.inf true, fDZ)
    else if neg then (.nan, fNV)
    else
      let e := floorLog2 num den
      -- the significand as n / d in [1, 2)
      let n := if 0 ≤ e then num else num * 2 ^ (-e).toNat
      let d := if 0 ≤ e then den * 2 ^ e.toNat else den
      if n = d then (ofInt e, 0)
      else
        let z := (n - d) * 2 ^ workBits / (n + d)
        let l := 2 * atanhSeries 110 (z * z / 2 ^ workBits) z 1 * 2 ^ workBits / ln2Work
        let t : Int := e * 2 ^ workBits + l
        (midpoint (t < 0) (t.natAbs / 2 ^ (workBits - fracBits)), 0)

/-- Finishes an arithmetic result: rounds it once, joining the flags that formed it. -/
def finish (t mode : Nat) (sat : Bool) (r : Val × BitVec 7) (dr : Nat) : Nat × BitVec 7 :=
  let (c, f) := deliverFp t mode sat r.1 dr
  (c, f ||| r.2)

/-- Fused multiply-add `a × b + c`, rounded once (R285). -/
def fmaVal (mode : Nat) (a b c : Val) : Val × BitVec 7 :=
  let p := mulVal a b
  match c, p.1 with
  | .nan, _ => (.nan, 0)
  | _, .nan => (.nan, p.2)
  | c, q => let s := addVal mode q c; (s.1, p.2 ||| s.2)

/-- FP32 steps in RNE, as epilogue programs and reductions use them. -/
def f32 (c : BitVec 32) : Val := decodeFp 0 c.toNat
def rne32 (r : Val × BitVec 7) : BitVec 32 × BitVec 7 :=
  let (c, f) := finish 0 0 false r 0
  (BitVec.ofNat 32 c, f)

end Sys2Proof.Machine
end

