-- ==== Sys2Proof/Machine/Cells.lean ====
section
/-! DEFINITION. Deferred cells at their homes (chapter 9): suspension records, launch, FOLLOW cells, poison, self-dependence
and depth; and the task record a PROGRAM evaluation posts (R193). -/

namespace Sys2Proof.Machine

/-- What an access does at its home. -/
inductive Res where
  | done (data : List Byte)
  /-- refused, with the piece it failed at -/
  | fault (e : MemErr) (p : Piece)
  | wait (on : WaitOn)
  /-- must wait and finds its table full (R162, R192, R194) -/
  | full (on : WaitOn)
  deriving DecidableEq, Repr

/-- The context behind an access (R193): core, EVALID, stream, ASID; and whether a failure of it is a trap (Table 9-5). -/
structure Loader where
  core : Option Nat
  evalid : BitVec 16
  stream : BitVec 20
  asid : BitVec 12
  traps : Bool := false
  deriving DecidableEq, Repr

def loaderOf (s : State) (w : Who) : Loader :=
  match w with
  | .core n _ => let c := (s.core n).ctx; ⟨some n, c.evalid, c.streamid, c.asid, true⟩
  | .slot m =>
    if m.src < 64 && coreOk (m.src * 1024 + m.core.toNat) then
      let n := m.src * 1024 + m.core.toNat
      let c := (s.core n).ctx
      if m.len ≥ 65536 then ⟨some n, m.nmask.extractLsb' 0 16, m.nmask.extractLsb' 16 20, m.nmask.extractLsb' 36 12, false⟩
      else ⟨some n, c.evalid, c.streamid, c.asid, false⟩
    else ⟨none, 0, 0, 0, false⟩
  | .op id =>
    match s.ops.find? (fun o => o.id == id) with
    | some o => ⟨some o.core, o.evalid, o.stream, o.asid, false⟩
    | none => ⟨none, 0, 0, 0, false⟩
  | .eval site entry =>
    match getEval s (site * 1024 + entry) with
    | some e => ⟨e.core, BitVec.ofNat 16 (site * 1024 + entry), e.stream, e.asid, false⟩
    | none => ⟨none, BitVec.ofNat 16 (site * 1024 + entry), 0, 0, false⟩

/-- The slot as which a request of a core of this module stays at its home once its core has gone on: its NMASK holds the context it was
issued in (R193). -/
def heldSlot (s : State) (n pa op : Nat) : Slot :=
  let c := (s.core n).ctx
  { noSlot with src := siteOf n, dst := homeSite pa, addr := BitVec.ofNat 48 pa, op := BitVec.ofNat 8 op, core := BitVec.ofNat 10 (numOf n),
                len := 65536, nmask := c.evalid.zeroExtend 64 ||| c.streamid.zeroExtend 64 <<< 16 ||| c.asid.zeroExtend 64 <<< 36 }

/-- A TOUCH of a core has not reached its home, or its home has not been able to act on it (R203). -/
def touchOut (s : State) (n : Nat) : Bool :=
  s.requests.any (fun r => r.core == n && r.op == some 0) || s.waiters.any fun w => match w.who, w.acc.act with
    | .slot m, .cell 0 => m.len ≥ 65536 && m.src * 1024 + m.core.toNat == n
    | _, _ => false

/-- The 128 bytes of a line. -/
def readLine (s : State) (line : Nat) : List Byte := readBytes s (lineOf line) 128

/-- KIND of the record in a line (Table 9-2). -/
def recKind (s : State) (line : Nat) : Nat := leNat (readBytes s (lineOf line) 2)

/-- A FOLLOW cell: not VALUE, and its record has KIND 3 (R196). -/
def isFollow (s : State) (line : Nat) : Bool := s.cellTag line != 0 && recKind s line == 3

def headOf (s : State) (line : Nat) : Nat := lineOf (leNat (readBytes s (lineOf line + 40) 8))

/-- Cell trap 0x15 with a reason in TINFO [31:16] (R186); an operation reports 0x05. -/
def errCell (reason : Nat) : MemErr := ⟨0x15, reason * 65536, 5⟩

/-- A frame is hardware-coherent as its home knows it: COHSET has made it so, or a line of it has been accessed so (R206, R214). -/
def frameTimed (s : State) (a : Nat) : Bool :=
  match mapFind s.classes (a / 0x10000) with
  | some c => c == 2
  | none => s.times.any fun t => t.1 / 0x10000 == a / 0x10000

/-- A tag change that no access makes is a write of the whole line: its write time goes past its lease (R185, R206). -/
def tagTime (s : State) (line : Nat) (cls : BitVec 2) : State :=
  let l := lineOf line
  match mapFind s.times l with
  | some t => { s with times := mapSet s.times l ⟨t.lease + 1, t.lease + 1⟩ }
  | none => if cls == 2 || frameTimed s l then { s with times := mapSet s.times l ⟨1, 1⟩ } else s

/-- Makes a cell POISON with a reason (R186, Table 9-4). -/
def poisonCell (line reason : Nat) : H Unit := modify fun s =>
  let l := lineOf line
  let s := writeBytes s (l + 34) (leBytes 2 reason)
  let s := { s.setCellTag l 3 with bound := mapDel s.bound l }
  s.modDie (homeSite l) fun d => { d with poisonedCnt := d.poisonedCnt + 1, media := d.media || reason == 3 }

/-- The end of an evaluation, of a block or of a launch poisons a cell: an access to its layer (R25). -/
def poisonAt (line reason : Nat) : H Unit := do
  modify fun s => tagTime (wake s line) line 0
  poisonCell line reason

/-- A cell whose own record is malformed becomes POISON (R189). -/
def spoilMalformed (line : Nat) (p : Piece) : H Res := do
  poisonAt line 4
  modify fun s => s.modDie (homeSite line) fun d => { d with malf := true }
  pure (.fault (errCell 4) p)

/-- Makes a cell VALUE by a resolving write of its bytes (R194). -/
def resolveCell (line : Nat) (data : List Byte) : H Unit := modify fun s =>
  let l := lineOf line
  let was := s.cellTag l
  let s := { writeBytes s l data with bound := mapDel s.bound l }
  let s := (s.setCellTag l 0).setPoison l false
  if was == 1 || was == 2 then s.modDie (homeSite l) fun d => { d with resolved := d.resolved + 1 } else s

/-- Whether the bytes [a, a + n) lie wholly in one region that a copy may read (R188). -/
def copySource (a : Nat) : Bool :=
  match spaceOf a with
  | .dram _ | .weight _ _ | .pad _ _ | .slow _ | .remote _ _ => true
  | _ => false

/-- A line that a DEFER page can map: in DRAM or behind a remote window (R184). -/
def deferSpace (s : State) (a : Nat) : Bool :=
  match spaceOf a with
  | .dram k => decide (a % 0x000C00000000 / 0x400000 < (s.die (dSite k)).stackCap)
  | .remote _ _ => true
  | _ => false

/-- A malformed record (R187 to R189), judged by the home from physical addresses. -/
def malformed (s : State) (line : Nat) : Bool :=
  let r := readLine s line
  let kind := field r 0 2
  let place := field r 2 1
  let flags := field r 3 1
  let arg := field r 4 4
  let cmd := field r 8 8
  let dest := field r 16 8
  let count := field r 24 8
  let bsn := field r 32 2
  let head := field r 40 8
  let zero (o n : Nat) : Bool := (slice r o n).all (· == 0)
  let rest := !(zero 36 4 && zero 48 80)
  rest ||
  match kind with
  | 0 =>
    let op := cmd % 16
    let src := cmd / 65536
    let shared := bits flags 1 1 == 1
    place > 1 || flags > 3 || (if shared then arg > 15 else arg != 0) || bsn != 0 ||
      cmd / 16 % 4096 != 0 || op < 1 || op > 3 || (op != 2 && head != 0) ||
      (op == 1 && !(match spaceOf src with
        | .slow _ => true
        | _ => false)) ||
      (op != 1 && !copySource src) || (op == 2 && (head ≥ 2 ^ 48 || !copySource head)) ||
      dest != lineOf line || count < 128 || count > 4194304 || count % 128 != 0 ||
      dest / 4194304 != (dest + count - 1) / 4194304 ||
      !(match spaceOf dest, spaceOf (dest + count - 1) with
        | .dram _, .dram _ => true
        | .remote w _, .remote w' _ => w == w'
        | _, _ => false)
  | 1 =>
    let site := bits count 30 24
    let core := bits count 21 12
    place > 2 || flags > 1 || cmd % 2 != 0 || cmd ≥ 2 ^ 56 || bsn != 0 || head != 0 ||
      bits count 11 8 != 0 || bits count 23 22 != 0 || count ≥ 2 ^ 31 ||
      (place != 2 && count ≥ 256) ||
      (place == 2 && (site > 63 || !(s.die site).usable || core ≥ coresOf site))
  | 2 => place != 0 || flags != 0 || arg ≥ 2 ^ 20 || cmd != 0 || dest != 0 || count != 0 || head != 0
  | 3 =>
    place != 0 || flags != 0 || arg != 0 || cmd != 0 || dest != 0 || count != 0 || bsn != 0 || head ≥ 2 ^ 48 ||
      !deferSpace s head || isFollow s head
  | _ => true

/-- Lowest-numbered free evaluation table entry of a die, 1 to 1,023 (R192). -/
def freeEval (d : Die) : Option Nat := ((List.range 1023).map (· + 1)).find? (fun i => (mapFind d.evals i).isNone)

/-- Highest-numbered FREE record of a task table (R193). -/
def freeRecord (d : Die) : Option Nat :=
  (List.range 4096).reverse.find? (fun i => (mapGet {} d.records i).st == .free)

/-- The record a PROGRAM evaluation posts (R193). -/
def evalRecordBytes (r : List Byte) (id : Nat) (stream : BitVec 20) (asid : BitVec 12) : List Byte :=
  let entry := slice r 8 8
  let count := field r 24 8
  let place := field r 2 1
  let fixed := if place == 2 then 0x8000 + bits count 21 12 else 0
  entry ++ entry ++ entry ++ leBytes 4 0 ++ leBytes 2 0 ++ [4, BitVec.ofNat 8 (if place == 2 then 0 else count % 256)] ++
    slice r 16 8 ++ leBytes 4 stream.toNat ++ leBytes 2 id ++ leBytes 2 asid.toNat ++ leBytes 2 1 ++ leBytes 2 fixed ++
    List.replicate 76 0

/-- Where the evaluation of a record runs (R193): the home die, the loader's, or the site it names. -/
def evalSite (r : List Byte) (home : Nat) (core : Option Nat) : Nat :=
  match field r 2 1 with
  | 0 => home
  | 1 => (core.map siteOf).getD home
  | _ => bits (field r 24 8) 30 24

/-- Posts the record of a PROGRAM evaluation (R193). -/
def postEval (id : Nat) : H Unit := modify fun s =>
  match getEval s id with
  | none => s
  | some e =>
    let r := readLine s e.cell
    let site := evalSite r (id / 1024) e.core
    let d := s.die site
    match freeRecord d with
    | none => s
    | some i =>
      let rec' : Record := { bytes := evalRecordBytes r id e.stream e.asid, st := .waitring, eclass := 4, seq := d.nextSeq,
                              eval := true }
      s.setDie site { d with records := mapSet d.records i rec', nextSeq := d.nextSeq + 1 }

/-- Depth of the evaluation an access would launch: one more than its launcher's (R199). -/
def launchDepth (s : State) (evalid : BitVec 16) : Nat :=
  if evalid == 0 then 1
  else match getEval s evalid.toNat with
    | some e => e.depth + 1
    | none => 1

/-- Launches the evaluation of a DEFERRED head cell (R190): `done` when it runs. -/
def launchHead (line : Nat) (ld : Loader) (p : Piece) : H Res := do
  let s ← get
  let l := lineOf line
  let site := homeSite l
  let kind := recKind s l
  if malformed s l then spoilMalformed l p
  else if launchDepth s ld.evalid ≥ 9 then
    modify fun s => s.modDie site fun d => { d with depthTrap := d.depthTrap || ld.traps }
    pure (.fault ⟨0x17, 0, 1⟩ p)
  else
    match freeEval (s.die site) with
    | none =>
      modify fun s => s.modDie site fun d => { d with wretry := d.wretry + 1 }
      pure (.full (.cell l))
    | some i =>
      let r := readLine s l
      -- a PROGRAM launch waits for a FREE record as for a free entry (R193)
      if kind == 1 && (freeRecord (s.die (evalSite r site ld.core))).isNone then return .full (.cell l)
      let id := site * 1024 + i
      let tm := (readPhys s (l + 3)).getLsbD 0 && kind ≤ 1 && ld.core.isSome
      let e : Eval := { cell := l, kind := kind, depth := launchDepth s ld.evalid, core := ld.core, stream := ld.stream,
                        asid := ld.asid }
      modify fun s =>
        let s := tagTime (s.setCellTag l 2) l p.cls
        let s := { s with bound := mapSet s.bound l (BitVec.ofNat 16 id) }
        let s := s.modDie site fun d => { d with evals := mapSet d.evals i e, launch := d.launch + 1,
                                                 tiermiss := if tm then d.tiermiss + 1 else d.tiermiss }
        let s := if tm then
            postEvent s .tiermissEvent { noSlot with src := site, dst := 64, arg := ld.stream.zeroExtend 64 }
          else s
        if kind == 0 then
          { s with nextOp := s.nextOp + 1,
                   ops := s.ops ++ [{ id := s.nextOp, kind := .eval, core := evalSite r site ld.core * 1024, eng := .c, serial := 0, task := 0,
                                      stream := ld.stream, evalid := BitVec.ofNat 16 id, bar := none, count := 0, word := 0,
                                      src := [], dst := [], resolve := true, snap := none, nums := [site, i] }] }
        else s
      if kind == 1 then postEval id
      pure (.done [])

/-- Asks the home of a head behind a remote window for its tag, once (R191). -/
def askHead (l h : Nat) : H Unit := modify fun s =>
  if s.queries.any (·.2 == l) then s
  else
    let tag := BitVec.ofNat 16 s.nextOp
    let s := { s with nextOp := s.nextOp + 1, queries := s.queries ++ [(tag, l)] }
    postSlot s { noSlot with src := homeSite l, dst := windowSite s h, addr := BitVec.ofNat 48 h, op := 0x28, tag := tag, arg := 6 }

/-- A FOLLOW cell becomes RUNNING, bound to an evaluation. -/
def bindCell (l : Nat) (id : BitVec 16) (p : Piece) : H Res := do
  modify fun s =>
    let s := tagTime (s.setCellTag l 2) l p.cls
    { s with bound := mapSet s.bound l id }
  pure (.done [])

/-- A FOLLOW cell becomes POISON, as its head's state has it. -/
def spoilCell (l reason : Nat) (p : Piece) : H Res := do
  poisonAt l reason
  pure (.fault (errCell reason) p)

/-- Launches from a DEFERRED cell, FOLLOW or not (R190, R191): `done` when the cell is RUNNING, a wait while the head is asked. An
evaluation of another module has no id here. A head behind a window that says that it is a FOLLOW cell makes the record that names it
malformed (R189). -/
def launchCell (line : Nat) (ld : Loader) (p : Piece) : H Res := do
  let s ← get
  let l := lineOf line
  if recKind s l == 3 && !malformed s l then
    let h := headOf s l
    match spaceOf h with
    | .remote _ _ =>
      match mapFind s.heads l with
      | none => do askHead l h; return .wait (.cell l)
      | some w => do
        modify fun s => { s with heads := mapDel s.heads l }
        if w % 4 ≠ 0 ∧ w / 4 % 4 = 3 then return ← spoilMalformed l p
        match w % 4 with
        | 0 => return ← spoilCell l 1 p
        | 3 => return ← spoilCell l (w / 65536 % 65536) p
        | _ => return ← bindCell l 0 p
    | _ => set (wake s h)
    let bind : H Res := bindCell l (mapGet 0 s.bound h) p
    match (s.cellTag h).toNat with
    | 0 => spoilCell l 1 p
    | 1 => do
      match ← launchHead h ld p with
      | .done _ => bindCell l (mapGet 0 (← get).bound h) p
      | r => pure r
    | 2 => bind
    | _ => spoilCell l (leNat (readBytes s (h + 34) 2)) p
  else launchHead l ld p

/-- The chain walk of R200 from evaluation `f`, looking for `e`: 0x16, 0x17, or 0 where the wait may stand. -/
def waitWalk (s : State) (e : Nat) : Nat → Nat → Nat
  | 0, _ => 0x17
  | fuel + 1, f =>
    match getEval s f with
    | none => 0
    | some ev =>
      match ev.waitsOn with
      | none => 0
      | some c =>
        let f' := (mapGet 0 s.bound c).toNat
        if f' = e then 0x16 else waitWalk s e fuel f'

/-- The check before an evaluator waits on a RUNNING cell (R200): the trap cause, or 0. A wait that stands is not checked again. -/
def selfDepend (line : Nat) (ld : Loader) : H Nat := do
  if ld.evalid == 0 then pure 0
  else
    let s ← get
    let l := lineOf line
    let e := ld.evalid.toNat
    let f := (mapGet 0 s.bound l).toNat
    if ((getEval s e).bind (·.waitsOn)) == some l then return 0
    let r := if f = e then 0x16 else waitWalk s e 8 f
    if r = 0 then modify (putWait · e (some l))
    else modify fun s => s.modDie (homeSite l) fun d =>
      { d with selfdep := d.selfdep || (ld.traps && r == 0x16), depthTrap := d.depthTrap || (ld.traps && r == 0x17) }
    pure r

/-- Entries of the waiter table of a slice, and of a scratchpad's tag-wait table, that are in use (R162, R194). -/
def sliceWaiters (s : State) (line : Nat) : Nat :=
  (s.waiters.filter (fun w => !w.retry && match w.on with
    | .cell l => homeSite l == homeSite line && homeSlice s l == homeSlice s line
    | .flag a => !isPad a && homeSite a == homeSite line && homeSlice s a == homeSlice s line
    | _ => false)).length

def padWaiters (s : State) (pa : Nat) : Nat :=
  (s.waiters.filter (fun w => !w.retry && match w.on with
    | .tag a => (a - padBase) / 0x8000 == (pa - padBase) / 0x8000
    | .flag a => (match spaceOf a with
      | .pad _ _ => (a - padBase) / 0x8000 == (pa - padBase) / 0x8000
      | _ => false)
    | _ => false)).length

def waitCell (line : Nat) : H Res := do
  let s ← get
  if sliceWaiters s line < 256 then pure (.wait (.cell (lineOf line)))
  else
    modify fun s => s.modDie (homeSite line) fun d => { d with wretry := d.wretry + 1 }
    pure (.full (.cell (lineOf line)))

/-- An access that needs a VALUE cell (Table 9-1): `done` when it may perform. -/
def needValue (line : Nat) (who : Who) (p : Piece) : H Res := do
  let s ← get
  let ld := loaderOf s who
  match (s.cellTag line).toNat with
  | 0 =>
    modify (endWait · ld.evalid line)
    pure (.done [])
  | 1 =>
    match ← launchCell line ld p with
    | .done _ =>
      let r ← selfDepend line ld
      if r = 0 then waitCell line else pure (.fault ⟨r, 0, 1⟩ p)
    | .wait _ => waitCell line
    | r => pure r
  | 2 =>
    let r ← selfDepend line ld
    if r = 0 then waitCell line else pure (.fault ⟨r, 0, 1⟩ p)
  | _ =>
    modify (endWait · ld.evalid line)
    pure (.fault (errCell (leNat (readBytes s (lineOf line + 34) 2))) p)

/-- The word that CSTAT and WAITC return (R196). -/
def cellWord (s : State) (line : Nat) (stat : Bool) : Nat :=
  let t := (s.cellTag line).toNat
  if t = 0 then 0
  else t + recKind s line % 4 * 4 + (if t = 3 then leNat (readBytes s (lineOf line + 34) 2) * 65536 else 0) +
    (if t = 2 && stat then (mapGet 0 s.bound (lineOf line)).toNat * 2 ^ 32 else 0)

/-- A cell operation changes its cell's tag or bytes: what it refuses or only reads it does not (Table 9-3). -/
def cellChanges (s : State) (op line : Nat) : Bool :=
  let tag := (s.cellTag line).toNat
  match op with
  | 2 => (tag == 0 || tag == 3) && !isFollow s line
  | 3 | 4 => tag != 3
  | _ => false

/-- The six cell operations and the head query at the home (Table 9-3, R191, R196). -/
def cellOp (op : Nat) (line : Nat) (who : Who) (data : List Byte) (arg : Word) (p : Piece) : H Res := do
  let s ← get
  let ld := loaderOf s who
  let tag := (s.cellTag line).toNat
  match op with
  | 0 =>
    if tag = 1 then
      -- a TOUCH raises no trap (R196)
      match ← launchCell line { ld with traps := false } p with
      | .full on | .wait on => pure (.full on)
      | _ => pure (.done (leBytes 8 0))
    else pure (.done (leBytes 8 0))
  | 1 => pure (.done (leBytes 8 (cellWord s line true)))
  | 2 =>
    if cellChanges s 2 line then
      modify fun s => (writeBytes s (lineOf line) data).setCellTag line 1
      pure (.done (leBytes 8 1))
    else pure (.done (leBytes 8 tag))
  | 3 =>
    if tag = 3 then pure (.fault ⟨0x15, leNat (readBytes s (lineOf line + 34) 2) * 65536, 1⟩ p)
    else
      resolveCell line data
      pure (.done (leBytes 8 0))
  | 4 =>
    if tag = 3 then pure (.done (leBytes 8 3))
    else
      poisonCell line (arg.toNat % 65536)
      pure (.done (leBytes 8 3))
  | 5 =>
    if tag = 0 ∨ tag = 3 then
      modify (endWait · ld.evalid line)
      pure (.done (leBytes 8 (cellWord s line false)))
    else
      let r ← if tag = 2 then selfDepend line ld else pure 0
      if r = 0 then waitCell line else pure (.fault ⟨r, 0, 1⟩ p)
  | _ =>
    let word := cellWord s line false
    if tag = 1 && !isFollow s line then
      match ← launchHead line ld p with
      | .full on => pure (.full on)
      | .fault e _ => do
        let s ← get
        pure (.done (leBytes 8 (if e.cause = 0x15 then cellWord s line false else word)))
      | _ => pure (.done (leBytes 8 word))
    else pure (.done (leBytes 8 word))

end Sys2Proof.Machine
end

