-- ==== Sys2Proof/Machine/Home.lean ====
section
/-! DEFINITION. Accesses at their homes: scratchpad tags (Table 8-3), owner records (R213), poison marks (R176), cells (Table
9-1), atomics (Table 17-6), flags (Table 17-8), logical time (R206), barrier objects (R216), and serving the accesses that
wait, in the order they arrived (R162, R194, R417). -/

namespace Sys2Proof.Machine

/-- A byte with the selected nibbles of another (R179). -/
def mergeByte (old new : Byte) (sel : Bool × Bool) : Byte :=
  let lo : BitVec 4 := if sel.1 then new.extractLsb' 0 4 else old.extractLsb' 0 4
  let hi : BitVec 4 := if sel.2 then new.extractLsb' 4 4 else old.extractLsb' 4 4
  hi ++ lo

/-- Scratchpad word addresses of a piece with a selected nibble; `o` is the piece's offset in the access. -/
def activeWords (mask : List Bool) (o : Nat) (p : Piece) : List Nat :=
  let bytes := (List.range p.len).filter (fun i => let r := nibSel mask (o + i); r.1 || r.2)
  (bytes.map (fun i => (p.pa + i) / 4 * 4)).eraseDups

def Action.isStore : Action → Bool
  | .load | .tagLoad _ | .barWait _ => false
  | .cell op => op == 2 || op == 3 || op == 4
  | .flag op => op != 2
  | _ => true

def Action.isAtomic : Action → Bool
  | .amo _ _ _ | .vamo _ | .flag _ => true
  | _ => false

def Action.isTagged : Action → Bool
  | .tagLoad _ | .tagStore _ => true
  | _ => false

/-- Module-wide number of the core behind an access, if it is one of this module (R213). -/
def coreOf (s : State) (who : Who) : Option Nat := (loaderOf s who).core

/-- The owner record's check (R213): claims an unclaimed frame for a COH = 00 access. Engine evaluations and requests of
other modules count as other cores. -/
def ownerCheck (who : Who) (p : Piece) : H (Option MemErr) := do
  let s ← get
  if !isDram p.pa then pure none
  else
    let f := p.pa / 0x10000
    match mapGet none s.owners f, coreOf s who with
    | none, some n =>
      if p.cls == 0 then set { s with owners := mapSet s.owners f (some n) }
      pure none
    | none, none => pure none
    | some o, some n => pure (if o == n && p.cls == 0 then none else some ⟨0x13, 0, 1⟩)
    | some _, none => pure (some ⟨0x13, 0, 1⟩)

/-- The tag rules of plain and atomic accesses to scratchpad words (Table 8-3, R405). -/
def padCheck (s : State) (act : Action) (words : List Nat) : Option MemErr :=
  words.findSome? fun w =>
    match (s.tag w).toNat, act with
    | 3, .load => some ⟨0x41, 0, 5⟩
    | 2, .store => some ⟨0x14, 0, 1⟩
    | 2, .resolveWrite => some ⟨0x14, 0, 1⟩
    | 2, .amo _ _ _ | 2, .vamo _ | 2, .flag _ => some ⟨0x14, 0, 1⟩
    | 3, .amo _ _ _ | 3, .vamo _ | 3, .flag _ => some ⟨0x41, 0, 5⟩
    | 2, .tagLoad _ | 2, .tagStore _ => some ⟨0x14, 0, 1⟩
    | 3, .tagLoad _ => some ⟨0x41, 0, 5⟩
    | 3, .tagStore r => if r = 0 then some ⟨0x41, 0, 5⟩ else none
    | _, _ => none

/-- The condition of a tagged access (Table 8-3): the tag every word must have. -/
def tagNeeded : Action → Option (BitVec 2)
  | .tagLoad _ => some 1
  | .tagStore 0 => some 0
  | _ => none

/-- The operation behind an access. -/
def opOf (s : State) : Who → Option Op
  | .op id => s.ops.find? fun (o : Op) => o.id == id
  | .eval site entry => s.ops.find? fun (o : Op) => o.kind == .eval && o.nums.getD 0 0 == site && o.nums.getD 1 0 == entry
  | _ => none

/-- Site that an access comes from; none for a slot, which has arrived. -/
def whoSite (s : State) (who : Who) : Option Nat :=
  match who with
  | .core n _ => some (siteOf n)
  | .slot _ => none
  | w => (opOf s w).map fun o => siteOf o.core

/-- The home cannot be reached: a link of the path is DOWN (R49). -/
def cutOff (s : State) (who : Who) (pa : Nat) : Bool :=
  if s.fw.st == .starting then false
  else match whoSite s who with
    | some n => homeSite pa < 64 && pathDown s n (homeSite pa)
    | none => false

/-- The home's answer cannot come back: a link of its path is DOWN, which discards it (R49). -/
def answerLost (s : State) (who : Who) (pa : Nat) : Bool :=
  if s.fw.st == .starting then false
  else match whoSite s who with
    | some n => homeSite pa < 64 && pathDown s (homeSite pa) n
    | none => false

/-- A scratchpad word that exists: below offset 0x6000 of a window (R398). -/
def padWord (pa : Nat) : Bool :=
  match spaceOf pa with
  | .pad _ off => off < 0x6000
  | _ => false

/-- The checks one piece meets, in order: the class of its address, a copy that serves it (R392 steps 6 and 7), and at its home
storage, window, stash, owner, tags, cell, pins, poison. `o` is its offset in the access. -/
def pieceCheck (who : Who) (a : Access) (o : Nat) (p : Piece) : H Res := do
  let s ← get
  if a.act.isTagged && !padWord p.pa then return .fault ⟨0x19, 0, 1⟩ p
  if servedHere s who a.act a.mask o p then return .done []
  match locate s p.pa with
  | .error e => pure (.fault e p)
  | .ok _ =>
    if cutOff s who p.pa then return .fault (errRemote 4) p
    set (wake s p.pa)
    let s ← get
    let words := activeWords (if a.act.isTagged then [] else a.mask) o p
    let pad : Option (Nat × Nat) := match spaceOf p.pa with
      | .pad c off => some (c, off)
      | _ => none
    let weightStore := match spaceOf p.pa with
      | .weight _ off => a.act.isAtomic || (a.act.isStore && off < 0x20000000)
      | _ => false
    if weightStore then pure (.fault ⟨0x11, 0, 1⟩ p)
    else if (match pad with
      | some (c, off) => inStash s c off && !p.stash
      | none => false) then pure (.fault ⟨0x19, 0, 1⟩ p)
    else
      match ← ownerCheck who p with
      | some e => pure (.fault e p)
      | none =>
        match (if pad.isSome then padCheck s a.act words else none) with
        | some e => pure (.fault e p)
        | none =>
          match tagNeeded a.act with
          | some t =>
            if words.all (fun w => s.tag w == t) then pure (.done [])
            else
              let w := (words.find? (fun w => s.tag w != t)).getD p.pa
              pure (if padWaiters s p.pa < 32 then .wait (.tag w) else .full (.tag w))
          | none =>
            let cellRes ←
              (match a.act with
                | .cell _ | .barWait _ | .tagStore _ => pure (.done [])
                | .resolveWrite => pure (if p.defer && s.cellTag p.pa == 3 then .fault ⟨0x19, 0, 1⟩ p else .done [])
                | _ => if p.defer then needValue p.pa who p else pure (.done []))
            match cellRes with
            | .done _ =>
              let s ← get
              if a.act.isStore && s.pinned p.pa then pure (.wait (.pin (lineOf p.pa)))
              else if (a.act == .load || a.act.isAtomic) && pad.isNone && s.poisoned p.pa &&
                  (List.range p.len).any (fun i => let r := nibSel a.mask (o + i); r.1 || r.2) then
                pure (.fault ⟨0x41, 0, 5⟩ p)
              else pure (.done [])
            | r => pure r

/-- Checks pieces in order; the first that does not pass answers. -/
def checkPieces (who : Who) (a : Access) : Nat → List Piece → H Res
  | _, [] => pure (.done [])
  | o, p :: ps => do
    match ← pieceCheck who a o p with
    | .done _ => checkPieces who a (o + p.len) ps
    | r => pure r

/-- The requester is a core, whose logical time its accesses raise; a launched operation's travel with its arrival (R217). -/
def raisesTime (who : Who) : Bool :=
  match who with
  | .core _ _ | .slot _ => true
  | _ => false

def State.modOp (s : State) (id : Nat) (f : Op → Op) : State :=
  { s with ops := s.ops.map fun (x : Op) => if x.id = id then f x else x }

/-- The time of an operation's accesses: its core's, or the latest of its own writes (R217). -/
def opTime (s : State) (id n : Nat) : BitVec 48 :=
  let t := (s.core n).tick
  let w := ((s.ops.find? fun (o : Op) => o.id == id).map (·.wtime)).getD 0
  if t.toNat < w.toNat then w else t

/-- The requests whose ARG carries the requester's logical time: reads, and atomics with no compare value (R39). -/
def carriesTime (m : Slot) : Bool := m.op.toNat < 2 || (0x10 ≤ m.op.toNat && m.op.toNat ≤ 0x19 && m.op != 0x17)

/-- Raises the requester's logical time to a load's or store's (R206); an operation's travels with it to its arrival (R217). A store of
another module goes past every lease, and its time is one that an acquire brings (R63). -/
def touchTime (who : Who) (store : Bool) (p : Piece) : H Unit := modify fun s =>
  let far := (coreOf s who).isNone
  if (if far then !(store && frameTimed s p.pa) else s.classOf p != 2) then s
  else
    let l := lineOf p.pa
    let lt := mapGet {} s.times l
    match coreOf s who with
    | none =>
      let t := lt.lease + 1
      { s with times := mapSet s.times l ⟨t, t⟩, farTime := if s.farTime.toNat < t.toNat then t else s.farTime }
    | some n =>
      let t := match who with
        | .op id => opTime s id n
        | .slot m => if carriesTime m then m.arg.truncate 48 else (s.core n).tick
        | _ => (s.core n).tick
      let raise (t' : BitVec 48) : State := match who with
        | .op id => if store then s.modOp id fun o => { o with wtime := t' } else s
        | _ => if raisesTime who then s.modCore n (fun c => { c with tick := t' }) else s
      if store then
        let t' : BitVec 48 := if t.toNat ≤ lt.lease.toNat then lt.lease + 1 else t
        { raise t' with times := mapSet s.times l ⟨t', t'⟩ }
      else
        let t' : BitVec 48 := if t.toNat < lt.wts.toNat then lt.wts else t
        let e : BitVec 48 := if lt.lease.toNat < t'.toNat + 15 then t' + 15 else lt.lease
        { raise t' with times := mapSet s.times l { lt with lease := e } }

/-- The bytes of an access's pieces. -/
def readPieces (s : State) (ps : List Piece) : List Byte := ps.flatMap (fun p => readBytes s p.pa p.len)

/-- The bytes of its line that a piece writes whole. -/
def coveredBytes (mask : List Bool) (o : Nat) (p : Piece) : BitVec 128 :=
  BitVec.ofNat 128 ((List.range p.len).foldl (fun n i =>
    let r := nibSel mask (o + i)
    n + b2n (r.1 && r.2) * 2 ^ (p.pa % 128 + i)) 0)

/-- Writes the selected nibbles of one piece; a scratchpad word that was POISONED becomes FULL (Table 8-3). -/
def writeNibs (s : State) (mask : List Bool) (o : Nat) (p : Piece) (data : List Byte) : State :=
  let s := (List.range p.len).foldl (fun (s : State) i =>
    writePhys s (p.pa + i) (mergeByte (readPhys s (p.pa + i)) (data.getD (o + i) 0) (nibSel mask (o + i)))) s
  match spaceOf p.pa with
  | .pad _ _ => (activeWords mask o p).foldl (fun (s : State) w => if s.tag w == 3 then s.setTag w 1 else s) s
  | _ => s

/-- A store of the selected nibbles of one piece: a line whose 128 bytes stores have written loses its mark (R176). -/
def writePiece (mask : List Bool) (o : Nat) (p : Piece) (data : List Byte) : H Unit := modify fun s =>
  let t := writeNibs s mask o p data
  if isPad p.pa then t else t.cover p.pa (coveredBytes mask o p)

def writePieces (mask : List Bool) (data : List Byte) : Nat → List Piece → H Unit
  | _, [] => pure ()
  | o, p :: ps => do
    writePiece mask o p data
    writePieces mask data (o + p.len) ps

/-- New memory value of an atomic (Table 17-6). -/
def amoNew (op : Nat) (uns : Bool) (ty : BitVec 4) (m v cmp : Nat) : Nat :=
  let b := tyBits ty
  let lt (x y : Nat) : Bool := if uns then x < y else sext b x < sext b y
  match op with
  | 0 => (m + v) % 2 ^ b
  | 1 => if lt v m then v else m
  | 2 => if lt m v then v else m
  | 3 => Nat.land m v
  | 4 => Nat.lor m v
  | 5 => Nat.xor m v
  | 6 => v
  | 7 => if m = cmp % 2 ^ b then v else m
  | _ => (finish ty.toNat 0 false (addVal 0 (decodeFp ty.toNat m) (decodeFp ty.toNat v)) 0).1

/-- Adds the selected elements of VAMOADD (R406): integers wrap, floating-point sums round RNE in the type. -/
def vamoNew (ty : BitVec 4) (mask : List Bool) (old add : List Byte) : List Byte :=
  let b := tyBits ty / 8
  (List.range (old.length / b)).flatMap fun i =>
    let m := field old (i * b) b
    let v := field add (i * b) b
    if (nibSel mask (i * b)).1 then
      leBytes b (if isI ty then (m + v) % 2 ^ (8 * b) else amoNew 8 false ty m v 0)
    else slice old (i * b) b

/-- Whether a core's access goes by its home past its caches, which then give their copies of the lines up first: what Table 8-1 and
the page let no cache hold has none. -/
def passesCaches : Action → Bool
  | .amo _ _ _ | .vamo _ | .flag _ | .resolveWrite => true
  | .cell op => op == 2 || op == 3 || op == 4
  | _ => false

/-- The copies that the requester's core and its die's near cache have of some lines leave, their dirty bytes written back (R173). -/
def giveUp (who : Who) (ps : List Piece) : H Unit := modify fun s =>
  match who with
  | .core n _ => dropCopies s n fun l => ps.any fun p => lineOf p.pa == l
  | _ => s

/-- A load of one piece: from a cache that holds it or may take it, else from its home (R171). -/
def loadPiece (who : Who) (p : Piece) : H (List Byte) := do
  let s ← get
  let hit := servedHere s who .load [] 0 p
  if !hit then touchTime who false p
  match who with
  | .core n _ => if hit then modify (nearTime · n p) else pure ()
  | _ => pure ()
  let s ← get
  match who with
  | .core n _ =>
    if mayHold s p && (hit || !s.poisoned p.pa) then
      let r := cacheLoad s n p
      set r.2
      pure r.1
    else pure (readBytes s p.pa p.len)
  | _ => pure (readBytes s p.pa p.len)

def loadPieces (who : Who) : List Piece → H (List Byte)
  | [] => pure []
  | p :: ps => return (← loadPiece who p) ++ (← loadPieces who ps)

/-- A store of one piece: into a cache where it is written back, else at its home (R171). -/
def storePiece (who : Who) (mask : List Bool) (o : Nat) (p : Piece) (data : List Byte) : H Unit := do
  modify fun s => match who with
    | .core n _ => if p.stash then stashBind s n p else s
    | _ => s
  let s ← get
  let cached : Option Nat := match who with
    | .core n _ => if mayWrite s mask o p && (servedHere s who .store mask o p || !s.poisoned p.pa) then some n else none
    | _ => none
  match cached with
  | some n => set (cacheStore s n mask o p data)
  | none => do
    if !p.nc then giveUp who [p]
    touchTime who true p
    writePiece mask o p data

def storePieces (who : Who) (mask : List Bool) (data : List Byte) : Nat → List Piece → H Unit
  | _, [] => pure ()
  | o, p :: ps => do
    storePiece who mask o p data
    storePieces who mask data (o + p.len) ps

/-- Performs an access once every piece has passed its checks (R394). -/
def performNow (who : Who) (a : Access) : H Res := do
  if passesCaches a.act then giveUp who a.pieces
  let s ← get
  let old := readPieces s a.pieces
  let stamp : H Unit := a.pieces.forM (fun p => touchTime who (a.act.isStore || a.act.isTagged) p)
  match a.act with
  | .load => return .done (← loadPieces who a.pieces)
  | .store => do storePieces who a.mask a.data 0 a.pieces; pure (.done [])
  | .resolveWrite => do
    stamp
    (List.range (a.data.length / 128)).forM fun i => do
      match a.pieces.head? with
      | some p => resolveCell (p.pa + 128 * i) (slice a.data (128 * i) 128)
      | none => pure ()
    pure (.done [])
  | .tagLoad clear => do
    stamp
    if clear then modify fun s => a.pieces.foldl (fun (s : State) p => s.setTag p.pa 0) s
    pure (.done old)
  | .tagStore rule => do
    stamp
    writePieces a.mask a.data 0 a.pieces
    modify fun s => a.pieces.foldl (fun (s : State) p =>
      (List.range (p.len / 4)).foldl (fun (s : State) i => s.setTag (p.pa + 4 * i) (if rule = 2 then 0 else 1)) s) s
    pure (.done [])
  | .amo op uns ty => do
    stamp
    let n := amoNew op uns ty (leNat old) (leNat a.data) a.arg.toNat
    writePieces [] (leBytes old.length n) 0 a.pieces
    pure (.done old)
  | .vamo ty => do
    stamp
    writePieces a.mask (vamoNew ty a.mask old a.data) 0 a.pieces
    pure (.done old)
  | .flag op => do
    let m := leNat old
    if op = 2 then
      if m ≥ a.arg.toNat then do stamp; pure (.done old)
      else
        let s ← get
        match a.pieces.head? with
        | none => pure (.done old)
        | some p =>
          let room : Bool := match spaceOf p.pa with
            | .pad _ _ => decide (padWaiters s p.pa < 32)
            | _ => decide (sliceWaiters s p.pa < 256)
          pure (if room then .wait (.flag p.pa) else .full (.flag p.pa))
    else do
      stamp
      writePieces [] (leBytes 8 (if op = 0 then (m + a.arg.toNat) % 2 ^ 64 else a.arg.toNat)) 0 a.pieces
      pure (.done old)
  | .cell op =>
    match a.pieces.head? with
    | none => pure (.done [])
    | some p => do
      if op == 2 || op == 3 || op == 4 then
        let s ← get
        if s.pinned p.pa then return .wait (.pin (lineOf p.pa))
      let changes := cellChanges (← get) op p.pa
      let r ← cellOp op p.pa who a.data a.arg p
      match r with
      | .done w =>
        -- CSTAT and WAITC are loads; a change is a write of the whole line; TOUCH and what is refused are neither (R185, R395)
        if changes || op == 1 || op == 5 then touchTime who changes p
        -- CSTAT and WAITC that return VALUE (R409)
        if (op == 1 || op == 5) && w.all (· == 0) then giveUp who [p]
      | _ => pure ()
      pure r
  | .barWait ph =>
    match a.pieces.head? with
    | none => pure (.done [])
    | some p =>
      let w2 := leNat (readBytes s (p.pa + 8) 4)
      if (w2 % 2 == 1) != ph then pure (.done (readBytes s (p.pa + 12) 4))
      else do
        set (writeBytes s (p.pa + 8) (leBytes 4 (w2 + 65536)))
        pure (.wait (.barrier p.pa))

/-- An access as its homes see it: every piece is checked before any performs. -/
def atHomes (who : Who) (a : Access) : H Res := do
  match ← checkPieces who a 0 a.pieces with
  | .done _ => performNow who a
  | r => pure r

/-- The pieces of an access that go to their homes. -/
def awayPieces (s : State) (who : Who) (a : Access) : Nat → List Piece → List Piece
  | _, [] => []
  | o, p :: ps =>
    let r := awayPieces s who a (o + p.len) ps
    if servedHere s who a.act a.mask o p then r else p :: r

/-- A piece's way to its home is held (R24, R48). -/
def heldAway (s : State) (who : Who) (p : Piece) : Bool :=
  match whoSite s who with
  | some n => (locate s p.pa).toBool && pathHeld s n p.pa
  | none => false

/-- Counts the flits of an access's pieces (R52). -/
def countPieces (who : Who) (ps : List Piece) : H Unit := modify fun s =>
  match whoSite s who with
  | some n => ps.foldl (fun s p => countAccess s n p.pa) s
  | none => s

/-- An access and its answer. Where a home's answer is lost, what it did there stands and the requester's timer completes the
request with ERR 0x04 (R49, R50). -/
def perform (who : Who) (a : Access) : H Res := do
  let s ← get
  let away := awayPieces s who a 0 a.pieces
  match away.find? (heldAway s who) with
  | some p => return .wait (.path p.pa)
  | none => pure ()
  let r ← atHomes who a
  let lost (p : Piece) : Bool := (locate s p.pa).toBool && answerLost s who p.pa
  match r with
  | .done bs =>
    countPieces who away
    match away.find? lost with
    | some p => pure (.fault (errRemote 4) p)
    | none => pure (.done bs)
  | .fault e p => do
    countPieces who away
    pure (.fault (if lost p then errRemote 4 else e) p)
  | r => pure r

/-! ## Completing accesses -/

/-- Nibbles of bytes, low nibble first. -/
def nibbles (bs : List Byte) : List (BitVec 4) := bs.flatMap (fun b => [b.extractLsb' 0 4, b.extractLsb' 4 4])

def ofNibbles : List (BitVec 4) → List Byte
  | lo :: hi :: r => (hi ++ lo : BitVec 8) :: ofNibbles r
  | _ => []

def vecBytes (v : Vec) : List Byte := leBytes 64 v.toNat
def vecOf (bs : List Byte) : Vec := BitVec.ofNat 512 (leNat bs)

/-- Unbinds the slots whose target or pinned source is a register (R250). -/
def unbind (c : Ctx) (k : Kind) (r : Nat) : Ctx :=
  if c.recipes.isEmpty then c
  else { c with recipes := c.recipes.filter (fun e => !((e.2.kind == k && e.2.target == r) || e.2.pins.contains (k, r))) }

/-- Writes a register of a context: its value, FULL, no producer pending; x0 and p0 keep theirs (Table 11-6). An ordinary
write ends the register's transient (R243). -/
def Ctx.putX (c : Ctx) (r : Nat) (v : Word) : Ctx :=
  if r = 0 then c else { unbind c .x r with x := mapSet c.x r { val := v } }
def Ctx.putV (c : Ctx) (r : Nat) (v : Vec) : Ctx :=
  let c := unbind c .v r
  { c with v := mapSet c.v r { val := v }, window := c.window.filter (fun t => !(t.kind == .v && t.reg == r)) }
def Ctx.putP (c : Ctx) (r : Nat) (v : Pred) : Ctx :=
  if r = 0 then c
  else
    let c := unbind c .p r
    { c with p := mapSet c.p r { val := v }, window := c.window.filter (fun t => !(t.kind == .p && t.reg == r)) }

def Ctx.regX (c : Ctx) (r : Nat) : Reg Word := if r = 0 then { val := 0 } else mapGet { val := 0 } c.x r
def Ctx.regV (c : Ctx) (r : Nat) : Reg Vec := mapGet { val := 0 } c.v r
def Ctx.regP (c : Ctx) (r : Nat) : Reg Pred := if r = 0 then { val := BitVec.allOnes 64 } else mapGet { val := 0 } c.p r

def Ctx.liveAt (c : Ctx) (k : Kind) (r : Nat) : Option Transient := c.window.find? (fun t => t.live && t.kind == k && t.reg == r)

/-- Bytes of a group as a reader of them sees it: a live transient's, else the file's (R243). -/
def Ctx.liveGroup (c : Ctx) (rs : List Nat) : List Byte := rs.flatMap fun r => match c.liveAt .v r with
  | some t => vecBytes t.val
  | none => vecBytes (c.regV r).val

/-- Bytes a group of vector registers holds. -/
def Ctx.group (c : Ctx) (rs : List Nat) : List Byte := rs.flatMap (fun r => vecBytes (c.regV r).val)

/-- Writes members of a group from its bytes. -/
def Ctx.putGroup (c : Ctx) : List Nat → List Byte → Ctx
  | [], _ => c
  | r :: rs, bs => (c.putV r (vecOf (slice bs 0 64))).putGroup rs (bs.drop 64)

/-- Puts nibbles in their places. -/
def placeNibs (img : List (BitVec 4)) : List Nat → List (BitVec 4) → List (BitVec 4)
  | n :: ns, v :: vs => placeNibs (img.set n v) ns vs
  | _, _ => img

/-- Delivers the bytes an access returned (R393, R396). -/
def deliver (c : Ctx) (d : Dest) (bs : List Byte) : Ctx :=
  match d with
  | .none | .again => c
  | .x r n signed =>
    let v := leNat (bs.take n)
    c.putX r (if signed then BitVec.ofInt 64 (sext (8 * n) v) else BitVec.ofNat 64 v)
  | .v rs nibs => c.putGroup rs (ofNibbles (placeNibs (nibbles (c.liveGroup rs)) nibs (nibbles bs)))

/-- Marks the destination of an access that waits EMPTY and pending (R233, R393). A slot that targets it is unbound when the result is
written, so that a withdrawn access leaves the register, and its slot, as they were before issue (R250). -/
def markPending (c : Ctx) (d : Dest) : Ctx :=
  match d with
  | .none | .again => c
  | .x r _ _ =>
    if r = 0 then c
    else let g := c.regX r; { c with x := mapSet c.x r { g with fill := .empty, pend := some g.fill } }
  | .v rs _ => { c with v := rs.foldl (fun m r =>
      let g := mapGet { val := 0 } m r
      mapSet m r { g with fill := .empty, pend := some g.fill }) c.v }

/-- Ages live transients by one T word (R243). -/
def ageWindow (w : List Transient) : List Transient :=
  if w.isEmpty then w else (w.map (fun t => { t with left := t.left - 1 })).filter (fun t => t.left != 0)

/-- Retires a word of an engine: its address, and for T the transients, move on. -/
def retire (c : Ctx) (e : Eng) (parcels : Nat) : Ctx :=
  let g := c.eng e
  let c := c.setEng e { g with pc := g.pc + BitVec.ofNat 56 (2 * parcels) }
  match e with
  | .t => { c with window := ageWindow c.window }
  | _ => c

/-- Keeps what an access has brought for when its word is executed again; for a store, no more than that it has performed. -/
def keepBrought (s : State) (n : Nat) (e : Eng) (a : Access) (bs : List Byte) : State :=
  let reads : Bool := !(a.act.isStore && !a.act.isAtomic)
  let go := a.pieces.foldl (fun (r : Nat × List (Nat × Nat × List Byte)) p =>
    (r.1 + p.len, r.2 ++ [(wordKey n e, p.pa, if reads then slice bs r.1 p.len else [])])) (0, [])
  { s with arrived := s.arrived ++ go.2 }

/-- Completes a waiting access of an engine: the register is written, the word retires. A word that T has gone on behind has retired
already (R252), and one that is executed again keeps what the access has brought. -/
def completeCore (s : State) (n : Nat) (e : Eng) (w : Waiter) (bs : List Byte) : State :=
  let s := match w.acc.act with
    | .flag 2 => acquireModule s n
    | _ => s
  if w.dest == .again then keepBrought s n e w.acc bs
  else if e == .t && (s.core n).ahead.isSome then s.modCore n fun c => { c with ctx := deliver c.ctx w.dest bs, ahead := none }
  else s.modCore n fun c => { c with ctx := retire (deliver c.ctx w.dest bs) e w.len }.disarm e (c.ctx.eng e).pc

/-- An answer to a request slot (R39): RDATA, DONE or ERR with the slot's TAG and CORE, on its way to the requester. -/
def respond (s : State) (m : Slot) (op : Nat) (arg : Nat) (payload : List Byte) : State :=
  postSlot s (responseSlot m op arg payload)

/-- The line flit that answers RDLINE, with the line's tag and lease (R40). -/
def answerLine (s : State) (m : Slot) (status : Nat) (bs : List Byte) : State :=
  postLine s { noLine with src := m.dst, dst := m.src, addr := BitVec.ofNat 48 (lineOf m.addr.toNat),
                           status := BitVec.ofNat 8 status, tag := m.tag, core := m.core, ctag := s.cellTag m.addr.toNat,
                           ltime := (mapGet {} s.times (lineOf m.addr.toNat)).lease, line := slice bs 0 128 }

/-- The slot that stands for one part of a bulk flit's data at its home. -/
def bulkPart (src dst bxid addr len : Nat) : Slot :=
  { noSlot with src := src, dst := dst, op := 0x30, addr := BitVec.ofNat 48 addr, len := len, arg := BitVec.ofNat 64 bxid }

def Bulk.isOf (b : Bulk) (m : Slot) : Bool := b.src == m.src && b.dst == m.dst && b.bxid.toNat == m.arg.toNat

/-- A bulk transfer that has consumed all of its flits, none of whose data still waits, answers DONE, or ERR with its first
failing code (R41). -/
def bulkSettle (s : State) (m : Slot) : State :=
  match s.bulks.find? (·.isOf m) with
  | none => s
  | some b =>
    let waits := s.waiters.any fun w => match w.who with
      | .slot x => x.op == 0x30 && b.isOf x
      | _ => false
    if b.got * 240 < b.count || waits || b.block.isSome then s
    else
      let s := { s with bulks := s.bulks.filter (fun x => !x.isOf m) }
      let open' : Slot := { noSlot with src := b.src, dst := b.dst, addr := BitVec.ofNat 48 b.addr, tag := b.tag, core := b.core }
      if b.discard then s else if b.err == 0 then respond s open' 0x41 0 [] else respond s open' 0x42 b.err.toNat []

/-- The lease that an answer carries in ARG: that of a line of a hardware-coherent frame (R39, R206). -/
def leaseArg (s : State) (pa : Nat) : Nat :=
  if mapFind s.classes (pa / 0x10000) == some 2 then (mapGet {} s.times (lineOf pa)).lease.toNat else 0

/-- One answer to each slot that an operation has come in (R38, R39): what the i-th brings back. -/
def respondAll (s : State) (m : Slot) (f : Nat → State → State) : State :=
  (List.range (if bigSlot m then slotCount m.len else 1)).foldl (fun s i => f i s) s

/-- The final response of a slot that performed: DONE for WRMASK and TAGST, a line flit for RDLINE, else RDATA, with the first 32
bytes of what it returns, or its own 32 of a VAMOADD's (Table 2-3); FADD and FSET return the old value (R416). -/
def answer (s : State) (m : Slot) (bs : List Byte) : State :=
  match m.op.toNat with
  | 0x00 => answerLine s m 0 bs
  | 0x02 | 0x03 => respond s m 0x41 0 []
  | 0x30 => bulkSettle s m
  | _ => respondAll s m fun i s =>
      respond s m 0x40 (leaseArg s m.addr.toNat) ((if m.op == 0x19 then bs.drop (32 * i) else bs).take 32)

/-- ARG of an error response: the code of Table 2-4; behind it the trap of a cell access with its reason, which the requester takes
(R186; notes/assumptions/17.md). -/
def MemErr.arg (e : MemErr) : Nat := if 0x15 ≤ e.cause ∧ e.cause ≤ 0x17 then e.code + 256 * e.cause + e.info else e.code

def answerErr (s : State) (m : Slot) (code : Nat) : State :=
  match m.op.toNat with
  | 0x00 => if code < 256 then answerLine s m code [] else respond s m 0x42 code []
  | 0x30 =>
    let mark (b : Bulk) : Bulk := if b.isOf m && b.err == 0 then { b with err := BitVec.ofNat 8 code } else b
    bulkSettle { s with bulks := s.bulks.map mark } m
  | _ => respondAll s m fun _ s => respond s m 0x42 code []

/-- A write of an operation at its home is over, with a code: its number among the operation's lines, and whether it marks its line
poisoned, stand in ARG. -/
def noteWrite (s : State) (id : Nat) (p : Piece) (arg code : Nat) : State :=
  let s := if code = 0 && arg.testBit 32 && !isPad p.pa then s.setPoison p.pa true else s
  s.modOp id fun o => { o with taken := (2 ^ 48 + arg % 2 ^ 32, [BitVec.ofNat 8 code]) :: o.taken,
                               wrote := if o.wrote.contains (homeSite p.pa) then o.wrote else homeSite p.pa :: o.wrote }

/-- Completes a waiter whose access has performed. An operation keeps the bytes that it waited for (R194). -/
def completeWaiter (s : State) (w : Waiter) (bs : List Byte) : State :=
  match w.who with
  | .core n e => completeCore s n e w bs
  | .slot m => answer s m bs
  | w' =>
    match opOf s w', w.acc.pieces.head? with
    | some o, some p =>
      if w.acc.act == .load then s.modOp o.id fun o => { o with taken := (p.pa, bs) :: o.taken }
      else noteWrite s o.id p w.acc.arg.toNat 0
    | _, _ => s

/-- TINFO of a memory fault: the access code, the stash bit, the element (Table 8-2, R403). -/
def accCode : Action → Nat
  | .load => 0
  | .store | .resolveWrite => 1
  | .tagLoad _ | .barWait _ => 4
  | .tagStore _ => 5
  | .amo _ _ _ | .vamo _ | .flag _ => 3
  | .cell op => if op == 2 || op == 3 || op == 4 then 1 else 0

def faultInfo (acc : Nat) (e : MemErr) (p : Piece) : Word :=
  BitVec.ofNat 64 (acc + 8 * b2n p.stash + e.info + p.elem * 2 ^ 40)

/-- A waiter whose access fails: the trap at its word, or ERR (R186, R39). While other engines of the core are busy, the word is executed
again instead, and meets what has failed then. -/
def failWaiter (s : State) (w : Waiter) (e : MemErr) (p : Piece) : State :=
  match w.who with
  | .core n g =>
    if othersBusy s n g then s.modCore n fun c =>
      let c := if g == .t then c.unwind else c
      { c with ctx := clearPending c.ctx }
    else takeTrap s n (engCode g) e.cause p.va (faultInfo (accCode w.acc.act) e p)
  | .slot m => answerErr s m e.arg
  | .op id => if w.acc.act == .load then s else noteWrite s id p w.acc.arg.toNat (if e.cause = 0x15 then 1 else e.code)
  | .eval _ _ => s

/-- The first waiter that can be served, examined in order of arrival; on one scratchpad word only the head of the queue is
(R162). Retrying waiters and barrier waiters are served elsewhere. -/
def serveFrom (seen : List WaitOn) : List Waiter → List Waiter → H Bool
  | _, [] => pure false
  | done, w :: ws => do
    let blocked := match w.on with
      | .tag _ => seen.contains w.on
      | .barrier _ => true
      | _ => false
    if w.retry then serveFrom seen (done ++ [w]) ws
    else if blocked then serveFrom (w.on :: seen) (done ++ [w]) ws
    else
      let before ← get
      set { before with waiters := done ++ ws }
      match ← perform w.who w.acc with
      | .done bs => do modify (completeWaiter · w bs); pure true
      | .fault e p => do modify (failWaiter · w e p); pure true
      | .wait on =>
        if on == w.on then do
          modify fun s => { s with waiters := before.waiters }
          serveFrom (w.on :: seen) (done ++ [w]) ws
        else do
          modify fun s => { s with waiters := done ++ { w with on := on } :: ws }
          pure true
      | .full on => do
        modify fun s => { s with waiters := done ++ { w with on := on, retry := true } :: ws }
        pure true

/-- Serves waiters until none can be (R162, R194, R417). -/
def settleN : Nat → H Unit
  | 0 => pure ()
  | n + 1 => do
    let s ← get
    if ← serveFrom [] [] s.waiters then settleN n

def settle : H Unit := do
  let s ← get
  if s.waiters.isEmpty then pure () else settleN (2 * s.waiters.length + 1)

/-- The state once the accesses that wait have been served. -/
def State.settled (s : State) : State := (settle.run s).2

/-! ## Barrier objects (R215 to R219) -/

def isBarrier (s : State) (b : Nat) : Bool :=
  (List.range 4).all (fun i => s.tag (b + 4 * i) == 2)

def barWord (s : State) (b i : Nat) : Nat := leNat (readBytes s (b + 4 * i) 4)
def setBarWord (s : State) (b i v : Nat) : State := writeBytes s (b + 4 * i) (leBytes 4 v)

/-- What a core acquires at a barrier object (R218): GENL1 goes on, its die's generation too where a counted operation has written lines
homed on another die, and TICK rises to the time the arrivals carried. -/
def acquireBar (s : State) (core b : Nat) : State :=
  let t := mapGet 0 s.barTimes b
  let far := (mapGet [] s.barSites b).any (· != siteOf core)
  (if far then acquireModule s core else acquire s core).modCore core fun c =>
    { c with tick := if c.tick.toNat < t.toNat then t else c.tick }

/-- The first condition of a marker (R154): every earlier record of its pair has issued. -/
def markerFree (d : Die) (t : TileTask) : Bool :=
  !d.tiles.any fun e => e.2.kind != 2 && e.2.st == 1 && e.2.w.toNat % 8 == t.w.toNat % 8 && e.2.qseq < t.qseq

/-- What a marker has seen of its two conditions, now (R154). -/
def noteMarker (s : State) (d : Die) (t : TileTask) : TileTask :=
  if t.kind != 2 || t.due || !markerFree d t then t
  else match t.bar with
    | none => { t with due := true }
    | some b => if (barWord s b 2 % 2 == 1) != t.phase then { t with due := true } else { t with late := true }

/-- Every marker's conditions are looked at: an object's phase, or a queue, has changed. -/
def noteMarkers (s : State) : State :=
  if !s.dies.any (fun d => d.2.tiles.any fun e => e.2.kind == 2) then s
  else { s with dies := s.dies.map fun d => (d.1, { d.2 with tiles := d.2.tiles.map fun e => (e.1, noteMarker s d.2 e.2) }) }

/-- Releases the waiters of a barrier that `sel` picks, each with word 3; one released by a phase end acquires (R218). -/
def release (s : State) (b : Nat) (acq : Bool) (sel : Bool → Bool) : State :=
  let hit (w : Waiter) : Bool := match w.on, w.acc.act with
    | .barrier a, .barWait ph => a == b && sel ph
    | _, _ => false
  let out := s.waiters.filter hit
  let s := { s with waiters := s.waiters.filter (fun w => !hit w) }
  let w2 := barWord s b 2
  let s := setBarWord s b 2 (w2 % 65536 + (w2 / 65536 - out.length) * 65536)
  let w3 := readBytes s (b + 12) 4
  out.foldl (fun (s : State) w =>
    let s := match acq, w.who with
      | true, .core n _ => acquireBar s n b
      | _, _ => s
    completeWaiter s w w3) s

/-- check_phase (R216). -/
def checkPhase (s : State) (b : Nat) : State :=
  let e := barWord s b 0
  let a := barWord s b 1
  if e > 0 ∧ a ≥ e then
    let s := setBarWord s b 1 (a - e)
    let s := if a - e > 0 then setBarWord s b 3 (Nat.lor (barWord s b 3) 1) else s
    let w2 := barWord s b 2
    let ph := w2 % 2 == 0
    let s := noteMarkers (setBarWord s b 2 (w2 - w2 % 2 + b2n ph))
    release s b true (fun rec' => rec' != ph)
  else s

/-- binit (R216). -/
def binit (s : State) (b e : Nat) : State :=
  let waiting := isBarrier s b && barWord s b 2 / 65536 > 0
  let s := if waiting then setBarWord s b 3 2 else s
  let s := if waiting then release s b false (fun _ => true) else s
  let s := (List.range 4).foldl (fun (s : State) i => s.setTag (b + 4 * i) 2) s
  let s := noteMarkers (setBarWord (setBarWord (setBarWord s b 0 e) b 1 0) b 2 0)
  setBarWord s b 3 (if waiting then 2 else 0)

/-- bexp (R216). -/
def bexp (s : State) (b n : Nat) : State := checkPhase (setBarWord s b 0 ((barWord s b 0 + n) % 2 ^ 32)) b

/-- binv (R216). -/
def binv (s : State) (b : Nat) : State :=
  let w3 := Nat.lor (barWord s b 3) 4
  let s := setBarWord s b 3 w3
  let s := release s b false (fun _ => true)
  (List.range 4).foldl (fun (s : State) i => s.setTag (b + 4 * i) 1) s

/-- An arrival (R216, R217): bytes, the LAUNCH or ERR mark with its code. False when no barrier stands there. -/
def arrive (s : State) (b n : Nat) (launch : Bool) (code : Nat) : State × Bool :=
  if !isBarrier s b then (s, false)
  else
    let w3 := barWord s b 3
    let w3 := if launch then Nat.lor w3 8 else w3
    let w3 := if code > 0 then Nat.lor w3 16 + (if bits w3 15 8 = 0 then code * 256 else 0) else w3
    let s := setBarWord s b 3 w3
    let a := barWord s b 1 + n
    (checkPhase (setBarWord s b 1 (if a ≥ 2 ^ 32 then 2 ^ 32 - 1 else a)) b, true)

end Sys2Proof.Machine
end

