-- ==== Sys2Proof/Machine/Access.lean ====
section
/-! DEFINITION. Words in progress: how one ends (retired, trapped, stalled, waiting), translation (R180, R181), and making an
access from an engine (R392). -/

namespace Sys2Proof.Machine

/-- Why a word does not retire in this step. -/
inductive Stop where
  /-- it traps: cause, TADDR, TINFO -/
  | trap (cause : Nat) (addr info : Word)
  /-- it must wait and has done nothing -/
  | stall
  /-- its access waits at a home, with the destination it has emptied -/
  | hold (d : Dest)
  deriving DecidableEq, Repr

/-- A word in progress. -/
abbrev M := EStateM Stop State

def liftH {α : Type} (h : H α) : M α := fun s =>
  let r := h.run s
  .ok r.1 r.2

def trap {α : Type} (cause : Nat) (addr info : Word) : M α := throw (.trap cause addr info)
def stall {α : Type} : M α := throw .stall

/-- Illegal encoding (R312). -/
def illegal {α : Type} : M α := trap 0x01 0 0

/-- A malformed operand value with its reason (R354). -/
def badValue {α : Type} (reason : Nat) : M α := trap 0x03 0 (BitVec.ofNat 64 reason)

def curCore : M Core := do return (← get).core (← get).turn
def curCtx : M Ctx := do return (← get).ctx
def modCtx (f : Ctx → Ctx) : M Unit := modify fun s => s.setCtx (f s.ctx)
def modCur (f : Core → Core) : M Unit := modify fun s => s.modCore s.turn f
def curSite : M Nat := do return siteOf (← get).turn

def orFlags (f : BitVec 7) : M Unit := modCtx fun c => { c with flags := c.flags ||| f }

/-! ## Translation -/

/-- Access codes of Table 8-2. -/
def aLoad : Nat := 0
def aStore : Nat := 1
def aFetch : Nat := 2
def aAtomic : Nat := 3
def aTagLoad : Nat := 4
def aTagStore : Nat := 5
def aSrc : Nat := 6
def aDst : Nat := 7

def writes (acc : Nat) : Bool := acc == 1 || acc == 3 || acc == 5 || acc == 7

/-- What a leaf gives (Table 8-8). -/
structure Leaf where
  pa : Nat
  cls : BitVec 2
  defer : Bool
  nc : Bool
  w : Bool
  /-- the entry, and whether its page is one of 4 MiB -/
  raw : Nat
  big : Bool
  deriving DecidableEq, Repr

def fNotPresent (lvl : Nat) : MemErr := ⟨0x10, lvl * 16, 1⟩
def fMalf (lvl : Nat) : MemErr := ⟨0x10, lvl * 16 + 64, 1⟩
def fPerm : MemErr := ⟨0x11, 0, 1⟩

/-- A page-table entry behind a remote window has not been read yet: the fault names its address above bit 64 (R59). -/
def fRemoteEntry (pa : Nat) : MemErr := ⟨0x40, 0x500 + pa * 2 ^ 64, 0⟩

/-- Something that a walk reads cannot be reached for now: its word waits (R24, R48). -/
def fHeld : MemErr := ⟨0x40, 0x500 + 2 ^ 128, 0⟩

/-- What a word must wait for before its walk ends: an entry that must be read through a window first, by its address, or a way that is
held. -/
def MemErr.entryAt (e : MemErr) : Option Nat := if e.info ≥ 2 ^ 64 then some (e.info / 2 ^ 64) else none

/-- The way of the core of the turn to a home and back: held for now, or cut by a link that is DOWN, which answers ERR 0x04 (R24, R48,
R49). -/
def wayHere (s : State) (pa : Nat) : Except MemErr Unit :=
  let n := siteOf s.turn
  let h := homeSite pa
  if n ≥ 64 || s.fw.st == .starting then .ok ()
  else if pathDown s n h || pathDown s h n then .error (errRemote 4)
  else if wayHeld s n h then .error fHeld
  else .ok ()

/-- Eight bytes of a page table. DESIGN CHOICE (notes/assumptions/16.md): an entry that no storage answers for, because it lies in a
hole, at an unbacked address, in a layer that is OFF or behind a window whose VALID is 0, reads as 0, so the walk raises 0x10 not
present. One that a DOWN link cuts off raises the machine check of its ERR (R49). -/
def read64 (s : State) (pa : Nat) : Except MemErr Nat :=
  match spaceOf pa with
  | .remote w _ =>
    if !(mapGet {} s.fw.fwin w).valid then .ok 0
    else match s.arrived.find? (fun r => r.1 == wordKey s.turn s.eng && r.2.1 == pa && r.2.2.length == 8) with
      | some r => .ok (leNat r.2.2)
      | none => .error (fRemoteEntry pa)
  | _ => match wayHere s pa with
    | .ok _ => .ok (leNat (readBytes s pa 8))
    | .error e => .error e

/-- check_leaf (R180). -/
def checkLeaf (e acc : Nat) (user : Bool) : Except MemErr Unit :=
  let b (i : Nat) : Bool := e.testBit i
  if bits e 3 1 = 0 || bits e 5 4 = 3 || (b 6 && b 7) || b 10 || bits e 15 12 != 0 || bits e 55 48 != 0 then .error (fMalf 0)
  else if b 11 && user then .error fPerm
  else if writes acc && b 7 then .error ⟨0x18, 0, 1⟩
  else if acc = aFetch && (!b 3 || b 6) then .error fPerm
  else if (acc = aLoad || acc = aTagLoad || acc = aSrc) && !b 1 then .error fPerm
  else if writes acc && !b 2 then .error fPerm
  else .ok ()

/-- The checks of the frame's region against the class and the issuing core (R61, R175, R184, R213). -/
def regionOk (core : Nat) (e pa : Nat) : Bool :=
  let cls := bits e 5 4
  let defer := e.testBit 6
  let byClass := match spaceOf pa with
    | .remote _ _ | .slow _ => cls == 1
    | .dram _ => true
    | .pad c _ => cls != 0 || c == core
    | _ => cls != 0
  byClass && (!defer || (cls != 0 && match spaceOf pa with
    | .dram _ | .remote _ _ => true
    | _ => false))

/-- A leaf that passes, with the physical address. -/
def leafOf (core acc : Nat) (user : Bool) (e pa : Nat) (big : Bool) : Except MemErr Leaf :=
  match checkLeaf e acc user with
  | .error f => .error f
  | .ok _ =>
    if regionOk core e pa then
      .ok { pa := pa, cls := BitVec.ofNat 2 (bits e 5 4), defer := e.testBit 6, nc := e.testBit 8, w := e.testBit 2,
            raw := e, big := big }
    else .error fPerm

/-- The walk from level `lvl` down (R180). -/
def walk (s : State) (core acc : Nat) (user : Bool) (va : Nat) : Nat → Nat → Except MemErr Leaf
  | 0, t =>
    match read64 s (t + 8 * bits va 25 16) with
    | .error x => .error x
    | .ok e =>
      if !e.testBit 0 then .error (fNotPresent 0)
      else leafOf core acc user e (bits e 47 16 * 65536 + va % 65536) false
  | lvl + 1, t =>
    let l := lvl + 1
    match read64 s (t + 8 * bits va (10 * l + 25) (10 * l + 16)) with
    | .error x => .error x
    | .ok e =>
      if !e.testBit 0 then .error (fNotPresent l)
      else if l = 1 && e.testBit 10 then
        if bits e 9 1 != 0 then .error (fMalf l)
        else
          match read64 s (bits e 47 16 * 65536 + 8 * bits va 25 22) with
          | .error x => .error x
          | .ok f =>
            if !f.testBit 0 then .error (fNotPresent 0)
            else
              match checkLeaf f acc user with
              | .error x => .error x
              | .ok _ =>
                if bits f 21 16 != 0 then .error (fMalf 0)
                else leafOf core acc user f (bits f 47 22 * 4194304 + va % 4194304) true
      else if bits e 15 1 != 0 then .error (fMalf l)
      else walk s core acc user va lvl (bits e 47 16 * 65536)

/-- translate (R180), for a core, an ASID and a privilege. -/
def translate (s : State) (core : Nat) (asid : BitVec 12) (user : Bool) (va : Word) (acc : Nat) : Except MemErr Leaf :=
  if va.toNat ≥ 2 ^ 56 then .error ⟨0x10, 128, 1⟩
  else
    match mapFind s.fw.roots asid.toNat with
    | none => .error (fNotPresent 3)
    | some root => walk s core acc user va.toNat 3 root

/-! ## Translation caches (R182) -/

/-- Size of an entry's page. -/
def Tlb.size (t : Tlb) : Nat := if t.big then 0x400000 else 0x10000

/-- The generation that an entry must have: its address space's, or that of ASID 0 for a G entry. -/
def Tlb.current (t : Tlb) (d : Die) : BitVec 16 := mapGet 0 d.gens (if t.g then 0 else t.asid.toNat)

def Tlb.hits (t : Tlb) (d : Die) (asid : BitVec 12) (va : Nat) : Bool :=
  (t.g || t.asid == asid) && t.page == va / t.size && t.gen == t.current d

/-- The entry that a core finds for an address, its own first. -/
def cachedEntry (s : State) (core : Nat) (asid : BitVec 12) (va : Nat) : Option Tlb :=
  let d := s.die (siteOf core)
  ((s.core core).tlb.find? fun t => t.hits d asid va) <|> d.tlb.find? fun t => t.hits d asid va

/-- What a cached entry gives: the checks are made anew. -/
def Tlb.leaf (t : Tlb) (core acc : Nat) (user : Bool) (va : Nat) : Except MemErr Leaf :=
  leafOf core acc user t.raw ((if t.big then bits t.raw 47 22 * 4194304 else bits t.raw 47 16 * 65536) + va % t.size) t.big

/-- The tables say nothing yet: an entry must be fetched first, or its way is held or cut (R24, R48, R49, R59). -/
def MemErr.unread (e : MemErr) : Bool := e.entryAt.isSome || e == errRemote 4

/-- translate through the caches of a core and its die. An entry that a walk would not give any more may still be used; whether one is,
the manual does not say (notes/assumptions/38.md). One that is cached needs no walk. -/
def translateAt (s : State) (core : Nat) (asid : BitVec 12) (user : Bool) (va : Word) (acc : Nat) : Except MemErr Leaf :=
  let now := translate s core asid user va acc
  if va.toNat ≥ 2 ^ 56 || (mapFind s.fw.roots asid.toNat).isNone then now
  else match cachedEntry s core asid va.toNat with
    | none => now
    | some t =>
      let mayTake : Bool := match now with
        | .ok l => (l.raw == t.raw && l.big == t.big) || !Config.oldTranslation core s.cycle.toNat
        | .error e => !e.unread && !Config.oldTranslation core s.cycle.toNat
      if mayTake then now else t.leaf core acc user va.toNat

/-- translate for the context of the turn. -/
def translateHere (s : State) (va : Word) (acc : Nat) : Except MemErr Leaf :=
  translateAt s s.turn (s.core s.turn).ctx.asid (!(s.core s.turn).sup) va acc

/-- The entry that a translation leaves in the caches. -/
def tlbOf (s : State) (va : Nat) (l : Leaf) : Tlb :=
  let t : Tlb := { asid := (s.core s.turn).ctx.asid, page := va / (if l.big then 0x400000 else 0x10000), big := l.big,
                   g := l.raw.testBit 9, gen := 0, raw := l.raw }
  { t with gen := t.current (s.die (siteOf s.turn)) }

/-- Puts an entry first in a list of them. -/
def firstEntry (t : Tlb) (l : List Tlb) : List Tlb :=
  if l.contains t then l else t :: l.filter fun x => !(x.asid == t.asid && x.page == t.page && x.big == t.big)

/-- Puts an entry first in a core's cache of 128; the oldest leaves. -/
def putEntry (t : Tlb) (l : List Tlb) : List Tlb := (firstEntry t l).take 128

/-- The set of a die's cache that an entry stands in: 2,048 of them, by its page (DESIGN CHOICE, notes/assumptions/38.md). -/
def Tlb.set (t : Tlb) : Nat := t.page % 2048

/-- Puts an entry first in a die's cache of 2,048 sets of 8 ways; the oldest of its set leaves. -/
def putShared (t : Tlb) (l : List Tlb) : List Tlb :=
  let l := firstEntry t l
  match (l.filter fun x => x.set == t.set).drop 8 with
  | [] => l
  | old :: _ => l.erase old

/-- Addresses of the entries that a walk reads, from level `lvl` down (R180). -/
def walkPath (s : State) (va : Nat) : Nat → Nat → List Nat
  | 0, t => [t + 8 * bits va 25 16]
  | l + 1, t =>
    let a := t + 8 * bits va (10 * l + 35) (10 * l + 26)
    match read64 s a with
    | .error _ => [a]
    | .ok e =>
      if !e.testBit 0 then [a]
      else if l = 0 && e.testBit 10 then [a, bits e 47 16 * 65536 + 8 * bits va 25 22]
      else a :: walkPath s va l (bits e 47 16 * 65536)

/-- A walk for the context of the turn is an access to every layer that holds an entry it reads (R25), counted at the links it crosses
(R52); an address that a cache holds needs none. -/
def wakeTables (s : State) (va : Word) : State :=
  let asid := (s.core s.turn).ctx.asid
  if (cachedEntry s s.turn asid va.toNat).isSome then s
  else match mapFind s.fw.roots asid.toNat with
    | none => s
    | some root => (walkPath s va.toNat 3 root).foldl (fun s a => countAccess (wake s a) (siteOf s.turn) a) s

/-- A translation of the context of the turn: the walk it needs, and the entry in its core's cache and its die's. -/
def noteLeaf (s : State) (va : Word) (l : Leaf) : State :=
  let s := wakeTables s va
  let t := tlbOf s va.toNat l
  (s.modCore s.turn fun c => { c with tlb := putEntry t c.tlb }).modDie (siteOf s.turn) fun d => { d with tlb := putShared t d.tlb }

/-- The stash entry whose range holds an address, of the core of the turn (R166). -/
def stashEntry (s : State) (va : Word) : Option (Nat × StMap) := stashOf (s.core s.turn) va

def isControl (pa : Nat) : Bool := pa ≥ 0xFF0000000000

def Piece.isRemote (p : Piece) : Bool :=
  match spaceOf p.pa with
  | .remote _ _ => true
  | _ => false

/-! ## Making an access -/

/-- A piece cut at multiples of a size, each part with its offset in the access. -/
def chunks (size : Nat) : Nat → Nat → Piece → List (Nat × Piece)
  | 0, _, _ => []
  | n + 1, o, p =>
    if p.len = 0 then []
    else
      let k := min p.len (size - p.pa % size)
      (o, { p with len := k }) :: chunks size n (o + k) { p with pa := p.pa + k, len := p.len - k, va := p.va + BitVec.ofNat 64 k }

/-- The address at which operation `id` keeps what remote reads bring. -/
def opKey (id : Nat) : Nat := 2 ^ 20 + id

/-- Where an error of a read or a write at an address is noted among what has arrived; where the end of an operation's writes is. -/
def farErr (write : Bool) (code pa : Nat) : Nat := (code + 1) * 2 ^ 48 + pa + (if write then 2 ^ 58 else 0)

def farDone : Nat := 2 ^ 48 - 1

/-- The code of a noted error. -/
def farCode (k : Nat) : Nat := k % 2 ^ 58 / 2 ^ 48 - 1

/-- A scratchpad of another module, whose words have tags and which no cache holds. -/
def farPad (pa : Nat) : Bool :=
  match spaceOf pa with
  | .remote _ off => isPad off
  | _ => false

/-- A load of a part takes no whole line: its page is not cached, or a scratchpad lies there. -/
def Piece.uncached (p : Piece) : Bool := p.nc || farPad p.pa

/-- The parts that a piece behind a window travels in: whole lines where the requester's L1 may take them or a whole line is written (R40,
R61), one operation where the slot names a line, else at most 32 bytes (R38). -/
def pieceParts (a : Access) (o : Nat) (p : Piece) : List (Nat × Piece) :=
  match a.act with
  | .cell _ | .vamo _ => [(o, p)]
  | .resolveWrite => chunks 128 (p.len + 1) o p
  | .load => chunks (if p.uncached then 32 else 128) (p.len + 1) o p
  | .store => (chunks 128 (p.len + 1) o p).flatMap fun r =>
      if r.2.len = 128 && (List.range 128).all (fun i => let n := nibSel a.mask (r.1 + i); n.1 && n.2) then [r] else chunks 32 (r.2.len + 1) r.1 r.2
  | _ => chunks 32 (p.len + 1) o p

def partsFrom (a : Access) : Nat → List Piece → List (Nat × Piece)
  | _, [] => []
  | o, p :: ps => (if p.isRemote then pieceParts a o p else []) ++ partsFrom a (o + p.len) ps

/-- What a VAMOADD adds in one line is one operation (R406). -/
def joinParts : List (Nat × Piece) → List (Nat × Piece)
  | (o, p) :: r =>
    match joinParts r with
    | (o', q) :: r' =>
      if o + p.len = o' ∧ p.pa + p.len = q.pa ∧ lineOf p.pa = lineOf q.pa then (o, { p with len := p.len + q.len }) :: r' else (o, p) :: (o', q) :: r'
    | [] => [(o, p)]
  | [] => []

/-- The parts that an access travels in through remote windows, each with its offset in the access, in order. -/
def partsOf (a : Access) : List (Nat × Piece) :=
  match a.act with
  | .vamo _ => joinParts (partsFrom a 0 a.pieces)
  | _ => partsFrom a 0 a.pieces

/-- The part of an access that lies in this module. -/
def Access.near (a : Access) : Access :=
  let rec go (o : Nat) : List Piece → List Byte × List Bool
    | [] => ([], [])
    | p :: ps =>
      let r := go (o + p.len) ps
      if p.isRemote then r else (slice a.data o p.len ++ r.1, slice2 a.mask (2 * o) (2 * p.len) ++ r.2)
  let r := go 0 a.pieces
  { a with pieces := a.pieces.filter fun p => !p.isRemote, data := if a.data.isEmpty then [] else r.1, mask := if a.mask.isEmpty then [] else r.2 }
where
  slice2 (m : List Bool) (o n : Nat) : List Bool := (m.drop o).take n

/-- The operation of the request slot of one part (Table 2-3). -/
def requestOp (a : Access) (p : Piece) : Nat :=
  match a.act with
  | .load => if p.uncached then 0x01 else 0x00
  | .store | .resolveWrite => 0x02
  | .tagStore _ => 0x03
  | .tagLoad _ | .barWait _ => 0x04
  | .amo op _ _ => 0x10 + op
  | .vamo _ => 0x19
  | .flag op => 0x20 + op
  | .cell _ => 0x28

/-- ARG of a request's part: compare value, operand, tag rule, sub-operation; an atomic's type and form stand in its NMASK. DESIGN
CHOICE (notes/assumptions/17.md): a CELLOP's POISON reason stands in ARG from bit 16, for Table 2-3 gives only ARG [3:0]; a VAMOADD's type
in ARG from bit 48, above the logical time. -/
def requestArg (a : Access) : Word :=
  match a.act with
  | .vamo ty => ty.zeroExtend 64 <<< 48
  | .tagStore r => BitVec.ofNat 64 r
  | .tagLoad c => BitVec.ofNat 64 (b2n c)
  | .cell op => BitVec.ofNat 64 op ||| (a.arg <<< 16)
  | .load => 0
  | _ => a.arg

def maskWord (mask : List Bool) (o len : Nat) : BitVec 64 :=
  BitVec.ofNat 64 ((List.range len).foldl (fun n i =>
    let r := nibSel mask (o + i)
    n + b2n r.1 * 4 ^ i + b2n r.2 * 2 * 4 ^ i) 0)

/-- NMASK of a request's part; a check of a store selects nothing (R394; notes/assumptions/17.md). -/
def requestMask (a : Access) (check : Bool) (o len : Nat) : BitVec 64 :=
  match a.act with
  | .amo _ uns ty => BitVec.ofNat 64 (ty.toNat + 16 * b2n uns)
  | _ => if check then 0 else maskWord a.mask o (min len 32)

/-- The operand of a request's part as its slots carry it. -/
def requestData (a : Access) (check : Bool) (o len : Nat) : List Byte :=
  match a.act with
  | .cell _ => a.data
  | .vamo _ => (List.range (slotCount len)).flatMap fun i =>
      slice (slice a.data o len) (32 * i) 32 ++ leBytes 8 (requestMask a check (o + 32 * i) (len - 32 * i)).toNat
  | _ => slice a.data o len

/-- Sends one part of a remote access, or its check, to the E-die that carries the window's port (R60). A whole line goes as LWRITE, one
that becomes VALUE as LWRITEV, with STATUS 5 where its data is marked poisoned (`bad`; R40, R176). A check of a store names its first
bytes and writes none. -/
def sendPart (core : Nat) (tag : BitVec 16) (a : Access) (check bad : Bool) (o : Nat) (p : Piece) : H Unit := modify fun s =>
  let m : Slot := { noSlot with
    src := siteOf core, dst := windowSite s p.pa, addr := BitVec.ofNat 48 p.pa, op := BitVec.ofNat 8 (requestOp a p),
    len := (match a.act with
      | .cell _ => min p.len a.data.length
      | .load => if p.uncached then p.len else 0
      | .store => min p.len 32
      | _ => p.len), tag := tag, core := BitVec.ofNat 10 (numOf core), nmask := requestMask a check o p.len, arg := requestArg a,
    payload := slice a.data o (min p.len 32) }
  let m := if a.act == .load && !p.uncached then { m with addr := BitVec.ofNat 48 (lineOf p.pa) } else m
  if a.act == .resolveWrite || (a.act == .store && p.len == 128 && !check) then
    postLine s { noLine with src := m.src, dst := m.dst, addr := m.addr, lop := if a.act == .resolveWrite then 2 else 1, tag := tag,
                             core := m.core, status := if bad then 5 else 0, line := slice a.data o 128 }
  else postSlot s m (requestData a check o p.len)

/-- Sends a request's part and notes how many answers its slots get (R39). -/
def sendRequest (r : Request) (part : Nat × Piece) (rest : List (Nat × Piece)) : H Unit := do
  let bad := r.op.isSome && r.acc.act.isStore && (List.range part.2.len).any fun i => r.bad.contains (part.1 + i)
  sendPart r.core r.tag r.acc r.checking bad part.1 part.2
  let more := match r.acc.act with
    | .vamo _ => slotCount part.2.len - 1
    | .cell _ => slotCount (min part.2.len r.acc.data.length) - 1
    | _ => 0
  let r := { r with part := part, rest := rest, more := more, pended := false }
  modify fun s => { s with requests := if s.requests.any (·.tag == r.tag) then s.requests.map (fun x => if x.tag == r.tag then r else x)
                                       else s.requests ++ [r] }

/-- A new request for an access. -/
def newRequest (core : Nat) (e : Eng) (a : Access) (d : Dest) (len : Nat) (op : Option Nat) (bad : List Nat) : H Unit := do
  match partsOf a with
  | [] => pure ()
  | p :: ps =>
    let tag := BitVec.ofNat 16 (← get).nextOp
    modify fun s => { s with nextOp := s.nextOp + 1 }
    let check : Bool := op.isNone && decide (1 < a.pieces.length) && match a.act with
      | .store | .vamo _ => true
      | _ => false
    sendRequest { core := core, eng := e, tag := tag, acc := a, dest := d, len := len, part := p, rest := ps, got := [], op := op,
                  checking := check, bad := bad } p ps

/-- The fault of a word whose request ends with an error response: a machine check (Table 8-2), or the trap of the cell it has met,
which stands behind the code (R186). -/
def remoteFault (arg : Nat) : MemErr :=
  let cause := bits arg 15 8
  if 0x15 ≤ cause ∧ cause ≤ 0x17 then ⟨cause, bits arg 31 16 * 65536, arg % 256⟩ else errRemote (arg % 256)

/-- Access code of a request: that of its action, or what a load is for (R59). -/
def reqCode (a : Access) : Nat :=
  match a.act with
  | .load => a.arg.toNat % 8
  | x => accCode x

/-- Notes what a request of an engine's word has failed with, where the trap has to wait: the error, and the address and element. -/
def noteFailed (s : State) (n : Nat) (e : Eng) (arg : Nat) (p : Piece) : State :=
  { s with arrived := s.arrived ++ [(wordKey n e, farErr false (arg % 256) (arg / 256), leBytes 8 p.va.toNat ++ leBytes 2 p.elem)] }

/-- What has been noted so for the word of the turn: the error and where it stands. -/
def failedBefore (s : State) (e : Eng) : Option (MemErr × Piece) :=
  (s.arrived.find? fun r => r.1 == wordKey s.turn e && 2 ^ 48 ≤ r.2.1).map fun r =>
    (remoteFault (farCode r.2.1 + 256 * (r.2.1 % 2 ^ 48)),
     { noPiece with va := BitVec.ofNat 64 (field r.2.2 0 8), elem := field r.2.2 8 2 })

/-- Bytes that have been brought for the word of the turn at an address. -/
def brought (s : State) (pa len : Nat) : Option (List Byte) :=
  (s.arrived.find? fun r => r.1 == wordKey s.turn s.eng && r.2.1 == pa && r.2.2.length == len).map (·.2.2)

/-- Queues an access that must wait, its destination EMPTY and pending, and leaves the word where it is. A word that makes other
accesses too keeps what this one brings, and is executed again (R238). -/
def holdAt {α : Type} (e : Eng) (len : Nat) (a : Access) (d : Dest) (on : WaitOn) (retry : Bool) : M α := do
  modify fun s => { s with waiters := s.waiters ++ [{ who := .core s.turn e, acc := a, dest := d, on := on, len := len, retry := retry }] }
  throw (.hold d)

/-- Starts an access through a remote window (R59 to R62). -/
def remoteAccess (e : Eng) (len : Nat) (a : Access) (d : Dest) : M (List Byte) := do
  let s ← get
  match failedBefore s e with
  | some (er, p) => trap er.cause p.va (faultInfo (reqCode a) er p)
  | none => pure ()
  match a.pieces.find? fun p => a.act.isTagged && !isPad p.pa with
  | some p => trap 0x19 p.va (faultInfo (accCode a.act) ⟨0x19, 0, 1⟩ p)
  | none => pure ()
  match a.pieces.find? (fun p => match locate s p.pa with
    | .error err => err.info / 4096 != 0
    | .ok _ => false) with
  | some p => trap 0x40 p.va (faultInfo (accCode a.act) (errRemote 4) p)
  | none =>
    -- what a word keeps until it is executed again is not cached
    let a := if d == .again then { a with pieces := a.pieces.map fun p => { p with nc := true } } else a
    let near := a.near
    match ← liftH (checkPieces (.core s.turn e) near 0 near.pieces) with
    | .fault er p => trap er.cause p.va (faultInfo (accCode a.act) er p)
    | .wait _ | .full _ => throw (.hold .again)
    | .done _ => pure ()
    if a.act != .load then modify (giveUp' s.turn a.pieces)
    liftH (newRequest s.turn e a d len none [])
    throw (.hold d)
where
  giveUp' (n : Nat) (ps : List Piece) (s : State) : State :=
    ((giveUp (.core n .t) (ps.filter Piece.isRemote)).run s).2

/-- A translation that fails has walked the tables. A page-table entry behind a remote window is read for the word of the turn, which
is executed again once it is here (R59); it waits for a way that is held (R24, R48). -/
def askEntry (va : Word) (er : MemErr) : M Unit := do
  if er == fHeld then stall
  modify (wakeTables · va)
  match er.entryAt with
  | some pa =>
    let p : Piece := { pa := pa, len := 8, cls := 1, defer := false, va := BitVec.ofNat 64 pa, elem := 0, stash := false, nc := true }
    let _ ← remoteAccess (← get).eng 0 { act := .load, pieces := [p] } .again
  | none => pure ()

/-- The place of `len` bytes at a virtual address that lie in one page, with the faults of R392 steps 3 and 5. -/
def placeOf (va : Word) (len acc elem : Nat) : M Piece := do
  let s ← get
  let p0 : Piece := { pa := 0, len := len, cls := 0, defer := false, va := va, elem := elem, stash := false }
  match translateHere s va acc with
  | .error e =>
    askEntry va e
    trap e.cause va (faultInfo acc e p0)
  | .ok l =>
    modify (noteLeaf · va l)
    let cacheable : Bool := match spaceOf l.pa with
      | .dram _ | .slow _ => decide (acc ≤ 1)
      | .remote _ _ => decide (acc ≤ 1) && (l.nc || l.defer)
      | _ => false
    let p := { p0 with pa := l.pa, cls := l.cls, defer := l.defer, stash := cacheable && (stashEntry s va).isSome, nc := l.nc }
    if p.stash && (l.nc || l.defer) then trap 0x11 va (faultInfo acc fPerm p)
    pure p

/-- Address and alignment checks, then the place (R392 steps 3 to 5). -/
def placeAligned (va : Word) (len align acc : Nat) : M Piece := do
  if va.toNat ≥ 2 ^ 56 then trap 0x10 va (BitVec.ofNat 64 (128 + acc))
  if va.toNat % align != 0 then trap 0x12 va (BitVec.ofNat 64 acc)
  placeOf va len acc 0

/-- Accesses of a core's T engine that are not answered yet. -/
def unanswered (s : State) (n : Nat) : List Access :=
  (s.waiters.filter (·.who == .core n .t)).map (·.acc) ++
    (s.requests.filter fun r => r.core == n && r.eng == .t && r.op.isNone).map (·.acc)

/-- An acquire, which later loads do not pass (R216, R208). -/
def Access.acquires (a : Access) : Bool :=
  match a.act with
  | .barWait _ | .flag 2 => true
  | _ => false

/-- A plain load that may be made while an earlier access of T has not been answered (R254): of no DEFER page, and of no
hardware-coherent one, whose loads keep T's order (R206); of no line that the earlier access names, and behind no acquire; it is
answered at once, claims no frame and goes by no window. -/
def mayRunAhead (s : State) (a : Access) : Bool :=
  a.act == .load && !(unanswered s s.turn).any (fun b => b.acquires || b.pieces.any fun q => a.pieces.any fun p =>
    lineOf p.pa == lineOf q.pa) && a.pieces.all fun p =>
    !p.defer && s.classOf p != 2 && (p.cls != 0 || !isDram p.pa || ownerLets s s.turn p) &&
      (!p.isRemote || servedHere s (.core s.turn .t) .load [] 0 p)

/-- What an access of a word that is executed again has brought before: its bytes, or no more than that a store has performed. -/
def performedBefore (s : State) (a : Access) : Option (List Byte) :=
  let reads : Bool := !(a.act.isStore && !a.act.isAtomic)
  (a.pieces.mapM fun p => brought s p.pa (if reads then p.len else 0)).map List.flatten

/-- Makes an access for the word in progress: its bytes, the trap it meets, or its wait (R392 step 7). While an earlier
access of the engine waits, the word waits too, but for a load that T may make ahead of it. -/
def access (e : Eng) (len : Nat) (a : Access) (d : Dest) : M (List Byte) := do
  let s ← get
  let behind := engineWaits s s.turn e
  if behind && !(e == .t && d != .again && (s.core s.turn).ahead.isSome && mayRunAhead s a) then throw .stall
  match (if d == .again then performedBefore s a else none) with
  | some bs => return bs
  | none =>
    if a.pieces.any fun p => p.isRemote && !servedHere s (.core s.turn e) a.act [] 0 p then remoteAccess e len a d
    else
      match ← liftH (perform (.core s.turn e) a) with
      | .done bs =>
        if d == .again then modify fun s => keepBrought s s.turn e a bs
        pure bs
      | .fault er p => trap er.cause p.va (faultInfo (accCode a.act) er p)
      | .wait on => if behind then throw .stall else holdAt e len a d on false
      | .full on => if behind then throw .stall else holdAt e len a d on true

/-! ## Ending a word -/

/-- ISYNC at an engine: what it has fetched is discarded (R220, R348). -/
def dropFetched (s : State) (e : Eng) : State := s.modCore s.turn fun c => { c with bufs := mapDel c.bufs (engCode e) }

/-- What accesses brought for the word in progress is of no use after it. -/
def dropArrived (s : State) : State :=
  if s.arrived.isEmpty then s else { s with arrived := s.arrived.filter (fun r => r.1 != wordKey s.turn s.eng) }

/-- After a word that could not go on: the turn passes (notes/assumptions/1.md). -/
def noteStall (s : State) : State := { s with stalls := s.stalls + 1 }

/-- Sends an engine to a target. One outside the 56-bit space is a fetch fault there: the branch has committed (R338). -/
def goTo (s : State) (e : Eng) (eng : Nat) (t : Word) : State :=
  let c := s.ctx
  let s := s.setCtx (c.setEng e { c.eng e with pc := t.truncate 56 })
  if t.toNat ≥ 2 ^ 56 then takeTrap s s.turn eng 0x10 t (BitVec.ofNat 64 (128 + aFetch)) else s

/-- The state after engine `e` has executed a word of `parcels` parcels whose body left the state `s`: its address moves on, for T
the live transients age, and a substitution that stood for the word disarms for the engine (R254, R243, R269). -/
def State.retired (s : State) (e : Eng) (parcels : Nat) : State :=
  ((dropArrived s).setCtx (retire s.ctx e parcels)).goOn.modCore s.turn fun k => (k.disarm e (s.ctx.eng e).pc).countAhead e

/-- A core as it was, with the caches as they are now. -/
def Core.undo (was now : Core) : Core :=
  { was with l1 := now.l1, granules := now.granules, tlb := now.tlb, text := now.text, bufs := now.bufs }

/-- The state after a word begun at `s` has left `s'` without executing: but for its caches the core is as it was (R254). -/
def State.undone (s s' : State) : State := s'.setCore s.turn ((s.core s.turn).undo (s'.core s.turn))

/-- The state after a word begun at `s` has trapped, having left `s'`: the core is as it was before the word (R254, R255), and the
trap is taken. -/
def State.trapped (s s' : State) (eng cause : Nat) (addr info : Word) : State :=
  takeTrap (s.undone (dropArrived s').goOn) s.turn eng cause addr info

/-- A trap of an engine waits (R254, R259): for what other engines of the core are about; and a trap of T for an earlier access that is
not answered yet. -/
def State.awaits (s : State) (e : Eng) : Bool := othersBusy s s.turn e || (e == .t && (s.core s.turn).ahead.isSome)

/-- A trap of T waits for the access before it: T meets no more words until that is answered, and then this one again. -/
def State.dueTrap (s : State) (e : Eng) : State :=
  match e, (s.core s.turn).ahead with
  | .t, some a => s.modCore s.turn fun k => { k with ahead := some { a with due := true } }
  | _, _ => s

/-- T goes on behind an access that is not answered (R252, R254): the word has issued, its destination EMPTY and pending, and what T
executes next is undone if the access does not come to a good end. One access at a time is so passed; none inside a trap, and none by
a displaced word. -/
def State.goAhead (s : State) (e : Eng) (parcels : Nat) : State :=
  let k := s.core s.turn
  if e == .t && k.ahead.isNone && k.subst.isNone && !k.intrap then
    s.modCore s.turn fun k => { k with ahead := some { base := k.ctx }, ctx := retire k.ctx .t parcels }
  else s

/-- The outcome of a word of engine `e` whose trap is reported for engine number `eng`: it retires past `parcels` parcels
or at a target; it traps; it waits. -/
def runWord (e : Eng) (eng parcels : Nat) (body : M (Option Word)) (s : State) :
    Host.Outcome State Fault Refusal :=
  match body s with
  | .ok none s' => .next (s'.retired e parcels).settled
  | .ok (some t) s' =>
    if 2 ^ 56 ≤ t.toNat && s.awaits e then .next (noteStall (s.dueTrap e)) else .next (goTo (s'.retired e parcels) e eng t).settled
  | .error (.trap cause addr info) s' =>
    if s.awaits e then .next (noteStall (s.dueTrap e)) else .next (s.trapped s' eng cause addr info).settled
  | .error .stall _ => .next (noteStall s)
  | .error (.hold .again) s' => .next (noteStall (s.undone s')).settled
  | .error (.hold d) s' => .next (noteStall (((dropArrived s').setCtx (markPending s'.ctx d)).goAhead e parcels)).settled

/-- A T word (R254). -/
def tWord (parcels : Nat) (body : M Unit) (s : State) : Host.Outcome State Fault Refusal :=
  runWord .t 0 parcels (do body; pure none) s

/-- A T word outside the window-safe ones closes every open window before it executes (R244). -/
def closeWindow (s : State) : State := s.setCtx { s.ctx with window := [] }

def tWordClosing (parcels : Nat) (body : M Unit) (s : State) : Host.Outcome State Fault Refusal :=
  tWord parcels body (closeWindow s)

/-- A T branch (R322): closes windows, goes to a target or on. -/
def tBranch (parcels : Nat) (body : M (Option Word)) (s : State) : Host.Outcome State Fault Refusal :=
  runWord .t 0 parcels body (closeWindow s)

/-- An M or C word of one parcel (R255). -/
def mcWord (e : Eng) (body : M Unit) (s : State) : Host.Outcome State Fault Refusal :=
  runWord e (engCode e) 1 (do body; pure none) s

/-- A step of the module that no engine executes. -/
def event (h : H Unit) (s : State) : Host.Outcome State Fault Refusal :=
  .next (h.run s).2.settled

end Sys2Proof.Machine
end

