-- ==== Sys2Proof/Machine/Groups.lean ====
section
/-! DEFINITION. Groups (R148, R149): members, entries of the group table, and the GMEM registers that follow from them. -/

namespace Sys2Proof.Machine

/-- A span of a group: site, first core, last core. -/
abbrev Span := Nat × Nat × Nat

/-- Members of a group in ascending module-wide core number. -/
def groupMembers (sp : List Span) : List Nat :=
  inOrder (fun a b => decide (a ≤ b)) (sp.flatMap fun e => (List.range (e.2.2 + 1 - e.2.1)).map fun i => e.1 * 1024 + e.2.1 + i)

/-- The spans of a 128-byte entry, and whether the entry is as R148 lays it out: sites and cores that exist, no overlap. -/
def decodeGroup (bs : List Byte) : List Span × Bool :=
  let raw := (List.range 16).map fun i => slice bs (8 * i) 8
  let valid := raw.filter fun b => (b.getD 0 0).getLsbD 7
  let sp := valid.map fun b => (field b 0 1 % 128, bits (field b 2 2) 9 0, bits (field b 4 2) 9 0)
  let okOne := valid.all fun b =>
    field b 1 1 == 0 && field b 6 2 == 0 && field b 2 2 < 1024 && field b 4 2 < 1024 &&
      field b 0 1 % 128 < 64 && field b 2 2 ≤ field b 4 2 && field b 4 2 < coresOf (field b 0 1 % 128)
  let apart := (sp.zip (List.range sp.length)).all fun x => (sp.zip (List.range sp.length)).all fun y =>
    x.2 == y.2 || x.1.1 != y.1.1 || x.1.2.2 < y.1.2.1 || y.1.2.2 < x.1.2.1
  (sp, okOne && apart)

/-- Groups of a table that hold a core. -/
def groupsOf (t : Map (List Span)) (core : Nat) : List Nat :=
  (t.filter fun e => e.2.any fun s => s.1 == siteOf core && s.2.1 ≤ numOf core && numOf core ≤ s.2.2).map (·.1)

/-- No core is in more than 4 groups (rule 0x0008). -/
def membershipOk (t : Map (List Span)) : Bool :=
  (t.flatMap fun e => groupMembers e.2).eraseDups.all fun c => (groupsOf t c).length ≤ 4

/-- The GMEM registers of a core under a new table: members that stay keep their slot, a group that is left gives its slot up,
a group that is joined takes the lowest invalid slot (R358). A slot whose register changes counts its collectives anew (R449). -/
def gmemFor (t : Map (List Span)) (core : Nat) (old : Map Gmem) : Map Gmem :=
  let mine := groupsOf t core
  let rank (g : Nat) : Nat := ((groupMembers (mapGet [] t g)).findIdx? (· == core)).getD 0
  let kept := old.filter fun e => e.2.valid && mine.contains e.2.group.toNat
  let kept : Map Gmem := kept.map fun e =>
    let m := BitVec.ofNat 16 (rank e.2.group.toNat)
    (e.1, if e.2.member == m then e.2 else { e.2 with member := m, count := 0 })
  mine.foldl (fun m g =>
    if m.any (fun e => e.2.group.toNat == g) then m
    else match [0, 1, 2, 3].find? (fun i => (mapFind m i).isNone) with
      | some i => mapSet m i ⟨BitVec.ofNat 8 g, true, BitVec.ofNat 16 (rank g), 0⟩
      | none => m) kept

/-- Replaces the group table with the bytes of the entries that software has written, and the GMEM registers of the given cores. -/
def setGroups (s : State) (t : Map (List Span)) (raw : Map (List Byte)) (cores : List Nat) : State :=
  let s := s.modFw fun f => { f with groups := t, groupRaw := raw }
  cores.foldl (fun (s : State) c => s.modCore c fun k => { k with gmem := gmemFor t c k.gmem }) s

/-- The members of the group in a GMEM slot of a core, none where the slot is not valid. -/
def slotGroup (s : State) (core slot : Nat) : Option (List Nat) :=
  let g := mapGet {} (s.core core).gmem slot
  if g.valid then some (groupMembers (mapGet [] s.fw.groups g.group.toNat)) else none

/-- The scope a fence acts with (Table 10-2): a group acts as a die or the module, or as the core where its slot is not
valid. -/
def effScope (s : State) (core scope slot : Nat) : Nat :=
  if scope = 1 then
    match slotGroup s core slot with
    | none => 0
    | some ms => if ms.all (fun m => siteOf m == siteOf core) then 2 else 3
  else scope

end Sys2Proof.Machine
end

