-- ==== Sys2Proof/Decode.lean ====
section
/-! DEFINITION. Words of text and E-ops: their length and tag (Table 11-1), their decoding (Tables 14-1 to 14-7), and the
encoder. Decoding is total: every pattern of bits gives an instruction or a reason by name (R312, Table 14-8). -/

namespace Sys2Proof

/-- Why a pattern of bits is no instruction. -/
inductive DecodeError where
  /-- the text ends inside the word -/
  | tooShort
  /-- an undefined S-form opcode -/
  | opcodeS (op : BitVec 7)
  /-- an S-form required-zero field that is set -/
  | reservedS (op : BitVec 7)
  /-- an undefined V-form opcode -/
  | opcodeV (op : BitVec 9)
  /-- a V-form or VI-form required-zero field that is set -/
  | reservedV (op : BitVec 9)
  /-- an undefined M operation, or a required-zero bit of one that is set -/
  | reservedM (op : BitVec 5)
  /-- an undefined C operation, or a required-zero bit of one that is set -/
  | reservedC (op : BitVec 5)
  /-- an undefined A-word, or a required-zero bit of one that is set -/
  | reservedA (op : BitVec 6)
  /-- an undefined E-op, or a field of one that it does not use -/
  | reservedE (op : BitVec 5)
  /-- a field value outside its listed set -/
  | illFormed (i : Instr)
  deriving DecidableEq, Repr

/-- Whose word a first parcel begins (Table 11-1). -/
inductive Tag where
  | t | m | c | a
  deriving DecidableEq, Repr

def tagOf (p : Parcel) : Tag :=
  match (p.extractLsb' 14 2).toNat with
  | 0 => .t
  | 1 => .m
  | 2 => .c
  | _ => .a

/-- Parcels of the word that a first parcel begins (Table 11-1). -/
def parcelsOf (p : Parcel) : Nat :=
  match tagOf p with
  | .t => if p.getLsbD 13 then 4 else 2
  | .m | .c => 1
  | .a => if p.extractLsb' 8 6 == 4 || p.extractLsb' 8 6 == 5 then 2 else 1

def aForm (w : BitVec 22) : AForm :=
  { xd := w.extractLsb' 16 6, xa := w.extractLsb' 10 6, ba := w.extractLsb' 9 1, xb := w.extractLsb' 3 6,
    bb := w.extractLsb' 2 1, fn := w.extractLsb' 0 2 }
def bForm (w : BitVec 22) : BForm :=
  { xd := w.extractLsb' 16 6, xa := w.extractLsb' 10 6, ba := w.extractLsb' 9 1, imm := w.extractLsb' 0 9 }
def cForm (w : BitVec 22) : CForm := { off := w }
def dForm (w : BitVec 22) : DForm :=
  { xa := w.extractLsb' 16 6, xb := w.extractLsb' 10 6, off := w.extractLsb' 0 10 }
def eForm (w : BitVec 22) : EForm :=
  { xd := w.extractLsb' 16 6, xa := w.extractLsb' 10 6, ba := w.extractLsb' 9 1, csr := w.extractLsb' 0 9 }
def fForm (w : BitVec 22) : FForm :=
  { p := w.extractLsb' 15 7, mode := w.extractLsb' 13 2, off := w.extractLsb' 0 13 }

/-- The fields of Table 14-3, from bits [51:4] of a V-form word. -/
def vForm (w : BitVec 48) : VForm :=
  { fn8 := w.extractLsb' 40 8, pg := w.extractLsb' 33 7, d := w.extractLsb' 25 8, dw := w.extractLsb' 23 2,
    dt := w.extractLsb' 22 1, a := w.extractLsb' 14 8, aw := w.extractLsb' 12 2, ab := w.extractLsb' 11 1,
    b := w.extractLsb' 3 8, bw := w.extractLsb' 1 2, bb := w.extractLsb' 0 1 }

def aBits (f : AForm) : BitVec 22 := f.xd ++ f.xa ++ f.ba ++ f.xb ++ f.bb ++ f.fn
def bBits (f : BForm) : BitVec 22 := f.xd ++ f.xa ++ f.ba ++ f.imm
def cBits (f : CForm) : BitVec 22 := f.off
def dBits (f : DForm) : BitVec 22 := f.xa ++ f.xb ++ f.off
def eBits (f : EForm) : BitVec 22 := f.xd ++ f.xa ++ f.ba ++ f.csr
def fBits (f : FForm) : BitVec 22 := f.p ++ f.mode ++ f.off
def vBits (f : VForm) : BitVec 48 :=
  f.fn8 ++ f.pg ++ f.d ++ f.dw ++ f.dt ++ f.a ++ f.aw ++ f.ab ++ f.b ++ f.bw ++ f.bb
def zeroForm : VForm := vForm 0

/-- S-form words (Table 14-2): opcode and bits [21:0]. -/
def rawS (op : BitVec 7) (w : BitVec 22) : Except DecodeError Instr :=
  match op.toNat with
  | 0x00 => .ok (.add (aForm w))
  | 0x01 => .ok (.sub (aForm w))
  | 0x02 => .ok (.and (aForm w))
  | 0x03 => .ok (.or (aForm w))
  | 0x04 => .ok (.xor (aForm w))
  | 0x05 => .ok (.shl (aForm w))
  | 0x06 => .ok (.shr (aForm w))
  | 0x07 => .ok (.mul (aForm w))
  | 0x08 => .ok (.div (aForm w))
  | 0x09 => .ok (.rem (aForm w))
  | 0x0A => .ok (.min (aForm w))
  | 0x0B => .ok (.max (aForm w))
  | 0x0C => .ok (.cset (aForm w))
  | 0x0D => .ok (.bits (aForm w))
  | 0x0E => .ok (.field (aForm w))
  | 0x0F => .ok (.sel (aForm w))
  | 0x10 => .ok (.addi (bForm w))
  | 0x11 => .ok (.andi (bForm w))
  | 0x12 => .ok (.ori (bForm w))
  | 0x13 => .ok (.xori (bForm w))
  | 0x14 => .ok (.shli (bForm w))
  | 0x15 => .ok (.shri (bForm w))
  | 0x16 => .ok (.shai (bForm w))
  | 0x17 => .ok (.cseti (bForm w))
  | 0x18 => .ok (.xput (aForm w))
  | 0x19 => .ok (.xtake (aForm w))
  | 0x20 => .ok (.b (cForm w))
  | 0x21 => .ok (.call (cForm w))
  | 0x22 => .ok (.jr (bForm w))
  | 0x23 => .ok (.beq (dForm w))
  | 0x24 => .ok (.bne (dForm w))
  | 0x25 => .ok (.blt (dForm w))
  | 0x26 => .ok (.bge (dForm w))
  | 0x27 => .ok (.bltu (dForm w))
  | 0x28 => .ok (.bgeu (dForm w))
  | 0x29 => .ok (.bp (fForm w))
  | 0x30 => .ok (.csrr (eForm w))
  | 0x31 => .ok (.csrw (eForm w))
  | 0x32 => .ok (.csrs (eForm w))
  | 0x33 => .ok (.csrc (eForm w))
  | 0x34 => if w.extractLsb' 9 13 == 0 then .ok (.fence (w.extractLsb' 6 3) (w.extractLsb' 4 2) (w.extractLsb' 0 4)) else .error (.reservedS op)
  | 0x35 => if w == 0 then .ok .trapf else .error (.reservedS op)
  | 0x36 => if w.extractLsb' 8 14 == 0 then .ok (.svc (w.extractLsb' 0 8)) else .error (.reservedS op)
  | 0x37 => if w == 0 then .ok .sret else .error (.reservedS op)
  | 0x38 => if w == 0 then .ok .brk else .error (.reservedS op)
  | 0x39 => if w == 0 then .ok .xdisp else .error (.reservedS op)
  | 0x3A => if w == 0 then .ok .isync else .error (.reservedS op)
  | 0x3B => .ok (.icinv (aForm w))
  | 0x3C => .ok (.getid (aForm w))
  | 0x3D => if w == 0 then .ok .pause else .error (.reservedS op)
  | 0x40 => .ok (.ldb (bForm w))
  | 0x41 => .ok (.ldh (bForm w))
  | 0x42 => .ok (.ldw (bForm w))
  | 0x43 => .ok (.ldd (bForm w))
  | 0x44 => .ok (.ldbs (bForm w))
  | 0x45 => .ok (.ldhs (bForm w))
  | 0x46 => .ok (.ldws (bForm w))
  | 0x48 => .ok (.stb (bForm w))
  | 0x49 => .ok (.sth (bForm w))
  | 0x4A => .ok (.stw (bForm w))
  | 0x4B => .ok (.std (bForm w))
  | 0x4C => .ok (.ldf (bForm w))
  | 0x4D => .ok (.ldc (bForm w))
  | 0x4E => .ok (.ste (bForm w))
  | 0x4F => .ok (.sts (aForm w))
  | 0x50 => .ok (.stn (bForm w))
  | 0x58 => .ok (.allot (bForm w))
  | 0x59 => .ok (.rotcfg (bForm w))
  | 0x5A => .ok (.rotset (aForm w))
  | 0x5C => if w == 0 then .ok .swctx else .error (.reservedS op)
  | 0x5D => if w == 0 then .ok .park else .error (.reservedS op)
  | 0x5E => .ok (.ctxsv (aForm w))
  | 0x5F => .ok (.ctxld (aForm w))
  | 0x60 => .ok (.grpset (aForm w))
  | 0x61 => .ok (.asgen (aForm w))
  | 0x62 => .ok (.cohset (aForm w))
  | 0x63 => .ok (.probe (aForm w))
  | _ => .error (.opcodeS op)

/-- V-form words (Table 14-4): opcode and the fields of Table 14-3. -/
def rawV (op : BitVec 9) (f : VForm) : Except DecodeError Instr :=
  match op.toNat with
  | 0x0A1 => if vBits f == 0 then .ok .brkl else .error (.reservedV op)
  | 0x000 => .ok (.vadd f)
  | 0x001 => .ok (.vsub f)
  | 0x002 => .ok (.vmul f)
  | 0x003 => .ok (.vfma f)
  | 0x004 => .ok (.vfms f)
  | 0x005 => .ok (.vmin f)
  | 0x006 => .ok (.vmax f)
  | 0x007 => .ok (.vabs f)
  | 0x008 => .ok (.vneg f)
  | 0x009 => .ok (.vdiv f)
  | 0x00A => .ok (.vsqrt f)
  | 0x00B => .ok (.vrcp f)
  | 0x00C => .ok (.vrsq f)
  | 0x00D => .ok (.vexp2 f)
  | 0x00E => .ok (.vlog2 f)
  | 0x00F => .ok (.vscl f)
  | 0x010 => .ok (.vcmp f)
  | 0x011 => .ok (.vsel f)
  | 0x012 => .ok (.vand f)
  | 0x013 => .ok (.vor f)
  | 0x014 => .ok (.vxor f)
  | 0x015 => .ok (.vnot f)
  | 0x016 => .ok (.vshl f)
  | 0x017 => .ok (.vshr f)
  | 0x018 => .ok (.vcvt f)
  | 0x019 => .ok (.vqmx f)
  | 0x01A => .ok (.vdqmx f)
  | 0x01B => .ok (.vqnb f)
  | 0x01C => .ok (.vdqnb f)
  | 0x01D => .ok (.vrand f)
  | 0x01E => .ok (.vbdot f)
  | 0x01F => .ok (.vpack f)
  | 0x020 => .ok (.vred f)
  | 0x021 => .ok (.vscan f)
  | 0x022 => .ok (.vperm f)
  | 0x023 => .ok (.vbcast f)
  | 0x024 => .ok (.vextr f)
  | 0x025 => .ok (.vins f)
  | 0x026 => .ok (.vslide f)
  | 0x027 => .ok (.vzip f)
  | 0x028 => .ok (.vunzip f)
  | 0x029 => .ok (.vmov f)
  | 0x02A => .ok (.viota f)
  | 0x030 => .ok (.pand f)
  | 0x031 => .ok (.por f)
  | 0x032 => .ok (.pxor f)
  | 0x033 => .ok (.pnot f)
  | 0x034 => .ok (.pwhile f)
  | 0x035 => .ok (.pcnt f)
  | 0x036 => .ok (.pfirst f)
  | 0x040 => .ok (.vld f)
  | 0x041 => .ok (.vst f)
  | 0x042 => .ok (.vldx f)
  | 0x043 => .ok (.vstx f)
  | 0x046 => .ok (.vldf f)
  | 0x047 => .ok (.vste f)
  | 0x044 => .ok (.vgath f)
  | 0x045 => .ok (.vscat f)
  | 0x050 => .ok (.touch f)
  | 0x051 => .ok (.cstat f)
  | 0x055 => .ok (.waitc f)
  | 0x052 => .ok (.defer f)
  | 0x053 => .ok (.resolve f)
  | 0x054 => .ok (.poison f)
  | 0x060 => .ok (.rcpdef f)
  | 0x061 => .ok (.rcpdrop f)
  | 0x062 => .ok (.rcpkill f)
  | 0x068 => .ok (.rempty f)
  | 0x069 => .ok (.rstate f)
  | 0x070 => .ok (.amoadd f)
  | 0x071 => .ok (.amomin f)
  | 0x072 => .ok (.amomax f)
  | 0x073 => .ok (.amoand f)
  | 0x074 => .ok (.amoor f)
  | 0x075 => .ok (.amoxor f)
  | 0x076 => .ok (.amoswp f)
  | 0x077 => .ok (.amocas f)
  | 0x078 => .ok (.amofadd f)
  | 0x079 => .ok (.vamoadd f)
  | 0x080 => .ok (.fadd f)
  | 0x081 => .ok (.fset f)
  | 0x082 => .ok (.farm f)
  | 0x083 => .ok (.binit f)
  | 0x084 => .ok (.bexp f)
  | 0x085 => .ok (.bwait f)
  | 0x086 => .ok (.btest f)
  | 0x087 => .ok (.binv f)
  | 0x088 => .ok (.rginit f)
  | 0x089 => .ok (.rgtake f)
  | 0x090 => .ok (.sbind f)
  | 0x091 => .ok (.sunbind f)
  | 0x092 => .ok (.sstat f)
  | _ => .error (.opcodeV op)

/-- M operation words (Table 14-5): op5 and arg8. -/
def rawM (op : BitVec 5) (w : BitVec 8) : Except DecodeError Instr :=
  match op.toNat with
  | 0x00 => if w == 0 then .ok .mnop else .error (.reservedM op)
  | 0x01 => if w == 0 then .ok .mdup else .error (.reservedM op)
  | 0x02 => if w == 0 then .ok .mdrop else .error (.reservedM op)
  | 0x03 => if w == 0 then .ok .mswap else .error (.reservedM op)
  | 0x04 => if w == 0 then .ok .mover else .error (.reservedM op)
  | 0x05 => .ok (.mpushx (w.extractLsb' 7 1) (w.extractLsb' 6 1) (w.extractLsb' 0 6))
  | 0x06 => if w.extractLsb' 6 2 == 0 then .ok (.mpopx (w.extractLsb' 0 6)) else .error (.reservedM op)
  | 0x07 => if w == 0 then .ok .madd else .error (.reservedM op)
  | 0x08 => if w.extractLsb' 6 2 == 0 then .ok (.mshl (w.extractLsb' 0 6)) else .error (.reservedM op)
  | 0x09 => if w == 0 then .ok .mor else .error (.reservedM op)
  | 0x0A => if w.extractLsb' 3 1 == 0 then .ok (.mmma (w.extractLsb' 4 4) (w.extractLsb' 2 1) (w.extractLsb' 1 1) (w.extractLsb' 0 1)) else .error (.reservedM op)
  | 0x0B => if w.extractLsb' 3 1 == 0 then .ok (.mmva (w.extractLsb' 4 4) (w.extractLsb' 2 1) (w.extractLsb' 1 1) (w.extractLsb' 0 1)) else .error (.reservedM op)
  | 0x0C => if w == 0 then .ok .mswpw else .error (.reservedM op)
  | 0x0D => if w.extractLsb' 4 4 == 0 then .ok (.mepi (w.extractLsb' 0 4)) else .error (.reservedM op)
  | 0x0E => if w == 0 then .ok .mbar else .error (.reservedM op)
  | 0x0F => if w.extractLsb' 1 7 == 0 then .ok (.mwait (w.extractLsb' 0 1)) else .error (.reservedM op)
  | 0x10 => .ok (.mskipz w)
  | 0x11 => if w == 0 then .ok .mbrk else .error (.reservedM op)
  | 0x12 => .ok (.mconst (w.extractLsb' 4 4) (w.extractLsb' 0 4))
  | _ => .error (.reservedM op)

/-- C operation words (Table 14-5): op5 and arg8. -/
def rawC (op : BitVec 5) (w : BitVec 8) : Except DecodeError Instr :=
  match op.toNat with
  | 0x00 => if w == 0 then .ok .cnop else .error (.reservedC op)
  | 0x01 => if w == 0 then .ok .cdup else .error (.reservedC op)
  | 0x02 => if w == 0 then .ok .cdrop else .error (.reservedC op)
  | 0x03 => if w == 0 then .ok .cswap else .error (.reservedC op)
  | 0x04 => if w == 0 then .ok .cover else .error (.reservedC op)
  | 0x05 => .ok (.cpushx (w.extractLsb' 7 1) (w.extractLsb' 6 1) (w.extractLsb' 0 6))
  | 0x06 => if w.extractLsb' 6 2 == 0 then .ok (.cpopx (w.extractLsb' 0 6)) else .error (.reservedC op)
  | 0x07 => if w == 0 then .ok .cadd else .error (.reservedC op)
  | 0x08 => if w.extractLsb' 6 2 == 0 then .ok (.cshl (w.extractLsb' 0 6)) else .error (.reservedC op)
  | 0x09 => if w == 0 then .ok .cor else .error (.reservedC op)
  | 0x0A => if w.extractLsb' 1 7 == 0 then .ok (.ccopy (w.extractLsb' 0 1)) else .error (.reservedC op)
  | 0x0B => if w.extractLsb' 1 7 == 0 then .ok (.ccopy2 (w.extractLsb' 0 1)) else .error (.reservedC op)
  | 0x0C => if w == 0 then .ok .cdecomp else .error (.reservedC op)
  | 0x0D => if w.extractLsb' 1 7 == 0 then .ok (.cgath (w.extractLsb' 0 1)) else .error (.reservedC op)
  | 0x0E => if w.extractLsb' 1 7 == 0 then .ok (.cscat (w.extractLsb' 0 1)) else .error (.reservedC op)
  | 0x0F => if w.extractLsb' 1 7 == 0 then .ok (.cfill (w.extractLsb' 0 1)) else .error (.reservedC op)
  | 0x10 => if w == 0 then .ok .cpref else .error (.reservedC op)
  | 0x11 => if w == 0 then .ok .choff else .error (.reservedC op)
  | 0x12 => if w.extractLsb' 1 7 == 0 then .ok (.cpage (w.extractLsb' 0 1)) else .error (.reservedC op)
  | 0x13 => .ok (.ccoll (w.extractLsb' 4 4) (w.extractLsb' 0 4))
  | 0x14 => if w == 0 then .ok .cflush else .error (.reservedC op)
  | 0x15 => if w == 0 then .ok .cbar else .error (.reservedC op)
  | 0x16 => if w.extractLsb' 1 7 == 0 then .ok (.cwait (w.extractLsb' 0 1)) else .error (.reservedC op)
  | 0x17 => .ok (.cskipz w)
  | 0x18 => if w == 0 then .ok .cbrk else .error (.reservedC op)
  | _ => .error (.reservedC op)

/-- One-parcel A-words (Table 14-6): op6 and arg8. -/
def rawA (op : BitVec 6) (w : BitVec 8) : Except DecodeError Instr :=
  match op.toNat with
  | 0x00 => if w == 0 then .ok .anop else .error (.reservedA op)
  | 0x01 => if w.getLsbD 7 then (if w.getLsbD 6 then .error (.reservedA op) else .ok (.loopX (w.extractLsb' 0 6))) else .ok (.loop (w.extractLsb' 0 7))
  | 0x02 => if w.extractLsb' 1 7 == 0 then .ok (.endl (w.extractLsb' 0 1)) else .error (.reservedA op)
  | 0x03 => .ok (.leave (w.extractLsb' 6 2) (w.extractLsb' 0 6))
  | 0x06 => if w == 0 then .ok .aret else .error (.reservedA op)
  | 0x07 => if w == 0 then .ok .sync else .error (.reservedA op)
  | 0x08 => if w == 0 then .ok .next else .error (.reservedA op)
  | 0x09 => if w == 0 then .ok .halt else .error (.reservedA op)
  | 0x0A => if w.extractLsb' 4 4 == 0 then .ok (.slip (w.extractLsb' 0 4)) else .error (.reservedA op)
  | 0x0B => if w == 0 then .ok .abrk else .error (.reservedA op)
  | _ => .error (.reservedA op)

/-- E-ops (Table 14-7). -/
def rawE (w : BitVec 16) : Except DecodeError Instr :=
  let op : BitVec 5 := w.extractLsb' 11 5
  match op.toNat with
  | 0x00 => if w.extractLsb' 8 3 == 0 && w.extractLsb' 5 3 == 0 && w.extractLsb' 0 5 == 0 then .ok .eend else .error (.reservedE op)
  | 0x01 => if w.extractLsb' 5 3 == 0 && w.extractLsb' 0 5 == 0 then .ok (.elda (w.extractLsb' 8 3)) else .error (.reservedE op)
  | 0x02 => if w.extractLsb' 0 5 == 0 then .ok (.eadd (w.extractLsb' 8 3) (w.extractLsb' 5 3)) else .error (.reservedE op)
  | 0x03 => if w.extractLsb' 0 5 == 0 then .ok (.emul (w.extractLsb' 8 3) (w.extractLsb' 5 3)) else .error (.reservedE op)
  | 0x04 => if w.extractLsb' 0 5 == 0 then .ok (.efma (w.extractLsb' 8 3) (w.extractLsb' 5 3)) else .error (.reservedE op)
  | 0x05 => if w.extractLsb' 0 5 == 0 then .ok (.emax (w.extractLsb' 8 3) (w.extractLsb' 5 3)) else .error (.reservedE op)
  | 0x06 => if w.extractLsb' 5 3 == 0 && w.extractLsb' 4 1 == 0 then .ok (.econ (w.extractLsb' 8 3) (w.extractLsb' 0 4)) else .error (.reservedE op)
  | 0x07 => if w.extractLsb' 0 5 == 0 then .ok (.erow (w.extractLsb' 8 3) (w.extractLsb' 5 3)) else .error (.reservedE op)
  | 0x08 => .ok (.eact (w.extractLsb' 8 3) (w.extractLsb' 5 3) (w.extractLsb' 0 5))
  | 0x09 => .ok (.ecvt (w.extractLsb' 8 3) (w.extractLsb' 5 3) (w.extractLsb' 4 1) (w.extractLsb' 0 4))
  | 0x0A => if w.extractLsb' 0 5 == 0 then .ok (.estat (w.extractLsb' 8 3) (w.extractLsb' 5 3)) else .error (.reservedE op)
  | 0x0B => if w.extractLsb' 4 1 == 0 then .ok (.eqkv (w.extractLsb' 8 3) (w.extractLsb' 5 3) (w.extractLsb' 0 4)) else .error (.reservedE op)
  | 0x0C => if w.extractLsb' 5 3 == 0 && w.extractLsb' 0 5 == 0 then .ok (.eres (w.extractLsb' 8 3)) else .error (.reservedE op)
  | 0x0D => if w.extractLsb' 8 3 == 0 && w.extractLsb' 4 1 == 0 then .ok (.est (w.extractLsb' 5 3) (w.extractLsb' 0 4)) else .error (.reservedE op)
  | 0x0E => if w.extractLsb' 3 2 == 0 then .ok (.esel (w.extractLsb' 8 3) (w.extractLsb' 5 3) (w.extractLsb' 0 3)) else .error (.reservedE op)
  | 0x0F => if w.extractLsb' 0 5 == 0 then .ok (.emov (w.extractLsb' 8 3) (w.extractLsb' 5 3)) else .error (.reservedE op)
  | _ => .error (.reservedE op)

/-- The word that these parcels begin, and whether the rules of Tables 14-2 to 14-6 allow it. -/
def rawWord (ps : List Parcel) : Except DecodeError Instr :=
  match ps with
  | [] => .error .tooShort
  | p :: rest =>
    match tagOf p, rest with
    | .t, q :: rest' =>
      if p.getLsbD 13 then
        match rest' with
        | r :: s :: _ =>
          let w : BitVec 64 := p ++ q ++ r ++ s
          let op : BitVec 9 := w.extractLsb' 52 9
          if op == 0x0A0 then
            if w.extractLsb' 32 13 == 0 then
              .ok (.lix { xd := w.extractLsb' 46 6, h := w.extractLsb' 45 1, imm := w.extractLsb' 0 32 })
            else .error (.reservedV op)
          else if w.extractLsb' 0 4 != 0 then .error (.reservedV op)
          else rawV op (vForm (w.extractLsb' 4 48))
        | _ => .error .tooShort
      else
        let w : BitVec 32 := p ++ q
        rawS (w.extractLsb' 22 7) (w.extractLsb' 0 22)
    | .t, [] => .error .tooShort
    | .m, _ => if p.getLsbD 13 then .ok (.mlit (p.extractLsb' 0 13)) else rawM (p.extractLsb' 8 5) (p.extractLsb' 0 8)
    | .c, _ => if p.getLsbD 13 then .ok (.clit (p.extractLsb' 0 13)) else rawC (p.extractLsb' 8 5) (p.extractLsb' 0 8)
    | .a, _ =>
      let op : BitVec 6 := p.extractLsb' 8 6
      if op == 4 then
        match rest with
        | q :: _ => .ok (.abr (p.extractLsb' 6 2) (p.extractLsb' 0 6) q)
        | [] => .error .tooShort
      else if op == 5 then
        match rest with
        | q :: _ => if p.extractLsb' 0 8 == 0 then .ok (.acall q) else .error (.reservedA op)
        | [] => .error .tooShort
      else rawA op (p.extractLsb' 0 8)

def checked (r : Except DecodeError Instr) : Except DecodeError Instr :=
  match r with
  | .ok i => if i.wf then .ok i else .error (.illFormed i)
  | .error e => .error e

/-- The instruction that these parcels of text begin. -/
def decode (ps : List Parcel) : Except DecodeError Instr := checked (rawWord ps)

/-- The E-op a parcel of an epilogue program holds (R311). -/
def decodeEop (w : BitVec 16) : Except DecodeError Instr := checked (rawE w)

/-- Parcels from bytes: each parcel little-endian (R297). -/
def parcels : List Byte → List Parcel
  | lo :: hi :: rest => (hi ++ lo : BitVec 16) :: parcels rest
  | _ => []

def parcelBytes (p : Parcel) : List Byte := [p.extractLsb' 0 8, p.extractLsb' 8 8]

/-- The instruction that these bytes of text begin, and the bytes after it. -/
def decodeBytes (bs : List Byte) : Except DecodeError (Instr × List Byte) :=
  match parcels bs with
  | [] => .error .tooShort
  | p :: ps =>
    match decode (p :: ps) with
    | .ok i => .ok (i, bs.drop (2 * parcelsOf p))
    | .error e => .error e

/-- S-form encodings: op7 and bits [21:0]. -/
def sCode (i : Instr) : Option (BitVec 7 × BitVec 22) :=
  match i with
  | .add f => some (0x00, aBits f)
  | .sub f => some (0x01, aBits f)
  | .and f => some (0x02, aBits f)
  | .or f => some (0x03, aBits f)
  | .xor f => some (0x04, aBits f)
  | .shl f => some (0x05, aBits f)
  | .shr f => some (0x06, aBits f)
  | .mul f => some (0x07, aBits f)
  | .div f => some (0x08, aBits f)
  | .rem f => some (0x09, aBits f)
  | .min f => some (0x0A, aBits f)
  | .max f => some (0x0B, aBits f)
  | .cset f => some (0x0C, aBits f)
  | .bits f => some (0x0D, aBits f)
  | .field f => some (0x0E, aBits f)
  | .sel f => some (0x0F, aBits f)
  | .addi f => some (0x10, bBits f)
  | .andi f => some (0x11, bBits f)
  | .ori f => some (0x12, bBits f)
  | .xori f => some (0x13, bBits f)
  | .shli f => some (0x14, bBits f)
  | .shri f => some (0x15, bBits f)
  | .shai f => some (0x16, bBits f)
  | .cseti f => some (0x17, bBits f)
  | .xput f => some (0x18, aBits f)
  | .xtake f => some (0x19, aBits f)
  | .b f => some (0x20, cBits f)
  | .call f => some (0x21, cBits f)
  | .jr f => some (0x22, bBits f)
  | .beq f => some (0x23, dBits f)
  | .bne f => some (0x24, dBits f)
  | .blt f => some (0x25, dBits f)
  | .bge f => some (0x26, dBits f)
  | .bltu f => some (0x27, dBits f)
  | .bgeu f => some (0x28, dBits f)
  | .bp f => some (0x29, fBits f)
  | .csrr f => some (0x30, eBits f)
  | .csrw f => some (0x31, eBits f)
  | .csrs f => some (0x32, eBits f)
  | .csrc f => some (0x33, eBits f)
  | .fence k s g => some (0x34, (0 : BitVec 13) ++ k ++ s ++ g)
  | .trapf => some (0x35, 0)
  | .svc n => some (0x36, (0 : BitVec 14) ++ n)
  | .sret => some (0x37, 0)
  | .brk => some (0x38, 0)
  | .xdisp => some (0x39, 0)
  | .isync => some (0x3A, 0)
  | .icinv f => some (0x3B, aBits f)
  | .getid f => some (0x3C, aBits f)
  | .pause => some (0x3D, 0)
  | .ldb f => some (0x40, bBits f)
  | .ldh f => some (0x41, bBits f)
  | .ldw f => some (0x42, bBits f)
  | .ldd f => some (0x43, bBits f)
  | .ldbs f => some (0x44, bBits f)
  | .ldhs f => some (0x45, bBits f)
  | .ldws f => some (0x46, bBits f)
  | .stb f => some (0x48, bBits f)
  | .sth f => some (0x49, bBits f)
  | .stw f => some (0x4A, bBits f)
  | .std f => some (0x4B, bBits f)
  | .ldf f => some (0x4C, bBits f)
  | .ldc f => some (0x4D, bBits f)
  | .ste f => some (0x4E, bBits f)
  | .sts f => some (0x4F, aBits f)
  | .stn f => some (0x50, bBits f)
  | .allot f => some (0x58, bBits f)
  | .rotcfg f => some (0x59, bBits f)
  | .rotset f => some (0x5A, aBits f)
  | .swctx => some (0x5C, 0)
  | .park => some (0x5D, 0)
  | .ctxsv f => some (0x5E, aBits f)
  | .ctxld f => some (0x5F, aBits f)
  | .grpset f => some (0x60, aBits f)
  | .asgen f => some (0x61, aBits f)
  | .cohset f => some (0x62, aBits f)
  | .probe f => some (0x63, aBits f)
  | _ => none

/-- V-form encodings: op9 and fields. -/
def vCode (i : Instr) : Option (BitVec 9 × VForm) :=
  match i with
  | .brkl => some (0x0A1, zeroForm)
  | .vadd f => some (0x000, f)
  | .vsub f => some (0x001, f)
  | .vmul f => some (0x002, f)
  | .vfma f => some (0x003, f)
  | .vfms f => some (0x004, f)
  | .vmin f => some (0x005, f)
  | .vmax f => some (0x006, f)
  | .vabs f => some (0x007, f)
  | .vneg f => some (0x008, f)
  | .vdiv f => some (0x009, f)
  | .vsqrt f => some (0x00A, f)
  | .vrcp f => some (0x00B, f)
  | .vrsq f => some (0x00C, f)
  | .vexp2 f => some (0x00D, f)
  | .vlog2 f => some (0x00E, f)
  | .vscl f => some (0x00F, f)
  | .vcmp f => some (0x010, f)
  | .vsel f => some (0x011, f)
  | .vand f => some (0x012, f)
  | .vor f => some (0x013, f)
  | .vxor f => some (0x014, f)
  | .vnot f => some (0x015, f)
  | .vshl f => some (0x016, f)
  | .vshr f => some (0x017, f)
  | .vcvt f => some (0x018, f)
  | .vqmx f => some (0x019, f)
  | .vdqmx f => some (0x01A, f)
  | .vqnb f => some (0x01B, f)
  | .vdqnb f => some (0x01C, f)
  | .vrand f => some (0x01D, f)
  | .vbdot f => some (0x01E, f)
  | .vpack f => some (0x01F, f)
  | .vred f => some (0x020, f)
  | .vscan f => some (0x021, f)
  | .vperm f => some (0x022, f)
  | .vbcast f => some (0x023, f)
  | .vextr f => some (0x024, f)
  | .vins f => some (0x025, f)
  | .vslide f => some (0x026, f)
  | .vzip f => some (0x027, f)
  | .vunzip f => some (0x028, f)
  | .vmov f => some (0x029, f)
  | .viota f => some (0x02A, f)
  | .pand f => some (0x030, f)
  | .por f => some (0x031, f)
  | .pxor f => some (0x032, f)
  | .pnot f => some (0x033, f)
  | .pwhile f => some (0x034, f)
  | .pcnt f => some (0x035, f)
  | .pfirst f => some (0x036, f)
  | .vld f => some (0x040, f)
  | .vst f => some (0x041, f)
  | .vldx f => some (0x042, f)
  | .vstx f => some (0x043, f)
  | .vldf f => some (0x046, f)
  | .vste f => some (0x047, f)
  | .vgath f => some (0x044, f)
  | .vscat f => some (0x045, f)
  | .touch f => some (0x050, f)
  | .cstat f => some (0x051, f)
  | .waitc f => some (0x055, f)
  | .defer f => some (0x052, f)
  | .resolve f => some (0x053, f)
  | .poison f => some (0x054, f)
  | .rcpdef f => some (0x060, f)
  | .rcpdrop f => some (0x061, f)
  | .rcpkill f => some (0x062, f)
  | .rempty f => some (0x068, f)
  | .rstate f => some (0x069, f)
  | .amoadd f => some (0x070, f)
  | .amomin f => some (0x071, f)
  | .amomax f => some (0x072, f)
  | .amoand f => some (0x073, f)
  | .amoor f => some (0x074, f)
  | .amoxor f => some (0x075, f)
  | .amoswp f => some (0x076, f)
  | .amocas f => some (0x077, f)
  | .amofadd f => some (0x078, f)
  | .vamoadd f => some (0x079, f)
  | .fadd f => some (0x080, f)
  | .fset f => some (0x081, f)
  | .farm f => some (0x082, f)
  | .binit f => some (0x083, f)
  | .bexp f => some (0x084, f)
  | .bwait f => some (0x085, f)
  | .btest f => some (0x086, f)
  | .binv f => some (0x087, f)
  | .rginit f => some (0x088, f)
  | .rgtake f => some (0x089, f)
  | .sbind f => some (0x090, f)
  | .sunbind f => some (0x091, f)
  | .sstat f => some (0x092, f)
  | _ => none

/-- One-parcel M, C and A operation words. -/
def pCode (i : Instr) : Option (BitVec 16) :=
  match i with
  | .mnop => some (0x4000)
  | .mdup => some (0x4100)
  | .mdrop => some (0x4200)
  | .mswap => some (0x4300)
  | .mover => some (0x4400)
  | .mpushx k t x => some ((0x45 : BitVec 8) ++ k ++ t ++ x)
  | .mpopx x => some ((0x46 : BitVec 8) ++ (0 : BitVec 2) ++ x)
  | .madd => some (0x4700)
  | .mshl x => some ((0x48 : BitVec 8) ++ (0 : BitVec 2) ++ x)
  | .mor => some (0x4900)
  | .mmma s z k a => some ((0x4A : BitVec 8) ++ s ++ (0 : BitVec 1) ++ z ++ k ++ a)
  | .mmva s z k a => some ((0x4B : BitVec 8) ++ s ++ (0 : BitVec 1) ++ z ++ k ++ a)
  | .mswpw => some (0x4C00)
  | .mepi x => some ((0x4D : BitVec 8) ++ (0 : BitVec 4) ++ x)
  | .mbar => some (0x4E00)
  | .mwait x => some ((0x4F : BitVec 8) ++ (0 : BitVec 7) ++ x)
  | .mskipz n => some ((0x50 : BitVec 8) ++ n)
  | .mbrk => some (0x5100)
  | .mconst x y => some ((0x52 : BitVec 8) ++ x ++ y)
  | .cnop => some (0x8000)
  | .cdup => some (0x8100)
  | .cdrop => some (0x8200)
  | .cswap => some (0x8300)
  | .cover => some (0x8400)
  | .cpushx k t x => some ((0x85 : BitVec 8) ++ k ++ t ++ x)
  | .cpopx x => some ((0x86 : BitVec 8) ++ (0 : BitVec 2) ++ x)
  | .cadd => some (0x8700)
  | .cshl x => some ((0x88 : BitVec 8) ++ (0 : BitVec 2) ++ x)
  | .cor => some (0x8900)
  | .ccopy x => some ((0x8A : BitVec 8) ++ (0 : BitVec 7) ++ x)
  | .ccopy2 x => some ((0x8B : BitVec 8) ++ (0 : BitVec 7) ++ x)
  | .cdecomp => some (0x8C00)
  | .cgath x => some ((0x8D : BitVec 8) ++ (0 : BitVec 7) ++ x)
  | .cscat x => some ((0x8E : BitVec 8) ++ (0 : BitVec 7) ++ x)
  | .cfill x => some ((0x8F : BitVec 8) ++ (0 : BitVec 7) ++ x)
  | .cpref => some (0x9000)
  | .choff => some (0x9100)
  | .cpage x => some ((0x92 : BitVec 8) ++ (0 : BitVec 7) ++ x)
  | .ccoll x y => some ((0x93 : BitVec 8) ++ x ++ y)
  | .cflush => some (0x9400)
  | .cbar => some (0x9500)
  | .cwait x => some ((0x96 : BitVec 8) ++ (0 : BitVec 7) ++ x)
  | .cskipz n => some ((0x97 : BitVec 8) ++ n)
  | .cbrk => some (0x9800)
  | .anop => some (0xC000)
  | .loop c => some ((0xC1 : BitVec 8) ++ (0 : BitVec 1) ++ c)
  | .loopX x => some ((0xC1 : BitVec 8) ++ (2 : BitVec 2) ++ x)
  | .endl x => some ((0xC2 : BitVec 8) ++ (0 : BitVec 7) ++ x)
  | .leave c r => some ((0xC3 : BitVec 8) ++ c ++ r)
  | .aret => some (0xC600)
  | .sync => some (0xC700)
  | .next => some (0xC800)
  | .halt => some (0xC900)
  | .slip x => some ((0xCA : BitVec 8) ++ (0 : BitVec 4) ++ x)
  | .abrk => some (0xCB00)
  | .mlit p => some ((3 : BitVec 3) ++ p)
  | .clit p => some ((5 : BitVec 3) ++ p)
  | _ => none

/-- E-ops. -/
def eCode (i : Instr) : Option (BitVec 16) :=
  match i with
  | .eend => some 0x0000
  | .elda d => some ((0x01 : BitVec 5) ++ d ++ (0 : BitVec 8))
  | .eadd d s => some ((0x02 : BitVec 5) ++ d ++ s ++ (0 : BitVec 5))
  | .emul d s => some ((0x03 : BitVec 5) ++ d ++ s ++ (0 : BitVec 5))
  | .efma d s => some ((0x04 : BitVec 5) ++ d ++ s ++ (0 : BitVec 5))
  | .emax d s => some ((0x05 : BitVec 5) ++ d ++ s ++ (0 : BitVec 5))
  | .econ d c => some ((0x06 : BitVec 5) ++ d ++ (0 : BitVec 4) ++ c)
  | .erow d s => some ((0x07 : BitVec 5) ++ d ++ s ++ (0 : BitVec 5))
  | .eact d s f => some ((0x08 : BitVec 5) ++ d ++ s ++ f)
  | .ecvt d s u t => some ((0x09 : BitVec 5) ++ d ++ s ++ u ++ t)
  | .estat d s => some ((0x0A : BitVec 5) ++ d ++ s ++ (0 : BitVec 5))
  | .eqkv d s t => some ((0x0B : BitVec 5) ++ d ++ s ++ (0 : BitVec 1) ++ t)
  | .eres d => some ((0x0C : BitVec 5) ++ d ++ (0 : BitVec 8))
  | .est s t => some ((0x0D : BitVec 5) ++ (0 : BitVec 3) ++ s ++ (0 : BitVec 1) ++ t)
  | .esel d s c => some ((0x0E : BitVec 5) ++ d ++ s ++ (0 : BitVec 2) ++ c)
  | .emov d s => some ((0x0F : BitVec 5) ++ d ++ s ++ (0 : BitVec 5))
  | _ => none

/-- The parcels of a word, most significant first; nothing for a row that no word of text encodes. -/
def encode (i : Instr) : Option (List Parcel) :=
  match i with
  | .lix f =>
    let w : BitVec 64 := (0x2A0 : BitVec 12) ++ f.xd ++ f.h ++ (0 : BitVec 13) ++ f.imm
    some [w.extractLsb' 48 16, w.extractLsb' 32 16, w.extractLsb' 16 16, w.extractLsb' 0 16]
  | .abr c r o => some [((0xC4 : BitVec 8) ++ c ++ r : BitVec 16), o]
  | .acall o => some [0xC500, o]
  | i =>
    match sCode i with
    | some (op, b) =>
      let w : BitVec 32 := (0 : BitVec 3) ++ op ++ b
      some [w.extractLsb' 16 16, w.extractLsb' 0 16]
    | none =>
      match vCode i with
      | some (op, f) =>
        let w : BitVec 64 := (1 : BitVec 3) ++ op ++ vBits f ++ (0 : BitVec 4)
        some [w.extractLsb' 48 16, w.extractLsb' 32 16, w.extractLsb' 16 16, w.extractLsb' 0 16]
      | none =>
        match pCode i with
        | some p => some [p]
        | none => none

/-- The bytes of a word as text holds them. -/
def encodeBytes (i : Instr) : Option (List Byte) :=
  match encode i with
  | some ps => some (ps.flatMap parcelBytes)
  | none => none

/-- The parcels of a table word: its number is the whole word, so its most significant parcel comes first. -/
def tableParcels (nbits w : Nat) : List Parcel :=
  if nbits ≤ 16 then [BitVec.ofNat 16 w]
  else if nbits ≤ 32 then [BitVec.ofNat 16 (w / 65536), BitVec.ofNat 16 w]
  else [BitVec.ofNat 16 (w / 2 ^ 48), BitVec.ofNat 16 (w / 2 ^ 32), BitVec.ofNat 16 (w / 65536), BitVec.ofNat 16 w]

/-- A one-parcel table word is an E-op (R311) where it is no word of text: T words have no one-parcel form (Table 11-1),
and a pattern that no M, C or A word has is read as an E-op if one has it. -/
def tableIsEop (nbits w : Nat) : Bool :=
  nbits ≤ 16 &&
    match decode (tableParcels nbits w), decodeEop (BitVec.ofNat 16 w) with
    | .error _, .ok _ => true
    | _, _ => false

/-- The instruction that the decoder reads from a table word laid out as memory holds it. -/
def decodeTableWord (nbits w : Nat) : Option Instr :=
  if tableIsEop nbits w then
    match parcels ((tableParcels nbits w).flatMap parcelBytes) with
    | p :: _ => (decodeEop p).toOption
    | [] => none
  else
    match decodeBytes ((tableParcels nbits w).flatMap parcelBytes) with
    | .ok (i, _) => some i
    | .error _ => none

end Sys2Proof
end

