-- ==== Sys2Proof/Machine/Records.lean ====
section
/-! DEFINITION. Loop records, rings and masks (R132 to R138), the end of an evaluation (R198), completion of a task (R143),
and freeing records and image slots (R145, R265). -/

namespace Sys2Proof.Machine

/-! ## Records -/

def State.record (s : State) (site i : Nat) : Record := mapGet {} (s.die site).records i
def State.modRec (s : State) (site i : Nat) (f : Record → Record) : State :=
  s.modDie site fun d => { d with records := mapSet d.records i (f (mapGet {} d.records i)) }

def recPro (b : List Byte) : Nat := field b 0 8
def recKer (b : List Byte) : Nat := field b 8 8
def recEpi (b : List Byte) : Nat := field b 16 8
def recTrip (b : List Byte) : Nat := field b 24 4
def recPred (b : List Byte) : Nat := field b 28 2
def recClass (b : List Byte) : Nat := field b 30 1 % 8
def recMask (b : List Byte) : Nat := field b 31 1
def recArgp (b : List Byte) : Nat := field b 32 8
def recStream (b : List Byte) : Nat := field b 40 4 % 2 ^ 20
def recEval (b : List Byte) : Nat := field b 44 2
def recAsid (b : List Byte) : Nat := field b 46 2 % 4096
def recWidth (b : List Byte) : Nat := field b 48 2
def recFixed (b : List Byte) : Option Nat := if field b 50 2 ≥ 0x8000 then some (field b 50 2 % 1024) else none

/-- A ring entry: ring and slots needed, where it is valid. -/
def ringEntry (v : Nat) : Option (Nat × Nat) := if v ≥ 2 ^ 31 then some (v % 4096, bits v 23 12) else none
def recIn (b : List Byte) : List (Option (Nat × Nat)) := (List.range 4).map fun i => ringEntry (field b (52 + 4 * i) 4)
def recOut (b : List Byte) : List (Option (Nat × Nat)) := (List.range 4).map fun i => ringEntry (field b (68 + 4 * i) 4)

/-- Successors: site and task index (Table 7-2). -/
def recSucc (b : List Byte) : List (Nat × Nat) :=
  (List.range 8).filterMap fun j =>
    let v := field b (84 + 4 * j) 4
    if v ≥ 2 ^ 31 then some (bits v 18 12, v % 4096) else none

/-- Physical address of a record (Table 7-1). -/
def recordAddr (site i : Nat) : Nat := 0xFF0040000000 + site * 0x400000 + 128 * i

/-- Mask m of a die (R132): mask 0 selects every core until the plan loads one. -/
def maskBits (s : State) (site m : Nat) : BitVec 1024 :=
  if m = 0 then ((s.die site).mask0.getD (BitVec.allOnes 1024)) else mapGet 0 (s.die site).masks m

/-- Core numbers on the die that a record may run on, ascending (R139). -/
def recCores (s : State) (site : Nat) (b : List Byte) : List Nat :=
  match recFixed b with
  | some c => if c < coresOf site then [c] else []
  | none =>
    let m := maskBits s site (recMask b)
    (List.range (coresOf site)).filter (fun c => m.getLsbD c)

/-! ## Rings (R137, R138) -/

def State.ring (s : State) (site r : Nat) : Ring := mapGet {} (s.die site).rings r

/-- Tag of the header of slot `i` of a ring. -/
def ringTag (s : State) (g : Ring) (i : Nat) : BitVec 2 :=
  s.tag (g.hdr.toNat + (i % g.slots.toNat) * g.stride.toNat)

def ringHas (s : State) (site : Nat) (out : Bool) (e : Option (Nat × Nat)) : Bool :=
  match e with
  | none => true
  | some (r, k) =>
    let g := s.ring site r
    (List.range k).all fun i => ringTag s g ((if out then g.pidx else g.cidx) + i) == (if out then 0 else 1)

/-- The ring conditions of R138. -/
def ringsReady (s : State) (site : Nat) (b : List Byte) : Bool :=
  (recIn b).all (ringHas s site false) && (recOut b).all (ringHas s site true)

/-- The state of a record as the table shows it: WAITRING and ELIGIBLE follow the rings (Table 7-3). -/
def recState (s : State) (site : Nat) (r : Record) : TaskSt :=
  match r.st with
  | .waitring | .eligible => if ringsReady s site r.bytes then .eligible else .waitring
  | st => st

/-- Takes the slots a record needs: the indices for x1 to x8, and the rings after it (R138). -/
def takeRings (s : State) (site : Nat) (b : List Byte) : List Word × State :=
  let step (out : Bool) (acc : List Word × State) (e : Option (Nat × Nat)) : List Word × State :=
    match e with
    | none => (acc.1 ++ [BitVec.allOnes 64], acc.2)
    | some (r, k) =>
      let g := acc.2.ring site r
      let at_ := if out then g.pidx else g.cidx
      let next := (at_ + k) % g.slots.toNat
      let g' := if out then { g with pidx := next } else { g with cidx := next }
      (acc.1 ++ [BitVec.ofNat 64 at_], acc.2.modDie site fun d => { d with rings := mapSet d.rings r g' })
  (recOut b).foldl (step true) ((recIn b).foldl (step false) ([], s))

/-! ## Evaluations -/

/-- Ends an evaluation: every cell bound to it that is not VALUE takes a reason, and its entry is free (R198). -/
def endEval (s : State) (id reason : Nat) : State :=
  let lines := (s.bound.filter (fun e => e.2.toNat == id)).map (·.1)
  let s := lines.foldl (fun (s : State) l =>
    if s.cellTag l == 0 then { s with bound := mapDel s.bound l } else ((poisonAt l reason).run s).2) s
  s.modDie (id / 1024) fun d => { d with evals := mapDel d.evals (id % 1024) }

/-! ## Freeing -/

/-- Image slots are 20 KiB (R265). -/
def slotBytesLen : Nat := 20480

/-- No image slot: the context is still in the shadow bank alone (slots are 64-byte aligned, Table 12-4). -/
def bankOnly : Nat := 1

/-- Frees an image slot by its address. -/
def freeImage (s : State) (site addr : Nat) : State :=
  s.modDie site fun d => { d with pused := d.pused.filter (fun i => d.pbase.toNat + i * slotBytesLen != addr) }

/-- Tells the module that a die is lent to something of its work there (R65). -/
def tellPeer (s : State) (site : Nat) (ask : PeerReq) (i : Nat) (data : List Byte) : State :=
  s.modFw fun f => { f with peerOut := f.peerOut ++ [{ peer := (s.die site).peer, ask := ask, site := site, index := i, data := data }] }

/-- Frees a record: its images go, its operations count for it no longer. The borrower is told of one that it has sent. -/
def freeRec (s : State) (site i : Nat) : State :=
  let r := s.record site i
  let s := if r.foreign then tellPeer s site .done i [] else s
  let s := r.images.foldl (fun (s : State) e => if e.2 = bankOnly then s else freeImage s site e.2) s
  let id := BitVec.ofNat 19 (site * 4096 + i)
  let s := { s with ops := s.ops.map fun (o : Op) => if o.task == id then { o with live := false } else o }
  let s := s.modRec site i fun r => { r with
    st := .free, errmark := false, cores := [], used := [], parked := [], async := 0, images := [], eval := false, foreign := false }
  s.modDie site fun d => { d with requests := d.requests.filter (fun q => q.record != i),
                                  reserved := match d.reserved with
                                    | some (h, cs) => if h = i then none else some (h, cs)
                                    | none => none }

/-- A PROGRAM evaluation ends with its record (R198). -/
def endRecEval (s : State) (site i : Nat) : State :=
  let r := s.record site i
  if r.eval then endEval s (recEval r.bytes) 1 else s

/-- KILL: the record goes, its successors are not decremented (R145). What becomes of other cores of the task, which still run, the rule
does not say: they run on to their HALT, and count for no record (DESIGN CHOICE, notes/assumptions/35.md). -/
def killRec (s : State) (site i : Nat) : State := freeRec (endRecEval s site i) site i

/-- A predecessor decrement (R135). -/
def predDec (s : State) (site i : Nat) : State :=
  let r := s.record site i
  let p := recPred r.bytes
  if r.st == .free || p = 0 then s.modDie site fun d => { d with under := true }
  else s.modRec site i fun r => { r with bytes := patch r.bytes 28 (leBytes 2 (p - 1)),
                                         st := if r.st == .blocked && p = 1 then .waitring else r.st }

/-- The table entry of a stream id (R94). -/
def findStream (s : State) (id : Nat) : Option StreamEnt :=
  match mapFind s.fw.streams (id % 65536) with
  | some e => if e.id.toNat = id then some e else none
  | none => none

def setStream (s : State) (e : StreamEnt) : State := s.modFw fun f => { f with streams := mapSet f.streams e.slot e }

/-- The stream's task at a record has completed or is gone. -/
def taskGone (s : State) (e : StreamEnt) (t : Nat × Nat × Bool) : Bool :=
  let r := s.record t.1 t.2.1
  r.st == .free || recStream r.bytes != e.id.toNat

/-- The tasks of a stream's job have completed or are gone, those on borrowed dies as well. -/
def jobGone (s : State) (e : StreamEnt) (decode : Bool) : Bool :=
  e.tasks.all (fun t => t.2.2 != decode || taskGone s e t) && e.far.all (fun t => t.2.2.2 != decode)

/-- A stream that has all its blocks and whose prefill job has completed is in DECODE (R126). -/
def advanceStream (s : State) (id : Nat) : State :=
  match findStream s id with
  | none => s
  | some e =>
    let layers := (match s.fw.plan with
      | some p => (mapFind p.insts e.inst).map (fun (i : Inst) => i.layers)
      | none => none).getD 0
    if e.st == .handoff && e.committed.length ≥ layers * e.ntb && jobGone s e false then
      setStream s { e with st := .decode }
    else s

/-- Scope of the release toward a task's successors (R143): 2 where all are on its die, 3 otherwise, 1 for none. -/
def succScope (site : Nat) (b : List Byte) : Nat :=
  match recSucc b with
  | [] => 1
  | ss => if ss.all (·.1 == site) then 2 else 3

/-- The release of a task's completion must wait for a dirty line of one of its cores (R153). -/
def taskPinned (s : State) (site i : Nat) : Bool :=
  let r := s.record site i
  r.used.any fun c => releasePinned s (site * 1024 + c) (succScope site r.bytes)

/-- Completion (R143): the release for the task's cores, the decrements of the successors in order, the end of an evaluation, and the
record is free. A remote successor receives a request on VC0. -/
def completeRec (s : State) (site i : Nat) : State :=
  let r := s.record site i
  let s := r.used.foldl (fun s c => releaseScope s (site * 1024 + c) (succScope site r.bytes)) s
  let s := (recSucc r.bytes).foldl (fun (s : State) t =>
    if t.1 = site then predDec s t.1 t.2
    else postEvent s .predDecrement { noSlot with src := site, dst := t.1, addr := BitVec.ofNat 48 (recordAddr t.1 t.2),
                                                  arg := BitVec.ofNat 64 t.2 }) s
  let s := killRec s site i
  if r.foreign then s else advanceStream s (recStream r.bytes)

/-- A record that is DRAINING with nothing outstanding completes, or becomes FAULTED while ERRMARK is set (R143, R146). The release of its
completion may have to wait. -/
def settleRec (s : State) (site i : Nat) : State :=
  let r := s.record site i
  if r.st == .draining && r.async = 0 then
    if r.errmark then s.modRec site i fun r => { r with st := .faulted }
    else if taskPinned s site i then s
    else completeRec s site i
  else s

/-! ## Fault queue commands (R145, R146) -/

/-- The lowest free entry of a fault queue. -/
def freeFq (d : Die) : Option Nat := (List.range 256).find? fun i => (mapFind d.fq i).isNone

/-- An entry is appended now; the one that fills the queue sets FQFULL (R144, Table 7-8). -/
def putFault (s : State) (site i : Nat) (f : FqEntry) : State :=
  s.modDie site fun d =>
    let fq := mapSet d.fq i { f with time := s.cycle }
    { d with fq := fq, fqfull := d.fqfull || (freeFq { d with fq := fq }).isNone }

/-- Moves held entries into the fault queue while it has room (R144). -/
def flushFaults (site : Nat) : Nat → State → State
  | 0, s => s
  | n + 1, s =>
    let d := s.die site
    match d.heldFaults, freeFq d with
    | f :: fs, some i => flushFaults site n (putFault (s.setDie site { d with heldFaults := fs }) site i f)
    | _, _ => s

/-- Frees an entry, which a held one may take. -/
def freeEntry (s : State) (site e : Nat) : State := flushFaults site 1 (s.modDie site fun d => { d with fq := mapDel d.fq e })

/-- Frees every entry of a record, with the images they name. -/
def freeEntries (s : State) (site i : Nat) : State :=
  let mine (f : FqEntry) : Bool := f.task.toNat == i
  let s := (s.die site).fq.foldl (fun (s : State) e =>
    if mine e.2 && e.2.kind == 0 then freeImage s site e.2.image.toNat else s) s
  flushFaults site 256 (s.modDie site fun d =>
    { d with fq := d.fq.filter (fun e => !mine e.2), heldFaults := d.heldFaults.filter (fun f => !mine f) })

/-- Carries out KILL or COMPLETE on a record: its remaining entries are freed without further effect. COMPLETE ignores what is left of the
asynchronous count, and waits for its release as any completion does (R143, R145). -/
def endRec (s : State) (site i : Nat) (complete : Bool) : State :=
  let s := freeEntries s site i
  if complete then settleRec (s.modRec site i fun r => { r with st := .draining, async := 0, errmark := false }) site i
  else killRec s site i

/-- A record that became FAULTED carries out a held command, the lowest entry first (R146). -/
def runHeld (s : State) (site i : Nat) : State :=
  if (s.record site i).st != .faulted then s
  else match (s.die site).fq.find? (fun e => e.2.task.toNat == i && e.2.held != 0) with
    | some e => endRec s site i (e.2.held == 2)
    | none => s

/-- FQCMD (R145, R146): RESUME 0, KILL 1, COMPLETE 2. -/
def fqCommand (s : State) (site e op : Nat) : State :=
  match mapFind (s.die site).fq e with
  | none => s
  | some f =>
    let i := f.task.toNat
    let r := s.record site i
    match op, f.kind.toNat with
      | 0, 0 =>
        let s := freeEntry s site e
        s.modRec site i fun r => { r with
          st := if r.st == .faulted || r.st == .running then .suspended else r.st, parked := r.parked.filter (· != f.core.toNat),
          images := r.images ++ [(site * 1024 + f.core.toNat, f.image.toNat)] }
      | 0, _ =>
        let s := freeEntry s site e
        if (s.die site).fq.any (fun x => x.2.task.toNat == i && x.2.kind != 0) ||
            (s.die site).heldFaults.any (fun x => x.task.toNat == i && x.kind != 0) then s
        else
          let s := s.modRec site i fun r => { r with errmark := false, st := if r.st == .faulted then .draining else r.st }
          settleRec s site i
      | 1, 0 => endRec s site i false
      | 2, 0 => endRec s site i true
      | 1, _ | 2, _ =>
        if r.st == .faulted then endRec s site i (op == 2)
        else s.modDie site fun d => { d with fq := mapSet d.fq e { f with held := BitVec.ofNat 8 op } }
      | _, _ => s

end Sys2Proof.Machine
end

