-- ==== Sys2Proof/Machine/Registers.lean ====
section
/-! DEFINITION. Control space (R9, R16, R132, R158): what its registers read, and what writes to them do. Reads are by 4-byte
words; a write of 8 bytes is two of 4 but for ring descriptors (R137). -/

namespace Sys2Proof.Machine

/-! ## Reading -/

/-- A word from bytes. -/
def wordAt (bs : List Byte) (o : Nat) : Nat := field bs o 4

def dieType (site : Nat) : Nat := if isP site then 0 else if isD site then 1 else 2

/-- Temperature of the hottest valid sensor of a die, in 0.125 °C. -/
def hottest (d : Die) : Option Int :=
  d.sensors.foldl (fun m e =>
    if !e.2.valid then m
    else match m with
      | none => some e.2.temp.toInt
      | some t => if t < e.2.temp.toInt then some e.2.temp.toInt else some t) none

/-- Clock ratio of a region in sixteenths (R30). -/
def ratio (s : State) (g : Nat) : Nat :=
  let r := s.region g
  let hot := (List.range 64).any fun n => regionOf n == g && (s.die n).thThrot
  max 8 (min r.capReq (min (if hot then 8 else 16) (if r.active then 8 else 16)))

/-- Accesses of cores that wait at a link in RETRAIN (R48): a request at the first such link of its way, or its answer at the first of the
way back (notes/assumptions/20.md). -/
def queuedAt (s : State) (n e v : Nat) : Nat :=
  let first (src dst : Nat) : Option (Nat × Nat) :=
    (pathOf 20 src dst (chooseRoute s src dst 0)).find? fun l => (s.link l.1 l.2).state == 3
  (s.waiters.filter fun w => match w.who, w.on with
    | .core c _, .path a => match first (siteOf c) (homeSite a) with
      | some l => v == 0 && l == (n, e)
      | none => v == 1 && first (homeSite a) (siteOf c) == some (n, e)
    | _, _ => false).length

/-- Registers of a link or port (Table 2-8). Q0 to Q3 saturate at 255: no rule limits the queue of an end, or says what
an 8-bit field reads for a longer one (DESIGN CHOICE, notes/assumptions/39.md). -/
def linkWord (l : Link) (waits : Nat → Nat) (o : Nat) : Nat :=
  let q (v : Nat) : Nat := min 255 ((l.queue.filter fun f => f.vc == v).length + waits v)
  match o with
  | 0x00 => l.state.toNat + 8 * b2n l.half + 16 * l.modok.toNat + 65536 * l.rtcount.toNat
  | 0x04 => b2n l.force
  | 0x08 => l.crcerr.toNat
  | 0x0C => l.replay.toNat
  | 0x10 => b2n l.lcrc + 2 * b2n l.replim + 4 * b2n l.timeout + 8 * b2n l.down + 16 * b2n l.proto
  | 0x14 => l.txflit.toNat
  | 0x18 => l.rxflit.toNat
  | 0x1C => q 0 + 256 * q 1 + 65536 * q 2 + 2 ^ 24 * q 3
  | _ => 0

/-- Hand-off engine registers (Table 6-5). -/
def hoWord (d : Die) (dstack : Bool) (o : Nat) : Nat :=
  let h := d.ho
  let n (p : SrcBlock → Bool) : Nat := (d.srcs.filter p).length
  match o with
  | 0x00 => h.retrylim.toNat + 50 * 65536
  | 0x04 => n (fun b => b.st != .queued) + 65536 * n (fun b => b.st == .queued)
  | 0x08 => b2n h.order + 2 * b2n h.conv + 4 * b2n h.rej + 8 * b2n h.ref + 16 * b2n h.proto + 32 * b2n h.limit
  | 0x10 => h.sent.toNat
  | 0x14 => h.resent.toNat
  | 0x18 => h.commit.toNat
  | 0x1C => h.dup.toNat
  | 0x20 => h.latedisc.toNat
  | 0x24 => h.marks.toNat
  | 0x28 => h.cancels.toNat
  | 0x2C => h.released.toNat
  | 0x44 => if dstack then h.frefCount.toNat + 65536 * b2n h.frefOk else 0
  | 0x48 => if dstack then h.frefStr.toNat else 0
  | _ => 0

/-- Deferred-cell registers (Table 9-5). -/
def cellWordReg (d : Die) (o : Nat) : Nat :=
  match o with
  | 0x00 => d.evals.length
  | 0x04 => d.launch.toNat
  | 0x08 => d.resolved.toNat
  | 0x0C => d.poisonedCnt.toNat
  | 0x10 => d.wretry.toNat
  | 0x14 => b2n d.selfdep + 2 * b2n d.depthTrap + 4 * b2n d.malf + 8 * b2n d.media
  | 0x18 => d.tiermiss.toNat
  | _ => 0

/-- An entry of the breakpoint table (R268). -/
def breakBytes (b : Option Break) : List Byte :=
  match b with
  | none => List.replicate 32 0
  | some b => leBytes 8 b.va.toNat ++ leBytes 2 b.asid.toNat ++ [BitVec.ofNat 8 (b.parcels + 128), 0] ++ leBytes 2 b.hits.toNat ++
      leBytes 2 b.lastCore.toNat ++ [BitVec.ofNat 8 b.lastSite.toNat] ++ List.replicate 7 0 ++ leBytes 8 b.word.toNat

/-- DREMAP entry `g` of a column (Table 1-4). -/
def remapByte (d : Die) (c g : Nat) : Nat :=
  match (d.remap c)[g]? with
  | some (l, b) => l + 16 * b
  | none => 0

def errWord (e : ErrCnt) : Nat := e.ce.toNat + 65536 * e.ue.toNat

/-- A remote window's register (Table 3-2). -/
def fwinWord (w : Fwin) : Nat :=
  w.rmod.toNat + 4096 * b2n w.valid + 65536 * w.port.toNat + 2 ^ 23 * b2n w.altv + 2 ^ 24 * w.altport.toNat

/-- A word of a site's control block (Table 1-2 and the chapters that add to it). -/
def blockWord (s : State) (n o : Nat) : Nat :=
  let d := s.die n
  let dstack := isD n
  let grid := decide (n < 64)
  let within (lo len : Nat) : Bool := lo ≤ o && o < lo + len
  if o = 0x0000 then n + 256 * dieType n + 1024 * (if isP n then 2 else if dstack then 12 else 0)
  else if o = 0x0010 then d.warn + 256 * d.throt + 65536 * d.trip
  else if o = 0x0014 then b2n d.thWarn + 2 * b2n d.thThrot + 4 * b2n d.thTrip
  else if o = 0x0020 then if n = 64 then s.fw.modid.toNat else 0
  else if dstack && within 0x0104 48 then
    let l := mapGet {} d.lpwr ((o - 0x0100) / 4)
    (l.queued.getD l.target).toNat + 4 * l.state.toNat + 16 * b2n l.busy
  else if dstack && o = 0x0200 then d.stackCap
  else if isP n && o = 0x0210 then d.wbok.toNat
  else if isP n && within 0x0220 32 then
    let p := mapGet {} d.wpairs ((o - 0x0220) / 4)
    p.act.toNat + 65536 * p.epoch.toNat
  else if isP n && o = 0x0240 then errWord d.wErr
  else if o = 0x0244 then errWord d.sErr
  else if grid && o = 0x0300 then d.pool.toNat + 65536 * d.peer.toNat
  else if dstack && within 0x0400 256 then let c := (o - 0x0400) / 4; d.colGran c + 256 * d.colBase c
  else if dstack && within 0x0600 256 then errWord (mapGet {} d.colErr ((o - 0x0600) / 4))
  else if grid && within 0x0700 0x20 then cellWordReg d (o - 0x0700)
  else if dstack && within 0x0800 0x1000 then
    let c := (o - 0x0800) / 64
    let l := (o - 0x0800) % 64 / 4
    if 1 ≤ l && l ≤ 12 then
      (d.segfail c l).toNat + 256 * b2n (popcount8 (d.segfail c l) > 4) + 512 * d.banks c l + 2 ^ 31 * b2n d.carved
    else 0
  else if dstack && within 0x2000 0x4000 then
    let c := (o - 0x2000) / 256
    let g := (o - 0x2000) % 256
    remapByte d c g + 256 * remapByte d c (g + 1) + 65536 * remapByte d c (g + 2) + 2 ^ 24 * remapByte d c (g + 3)
  else if grid && within 0x6000 0x50 then hoWord d dstack (o - 0x6000)
  else if grid && o = 0x7000 then d.pbase.toNat % 2 ^ 32
  else if grid && o = 0x7004 then d.pbase.toNat / 2 ^ 32
  else if grid && o = 0x7008 then d.pslots.toNat + 65536 * d.pused.length
  else if grid && o = 0x700C then d.pfull.toNat
  else if n = 64 && within 0x7100 0x800 then wordAt (breakBytes (mapFind s.fw.breaks ((o - 0x7100) / 32))) ((o - 0x7100) % 32)
  else if within 0x8000 (if grid then 0x100 else 0x680) then
    let e := (o - 0x8000) / 64
    linkWord (s.link n e) (queuedAt s n e) (o % 64)
  else if n = 64 && within 0xA000 128 then if o % 8 = 0 then fwinWord (mapGet {} s.fw.fwin ((o - 0xA000) / 8)) else 0
  else 0

/-- A loop record as the table shows it (Table 7-2). -/
def recordBytes (s : State) (site i : Nat) : List Byte :=
  let r := s.record site i
  slice r.bytes 0 116 ++ [BitVec.ofNat 8 ((recState s site r).code + 8 * b2n r.errmark), BitVec.ofNat 8 r.pass,
    BitVec.ofNat 8 r.eclass, 0] ++ leBytes 8 r.seq.toNat

def ringBytes (g : Ring) : List Byte :=
  slice g.raw 0 12 ++ leBytes 2 g.cidx ++ leBytes 2 g.pidx ++
    [BitVec.ofNat 8 (b2n g.valid)] ++ List.replicate 15 0

/-- A fault queue entry (Table 7-6). -/
def fqBytes (f : Option FqEntry) : List Byte :=
  match f with
  | none => List.replicate 64 0
  | some f => leBytes 2 f.task.toNat ++ leBytes 2 f.core.toNat ++ [f.kind, f.cause, 0, 0] ++ leBytes 8 f.addr.toNat ++
      leBytes 8 f.info.toNat ++ leBytes 8 f.image.toNat ++ leBytes 4 f.stream.toNat ++ leBytes 2 f.evalid.toNat ++ [1, 0] ++
      leBytes 8 f.time.toNat ++ List.replicate 16 0

/-- A range unit (Table 7-7). -/
def rangeBytes (u : RangeUnit) : List Byte :=
  leBytes 8 u.next.toNat ++ leBytes 8 u.remain.toNat ++ leBytes 8 (u.minc.toNat + 65536 * u.pdiv.toNat) ++
    leBytes 8 u.takes.toNat

/-- An entry of a tile-task queue (Table 7-9). -/
def tileEntryBytes (t : Option TileTask) : List Byte :=
  match t with
  | none => List.replicate 64 0
  | some t => leBytes 8 t.g.toNat ++ leBytes 8 t.aref.toNat ++ leBytes 8 t.cref.toNat ++ leBytes 8 t.w.toNat ++
      leBytes 8 (t.bar.getD 0) ++ [t.arg, BitVec.ofNat 8 t.st] ++ leBytes 2 (numOf t.core) ++ leBytes 2 t.task.toNat ++
      [BitVec.ofNat 8 t.array, BitVec.ofNat 8 (t.kind + 128 * b2n t.phase)] ++ leBytes 8 t.qseq ++ List.replicate 8 0

/-- Spans of a group in the table (R148). -/
def groupBytes (spans : List (Nat × Nat × Nat)) : List Byte :=
  slice (spans.flatMap fun sp => [BitVec.ofNat 8 (sp.1 + 128), 0] ++ leBytes 2 sp.2.1 ++ leBytes 2 sp.2.2 ++ [0, 0]) 0 128

/-- An entry of the group table: its bytes as they were written, or the spans of the plan. -/
def groupEntry (s : State) (g : Nat) : List Byte :=
  match mapFind s.fw.groupRaw g with
  | some b => slice b 0 128
  | none => groupBytes (mapGet [] s.fw.groups g)

/-- Dispatcher registers (Table 7-8). -/
def dispReg (s : State) (n o : Nat) : Nat :=
  let d := s.die n
  match o with
  | 0x08 => b2n d.badrec + 2 * b2n d.busyErr + 4 * b2n d.under + 8 * b2n d.badring + 16 * b2n d.fqfull
  | 0x0C => d.fq.length
  | 0x14 => d.dispatched.toNat
  | 0x18 => d.preempts.toNat
  | 0x1C => d.urgents.toNat
  | 0x20 => d.wlate.toNat
  | 0x24 => (d.records.filter (fun e => e.2.st != .free)).length
  | 0x28 => d.aged.toNat
  | _ => 0

/-- A word of a dispatcher's range (Table 7-1). -/
def dispWord (s : State) (n o : Nat) : Nat :=
  let d := s.die n
  if n = 64 then if o < 0x8000 then wordAt (groupEntry s (o / 128)) (o % 128) else 0
  else if o < 0x080000 then wordAt (recordBytes s n (o / 128)) (o % 128)
  else if o < 0x0A0000 then wordAt (ringBytes (s.ring n ((o - 0x080000) / 32))) (o % 32)
  else if o < 0x0A4000 then wordAt (fqBytes (mapFind d.fq ((o - 0x0A0000) / 64))) (o % 64)
  else if o < 0x0A4800 then wordAt (rangeBytes (mapGet {} d.ranges ((o - 0x0A4000) / 32))) (o % 32)
  else if o < 0x0B0000 then 0
  else if o < 0x0B8000 then (maskBits s n ((o - 0x0B0000) / 128)).toNat / 2 ^ (8 * (o % 128)) % 2 ^ 32
  else if o < 0x0C0000 then 0
  else if o < 0x0C0040 then dispReg s n (o - 0x0C0000)
  else if o < 0x100000 then 0
  else if o < 0x200000 then
    let e := (o - 0x100000) / 64
    if isP n && e ≥ 1024 then 0 else wordAt (tileEntryBytes (mapFind d.tiles e)) (o % 64)
  else 0

/-- Power region registers (Table 1-8). -/
def regionWord (s : State) (g o : Nat) : Nat :=
  let r := s.region g
  match o with
  | 0x00 => r.pcap.toNat
  | 0x04 => r.cstep.toNat
  | 0x08 => r.pmon.toNat + 65536 * ratio s g
  | 0x0C => b2n r.alarm + 2 * b2n r.active + 256 * r.dcount.toNat + 2 ^ 24 * r.dhold.toNat
  | 0x10 => r.csheld.toNat
  | _ => 0

/-- A sensor word (Table 1-5); an unprivileged core sees whole steps of 4 °C (R23). -/
def sensorWord (s : State) (sup : Bool) (n l c : Nat) : Nat :=
  match mapFind (s.die n).sensors (64 * l + c) with
  | none => 0
  | some v => (if sup then v.temp.toNat else v.temp.toNat / 32 * 32) + 65536 * v.seq.toNat + 2 ^ 31 * b2n v.valid

/-- The word at an offset of control space, 4-byte aligned. -/
def ctlWord (s : State) (sup : Bool) (off : Nat) : Nat :=
  if off < 68 * 0x10000 then blockWord s (off / 0x10000) (off % 0x10000)
  else if 0x10000000 ≤ off ∧ off < 0x10000000 + 68 * 0x1000 then
    let o := off - 0x10000000
    sensorWord s sup (o / 0x1000) (o % 0x1000 / 0x100) (o % 0x100 / 4)
  else if 0x20000000 ≤ off ∧ off < 0x20001000 then regionWord s ((off - 0x20000000) / 0x100) (off % 0x100)
  else if 0x40000000 ≤ off ∧ off < 0x40000000 + 65 * 0x400000 then
    dispWord s ((off - 0x40000000) / 0x400000) (off % 0x400000)
  else 0

/-- The site that has the registers at an offset of control space; none for a power region's (Table 1-8). -/
def controlSite (off : Nat) : Option Nat :=
  if off < 68 * 0x10000 then some (off / 0x10000)
  else if 0x10000000 ≤ off ∧ off < 0x10000000 + 68 * 0x1000 then some ((off - 0x10000000) / 0x1000)
  else if 0x40000000 ≤ off ∧ off < 0x40000000 + 65 * 0x400000 then some ((off - 0x40000000) / 0x400000)
  else none

/-- A read of 4 or 8 bytes at a physical address of control space. -/
def ctlRead (s : State) (sup : Bool) (pa n : Nat) : Nat :=
  let off := pa - 0xFF0000000000
  if n = 8 then ctlWord s sup off + 2 ^ 32 * ctlWord s sup (off + 4) else ctlWord s sup off

/-! ## Writes with a row of their own -/

/-- TLIM within the limits that TRIP fixes (Table 1-6). -/
def setTlim (s : State) (n warn throt : Nat) : State := s.modDie n fun d =>
  let w := min warn (d.trip - 2)
  { d with warn := w, throt := max (w + 1) (min throt (d.trip - 1)) }

/-- A 1 written to THSTAT.WARN (R24). -/
def clearWarn (s : State) (n : Nat) : State := s.modDie n fun d =>
  let hot : Bool := match hottest d with
    | some t => decide (t > 8 * ((d.warn : Int) - 2))
    | none => false
  if hot then d else { d with thWarn := false }

/-- A write of LPWR (R27): during a transition the last target written waits for its end. -/
def setLpwr (s : State) (n l : Nat) (t : BitVec 2) : State :=
  let was := mapGet {} (s.die n).lpwr l
  if was.busy then s.modDie n fun d => { d with lpwr := mapSet d.lpwr l { was with queued := some t } }
  else startLayer s n l t

/-- A retrain of a link begins (R47, R48, R52); a link that is DOWN or training stays as it is. -/
def startRetrain (s : State) (n e : Nat) : State :=
  let begin' (s : State) (n e : Nat) : State := s.modLink n e fun l =>
    if l.state == 2 then { l with state := 3, attempts := 0,
                                  rtcount := if l.rtcount == 255 then 255 else l.rtcount + 1 } else l
  if isPort e then begin' s n e
  else let o := neighbour n e; begin' (begin' s n e) o.1 o.2

/-- FORCE (Table 2-8). -/
def forceRetrain (s : State) (n e : Nat) : State :=
  let s := startRetrain s n e
  s.modLink n e fun l => { l with force := l.state == 3 }

/-- The rules a record must obey to be posted (R134). -/
def postOk (s : State) (site : Nat) (b : List Byte) : Bool :=
  let addrOk (v : Nat) : Bool := v % 2 == 0 && v < 2 ^ 56
  let fixed := field b 50 2
  let width := recWidth b
  let ringRaw := (List.range 8).map fun i => field b (52 + 4 * i) 4
  let succRaw := (List.range 8).map fun j => field b (84 + 4 * j) 4
  let need (e : Option (Nat × Nat)) : Bool := match e with
    | none => true
    | some (r, k) => let g := s.ring site r; g.valid && k ≤ g.slots.toNat
  let once (l : List (Option (Nat × Nat))) : Bool := let rs := l.filterMap (·.map (·.1)); rs.eraseDups.length == rs.length
  field b 30 1 < 8 && field b 40 4 < 2 ^ 20 && field b 46 2 < 4096 && bits fixed 14 10 == 0 && field b 119 1 == 0 &&
    field b 116 1 < 16 &&
    ringRaw.all (fun v => bits v 30 24 == 0) && succRaw.all (fun v => bits v 30 19 == 0 && (v < 2 ^ 31 || bits v 18 12 < 64)) &&
    recClass b ≤ 4 && addrOk (recPro b) && addrOk (recKer b) && addrOk (recEpi b) &&
    (if fixed ≥ 0x8000 then width == 1 && fixed % 1024 < coresOf site
      else 1 ≤ width && decide (width ≤ (recCores s site b).length)) &&
    (recIn b).all need && (recOut b).all need && once (recIn b) && once (recOut b)

/-- TKPOST (R134). -/
def postRecord (s : State) (site i : Nat) : State :=
  let r := s.record site i
  if r.st != .free then s.modDie site fun d => { d with busyErr := true }
  else if !postOk s site r.bytes then s.modDie site fun d => { d with badrec := true }
  else
    let s := s.modDie site fun d => { d with nextSeq := d.nextSeq + 1 }
    s.modRec site i fun r => { r with
      st := if recPred r.bytes = 0 then .waitring else .blocked, seq := (s.die site).nextSeq - 1, eclass := recClass r.bytes,
      pass := 0, errmark := false, cores := [], used := [], parked := [], async := 0, images := [], eval := false, foreign := false }

/-- A write to a loop record (R134): while it is FREE any field that is not RO, the reserved bits of STATE too, which a post then finds;
while it is BLOCKED only PRED, whatever else the write
covers. One that is ignored for the record's sake sets DERR.BUSY (Table 7-8). -/
def writeRecord (s : State) (site i o : Nat) (v : Nat) (n : Nat) : State :=
  let pred : Bool := (s.record site i).st == .blocked && o ≤ 29 && 28 < o + n
  (List.range n).foldl (fun (s : State) k =>
    let at_ := o + k
    let r := s.record site i
    let b := BitVec.ofNat 8 (v / 256 ^ k)
    if r.st == .free && at_ ≥ 117 && at_ != 119 then s
    else if r.st == .free && at_ = 116 then s.modRec site i fun r => { r with bytes := patch r.bytes at_ [b &&& 0xF0] }
    else if r.st == .free then s.modRec site i fun r => { r with bytes := patch r.bytes at_ [b] }
    else if r.st == .blocked && (at_ == 28 || at_ == 29) then
      s.modRec site i fun r => { r with bytes := patch r.bytes at_ [b] }
    else if pred then s
    else s.modDie site fun d => { d with busyErr := true }) s
  |> fun s =>
    let r := s.record site i
    if r.st == .blocked && recPred r.bytes = 0 then s.modRec site i fun r => { r with st := .waitring } else s

/-- The rules of Table 7-4 and R137 over a descriptor's bytes. -/
def ringOk (site : Nat) (b : List Byte) : Bool :=
  let hdr := field b 0 8
  let slots := field b 8 2
  let stride := field b 10 2
  let last := hdr + (slots - 1) * stride
  hdr % 4 == 0 && 1 ≤ slots && slots ≤ 1024 && stride % 4 == 0 && 4 ≤ stride && field b 16 1 < 2 &&
    (slice b 17 15).all (· == 0) &&
    (match spaceOf hdr, spaceOf last with
      | .pad c o, .pad c' o' => c == c' && coreOk c && siteOf c == site && o < 0x6000 && o' < 0x6000
      | _, _ => false)

/-- A write of 4 or 8 bytes to a ring descriptor (R137). -/
def writeRing (s : State) (site r o v n : Nat) : State :=
  let used := (s.die site).records.any fun e => e.2.st != .free &&
    ((recIn e.2.bytes) ++ (recOut e.2.bytes)).any fun x => match x with
      | some (q, _) => q == r
      | none => false
  if used then s.modDie site fun d => { d with busyErr := true }
  else
    let g := s.ring site r
    let b := patch (ringBytes g) o (leBytes n v)
    let g := { g with raw := slice b 0 12 }
    let g1 := { g with hdr := BitVec.ofNat 64 (field b 0 8), slots := BitVec.ofNat 16 (field b 8 2),
                       stride := BitVec.ofNat 16 (field b 10 2) }
    let covers := decide (o ≤ 16 ∧ 16 < o + n)
    let put (s : State) (g : Ring) : State := s.modDie site fun d => { d with rings := mapSet d.rings r g }
    if !covers then put s g
    else if field b 16 1 % 2 = 0 then put s { g1 with valid := false }
    else if ringOk site b then put s { g1 with valid := true, cidx := 0, pidx := 0 }
    else put (s.modDie site fun d => { d with badring := true }) { g1 with valid := false }

/-- FREFOP ATTACH of frame `i` (R130). -/
def attachFrame (s : State) (n i : Nat) : State :=
  let d := s.die n
  let id := d.ho.frefStr
  let k := id.toNat % 65536
  let cnt := mapGet 0 d.frameRefs i
  let list := mapGet [] d.attached k
  let known : Bool := match mapFind d.entries k with
    | some h => h.stream == id
    | none => false
  if cnt = 0 || cnt ≥ 65535 || list.length ≥ 256 || !known then
    s.modDie n fun d => { d with ho := { d.ho with frefCount := BitVec.ofNat 16 cnt, frefOk := false, ref := true } }
  else
    s.modDie n fun d => { d with
      frameRefs := mapSet d.frameRefs i (cnt + 1), attached := mapSet d.attached k (list ++ [i]),
      ho := { d.ho with frefCount := BitVec.ofNat 16 (cnt + 1), frefOk := true } }

/-- FREFOP READ of frame `i` (R131). -/
def readFrame (s : State) (n i : Nat) : State := s.modDie n fun d =>
  { d with ho := { d.ho with frefCount := BitVec.ofNat 16 (mapGet 0 d.frameRefs i), frefOk := true } }

/-! ## Writing -/

/-- A 4-byte write to a link's registers (Table 2-8). -/
def writeLink (s : State) (n e o v : Nat) : State :=
  let b (i : Nat) : Bool := v.testBit i
  match o with
  | 0x04 => if b 0 then forceRetrain s n e else s
  | 0x10 => s.modLink n e fun l => { l with
      lcrc := l.lcrc && !b 0, replim := l.replim && !b 1, timeout := l.timeout && !b 2, proto := l.proto && !b 4 }
  | _ => s

/-- A 4-byte write to hand-off engine registers (Table 6-5). -/
def writeHo (s : State) (n o v : Nat) : State :=
  let b (i : Nat) : Bool := v.testBit i
  match o with
  | 0x00 => s.modDie n fun d => { d with ho := { d.ho with retrylim := if v % 256 = 0 then 1 else BitVec.ofNat 8 v } }
  | 0x08 => s.modDie n fun d => { d with ho := { d.ho with
      order := d.ho.order && !b 0, conv := d.ho.conv && !b 1, rej := d.ho.rej && !b 2, ref := d.ho.ref && !b 3,
      proto := d.ho.proto && !b 4, limit := d.ho.limit && !b 5 } }
  | 0x40 =>
    if !isD n then s
    else match v % 4 with
      | 0 => attachFrame s n (bits v 27 8)
      | 1 => readFrame s n (bits v 27 8)
      | _ => s
  | 0x48 => if isD n then s.modDie n fun d => { d with ho := { d.ho with frefStr := BitVec.ofNat 20 v } } else s
  | _ => s

/-- A 4-byte write to a site's control block. -/
def writeBlock (s : State) (n o v : Nat) : State :=
  let b (i : Nat) : Bool := v.testBit i
  let grid := decide (n < 64)
  let within (lo len : Nat) : Bool := lo ≤ o && o < lo + len
  if o = 0x0010 then setTlim s n (bits v 7 0) (bits v 15 8)
  else if o = 0x0014 then if b 0 then clearWarn s n else s
  else if isD n && within 0x0104 48 then setLpwr s n ((o - 0x0100) / 4) (BitVec.ofNat 2 v)
  else if grid && o = 0x0714 then s.modDie n fun d => { d with
    selfdep := d.selfdep && !b 0, depthTrap := d.depthTrap && !b 1, malf := d.malf && !b 2, media := d.media && !b 3 }
  else if grid && within 0x6000 0x50 then writeHo s n (o - 0x6000) v
  else if grid && o = 0x7000 then s.modDie n fun d => { d with pbase := BitVec.ofNat 48 (d.pbase.toNat / 2 ^ 32 * 2 ^ 32 + v / 64 * 64) }
  else if grid && o = 0x7004 then s.modDie n fun d => { d with pbase := BitVec.ofNat 48 (d.pbase.toNat % 2 ^ 32 + v % 65536 * 2 ^ 32) }
  else if grid && o = 0x7008 then s.modDie n fun d => { d with pslots := BitVec.ofNat 16 v }
  else if within 0x8000 (if grid then 0x100 else 0x680) then writeLink s n ((o - 0x8000) / 64) (o % 64) v
  else s

/-- A 4-byte write to a power region's registers (Table 1-8). -/
def writeRegion (s : State) (g o v : Nat) : State :=
  match o with
  | 0x00 => s.modRegion g fun r => { r with pcap := BitVec.ofNat 16 (min 660 (v % 65536)) }
  | 0x04 => if v % 4096 = 0 then s else s.modRegion g fun r => { r with cstep := BitVec.ofNat 12 v }
  | 0x0C => s.modRegion g fun r => { r with
      alarm := r.alarm && !v.testBit 0, dhold := if bits v 27 24 = 0 then 1 else BitVec.ofNat 4 (bits v 27 24) }
  | _ => s

/-- A 4-byte write to a dispatcher's range (R132, R155). -/
def writeDisp (s : State) (n o v : Nat) : State :=
  let b (i : Nat) : Bool := v.testBit i
  if n ≥ 64 then s
  else if o < 0x080000 then writeRecord s n (o / 128) (o % 128) v 4
  else if o < 0x0A0000 then writeRing s n ((o - 0x080000) / 32) (o % 32) v 4
  else if 0x0B0000 ≤ o ∧ o < 0x0B8000 then
    let m := (o - 0x0B0000) / 128
    let at_ := 8 * (o % 128)
    let old := (maskBits s n m).toNat
    let new := BitVec.ofNat 1024 (old - old / 2 ^ at_ % 2 ^ 32 * 2 ^ at_ + v * 2 ^ at_)
    s.modDie n fun d => if m = 0 then { d with mask0 := some new } else { d with masks := mapSet d.masks m new }
  else if o = 0x0C0000 then postRecord s n (v % 4096)
  else if o = 0x0C0008 then s.modDie n fun d => { d with
    badrec := d.badrec && !b 0, busyErr := d.busyErr && !b 1, under := d.under && !b 2, badring := d.badring && !b 3,
    fqfull := d.fqfull && !b 4 }
  else if o = 0x0C0010 then if bits v 9 8 = 3 then s else fqCommand s n (v % 256) (bits v 9 8)
  else s

/-- A 4-byte write at an offset of control space. -/
def ctlWriteWord (s : State) (off v : Nat) : State :=
  if off < 68 * 0x10000 then writeBlock s (off / 0x10000) (off % 0x10000) v
  else if 0x20000000 ≤ off ∧ off < 0x20001000 then writeRegion s ((off - 0x20000000) / 0x100) (off % 0x100) v
  else if 0x40000000 ≤ off ∧ off < 0x40000000 + 65 * 0x400000 then
    writeDisp s ((off - 0x40000000) / 0x400000) (off % 0x400000) v
  else s

/-- A write of 4 or 8 bytes to control space by the supervisor or the firmware. -/
def ctlWrite (s : State) (pa n v : Nat) : State :=
  let off := pa - 0xFF0000000000
  let disp := off - 0x40000000
  if n = 8 then
    if 0x40000000 ≤ off ∧ off < 0x40000000 + 64 * 0x400000 ∧ 0x080000 ≤ disp % 0x400000 ∧ disp % 0x400000 < 0x0A0000 then
      writeRing s (disp / 0x400000) ((disp % 0x400000 - 0x080000) / 32) (off % 32) v 8
    else ctlWriteWord (ctlWriteWord s off (v % 2 ^ 32)) (off + 4) (v / 2 ^ 32)
  else ctlWriteWord s off (v % 2 ^ 32)

/-- An unprivileged write is a permission fault here (R16, R29, R132); elsewhere in control space it has no effect. -/
def ctlGuarded (pa : Nat) : Bool :=
  let off := pa - 0xFF0000000000
  off < 68 * 0x10000 || (0x20000000 ≤ off && off < 0x20001000) || (0x40000000 ≤ off && off < 0x40000000 + 65 * 0x400000)

end Sys2Proof.Machine
end

