-- ==== Sys2Proof/Machine/Operands.lean ====
section
/-! DEFINITION. Operand forms: register names under rotation (R239), reading and writing registers with their fill states,
transients and recipes (R234, R235, R250), stream ports (R237, R238), and a T engine's accesses (R158, R169). -/

namespace Sys2Proof.Machine

/-- Physical number of a vector name (R239). -/
def rotV (c : Ctx) (n : Nat) : Nat :=
  if c.vsize > 0 ∧ 16 ≤ n ∧ n < 16 + c.vsize then 16 + (n - 16 + c.vrrb) % c.vsize else n

/-- Physical number of a predicate name (R239). -/
def rotP (c : Ctx) (n : Nat) : Nat :=
  if c.psize > 0 ∧ 64 ≤ n ∧ n < 64 + c.psize then 64 + (n - 64 + c.prrb) % c.psize else n

/-- Physical numbers of the members of a width group (R239). -/
def members (c : Ctx) (n g : Nat) : List Nat := (List.range g).map (fun i => rotV c (n + i))

/-- How the words of a program, and those of a recipe body, reach registers and memory. -/
structure Rd where
  x : Nat → Bool → M Word
  /-- a width group's bytes: name, members, trap bit -/
  v : Nat → Nat → Bool → M (List Byte)
  p : Nat → Bool → M Pred
  /-- a width group's bytes as its old value: no wait and no trap on a fill state; members that keep bits are replayed -/
  vOld : Nat → Nat → (Nat → Bool) → M (List Byte)
  xw : Nat → Word → M Unit
  /-- name, members, transient, bytes, and the nibbles that a port stores -/
  vw : Nat → Nat → Bool → List Byte → List Bool → M Unit
  pw : Nat → Bool → Pred → M Unit
  flags : BitVec 7 → M Unit
  /-- what precedes the access of a word that writes a scalar register, or a vector group (R235, R250, R393) -/
  xprep : Nat → M Unit
  vprep : Nat → Nat → M Unit
  /-- a plain load's access and destination -/
  load : Access → Dest → M (List Byte)

/-- TINFO of an illegal-register trap: the field value (R238, Table 12-9). -/
def regInfo (n : Nat) : Word := BitVec.ofNat 64 (n * 2 ^ 48)

/-- TINFO of an empty-register trap: field value and kind (R234). -/
def emptyInfo (n : Nat) (k : Kind) : Word := BitVec.ofNat 64 (n * 2 ^ 48 + k.code * 2 ^ 58)

def Ctx.fill (c : Ctx) (k : Kind) (r : Nat) : Fill :=
  match k with
  | .x => (c.regX r).fill
  | .v => (c.regV r).fill
  | .p => (c.regP r).fill

def Ctx.pending (c : Ctx) (k : Kind) (r : Nat) : Bool :=
  match k with
  | .x => (c.regX r).pend.isSome
  | .v => (c.regV r).pend.isSome
  | .p => (c.regP r).pend.isSome

/-- The slot whose target a register is (R248). -/
def Ctx.slotOf (c : Ctx) (k : Kind) (r : Nat) : Option (Nat × Recipe) :=
  c.recipes.find? (fun e => e.2.kind == k && e.2.target == r)

/-- Brings a register to FULL for a reader (R234): traps or waits while it is EMPTY, replays it when DROPPED. -/
def ready (replay : Nat → M Unit) (k : Kind) (name r : Nat) (trapBit : Bool) : M Unit := do
  let c ← curCtx
  match c.fill k r with
  | .full => pure ()
  | .empty => if trapBit then trap 0x07 (c.t.pc.zeroExtend 64) (emptyInfo name k) else stall
  | .dropped =>
    match c.slotOf k r with
    | some (slot, _) => replay slot
    | none => pure ()

def readX (replay : Nat → M Unit) (n : Nat) (trapBit : Bool) : M Word := do
  ready replay .x n n trapBit
  return ((← curCtx).regX n).val

def readP (replay : Nat → M Unit) (n : Nat) (trapBit : Bool) : M Pred := do
  let r := rotP (← curCtx) n
  match (← curCtx).liveAt .p r with
  | some t => pure (t.val.truncate 64)
  | none =>
    ready replay .p n r trapBit
    return ((← curCtx).regP r).val

/-- One member of a vector group (R234). -/
def readV1 (replay : Nat → M Unit) (name r : Nat) (trapBit : Bool) : M (List Byte) := do
  let c ← curCtx
  if r ≥ c.vallot then trap 0x02 0 (regInfo name)
  else
    match c.liveAt .v r with
    | some t => pure (vecBytes t.val)
    | none =>
      ready replay .v name r trapBit
      return vecBytes ((← curCtx).regV r).val

/-! ## Accesses of the T engine -/

/-- A piece lies in the scratchpad window of the core of the turn: its offset (R160). -/
def ownPad (core : Nat) (p : Piece) : Option Nat :=
  match spaceOf p.pa with
  | .pad c off => if c = core then some off else none
  | _ => none

/-- The range scoreboard holds an access (R169): entries compare by words. -/
def scoreHolds (s : State) (store : Bool) (p : Piece) : Bool :=
  match ownPad s.turn p with
  | none => false
  | some off => (s.core s.turn).scores.any fun e =>
      (e.incoming || store) && off / 4 * 4 < e.lo + e.len && e.lo < off + p.len

/-- The way of an access to the registers of a site, in control space: it waits for a way that is held and ends with ERR 0x04 at a link
that is DOWN (R24, R48, R49), and is counted at the links it crosses (R52). -/
def reachControl (a : Access) (p : Piece) : M Unit := do
  let s ← get
  if engineWaits s s.turn .t then stall
  match controlSite (p.pa - 0xFF0000000000) with
  | some h =>
    let n := siteOf s.turn
    if n != h then
      if pathDown s n h || pathDown s h n then trap 0x40 p.va (faultInfo (accCode a.act) (errRemote 4) p)
      if wayHeld s n h then stall
      modify fun s => countPath (countPath s n h) h n
  | none => pure ()

/-- A scalar access to control space (R158): 4 or 8 bytes, aligned; a tagged one is of the wrong class before that (R392, R398). A store
to a register that only the supervisor writes is a permission fault. -/
def controlAccess (a : Access) (p : Piece) : M (List Byte) := do
  let s ← get
  let sup := (s.core s.turn).sup
  if a.act.isTagged then trap 0x19 p.va (faultInfo (accCode a.act) ⟨0x19, 0, 1⟩ p)
  else if !a.scalar then trap 0x11 p.va (faultInfo (accCode a.act) fPerm p)
  else if (p.len != 4 && p.len != 8) || !a.mask.isEmpty then trap 0x12 p.va (faultInfo (accCode a.act) ⟨0x12, 0, 1⟩ p)
  else if a.act.isStore then
    if !sup && ctlGuarded p.pa then trap 0x11 p.va (faultInfo (accCode a.act) fPerm p)
    else
      reachControl a p
      modify fun s => ctlWrite s p.pa p.len (leNat a.data)
      pure []
  else
    reachControl a p
    return leBytes p.len (ctlRead (← get) sup p.pa p.len)

/-- An access of the T engine: control space is reached at once; the range scoreboard may hold it, tagged loads as loads (R169). -/
def tAccess (len : Nat) (a : Access) (d : Dest) : M (List Byte) := do
  let s ← get
  match a.pieces.find? (fun p => isControl p.pa) with
  | some p => controlAccess a p
  | none =>
    if a.pieces.any (scoreHolds s a.act.isStore) then stall
    else access .t len a d

/-! ## Stream ports -/

/-- Address of element `i` of a stream (R237). -/
def Stream.elem (q : Stream) (i : Nat) : Word :=
  q.base + BitVec.ofNat 64 (i % q.c0) * q.s0 + BitVec.ofNat 64 (i / q.c0 % q.c1) * q.s1 +
    BitVec.ofNat 64 (i / (q.c0 * q.c1)) * q.s2

def Stream.total (q : Stream) : Nat := q.c0 * q.c1 * q.c2

/-- The elements of a port's next access, placed one by one (R238). -/
def portPieces (q : Stream) (acc : Nat) : Nat → Nat → M (List Piece)
  | 0, _ => pure []
  | n + 1, i => do
    let p ← placeAligned (q.elem i) q.es q.es acc
    return p :: (← portPieces q acc n (i + 1))

/-- The binding a port's access needs (R238). -/
def portOf (name : Nat) (write : Bool) : M (Nat × Stream) := do
  let c ← curCtx
  match mapFind c.streams (name - 240) with
  | none => trap 0x02 0 (regInfo name)
  | some q =>
    if q.write != write || q.pos ≥ q.total then trap 0x02 0 (regInfo name)
    else pure (min (64 / q.es) (q.total - q.pos), q)

def portMove (name n : Nat) (q : Stream) : M Unit :=
  modCtx fun c => { c with streams := mapSet c.streams (name - 240) { q with pos := q.pos + n } }

/-- Reads a port (R237): missing lanes are 0. -/
def portRead (name : Nat) : M (List Byte) := do
  let (n, q) ← portOf name false
  let ps ← portPieces q aLoad n q.pos
  let bs ← tAccess 0 { act := .load, pieces := ps } .again
  portMove name n q
  return slice bs 0 64

/-- Writes a port (R237): only the elements that exist, and of them what the word writes (R363). -/
def portWrite (name : Nat) (bs : List Byte) (mask : List Bool) : M Unit := do
  let (n, q) ← portOf name true
  let ps ← portPieces q aStore n q.pos
  let _ ← tAccess 0 { act := .store, pieces := ps, data := bs, mask := mask } .again
  portMove name n q

def readV (replay : Nat → M Unit) (n g : Nat) (trapBit : Bool) : M (List Byte) := do
  if n ≥ 240 then portRead n
  else
    let c ← curCtx
    let rec go : List Nat → M (List Byte)
      | [] => pure []
      | r :: rs => do
        let b ← readV1 replay n r trapBit
        return b ++ (← go rs)
    go (members c n g)

/-- What precedes a write of a register (R235, R250): the wait for a pending producer, and the replay of every DROPPED
target whose slot pins it, in ascending slot order. -/
def prepWrite (replay : Nat → M Unit) (k : Kind) (r : Nat) : M Unit := do
  let c ← curCtx
  if c.pending k r then stall
  let slots := c.recipes.filter (fun e => e.2.pins.contains (k, r) && c.fill e.2.kind e.2.target == .dropped)
  slots.forM (fun e => do
    let c ← curCtx
    if c.fill e.2.kind e.2.target == .dropped then replay e.1)

def writeX (replay : Nat → M Unit) (n : Nat) (v : Word) : M Unit := do
  if n = 0 then pure ()
  else
    prepWrite replay .x n
    modCtx (·.putX n v)

/-- Notes a transient: it replaces an earlier one of the same register, whose window a trap still restarts (R243, R245). -/
def addTransient (k : Kind) (r : Nat) (v : Vec) : M Unit := modCtx fun c =>
  { c with window := c.window.map (fun t => if t.kind == k && t.reg == r then { t with live := false } else t) ++
      [{ kind := k, reg := r, val := v, left := 4, pc := c.t.pc, srctr := c.srctr }] }

def writeP (replay : Nat → M Unit) (n : Nat) (dt : Bool) (v : Pred) : M Unit := do
  let r := rotP (← curCtx) n
  if r = 0 then pure ()
  else if dt then addTransient .p r (v.zeroExtend 512)
  else
    prepWrite replay .p r
    modCtx (·.putP r v)

def writeV (replay : Nat → M Unit) (n g : Nat) (dt : Bool) (bs : List Byte) (mask : List Bool) : M Unit := do
  if n ≥ 240 then portWrite n bs mask
  else
    let c ← curCtx
    let rs := members c n g
    if rs.any (· ≥ c.vallot) then trap 0x02 0 (regInfo n)
    if dt then addTransient .v (rotV c n) (vecOf bs)
    else
      rs.forM (fun r => prepWrite replay .v r)
      modCtx (·.putGroup rs bs)

/-- What memory holds at the elements that a write port writes next. -/
def portOld (name : Nat) : M (List Byte) := do
  let (n, q) ← portOf name true
  let ps ← portPieces q aStore n q.pos
  return slice (← tAccess 0 { act := .load, pieces := ps } .again) 0 64

/-- A destination group's old bytes: the live transient's, else the file's; a DROPPED member that keeps bits is replayed
first (R243, R363, R364). A port's are read where a nibble keeps some of its bits. -/
def oldV (replay : Nat → M Unit) (n g : Nat) (keep : Nat → Bool) : M (List Byte) := do
  if n ≥ 240 then (if keep 0 then portOld n else pure (List.replicate 64 0))
  else
    let c ← curCtx
    let rs := members c n g
    if rs.any (· ≥ c.vallot) then trap 0x02 0 (regInfo n)
    (rs.zip (List.range g)).forM fun e => do
      let c ← curCtx
      if keep e.2 && c.fill .v e.1 == .dropped then
        match c.slotOf .v e.1 with
        | some (slot, _) => replay slot
        | none => pure ()
    return (← curCtx).liveGroup rs

/-- What precedes an access whose result goes to a group. -/
def prepV (replay : Nat → M Unit) (n g : Nat) : M Unit := do
  let c ← curCtx
  let rs := members c n g
  if rs.any (· ≥ c.vallot) then trap 0x02 0 (regInfo n)
  rs.forM (fun r => prepWrite replay .v r)

/-- The registers and memory of an ordinary word of `len` parcels, given how a recipe slot is replayed. -/
def mkRd (replay : Nat → M Unit) (len : Nat) : Rd where
  x := readX replay
  v := readV replay
  p := readP replay
  vOld := oldV replay
  xw := writeX replay
  vw := writeV replay
  pw := writeP replay
  flags := orFlags
  xprep := fun n => if n = 0 then pure () else prepWrite replay .x n
  vprep := prepV replay
  load := fun a d => tAccess len a d

/-- The context as the names of a recipe body see it: rotation as RCPDEF found it (R246). -/
def withRot (c : Ctx) (rot : BitVec 32) : Ctx :=
  { c with vsize := bits rot.toNat 7 0, psize := bits rot.toNat 15 8, vrrb := bits rot.toNat 23 16, prrb := bits rot.toNat 31 24 }

/-- Registers and memory of a recipe body (R247, R249): sources are FULL, only the target is written and its bindings stay,
flags are discarded, and a load may read only pages whose W and DEFER bits are 0. -/
def bodyRd (replay : Nat → M Unit) (rot : BitVec 32) : Rd where
  x := fun n _ => do return ((← curCtx).regX n).val
  v := fun n g _ => do
    let c := withRot (← curCtx) rot
    return c.group (members c n g)
  p := fun n _ => do
    let c := withRot (← curCtx) rot
    return (c.regP (rotP c n)).val
  vOld := fun n g keep => do
    let rs := members (withRot (← curCtx) rot) n g
    (rs.zip (List.range g)).forM fun e => do
      let c ← curCtx
      if keep e.2 && c.fill .v e.1 == .dropped then
        match c.slotOf .v e.1 with
        | some (slot, _) => replay slot
        | none => pure ()
    return (← curCtx).group rs
  xw := fun n v => modCtx fun c => if n = 0 then c else { c with x := mapSet c.x n { val := v } }
  vw := fun n g _ bs _ => modCtx fun c =>
    let rs := members (withRot c rot) n g
    { c with v := (rs.zip (List.range g)).foldl (fun m e => mapSet m e.1 { val := vecOf (slice bs (64 * e.2) 64) }) c.v }
  pw := fun n _ v => modCtx fun c =>
    let r := rotP (withRot c rot) n
    if r = 0 then c else { c with p := mapSet c.p r { val := v } }
  flags := fun _ => pure ()
  xprep := fun _ => pure ()
  vprep := fun _ _ => pure ()
  load := fun a _ => do
    let s ← get
    match a.pieces.find? (fun p => match translateHere s p.va aLoad with
      | .ok l => l.w || l.defer
      | .error _ => true) with
    | some p => trap 0x09 p.va 0
    | none => tAccess 0 a .again

/-- The rounding mode a word runs under (R279): DYN reads RMODE. -/
def effMode (mode : BitVec 3) : M Nat := do
  if mode == 6 then return (← curCtx).rmode.toNat else return mode.toNat

end Sys2Proof.Machine
end

