-- ==== Sys2Proof/Machine/Vec.lean ====
section
/-! DEFINITION. Elements of vector registers and how a vector word reads and writes them (R362 to R368): groups as numbers,
little-endian; activity; results with the bits they write; the common forms of the element-wise words. -/

namespace Sys2Proof.Machine

/-- Lowest bit of element `i` of a group (Table 16-1). -/
def elemBit (t : BitVec 4) (i : Nat) : Nat :=
  let l := tyLanes t
  let k := i % l
  512 * (i / l) + (if tyBits t = 6 then 192 * (k / 32) + 6 * (k % 32) else tyBits t * k)

/-- Element `i` of a group. -/
def elemOf (t : BitVec 4) (v i : Nat) : Nat := Nat.shiftRight v (elemBit t i) % 2 ^ tyBits t

/-- The predicate bit that governs element `i` (R363). -/
def active (pg : Pred) (t : BitVec 4) (i : Nat) : Bool := pg.getLsbD (elemBit t i % 512 / 8)

/-- A vector result: the bits it writes, which ones, and its flags. -/
structure VRes where
  val : Nat := 0
  mask : Nat := 0
  flags : BitVec 7 := 0
  deriving DecidableEq, Repr

/-- Adds the element at `i`. -/
def VRes.add (r : VRes) (t : BitVec 4) (i code : Nat) (f : BitVec 7) : VRes :=
  let o := elemBit t i
  { val := Nat.lor r.val (Nat.shiftLeft (code % 2 ^ tyBits t) o),
    mask := Nat.lor r.mask (Nat.shiftLeft (2 ^ tyBits t - 1) o), flags := r.flags ||| f }

/-- The result of computing elements 0 to `n` − 1 where `act` holds. -/
def mapLanes (t : BitVec 4) (n : Nat) (act : Nat → Bool) (f : Nat → Nat × BitVec 7) : VRes :=
  (List.range n).foldl (fun r i => if act i then (let e := f i; r.add t i e.1 e.2) else r) {}

/-- A producer of 6-bit elements writes bytes 48 to 63 of each of `g` members as 0 (R278). -/
def VRes.padSix (r : VRes) (t : BitVec 4) (g : Nat) : VRes :=
  if tyBits t = 6 then
    { r with mask := (List.range g).foldl (fun m k => Nat.lor m (Nat.shiftLeft (2 ^ 512 - 2 ^ 384) (512 * k))) r.mask }
  else r

/-- All bits of a group of `g` members. -/
def allBits (g : Nat) : Nat := 2 ^ (512 * g) - 1

/-- Member `m` of a result keeps some of its old bits. -/
def VRes.keeps (r : VRes) (m : Nat) : Bool := Nat.shiftRight r.mask (512 * m) % 2 ^ 512 != 2 ^ 512 - 1

/-- The bits of a nibble of a port's 64 bytes that a result writes. -/
def VRes.nib (r : VRes) (i : Nat) : Nat := Nat.shiftRight r.mask (4 * i) % 16

/-- The nibbles of a port's 64 bytes that a result writes bits of. -/
def VRes.nibs (r : VRes) : List Bool := (List.range 128).map fun i => r.nib i != 0

/-- A write of the group at `d` needs old bits of its member `m`: of a port's bytes, where 6-bit elements share a nibble that is written in
part. -/
def VRes.keepsAt (r : VRes) (d m : Nat) : Bool :=
  if d ≥ 240 then (List.range 128).any fun i => r.nib i != 0 && r.nib i != 15 else r.keeps m

/-- Writes a result to the destination group: bits it does not write stay (R363, R364). -/
def putV (rd : Rd) (f : VForm) (r : VRes) : M Unit := do
  let g := width f.dw
  let d := f.d.toNat
  let bs ←
    if r.mask = allBits g then pure (leBytes (64 * g) r.val)
    else do
      let old ← rd.vOld d g (r.keepsAt d)
      let o := leNat old
      pure (leBytes (64 * g) (Nat.lor (o - Nat.land o r.mask) r.val))
  rd.vw d g (f.dt == 1) bs (if d ≥ 240 then r.nibs else [])
  rd.flags r.flags

def readA (rd : Rd) (f : VForm) : M Nat := do return leNat (← rd.v f.a.toNat (width f.aw) (f.ab == 1))
def readB (rd : Rd) (f : VForm) : M Nat := do return leNat (← rd.v f.b.toNat (width f.bw) (f.bb == 1))
def readD (rd : Rd) (f : VForm) : M Nat := do return leNat (← rd.v f.d.toNat (width f.dw) false)
def readPg (rd : Rd) (f : VForm) : M Pred := rd.p f.pg.toNat false
def readXa (rd : Rd) (f : VForm) : M Word := rd.x f.a.toNat (f.ab == 1)
def readXb (rd : Rd) (f : VForm) : M Word := rd.x f.b.toNat (f.bb == 1)

/-- Elements of the destination's group. -/
def lanesD (f : VForm) (t : BitVec 4) : Nat := width f.dw * tyLanes t

/-- The rounding a word runs under: mode, saturation, and the generator's draws where the mode is SR (R279, R281). -/
structure Rounding where
  mode : Nat
  sat : Bool
  seed : Word
  ctr : Word
  deriving DecidableEq, Repr

def Rounding.dr (r : Rounding) (j : Nat) : Nat := if r.mode = 5 then draw r.seed r.ctr j else 0

def rounding (f : VForm) : M Rounding := do
  let c ← curCtx
  return { mode := ← effMode f.mode, sat := f.sat, seed := c.srseed, ctr := c.srctr }

/-- Moves the generator past the positions of a word that rounded in SR (R282). -/
def advance (r : Rounding) (n : Nat) : M Unit :=
  if r.mode = 5 then modCtx fun c => { c with srctr := c.srctr + BitVec.ofNat 64 n } else pure ()

/-- What an element-wise word computes of one element: type, rounding, draw, and the elements of a, b and d. -/
abbrev EOp := Nat → Nat → Bool → Nat → Nat → Nat → Nat → Nat × BitVec 7

/-- Element-wise words with two sources, or three with d (R367). -/
def elementwise (rd : Rd) (f : VForm) (useB useD : Bool) (op : EOp) : M Unit := do
  let a ← readA rd f
  let b ← if useB then readB rd f else pure 0
  let d ← if useD then readD rd f else pure 0
  let pg ← readPg rd f
  let r ← rounding f
  let t := f.ty
  let n := lanesD f t
  putV rd f (mapLanes t n (active pg t) fun i =>
    op t.toNat r.mode r.sat (r.dr i) (elemOf t a i) (elemOf t b i) (elemOf t d i))
  if isF t then advance r n

/-- Words that move or combine bits: no rounding, no flag. -/
def bitwise (rd : Rd) (f : VForm) (useB : Bool) (op : Nat → Nat → Nat → Nat) : M Unit := do
  let a ← readA rd f
  let b ← if useB then readB rd f else pure 0
  let pg ← readPg rd f
  let t := f.ty
  putV rd f (mapLanes t (lanesD f t) (active pg t) fun i => (op (tyBits t) (elemOf t a i) (elemOf t b i), 0))

/-! ## Exact results (Table 16-3) -/

/-- Class F by an operation on values, class I by one on integers (R368). -/
def deliverE (t mode : Nat) (sat : Bool) (dr : Nat) (fp : Unit → Val × BitVec 7) (int : Unit → Int) : Nat × BitVec 7 :=
  if t ≤ 7 then finish t mode sat (fp ()) dr else deliverInt t sat (int ())

def eAdd : EOp := fun t m sat dr a b _ =>
  deliverE t m sat dr (fun _ => addVal m (decodeFp t a) (decodeFp t b)) (fun _ => decodeInt t a + decodeInt t b)
def eSub : EOp := fun t m sat dr a b _ =>
  deliverE t m sat dr (fun _ => addVal m (decodeFp t a) (negVal (decodeFp t b))) (fun _ => decodeInt t a - decodeInt t b)
def eMul : EOp := fun t m sat dr a b _ =>
  deliverE t m sat dr (fun _ => mulVal (decodeFp t a) (decodeFp t b)) (fun _ => decodeInt t a * decodeInt t b)
def eFma : EOp := fun t m sat dr a b d =>
  deliverE t m sat dr (fun _ => fmaVal m (decodeFp t a) (decodeFp t b) (decodeFp t d))
    (fun _ => decodeInt t a * decodeInt t b + decodeInt t d)
def eFms : EOp := fun t m sat dr a b d =>
  deliverE t m sat dr (fun _ => fmaVal m (negVal (decodeFp t a)) (decodeFp t b) (decodeFp t d))
    (fun _ => decodeInt t d - decodeInt t a * decodeInt t b)
def eDiv : EOp := fun t m sat dr a b _ => finish t m sat (divVal (decodeFp t a) (decodeFp t b)) dr
def eUn (g : Val → Val × BitVec 7) : EOp := fun t m sat dr a _ _ => finish t m sat (g (decodeFp t a)) dr

/-- Orders values with −0 below +0 (R369). -/
def lessVal (a b : Val) : Bool :=
  match cmpVal a b with
  | some .lt => true
  | some .eq => match a, b with
    | .fin true 0 _, .fin false 0 _ => true
    | _, _ => false
  | _ => false

/-- VMIN and VMAX (R369): one operand's bits. -/
def minMax (mx : Bool) (t a b : Nat) : Nat :=
  if t ≤ 7 then
    match decodeFp t a, decodeFp t b with
    | .nan, .nan => nanCode t
    | .nan, _ => b
    | _, .nan => a
    | x, y => if (if mx then lessVal x y else lessVal y x) then b else a
  else
    let x := decodeInt t a
    let y := decodeInt t b
    if (if mx then x < y else y < x) then b else a

def eMin : EOp := fun t _ _ _ a b _ => (minMax false t a b, 0)
def eMax : EOp := fun t _ _ _ a b _ => (minMax true t a b, 0)

/-- VABS and VNEG (R369). -/
def eAbs : EOp := fun t _ sat _ a _ _ =>
  if t ≤ 7 then (match decodeFp t a with
    | .nan => nanCode t
    | _ => a % signBit t, 0)
  else deliverInt t sat (decodeInt t a).natAbs
def eNeg : EOp := fun t _ sat _ a _ _ =>
  if t ≤ 7 then (match decodeFp t a with
    | .nan => nanCode t
    | _ => Nat.xor a (signBit t), 0)
  else deliverInt t sat (-decodeInt t a)

/-- VSCL (R369). Exponents past ±1024 scale every value past the format as ±1024 does. -/
def eScl : EOp := fun t m sat dr a b _ =>
  match decodeFp t a with
  | .nan => (nanCode t, 0)
  | .inf _ => (a, 0)
  | .fin n num den =>
    if num = 0 then (a, 0)
    else
      let k : Int := sext (tyBits (BitVec.ofNat 4 t)) b
      let k : Int := if k > 1024 then 1024 else if k < -1024 then -1024 else k
      finish t m sat (if 0 ≤ k then .fin n (num * 2 ^ k.toNat) den else .fin n num (den * 2 ^ (-k).toNat), 0) dr

def vaddCore (rd : Rd) (f : VForm) : M Unit := elementwise rd f true false eAdd
def vsubCore (rd : Rd) (f : VForm) : M Unit := elementwise rd f true false eSub
def vmulCore (rd : Rd) (f : VForm) : M Unit := elementwise rd f true false eMul
def vfmaCore (rd : Rd) (f : VForm) : M Unit := elementwise rd f true true eFma
def vfmsCore (rd : Rd) (f : VForm) : M Unit := elementwise rd f true true eFms
def vminCore (rd : Rd) (f : VForm) : M Unit := elementwise rd f true false eMin
def vmaxCore (rd : Rd) (f : VForm) : M Unit := elementwise rd f true false eMax
def vabsCore (rd : Rd) (f : VForm) : M Unit := elementwise rd f false false eAbs
def vnegCore (rd : Rd) (f : VForm) : M Unit := elementwise rd f false false eNeg
def vdivCore (rd : Rd) (f : VForm) : M Unit := elementwise rd f true false eDiv
def vsqrtCore (rd : Rd) (f : VForm) : M Unit := elementwise rd f false false (eUn sqrtVal)
def vrcpCore (rd : Rd) (f : VForm) : M Unit := elementwise rd f false false (eUn rcpVal)
def vrsqCore (rd : Rd) (f : VForm) : M Unit := elementwise rd f false false (eUn rsqVal)
def vexp2Core (rd : Rd) (f : VForm) : M Unit := elementwise rd f false false (eUn exp2Val)
def vlog2Core (rd : Rd) (f : VForm) : M Unit := elementwise rd f false false (eUn log2Val)
def vsclCore (rd : Rd) (f : VForm) : M Unit := elementwise rd f true false eScl

/-! ## Compare, select, bits (R370 to R373) -/

/-- The conditions of VCMP. -/
def cmpTrue (cond : Nat) (o : Option Ordering) : Bool :=
  match cond, o with
  | 0, some o => o == .eq
  | 1, some o => o != .eq
  | 1, none => true
  | 2, some o => o == .lt
  | 3, some o => o != .gt
  | 4, some o => o == .gt
  | 5, some o => o != .lt
  | 6, none => true
  | _, _ => false

def cmpElem (t a b : Nat) : Option Ordering :=
  if t ≤ 7 then cmpVal (decodeFp t a) (decodeFp t b) else some (compare (decodeInt t a) (decodeInt t b))

/-- A predicate whose elements, each over its bytes, are the truth of `p` (R370, R381). -/
def predOf (t : BitVec 4) (p : Nat → Bool) : Pred :=
  let w := tyBits t / 8
  BitVec.ofNat 64 ((List.range (tyLanes t)).foldl (fun n k =>
    if p k then Nat.lor n (Nat.shiftLeft (2 ^ w - 1) (k * w)) else n) 0)

def vcmpCore (rd : Rd) (f : VForm) : M Unit := do
  let a ← readA rd f
  let b ← readB rd f
  let pg ← readPg rd f
  let t := f.ty
  rd.pw f.d.toNat (f.dt == 1) (predOf t fun k =>
    active pg t k && cmpTrue f.fn.toNat (cmpElem t.toNat (elemOf t a k) (elemOf t b k)))

def vselCore (rd : Rd) (f : VForm) : M Unit := do
  let a ← readA rd f
  let b ← readB rd f
  let pg ← readPg rd f
  let t := f.ty
  putV rd f (mapLanes t (lanesD f t) (fun _ => true) fun i => (elemOf t (if active pg t i then a else b) i, 0))

def vandCore (rd : Rd) (f : VForm) : M Unit := bitwise rd f true fun _ a b => Nat.land a b
def vorCore (rd : Rd) (f : VForm) : M Unit := bitwise rd f true fun _ a b => Nat.lor a b
def vxorCore (rd : Rd) (f : VForm) : M Unit := bitwise rd f true fun _ a b => Nat.xor a b
def vnotCore (rd : Rd) (f : VForm) : M Unit := bitwise rd f false fun w a _ => 2 ^ w - 1 - a

/-- VSHL and VSHR of a `w`-bit element: kind 0 logical, 1 arithmetic, 2 rotate (R373). -/
def shiftL (w a c : Nat) : Nat := if c < w then a * 2 ^ c % 2 ^ w else 0
def shiftR (kind w a c : Nat) : Nat :=
  match kind with
  | 0 => if c < w then a / 2 ^ c else 0
  | 1 => wrapTo w (sext w a / 2 ^ (min c (w - 1)))
  | _ => Nat.lor (a / 2 ^ (c % w)) (a * 2 ^ (w - c % w)) % 2 ^ w

/-- The count of element `i`: the immediate, or b's element; free where a narrower b has none. -/
def shiftCount (f : VForm) (a b i : Nat) : Nat :=
  if f.fn.getLsbD 0 then f.imm.toNat
  else if i < width f.bw * tyLanes f.ty then elemOf f.ty b i
  else Config.missingCount a b i

/-- A shift of each element of a that d has a place for. No rule asks for equal widths (R304, notes/assumptions/40.md). -/
def shiftCore (rd : Rd) (f : VForm) (op : Nat → Nat → Nat → Nat) : M Unit := do
  let a ← readA rd f
  let b ← if f.fn.getLsbD 0 then pure 0 else readB rd f
  let pg ← readPg rd f
  let t := f.ty
  putV rd f (mapLanes t (min (width f.aw * tyLanes t) (lanesD f t)) (active pg t) fun i =>
    (op (tyBits t) (elemOf t a i) (shiftCount f a b i), 0))

def vshlCore (rd : Rd) (f : VForm) : M Unit := shiftCore rd f shiftL
def vshrCore (rd : Rd) (f : VForm) : M Unit := shiftCore rd f (shiftR (f.fn.extractLsb' 1 2).toNat)

/-! ## Reductions and scans (R374, R375) -/

/-- One FP32 addition of a tree node or of a running sum (R294). -/
def add32 (a b : BitVec 32) : BitVec 32 × BitVec 7 := rne32 (addVal 0 (f32 a) (f32 b))

/-- One level of the pairwise tree. -/
def treeLevel : List (BitVec 32) → List (BitVec 32) × BitVec 7
  | a :: b :: r =>
    let s := add32 a b
    let t := treeLevel r
    (s.1 :: t.1, s.2 ||| t.2)
  | l => (l, 0)

/-- The pairwise tree of R294; `n` bounds its levels. -/
def treeSum : Nat → List (BitVec 32) → BitVec 32 × BitVec 7
  | _, [] => (0, 0)
  | _, [a] => (a, 0)
  | 0, a :: _ => (a, 0)
  | n + 1, l =>
    let t := treeLevel l
    let r := treeSum n t.1
    (r.1, t.2 ||| r.2)

/-- An element of class F as an FP32 leaf. -/
def leaf32 (t c : Nat) : BitVec 32 := (rne32 (decodeFp t c, 0)).1

/-- What MAX and MIN give where no element takes part. -/
def noneOf (mx : Bool) (t : Nat) : Nat :=
  if t ≤ 7 then nanCode t else wrapTo (tyBits (BitVec.ofNat 4 t)) (if mx then intMin t else intMax t)

/-- A NaN is delivered canonical (R276). -/
def canon (t c : Nat) : Nat := if t ≤ 7 then (match decodeFp t c with
  | .nan => nanCode t
  | _ => c) else c

/-- Combines the elements that take part by VMIN or VMAX. -/
def foldMinMax (mx : Bool) (t : Nat) : List (Option Nat) → Option Nat
  | l => l.foldl (fun r e => match r, e with
    | none, e => e
    | r, none => r
    | some x, some y => some (minMax mx t x y)) none

/-- VRED's result over elements, none where inactive (R374). -/
def reduceElems (t : BitVec 4) (op : Nat) (r : Rounding) (es : List (Option Nat)) : Nat × BitVec 7 :=
  if op = 0 then
    if isF t then
      let s := treeSum 12 (es.map fun e => match e with
        | some c => leaf32 t.toNat c
        | none => 0)
      let d := deliverFp t.toNat r.mode r.sat (f32 s.1) (r.dr 0)
      (d.1, d.2 ||| s.2)
    else deliverInt t.toNat r.sat (es.foldl (fun n e => match e with
      | some c => n + decodeInt t.toNat c
      | none => n) 0)
  else match foldMinMax (op == 1) t.toNat es with
    | some c => (canon t.toNat c, 0)
    | none => (noneOf (op == 1) t.toNat, 0)

def elems (t : BitVec 4) (v n : Nat) (pg : Pred) : List (Option Nat) :=
  (List.range n).map fun i => if active pg t i then some (elemOf t v i) else none

def vredCore (rd : Rd) (f : VForm) : M Unit := do
  let a ← readA rd f
  let pg ← readPg rd f
  let r ← rounding f
  let t := f.ty
  let n := width f.aw * tyLanes t
  let e := reduceElems t f.b.toNat r (elems t a n pg)
  putV rd f { val := e.1 % 2 ^ tyBits t, mask := allBits 1, flags := e.2 }
  advance r n

/-- VSCAN's elements with their flags, and the flags of the running sum (R375). -/
def scanElems (t : BitVec 4) (op : Nat) (r : Rounding) (es : List (Option Nat)) : List (Nat × BitVec 7) × BitVec 7 :=
  if op = 0 then
    if isF t then
      let z := es.foldl (fun (q : List (Nat × BitVec 7) × BitVec 32 × BitVec 7 × Nat) e =>
        let s := add32 q.2.1 (match e with
          | some c => leaf32 t.toNat c
          | none => 0)
        (deliverFp t.toNat r.mode r.sat (f32 s.1) (r.dr q.2.2.2) :: q.1, s.1, q.2.2.1 ||| s.2, q.2.2.2 + 1)) ([], 0, 0, 0)
      (z.1.reverse, z.2.2.1)
    else
      let z := es.foldl (fun (q : List (Nat × BitVec 7) × Int) e =>
        let s := match e with
          | some c => q.2 + decodeInt t.toNat c
          | none => q.2
        (deliverInt t.toNat r.sat s :: q.1, s)) ([], 0)
      (z.1.reverse, 0)
  else
    let z := es.foldl (fun (q : List (Nat × BitVec 7) × Option Nat) e =>
      let s := foldMinMax (op == 1) t.toNat [q.2, e]
      ((match s with
        | some c => canon t.toNat c
        | none => noneOf (op == 1) t.toNat, 0) :: q.1, s)) ([], none)
    (z.1.reverse, 0)

def vscanCore (rd : Rd) (f : VForm) : M Unit := do
  let a ← readA rd f
  let pg ← readPg rd f
  let r ← rounding f
  let t := f.ty
  let n := lanesD f t
  let z := scanElems t f.b.toNat r (elems t a n pg)
  let v := mapLanes t n (active pg t) fun i => z.1.getD i (0, 0)
  putV rd f { v with flags := v.flags ||| z.2 }
  advance r n

/-! ## Moving elements (R376 to R379) -/

/-- Words that pick elements of a and b by position. -/
def pick (rd : Rd) (f : VForm) (useB : Bool) (sel : Nat → Nat → Nat → Nat → Nat) : M Unit := do
  let a ← readA rd f
  let b ← if useB then readB rd f else pure 0
  let pg ← readPg rd f
  let t := f.ty
  let n := lanesD f t
  putV rd f (mapLanes t n (active pg t) fun i => (sel a b n i, 0))

def vpermCore (rd : Rd) (f : VForm) : M Unit :=
  pick rd f true fun a b n i => let k := elemOf f.ty b i; if k < n then elemOf f.ty a k else 0

/-- imm11 as a signed number. -/
def simm11 (f : VForm) : Int := f.imm.toInt

/-- VSLIDE (R378): N counts a's elements. -/
def vslideCore (rd : Rd) (f : VForm) : M Unit :=
  pick rd f false fun a _ _ i =>
    let k : Int := i + simm11 f
    if 0 ≤ k ∧ k < (width f.aw * tyLanes f.ty : Nat) then elemOf f.ty a k.toNat else 0

def vzipCore (rd : Rd) (f : VForm) : M Unit :=
  pick rd f true fun a b n i =>
    let j := i + (if f.fn.getLsbD 0 then n else 0)
    elemOf f.ty (if j % 2 = 0 then a else b) (j / 2)

def vunzipCore (rd : Rd) (f : VForm) : M Unit :=
  pick rd f true fun a b n i =>
    let j := 2 * i + (if f.fn.getLsbD 0 then 1 else 0)
    elemOf f.ty (if j < n then a else b) (j % n)

def vmovCore (rd : Rd) (f : VForm) : M Unit := pick rd f false fun a _ _ i => elemOf f.ty a i

def vbcastCore (rd : Rd) (f : VForm) : M Unit := do
  let x ← readXa rd f
  let pg ← readPg rd f
  putV rd f (mapLanes f.ty (lanesD f f.ty) (active pg f.ty) fun _ => (x.toNat, 0))

def viotaCore (rd : Rd) (f : VForm) : M Unit := do
  let x ← readXa rd f
  let pg ← readPg rd f
  putV rd f (mapLanes f.ty (lanesD f f.ty) (active pg f.ty) fun i => (x.toNat + i, 0))

def vextrCore (rd : Rd) (f : VForm) : M Unit := do
  let a ← readA rd f
  let t := f.ty
  let c := elemOf t a f.imm.toNat
  let signed := (isI t && t != 12) || t == 11
  rd.xw f.d.toNat (if signed then BitVec.ofInt 64 (sext (tyBits t) c) else BitVec.ofNat 64 c)

/-- VINS: xa, then d (R377). -/
def vinsCore (rd : Rd) (f : VForm) : M Unit := do
  let x ← readXa rd f
  let d ← readD rd f
  let t := f.ty
  let g := width f.dw
  let one := ({} : VRes).add t f.imm.toNat x.toNat 0
  putV rd f { val := Nat.lor (d - Nat.land d one.mask) one.val, mask := allBits g }

/-! ## Predicates (R380, R381) -/

def pbin (rd : Rd) (f : VForm) (op : Pred → Pred → Pred) : M Unit := do
  let a ← rd.p f.a.toNat (f.ab == 1)
  let b ← rd.p f.b.toNat (f.bb == 1)
  rd.pw f.d.toNat (f.dt == 1) (op a b)

def pandCore (rd : Rd) (f : VForm) : M Unit := pbin rd f (· &&& ·)
def porCore (rd : Rd) (f : VForm) : M Unit := pbin rd f (· ||| ·)
def pxorCore (rd : Rd) (f : VForm) : M Unit := pbin rd f (· ^^^ ·)

def pnotCore (rd : Rd) (f : VForm) : M Unit := do
  let a ← rd.p f.a.toNat (f.ab == 1)
  rd.pw f.d.toNat (f.dt == 1) (~~~a)

def pwhileCore (rd : Rd) (f : VForm) : M Unit := do
  let a ← readXa rd f
  let b ← readXb rd f
  rd.pw f.d.toNat (f.dt == 1) (predOf f.ty fun k => a.toInt + k < b.toInt)

/-- Elements of a predicate whose first bit is set. -/
def setElems (t : BitVec 4) (p : Pred) : List Nat := (List.range (tyLanes t)).filter fun k => p.getLsbD (k * tyBits t / 8)

def pcntCore (rd : Rd) (f : VForm) : M Unit := do
  let a ← rd.p f.a.toNat (f.ab == 1)
  rd.xw f.d.toNat (BitVec.ofNat 64 (setElems f.ty a).length)

def pfirstCore (rd : Rd) (f : VForm) : M Unit := do
  let a ← rd.p f.a.toNat (f.ab == 1)
  rd.pw f.d.toNat (f.dt == 1) (match setElems f.ty a with
    | k :: _ => predOf f.ty (· == k)
    | [] => 0)

end Sys2Proof.Machine
end

