-- ==== Sys2Proof/Machine/Quant.lean ====
section
/-! DEFINITION. Conversions, block quantisers, random bits and block dot products (R382 to R390), with the MX and NB4 rules of
R288 to R293. -/

namespace Sys2Proof.Machine

/-! ## Elementwise conversion (R382, R383) -/

def vcvtCore (rd : Rd) (f : VForm) : M Unit := do
  let a ← readA rd f
  let pg ← readPg rd f
  let r ← rounding f
  let src := f.ty2
  let dst := f.ty
  let n := min (width f.aw * tyLanes src) (lanesD f dst)
  putV rd f ((mapLanes dst n (active pg dst) fun i =>
    convert src.toNat dst.toNat r.mode r.sat (elemOf src a i) (r.dr i)).padSix dst (width f.dw))
  advance r n

/-- VPACK's source type. -/
def packSource (d : BitVec 4) : BitVec 4 :=
  match d.toNat with
  | 1 | 2 => 0
  | 3 | 4 => 1
  | 8 => 13
  | 9 => 8
  | 10 | 12 => 9
  | _ => 10

def vpackCore (rd : Rd) (f : VForm) : M Unit := do
  let a ← readA rd f
  let b ← readB rd f
  let pg ← readPg rd f
  let r ← rounding f
  let dst := f.ty
  let src := packSource dst
  let l := tyLanes src
  putV rd f (mapLanes dst (2 * l) (active pg dst) fun i =>
    convert src.toNat dst.toNat r.mode r.sat (if i < l then elemOf src a i else elemOf src b (i - l)) (r.dr i))
  advance r (2 * l)

/-! ## Block scales -/

/-- `v × 2^k`. -/
def scaleVal (v : Val) (k : Int) : Val :=
  match v with
  | .fin n num den => if 0 ≤ k then .fin n (num * 2 ^ k.toNat) den else .fin n num (den * 2 ^ (-k).toNat)
  | v => v

def fp32Max : Nat := (2 ^ 24 - 1) * 2 ^ 104

/-- The magnitude of a value as a fraction, ±∞ as FP32's largest (R289). -/
def magOf (v : Val) : Nat × Nat :=
  match v with
  | .fin _ n d => (n, d)
  | .inf _ => (fp32Max, 1)
  | .nan => (0, 1)

/-- The largest magnitude of a block. -/
def amax (xs : List Val) : Nat × Nat :=
  xs.foldl (fun m v => let x := magOf v; if m.1 * x.2 < x.1 * m.2 then x else m) (0, 1)

/-- Step 1 of R289 and R292: the block has a NaN, or an infinity without SAT. -/
def badBlock (sat : Bool) (xs : List Val) : Bool :=
  xs.any fun v => match v with
    | .nan => true
    | .inf _ => !sat
    | _ => false

/-- emax of the MX element types (R288). -/
def mxEmax (t : Nat) : Int :=
  match t with
  | 3 => 8
  | 4 => 15
  | 5 => 2
  | 6 => 4
  | 7 => 2
  | _ => 0

def clampI (lo hi v : Int) : Int := if v < lo then lo else if v > hi then hi else v

/-- An MX element (R289 step 4, R385): its code and flags. -/
def mxElem (t mode : Nat) (v : Val) (dr : Nat) : Nat × BitVec 7 :=
  match v with
  | .nan => (0, 0)
  | .inf neg => (if t = 10 then (if neg then 0x80 else 0x7F) else withSign t neg (maxCode t), fSAT)
  | .fin neg num den =>
    if t = 10 then
      let q := roundInt mode neg (num * 64) den dr
      let k : Int := if neg then -(q.1 : Int) else q.1
      if k < -128 ∨ k > 127 then (wrapTo 8 (clampI (-128) 127 k), fSAT ||| fNX)
      else (wrapTo 8 k, if q.2 then fNX else 0)
    else if num = 0 then (withSign t neg 0, 0)
    else
      let (q, e, nx, tiny) := roundFp (fmtOf t) mode neg num den dr
      let c := packFp (fmtOf t) q e
      if c > maxCode t then (withSign t neg (maxCode t), fSAT ||| fNX)
      else (withSign t neg c, (if nx then fNX else 0) ||| (if nx && tiny then fUF else 0))

/-- mx_quantise (R289) of 32 values with their draws: scale, codes with flags, and the block's own flag. -/
def mxQuantise (t mode : Nat) (sat : Bool) (xs : List Val) (dr : Nat → Nat) : Nat × List (Nat × BitVec 7) × BitVec 7 :=
  if badBlock sat xs then (0xFF, xs.map (fun _ => (0, 0)), fNV)
  else
    let m := amax xs
    let s : Int := if m.1 = 0 then 0 else clampI 0 254 (floorLog2 m.1 m.2 - mxEmax t + 127)
    (s.toNat, (xs.zip (List.range xs.length)).map (fun e => mxElem t mode (scaleVal e.1 (127 - s)) (dr e.2)), 0)

/-- The value of an MX element under its scale byte (R288, R290). -/
def mxValue (t s c : Nat) : Val :=
  if s = 0xFF then .nan
  else scaleVal (if t = 10 then scaleVal (ofInt (sext 8 c)) (-6) else decodeFp t c) ((s : Int) - 127)

/-- Magnitudes of Table 13-7 in halves. -/
def nbHalves (ty c : Nat) : Nat :=
  match ty, c with
  | 2, 0 => 0
  | 2, c => 2 ^ c
  | 3, c => [0, 2, 4, 6, 8, 12, 16, 24].getD c 0
  | _, c => [0, 1, 2, 3, 4, 6, 8, 12].getD c 0

def nbMmax (ty : Nat) : Nat :=
  match ty with
  | 0 => 7
  | 1 => 6
  | 2 => 64
  | _ => 12

/-- The value of an NB4 code under its scale byte (R291). -/
def nbValue (s c : Nat) : Val :=
  let e : Int := s % 64
  if s % 64 = 63 then .nan
  else if s / 64 = 0 then scaleVal (ofInt (sext 4 c)) (e - 32)
  else scaleVal (.fin (c / 8 == 1) (nbHalves (s / 64) (c % 8)) 2) (e - 32)

/-- Rounds a magnitude onto the powers of two of type 10, continued upward: the code [2:0], unbounded, and inexactness. -/
def nbPow (mode : Nat) (neg : Bool) (num den dr : Nat) : Nat × Bool :=
  if num < den then (if takesHi mode neg false num den dr then 1 else 0, true)
  else
    let k := (floorLog2 num den).toNat
    let d := den * 2 ^ k
    if num = d then (k + 1, false)
    else (if takesHi mode neg (k % 2 == 0) (num - d) d dr then k + 2 else k + 1, true)

/-- An NB4 code of a scaled finite value (R292 steps 4 to 7). -/
def nbElem (ty mode : Nat) (v : Val) (dr : Nat) : Nat × BitVec 7 :=
  match v with
  | .fin neg num den =>
    if num = 0 then (0, 0)
    else
      let tiny : Bool := num < den
      let fl (nx : Bool) : BitVec 7 := if nx then (if tiny then fNX ||| fUF else fNX) else 0
      if ty = 0 then
        let q := roundInt mode neg num den dr
        let k : Int := if neg then -(q.1 : Int) else q.1
        if k < -8 ∨ k > 7 then (wrapTo 4 (clampI (-8) 7 k), fSAT ||| fNX) else (wrapTo 4 k, fl q.2)
      else
        let (c, nx) :=
          if ty = 2 then nbPow mode neg num den dr
          else
            let (q, e, nx, _) := roundFp (fmtOf 7) mode neg num (if ty = 3 then den * 2 else den) dr
            (packFp (fmtOf 7) q e, nx)
        if c > 7 then (7 + 8 * b2n neg, fSAT ||| fNX)
        else (if c = 0 then 0 else c + 8 * b2n neg, fl nx)
  | .inf neg => (if ty = 0 then (if neg then 8 else 7) else 7 + 8 * b2n neg, fSAT ||| fNX)
  | .nan => (0, 0)

/-- `ceil(log2(num / den))`. -/
def ceilLog2 (num den : Nat) : Int :=
  let k := floorLog2 num den
  if (if 0 ≤ k then num = den * 2 ^ k.toNat else num * 2 ^ (-k).toNat = den) then k else k + 1

/-- The NB4 quantiser (R292): scale byte, codes with flags, the block's own flag. -/
def nbQuantise (ty mode : Nat) (sat : Bool) (xs : List Val) (dr : Nat → Nat) : Nat × List (Nat × BitVec 7) × BitVec 7 :=
  if badBlock sat xs then (0xFF, xs.map (fun _ => (0, 0)), fNV)
  else
    let m := amax xs
    let e : Int := if m.1 = 0 then 0 else clampI 0 62 (ceilLog2 m.1 (m.2 * nbMmax ty) + 32)
    (64 * ty + e.toNat, (xs.zip (List.range xs.length)).map (fun x => nbElem ty mode (scaleVal x.1 (32 - e)) (dr x.2)), 0)

/-! ## Quantisers and dequantisers (R384 to R388) -/

/-- Elements of a block operand (Table 16-4). -/
def blockElems (t : BitVec 4) : Nat := if tyBits t = 4 then 128 else 64

/-- A quantiser over blocks of 32 elements. -/
def quantise (rd : Rd) (f : VForm) (e : BitVec 4)
    (q : Nat → Bool → List Val → (Nat → Nat) → Nat × List (Nat × BitVec 7) × BitVec 7) : M Unit := do
  let a ← readA rd f
  let pg ← readPg rd f
  let r ← rounding f
  let src := f.ty2
  let n := blockElems e
  let blocks := (List.range (n / 32)).map fun k =>
    q r.mode r.sat ((List.range 32).map fun j => decodeFp src.toNat (elemOf src a (32 * k + j))) (fun j => r.dr (32 * k + j))
  let scales := (blocks.zip (List.range (n / 32))).foldl (fun v b => v + b.1.1 * 256 ^ b.2) 0
  let codes := blocks.flatMap fun b => b.2.1
  let nv := blocks.foldl (fun (g : BitVec 7) b => g ||| b.2.2) 0
  let m0 := mapLanes e n (active pg e) fun i => codes.getD i (0, 0)
  -- member 1 is written whole; so are the bytes that 6-bit elements leave unused
  let unused := if tyBits e = 6 then 2 ^ 512 - 2 ^ 384 else 0
  putV rd f { val := Nat.lor m0.val (scales * 2 ^ 512), mask := Nat.lor (Nat.lor m0.mask unused) (2 ^ 1024 - 2 ^ 512),
              flags := m0.flags ||| nv }
  advance r n

def vqmxCore (rd : Rd) (f : VForm) : M Unit := quantise rd f f.ty (mxQuantise f.ty.toNat)
def vqnbCore (rd : Rd) (f : VForm) : M Unit := quantise rd f 14 (nbQuantise (f.b.toNat % 4))

/-- A dequantiser: element and scale byte to a value. -/
def dequantise (rd : Rd) (f : VForm) (e : BitVec 4) (value : Nat → Nat → Val) : M Unit := do
  let a ← readA rd f
  let pg ← readPg rd f
  let r ← rounding f
  let n := blockElems e
  putV rd f (mapLanes f.ty n (active pg f.ty) fun i =>
    deliverFp f.ty.toNat r.mode r.sat (value (Nat.shiftRight a (512 + 8 * (i / 32)) % 256) (elemOf e a i)) (r.dr i))
  advance r n

def vdqmxCore (rd : Rd) (f : VForm) : M Unit := dequantise rd f f.ty2 (mxValue f.ty2.toNat)
def vdqnbCore (rd : Rd) (f : VForm) : M Unit := dequantise rd f 14 nbValue

/-! ## Random bits and dot products (R389, R390) -/

/-- VRAND's element from the final z of its position (R389). -/
def randElem (t : BitVec 4) (z : Word) : Nat :=
  let top (k : Nat) : Nat := z.toNat / 2 ^ (64 - k)
  let fp (k : Nat) : Nat := (deliverFp t.toNat 0 false (.fin false (top k) (2 ^ k)) 0).1
  match t.toNat with
  | 0 => fp 24
  | 1 => fp 8
  | 2 => fp 11
  | 3 => fp 4
  | 4 => fp 3
  | _ => top (tyBits t)

def vrandCore (rd : Rd) (f : VForm) : M Unit := do
  let pg ← readPg rd f
  let c ← curCtx
  let n := lanesD f f.ty
  putV rd f (mapLanes f.ty n (active pg f.ty) fun j => (randElem f.ty (drawWord c.srseed c.srctr j), 0))
  modCtx fun c => { c with srctr := c.srctr + BitVec.ofNat 64 n }

/-- One block of R293: the exact sum of the products, then two RNE steps to FP32. -/
def dotBlock (s : BitVec 32 × BitVec 7) (ab : List (Val × Val)) : BitVec 32 × BitVec 7 :=
  let ps := ab.map fun e => mulVal e.1 e.2
  let plus := ps.any fun p => p.1 == .inf false
  let minus := ps.any fun p => p.1 == .inf true
  if ps.any (fun p => p.2 == fNV) || (plus && minus) then (0x7FC00000, s.2 ||| fNV)
  else if ps.any (fun p => p.1 == .nan) || f32 s.1 == .nan then (0x7FC00000, s.2)
  else
    let p : Val := if plus then .inf false else if minus then .inf true
      else match ps.foldl (fun v q => (addVal 0 v q.1).1) (.fin false 0 1) with
        | .fin n num den => if num = 0 then .fin false 0 1 else .fin n num den
        | v => v
    let pb := rne32 (p, 0)
    let r := rne32 (addVal 0 (f32 s.1) (f32 pb.1))
    (r.1, s.2 ||| ((pb.2 ||| r.2) &&& ~~~fUF))

/-- block_dot (R293) over K elements in blocks of 32; `n` bounds the blocks. -/
def blockDot : Nat → BitVec 32 × BitVec 7 → List (Val × Val) → BitVec 32 × BitVec 7
  | 0, s, _ => s
  | _, s, [] => s
  | n + 1, s, ab => blockDot n (dotBlock s (ab.take 32)) (ab.drop 32)

/-- The value of a code of any type without a scale. -/
def plainVal (t c : Nat) : Val := decodeAny t c

def vbdotCore (rd : Rd) (f : VForm) : M Unit := do
  let a ← readA rd f
  let b ← readB rd f
  let d ← readD rd f
  let pg ← readPg rd f
  let t := f.ty
  let nb := width f.aw * tyLanes t / 32
  putV rd f (mapLanes 0 nb (active pg 0) fun k =>
    let ab := (List.range 32).map fun j =>
      (plainVal t.toNat (elemOf t a (32 * k + j)), plainVal t.toNat (elemOf t b (32 * k + j)))
    let r := dotBlock (BitVec.ofNat 32 (elemOf 0 d k), 0) ab
    (r.1.toNat, r.2))

end Sys2Proof.Machine
end

