-- ==== Sys2Proof/Machine/Scalar.lean ====
section
/-! DEFINITION. The S-form integer words (R324 to R332): what each computes, over whatever reaches its registers. -/

namespace Sys2Proof.Machine

def xa (f : AForm) : Nat := f.xa.toNat
def xb (f : AForm) : Nat := f.xb.toNat
def xd (f : AForm) : Nat := f.xd.toNat

/-- An integer result with its flags. -/
abbrev Alu := Word × BitVec 7

/-- Writes a word's result and ORs its flags (R322). -/
def put (rd : Rd) (d : BitVec 6) (r : Alu) : M Unit := do
  rd.xw d.toNat r.1
  rd.flags r.2

/-- Layout A with two sources (R322 step 3). -/
def binA (rd : Rd) (f : AForm) (op : BitVec 2 → Word → Word → Alu) : M Unit := do
  let a ← rd.x f.xa.toNat (f.ba == 1)
  let b ← rd.x f.xb.toNat (f.bb == 1)
  put rd f.xd (op f.fn a b)

/-- Layout B with a source and imm9. -/
def immB (rd : Rd) (f : BForm) (op : BitVec 9 → Word → Alu) : M Unit := do
  let a ← rd.x f.xa.toNat (f.ba == 1)
  put rd f.xd (op f.imm a)

def wrap64 (v : Int) : Word := BitVec.ofInt 64 v

def minS : Int := -(2 ^ 63)
def maxS : Int := 2 ^ 63 - 1

/-- A signed result that wraps, with IOV, or clamps, with SAT (R324). -/
def wrapIov (v : Int) : Alu := (wrap64 v, if v < minS ∨ v > maxS then fIOV else 0)
def clampS (v : Int) : Alu :=
  if v < minS then (wrap64 minS, fSAT) else if v > maxS then (wrap64 maxS, fSAT) else (wrap64 v, 0)
def clampU (v : Int) : Alu :=
  if v < 0 then (0, fSAT) else if v ≥ 2 ^ 64 then (BitVec.allOnes 64, fSAT) else (wrap64 v, 0)

/-- ADD (R324). -/
def addOp (fn : BitVec 2) (a b : Word) : Alu :=
  match fn.toNat with
  | 0 => wrapIov (a.toInt + b.toInt)
  | 1 => clampS (a.toInt + b.toInt)
  | _ => clampU ((a.toNat : Int) + b.toNat)

/-- SUB (R324). -/
def subOp (fn : BitVec 2) (a b : Word) : Alu :=
  match fn.toNat with
  | 0 => wrapIov (a.toInt - b.toInt)
  | 1 => clampS (a.toInt - b.toInt)
  | _ => clampU ((a.toNat : Int) - b.toNat)

/-- AND, OR, XOR; fn 1 complements xb (R325). -/
def andOp (fn : BitVec 2) (a b : Word) : Alu := (a &&& (if fn == 1 then ~~~b else b), 0)
def orOp (fn : BitVec 2) (a b : Word) : Alu := (a ||| (if fn == 1 then ~~~b else b), 0)
def xorOp (fn : BitVec 2) (a b : Word) : Alu := (a ^^^ (if fn == 1 then ~~~b else b), 0)

/-- SHL, SHR (R325): the shift is b[5:0]. -/
def shlOp (_ : BitVec 2) (a b : Word) : Alu := (a <<< (b.toNat % 64), 0)
def shrOp (fn : BitVec 2) (a b : Word) : Alu :=
  let n := b.toNat % 64
  match fn.toNat with
  | 0 => (a >>> n, 0)
  | 1 => (a.sshiftRight n, 0)
  | _ => (a.rotateRight n, 0)

/-- MUL (R326). -/
def mulOp (fn : BitVec 2) (a b : Word) : Alu :=
  match fn.toNat with
  | 0 => wrapIov (a.toInt * b.toInt)
  | 1 => (wrap64 (a.toInt * b.toInt / 2 ^ 64), 0)
  | 2 => (BitVec.ofNat 64 (a.toNat * b.toNat / 2 ^ 64), 0)
  | _ => (wrap64 (a.toInt * (b.toNat : Int) / 2 ^ 64), 0)

/-- DIV (R327). -/
def divOp (fn : BitVec 2) (a b : Word) : Alu :=
  if b == 0 then (BitVec.allOnes 64, fDZ)
  else if fn == 1 then (BitVec.ofNat 64 (a.toNat / b.toNat), 0)
  else if a.toInt = minS ∧ b.toInt = -1 then (wrap64 minS, fIOV)
  else (wrap64 (a.toInt.tdiv b.toInt), 0)

/-- REM (R327). -/
def remOp (fn : BitVec 2) (a b : Word) : Alu :=
  if b == 0 then (a, fDZ)
  else if fn == 1 then (BitVec.ofNat 64 (a.toNat % b.toNat), 0)
  else (wrap64 (a.toInt.tmod b.toInt), 0)

/-- MIN, MAX (R328). -/
def lessThan (fn : BitVec 2) (a b : Word) : Bool := if fn == 0 then a.toInt < b.toInt else a.toNat < b.toNat
def minOp (fn : BitVec 2) (a b : Word) : Alu := (if lessThan fn b a then b else a, 0)
def maxOp (fn : BitVec 2) (a b : Word) : Alu := (if lessThan fn a b then b else a, 0)

/-- CSET (R328). -/
def csetOp (fn : BitVec 2) (a b : Word) : Alu :=
  let r : Bool := match fn.toNat with
    | 0 => a.toInt < b.toInt
    | 1 => a.toNat < b.toNat
    | 2 => a == b
    | _ => a != b
  (if r then 1 else 0, 0)

/-- Counts of BITS (R328). -/
def clz64 (a : Word) : Nat := if a.toNat = 0 then 64 else 63 - Nat.log2 a.toNat
def ctzFrom : Nat → Nat → Nat
  | 0, _ => 64
  | n + 1, v => if v % 2 = 1 then 63 - n else ctzFrom n (v / 2)
def ctz64 (a : Word) : Nat := ctzFrom 64 a.toNat
def pop64 (a : Word) : Nat := (List.range 64).foldl (fun n i => n + b2n (a.getLsbD i)) 0
def rev64 (a : Word) : Word := BitVec.ofNat 64 (leNat (leBytes 8 a.toNat).reverse)

/-- BITS (R328). -/
def bitsOp (fn : BitVec 2) (a : Word) : Alu :=
  match fn.toNat with
  | 0 => (BitVec.ofNat 64 (clz64 a), 0)
  | 1 => (BitVec.ofNat 64 (ctz64 a), 0)
  | 2 => (BitVec.ofNat 64 (pop64 a), 0)
  | _ => (rev64 a, 0)

/-- FIELD (R329); `d` is xd's old value for the insert form. -/
def fieldOp (fn : BitVec 2) (a b d : Word) : Alu :=
  let pos := b.toNat % 64
  let len := min (bits b.toNat 14 8) (64 - pos)
  match fn.toNat with
  | 0 => (BitVec.ofNat 64 (a.toNat / 2 ^ pos % 2 ^ len), 0)
  | 1 => (if len = 0 then 0 else BitVec.ofInt 64 (sext len (a.toNat / 2 ^ pos)), 0)
  | _ =>
    let m := 2 ^ len - 1
    let keep : Word := d &&& ~~~(BitVec.ofNat 64 (m * 2 ^ pos))
    (keep ||| BitVec.ofNat 64 (a.toNat % 2 ^ len * 2 ^ pos), 0)

/-- imm9, sign-extended. -/
def simm9 (i : BitVec 9) : Word := i.signExtend 64

def addCore (rd : Rd) (f : AForm) : M Unit := binA rd f addOp
def subCore (rd : Rd) (f : AForm) : M Unit := binA rd f subOp
def andCore (rd : Rd) (f : AForm) : M Unit := binA rd f andOp
def orCore (rd : Rd) (f : AForm) : M Unit := binA rd f orOp
def xorCore (rd : Rd) (f : AForm) : M Unit := binA rd f xorOp
def shlCore (rd : Rd) (f : AForm) : M Unit := binA rd f shlOp
def shrCore (rd : Rd) (f : AForm) : M Unit := binA rd f shrOp
def mulCore (rd : Rd) (f : AForm) : M Unit := binA rd f mulOp
def divCore (rd : Rd) (f : AForm) : M Unit := binA rd f divOp
def remCore (rd : Rd) (f : AForm) : M Unit := binA rd f remOp
def minCore (rd : Rd) (f : AForm) : M Unit := binA rd f minOp
def maxCore (rd : Rd) (f : AForm) : M Unit := binA rd f maxOp
def csetCore (rd : Rd) (f : AForm) : M Unit := binA rd f csetOp

def bitsCore (rd : Rd) (f : AForm) : M Unit := do
  let a ← rd.x f.xa.toNat (f.ba == 1)
  put rd f.xd (bitsOp f.fn a)

/-- FIELD: xd is read only in the insert form (R329). -/
def fieldCore (rd : Rd) (f : AForm) : M Unit := do
  let a ← rd.x f.xa.toNat (f.ba == 1)
  let b ← rd.x f.xb.toNat (f.bb == 1)
  let d ← if f.fn == 2 then rd.x f.xd.toNat false else pure 0
  put rd f.xd (fieldOp f.fn a b d)

/-- SEL (R330). -/
def selCore (rd : Rd) (f : AForm) : M Unit := do
  let a ← rd.x f.xa.toNat (f.ba == 1)
  let b ← rd.x f.xb.toNat (f.bb == 1)
  let d ← rd.x f.xd.toNat false
  put rd f.xd (if d != 0 then a else b, 0)

def addiOp (i : BitVec 9) (a : Word) : Alu := addOp 0 a (simm9 i)
def andiOp (i : BitVec 9) (a : Word) : Alu := (a &&& simm9 i, 0)
def oriOp (i : BitVec 9) (a : Word) : Alu := (a ||| simm9 i, 0)
def xoriOp (i : BitVec 9) (a : Word) : Alu := (a ^^^ simm9 i, 0)
def shliOp (i : BitVec 9) (a : Word) : Alu := (a <<< i.toNat, 0)
def shriOp (i : BitVec 9) (a : Word) : Alu := (a >>> i.toNat, 0)
def shaiOp (i : BitVec 9) (a : Word) : Alu := (a.sshiftRight i.toNat, 0)
def csetiOp (i : BitVec 9) (a : Word) : Alu := (if a.toInt < (simm9 i).toInt then 1 else 0, 0)

def addiCore (rd : Rd) (f : BForm) : M Unit := immB rd f addiOp
def andiCore (rd : Rd) (f : BForm) : M Unit := immB rd f andiOp
def oriCore (rd : Rd) (f : BForm) : M Unit := immB rd f oriOp
def xoriCore (rd : Rd) (f : BForm) : M Unit := immB rd f xoriOp
def shliCore (rd : Rd) (f : BForm) : M Unit := immB rd f shliOp
def shriCore (rd : Rd) (f : BForm) : M Unit := immB rd f shriOp
def shaiCore (rd : Rd) (f : BForm) : M Unit := immB rd f shaiOp
def csetiCore (rd : Rd) (f : BForm) : M Unit := immB rd f csetiOp

/-- LIX (R332). -/
def lixOp (h : Bool) (imm : BitVec 32) (d : Word) : Word :=
  if h then imm ++ (d.truncate 32 : BitVec 32) else imm.signExtend 64

end Sys2Proof.Machine
end

