-- ==== Sys2Proof/Machine/Loads.lean ====
section
/-! DEFINITION. The plain loads (R396, R401), which recipe bodies and transient windows may hold. -/

namespace Sys2Proof.Machine

/-- LDB to LDWS (Table 17-3): `n` bytes, sign-extended or not. -/
def loadCore (rd : Rd) (f : BForm) (n : Nat) (signed : Bool) : M Unit := do
  let a ← rd.x f.xa.toNat (f.ba == 1)
  let ea := a + simm9 f.imm * BitVec.ofNat 64 n
  let p ← placeAligned ea n n aLoad
  rd.xprep f.xd.toNat
  let bs ← rd.load { act := .load, pieces := [p], scalar := true } (.x f.xd.toNat n signed)
  let v := leNat bs
  rd.xw f.xd.toNat (if signed then BitVec.ofInt 64 (sext (8 * n) v) else BitVec.ofNat 64 v)

def ldbCore (rd : Rd) (f : BForm) : M Unit := loadCore rd f 1 false
def ldhCore (rd : Rd) (f : BForm) : M Unit := loadCore rd f 2 false
def ldwCore (rd : Rd) (f : BForm) : M Unit := loadCore rd f 4 false
def lddCore (rd : Rd) (f : BForm) : M Unit := loadCore rd f 8 false
def ldbsCore (rd : Rd) (f : BForm) : M Unit := loadCore rd f 1 true
def ldhsCore (rd : Rd) (f : BForm) : M Unit := loadCore rd f 2 true
def ldwsCore (rd : Rd) (f : BForm) : M Unit := loadCore rd f 4 true

/-- Bits of a group whose byte lanes a predicate selects; every member uses the same 64 predicate bits (R363). -/
def byteMask (pg : Pred) (g : Nat) : Nat :=
  let one := (List.range 64).foldl (fun n i => if pg.getLsbD i then Nat.lor n (255 * 256 ^ i) else n) 0
  (List.range g).foldl (fun n m => Nat.lor n (one * 2 ^ (512 * m))) 0

/-- The nibble selection of a store or load of `g` members under a predicate; empty when it selects every byte. -/
def nibMask (pg : Pred) (g : Nat) : List Bool :=
  if pg == BitVec.allOnes 64 then []
  else (List.range g).flatMap fun _ => (List.range 128).map fun i => pg.getLsbD (i / 2)

/-- A nibble position outside every group, for data that goes nowhere. -/
def nowhere : Nat := 8192

/-- Where the nibbles of a group's data go: inactive ones nowhere. -/
def nibPlaces (pg : Pred) (g : Nat) : List Nat :=
  (List.range (128 * g)).map fun i => if pg.getLsbD (i % 128 / 2) then i else nowhere

/-- The 64-byte pieces of a group at an address (R401). -/
def memberPieces (ea : Word) (acc : Nat) : Nat → Nat → M (List Piece)
  | 0, _ => pure []
  | n + 1, m => do
    let p ← placeOf (ea + BitVec.ofNat 64 (64 * m)) 64 acc 0
    return p :: (← memberPieces ea acc n (m + 1))

/-- Address checks of a 64-byte aligned vector access (R392 steps 3 and 4). -/
def groupAddr (ea : Word) (acc : Nat) : M Unit := do
  if ea.toNat ≥ 2 ^ 56 then trap 0x10 ea (BitVec.ofNat 64 (128 + acc))
  if ea.toNat % 64 != 0 then trap 0x12 ea (BitVec.ofNat 64 acc)

/-- Address checks of a 64-byte aligned vector access, then its pieces. -/
def groupPieces (ea : Word) (g acc : Nat) : M (List Piece) := do
  groupAddr ea acc
  memberPieces ea acc g 0

/-- VLD and VLDX at an address (R401, R305). -/
def vloadAt (rd : Rd) (f : VForm) (ea : Word) (pg : Pred) : M Unit := do
  let g := width f.dw
  if pg == 0 then putV rd f {}
  else
    let ps ← groupPieces ea g aLoad
    let s ← get
    if f.dt == 1 && ps.any (fun p => (ownPad s.turn p).isNone) then illegal
    if f.dt == 0 then rd.vprep f.d.toNat g
    let _ ← rd.vOld f.d.toNat g (({ mask := byteMask pg g : VRes }).keepsAt f.d.toNat)
    let c ← curCtx
    let bs ← rd.load { act := .load, pieces := ps, mask := nibMask pg g } (.v (members c f.d.toNat g) (nibPlaces pg g))
    let m := byteMask pg g
    putV rd f { val := Nat.land (leNat bs) m, mask := m }

def vldCore (rd : Rd) (f : VForm) : M Unit := do
  let a ← readXa rd f
  let pg ← readPg rd f
  vloadAt rd f (a + BitVec.ofInt 64 (64 * simm11 f)) pg

def vldxCore (rd : Rd) (f : VForm) : M Unit := do
  let a ← readXa rd f
  let b ← readXb rd f
  let pg ← readPg rd f
  vloadAt rd f (a + b * 64) pg

end Sys2Proof.Machine
end

