-- ==== Sys2Proof/Machine/Recipe.lean ====
section
/-! DEFINITION. Recipe registers (R246 to R251, R284, R412 to R415): what a body may hold, replaying a slot, and the recipe and
register-state words. -/

namespace Sys2Proof.Machine

/-- What a word of a recipe body reads and writes: kind, name, members; its rounding field if it has one. -/
structure Foot where
  dst : Kind × Nat × Nat
  srcs : List (Kind × Nat × Nat)
  /-- dt = 1, or a port (R247) -/
  bad : Bool := false
  mode : Nat := 0
  deriving DecidableEq, Repr

def footA (f : AForm) (useB useD : Bool) : Foot :=
  { dst := (.x, f.xd.toNat, 1), srcs := (.x, f.xa.toNat, 1) :: ((if useB then [(.x, f.xb.toNat, 1)] else []) ++
      (if useD then [(.x, f.xd.toNat, 1)] else [])) }

def footB (f : BForm) : Foot := { dst := (.x, f.xd.toNat, 1), srcs := [(.x, f.xa.toNat, 1)] }

def portField (k : Kind) (n : BitVec 8) : Bool := k == .v && n.toNat ≥ 240

/-- A V-form word with kinds for d, a and b; the rounding field counts where `rnd`. -/
def footV (f : VForm) (d : Kind) (a b : Option Kind) (useD rnd : Bool) : Foot :=
  let one (k : Option Kind) (n : BitVec 8) (w : BitVec 2) : List (Kind × Nat × Nat) :=
    match k with
    | some k => [(k, n.toNat, width w)]
    | none => []
  { dst := (d, f.d.toNat, width f.dw),
    srcs := one a f.a f.aw ++ one b f.b f.bw ++ (if useD then [(d, f.d.toNat, width f.dw)] else []) ++ [(.p, f.pg.toNat, 1)],
    bad := f.dt == 1 || portField d f.d || (match a with
      | some k => portField k f.a
      | none => false) || (match b with
      | some k => portField k f.b
      | none => false),
    mode := if rnd then f.mode.toNat else 0 }

/-- The words a body may hold, with what they read and write; none for every other (R247). -/
def foot (i : Instr) : Option Foot :=
  match i with
  | .add f | .sub f | .and f | .or f | .xor f | .shl f | .shr f | .mul f | .div f | .rem f | .min f | .max f | .cset f =>
    some (footA f true false)
  | .bits f => some (footA f false false)
  | .field f => some (footA f true (f.fn == 2))
  | .sel f => some (footA f true true)
  | .addi f | .andi f | .ori f | .xori f | .shli f | .shri f | .shai f | .cseti f => some (footB f)
  | .ldb f | .ldh f | .ldw f | .ldd f | .ldbs f | .ldhs f | .ldws f => some (footB f)
  | .vadd f | .vsub f | .vmul f | .vdiv f | .vscl f | .vpack f => some (footV f .v (some .v) (some .v) false true)
  | .vfma f | .vfms f => some (footV f .v (some .v) (some .v) true true)
  | .vmin f | .vmax f | .vsel f | .vand f | .vor f | .vxor f | .vperm f | .vzip f | .vunzip f =>
    some (footV f .v (some .v) (some .v) false false)
  | .vabs f | .vneg f | .vnot f | .vslide f | .vmov f => some (footV f .v (some .v) none false false)
  | .vsqrt f | .vrcp f | .vrsq f | .vexp2 f | .vlog2 f | .vcvt f | .vqmx f | .vdqmx f | .vqnb f | .vdqnb f | .vred f
  | .vscan f => some (footV f .v (some .v) none false true)
  | .vcmp f => some (footV f .p (some .v) (some .v) false false)
  | .vshl f | .vshr f => some (footV f .v (some .v) (if f.fn.getLsbD 0 then none else some .v) false false)
  | .vbdot f => some (footV f .v (some .v) (some .v) true false)
  | .vbcast f | .viota f | .vld f => some (footV f .v (some .x) none false false)
  | .vextr f => some (footV f .x (some .v) none false false)
  | .vins f => some (footV f .v (some .x) none true false)
  | .vldx f => some (footV f .v (some .x) (some .x) false false)
  | _ => none

/-- Executes a word of a body. -/
def runBody (rd : Rd) (i : Instr) : M Unit :=
  match i with
  | .add f => addCore rd f
  | .sub f => subCore rd f
  | .and f => andCore rd f
  | .or f => orCore rd f
  | .xor f => xorCore rd f
  | .shl f => shlCore rd f
  | .shr f => shrCore rd f
  | .mul f => mulCore rd f
  | .div f => divCore rd f
  | .rem f => remCore rd f
  | .min f => minCore rd f
  | .max f => maxCore rd f
  | .cset f => csetCore rd f
  | .bits f => bitsCore rd f
  | .field f => fieldCore rd f
  | .sel f => selCore rd f
  | .addi f => addiCore rd f
  | .andi f => andiCore rd f
  | .ori f => oriCore rd f
  | .xori f => xoriCore rd f
  | .shli f => shliCore rd f
  | .shri f => shriCore rd f
  | .shai f => shaiCore rd f
  | .cseti f => csetiCore rd f
  | .ldb f => ldbCore rd f
  | .ldh f => ldhCore rd f
  | .ldw f => ldwCore rd f
  | .ldd f => lddCore rd f
  | .ldbs f => ldbsCore rd f
  | .ldhs f => ldhsCore rd f
  | .ldws f => ldwsCore rd f
  | .vadd f => vaddCore rd f
  | .vsub f => vsubCore rd f
  | .vmul f => vmulCore rd f
  | .vfma f => vfmaCore rd f
  | .vfms f => vfmsCore rd f
  | .vmin f => vminCore rd f
  | .vmax f => vmaxCore rd f
  | .vabs f => vabsCore rd f
  | .vneg f => vnegCore rd f
  | .vdiv f => vdivCore rd f
  | .vsqrt f => vsqrtCore rd f
  | .vrcp f => vrcpCore rd f
  | .vrsq f => vrsqCore rd f
  | .vexp2 f => vexp2Core rd f
  | .vlog2 f => vlog2Core rd f
  | .vscl f => vsclCore rd f
  | .vcmp f => vcmpCore rd f
  | .vsel f => vselCore rd f
  | .vand f => vandCore rd f
  | .vor f => vorCore rd f
  | .vxor f => vxorCore rd f
  | .vnot f => vnotCore rd f
  | .vshl f => vshlCore rd f
  | .vshr f => vshrCore rd f
  | .vcvt f => vcvtCore rd f
  | .vqmx f => vqmxCore rd f
  | .vdqmx f => vdqmxCore rd f
  | .vqnb f => vqnbCore rd f
  | .vdqnb f => vdqnbCore rd f
  | .vbdot f => vbdotCore rd f
  | .vpack f => vpackCore rd f
  | .vred f => vredCore rd f
  | .vscan f => vscanCore rd f
  | .vperm f => vpermCore rd f
  | .vbcast f => vbcastCore rd f
  | .vextr f => vextrCore rd f
  | .vins f => vinsCore rd f
  | .vslide f => vslideCore rd f
  | .vzip f => vzipCore rd f
  | .vunzip f => vunzipCore rd f
  | .vmov f => vmovCore rd f
  | .viota f => viotaCore rd f
  | .vld f => vldCore rd f
  | .vldx f => vldxCore rd f
  | _ => illegal

/-- TINFO with REPLAY and the slot, unless an inner replay has marked it (Table 12-9). -/
def replayInfo (slot : Nat) (info : Word) : Word :=
  if info.getLsbD 56 then info else info ||| BitVec.ofNat 64 (2 ^ 56 + slot * 2 ^ 57)

/-- Physical order of sources: by kind, then number. -/
def srcKey (k : Kind × Nat) : Nat := k.1.code * 256 + k.2

/-- Sets a register's fill state, its value and binding untouched. -/
def Ctx.setFill (c : Ctx) (k : Kind) (r : Nat) (f : Fill) : Ctx :=
  match k with
  | .x => if r = 0 then c else { c with x := mapSet c.x r { c.regX r with fill := f } }
  | .v => { c with v := mapSet c.v r { c.regV r with fill := f } }
  | .p => if r = 0 then c else { c with p := mapSet c.p r { c.regP r with fill := f } }

/-- replay (R249): at fuel 2, 1, 0 for depths 1, 2, 3. -/
def replayF : Nat → Nat → M Unit
  | 0, slot => trap 0x08 0 (replayInfo slot 0)
  | n + 1, slot => do
    match mapFind (← curCtx).recipes slot with
    | none => pure ()
    | some r =>
      (inOrder (fun a b => decide (srcKey a ≤ srcKey b)) r.pins).forM fun src => do
        let c ← curCtx
        match c.fill src.1 src.2 with
        | .full => pure ()
        | .empty => stall
        | .dropped =>
          match c.slotOf src.1 src.2 with
          | some (s', _) => replayF n s'
          | none => pure ()
      tryCatch (r.body.forM (runBody (bodyRd (replayF n) r.rot))) fun e =>
        match e with
        | .trap cause addr info => throw (.trap cause addr (replayInfo slot info))
        | e => throw e
      modCtx fun c => c.setFill r.kind r.target .full

/-- Replays a slot for a reader (R249). -/
def replay (slot : Nat) : M Unit := replayF 2 slot

/-- Registers and memory of S-form and V-form words. -/
def rdS : Rd := mkRd replay 2
def rdV : Rd := mkRd replay 4

/-! ## RCPDEF (R412) -/

def ruleTrap {α : Type} : M α := trap 0x09 0 0

/-- A parcel of a body, read as a load. -/
def bodyParcel (va : Word) : M Parcel := do
  let p ← placeOf va 2 aLoad 0
  let bs ← tAccess 4 { act := .load, pieces := [p] } .again
  return BitVec.ofNat 16 (leNat bs)

def bodyParcels (va : Word) : Nat → M (List Parcel)
  | 0 => pure []
  | n + 1 => do
    let p ← bodyParcel va
    return p :: (← bodyParcels (va + 2) n)

/-- The body's words from an address. -/
def bodyWords (va : Word) : Nat → M (List Instr)
  | 0 => pure []
  | n + 1 => do
    let p ← bodyParcel va
    match tagOf p with
    | .t =>
      let k := parcelsOf p
      let ps ← bodyParcels va k
      match decode ps with
      | .ok i => return i :: (← bodyWords (va + BitVec.ofNat 64 (2 * k)) n)
      | .error _ => ruleTrap
    | _ => ruleTrap

/-- Physical registers that a name with members stands for. -/
def physical (c : Ctx) (u : Kind × Nat × Nat) : List (Kind × Nat) :=
  match u.1 with
  | .x => [(.x, u.2.1)]
  | .v => (members c u.2.1 u.2.2).map (fun r => (.v, r))
  | .p => [(.p, rotP c u.2.1)]

/-- Checks the rules of R247 and R284 over a body: the pinned sources, or none where a rule is broken. -/
def checkBody (c : Ctx) (target : Kind × Nat) : List Instr → Bool → List (Kind × Nat) → Option (List (Kind × Nat))
  | [], _, pins => if pins.length ≤ 8 then some pins else none
  | i :: is, written, pins =>
    match foot i with
    | none => none
    | some f =>
      let srcs := f.srcs.flatMap (physical c)
      let others := srcs.filter (fun r => r != target && r != (.x, 0) && r != (.p, 0))
      if f.bad || f.mode == 5 || f.mode == 6 || physical c f.dst != [target] || (!written && srcs.contains target) ||
          others.any (fun r => r.1 == .v && r.2 ≥ c.vallot) then none
      else checkBody c target is true (pins ++ others).eraseDups

def kindOfCode (k : BitVec 2) : Kind :=
  match k.toNat with
  | 0 => .x
  | 1 => .v
  | _ => .p

/-- The register that d names under its kind, after rotation. -/
def namedReg (c : Ctx) (k : Kind) (n : Nat) : Nat :=
  match k with
  | .x => n
  | .v => rotV c n
  | .p => rotP c n

def isZeroReg (k : Kind) (r : Nat) : Bool := k != .v && r == 0

def execRcpdef (f : VForm) (s : State) : Host.Outcome State Fault Refusal :=
  tWordClosing 4 (do
    let xa ← readXa rdV f
    if xa.toNat ≥ 2 ^ 56 then trap 0x10 xa 128
    if xa.toNat % 2 != 0 then trap 0x12 xa 0
    let body ← bodyWords xa (f.imm.toNat % 4 + 1)
    let c ← curCtx
    let k := kindOfCode (kindOf f)
    let r := namedReg c k f.d.toNat
    let slot := (f.fn8.extractLsb' 3 5).toNat
    if isZeroReg k r || (k == .v && (f.d.toNat ≥ 240 || r ≥ c.vallot)) then ruleTrap
    match checkBody c (k, r) body false [] with
    | none => ruleTrap
    | some pins =>
      match mapFind c.recipes slot with
      | some old => if c.fill old.kind old.target == .dropped then replay slot
      | none => pure ()
      modCtx fun c =>
        let rest := (mapDel c.recipes slot).filter (fun e => !(e.2.kind == k && e.2.target == r))
        let rot := BitVec.ofNat 32 (c.vsize + c.psize * 256 + c.vrrb * 65536 + c.prrb * 2 ^ 24)
        { c with recipes := mapSet rest slot ⟨body, k, r, pins, rot⟩ }) s

def execRcpdrop (f : VForm) (s : State) : Host.Outcome State Fault Refusal :=
  tWordClosing 4 (do
    let c ← curCtx
    let k := kindOfCode (kindOf f)
    let r := namedReg c k f.d.toNat
    if k == .v && f.d.toNat ≥ 240 then ruleTrap
    match c.slotOf k r with
    | none => ruleTrap
    | some _ =>
      if c.pending k r then stall
      modCtx fun c => c.setFill k r .dropped) s

def execRcpkill (f : VForm) (s : State) : Host.Outcome State Fault Refusal :=
  tWordClosing 4 (do
    let slot := (f.fn8.extractLsb' 3 5).toNat
    let c ← curCtx
    match mapFind c.recipes slot with
    | none => pure ()
    | some r =>
      if c.fill r.kind r.target == .dropped then replay slot
      modCtx fun c => { c with recipes := mapDel c.recipes slot }) s

/-- Marks a register EMPTY as a write to it does (R414, R250). -/
def emptyReg (k : Kind) (r : Nat) : M Unit := do
  prepWrite replay k r
  modCtx fun c => (unbind c k r).setFill k r .empty

def execRempty (f : VForm) (s : State) : Host.Outcome State Fault Refusal :=
  tWordClosing 4 (do
    let c ← curCtx
    let k := kindOfCode (kindOf f)
    let r := namedReg c k f.d.toNat
    if isZeroReg k r then pure ()
    else if k == .v && r ≥ c.vallot then trap 0x02 0 (regInfo f.d.toNat)
    else emptyReg k r) s

/-- Table 17-7. -/
def regState (c : Ctx) (k : Kind) (r : Nat) : Nat :=
  let st := if k == .v && r ≥ c.vallot then 3 else match c.fill k r with
    | .full => 0
    | .empty => 1
    | .dropped => 2
  let slot := c.slotOf k r
  st + 4 * b2n (c.pending k r) + 8 * b2n slot.isSome + 16 * b2n (c.recipes.any (fun e => e.2.pins.contains (k, r))) +
    (match slot with
      | some (n, _) => 32 * n
      | none => 0)

def execRstate (f : VForm) (s : State) : Host.Outcome State Fault Refusal :=
  tWordClosing 4 (do
    let c ← curCtx
    let k := kindOfCode (kindOf f)
    rdV.xw f.d.toNat (BitVec.ofNat 64 (regState c k (namedReg c k f.a.toNat)))) s

end Sys2Proof.Machine
end

