-- ==== Sys2Proof/Machine/Stash.lean ====
section
/-! DEFINITION. The stash CSRs (Table 8-4, R164, R165). -/

namespace Sys2Proof.Machine

/-- The granules of a core's scratchpad that are stash, and not stash, after a change: their tags become FULL (R165). -/
def fillTags (s : State) (core : Nat) (grans : List Nat) : State :=
  grans.foldl (fun (s : State) g =>
    (List.range 512).foldl (fun (s : State) i => s.setTag (padAddr core (g * 0x800 + 4 * i)) 1) s) s

/-- The granules of a core's stash that hold lines, or those of one map entry, give them back (R165). -/
def emptyStash (s : State) (n : Nat) (entry : Option Nat) : State :=
  ((s.core n).granules.filter fun g => (entry.map (· == g.2.entry)).getD true).foldl (fun s g => emptyGranule s n g.1) s

/-- A write of STASHB (`isBase`) or STASHN by core `n` (R165): none where it is refused with trap 0x19. -/
def stashConfig (s : State) (n : Nat) (isBase : Bool) (v : Nat) : Option State :=
  let c := s.core n
  let b := if isBase then v % 16 else c.stashb
  let k := if isBase then c.stashn else v % 16
  if b + k > 12 then none
  else
    let left := (List.range 12).filter fun g =>
      c.stashb ≤ g && g < c.stashb + c.stashn && !(b ≤ g && g < b + k)
    let s := fillTags (emptyStash s n none) n left
    some (s.modCore n fun c => { c with
      stashb := b, stashn := k,
      stmap := c.stmap.map (fun e => (e.1, if e.2.gran < k then e.2 else { e.2 with valid := false })) })

/-- A write of STMAPD by core `n` (R165). -/
def stmapWrite (s : State) (n : Nat) (v : Nat) : Option State :=
  let c := s.core n
  let e : StMap := { gran := v % 16, valid := bits v 4 4 == 1, va := bits v 55 11 }
  if e.gran ≥ c.stashn then none
  else if e.valid && c.stmap.any (fun o => o.1 != c.stmapi && o.2.valid && o.2.va == e.va) then none
  else some ((emptyStash s n (some c.stmapi)).modCore n fun c => { c with stmap := mapSet c.stmap c.stmapi e })

end Sys2Proof.Machine
end

