-- ==== Sys2Proof/Machine/Control.lean ====
section
/-! DEFINITION. Handshakes, branches, CSR access, fences, traps and fetch control, and register resources of the T engine
(R333 to R354), with PROBE, ASGEN, COHSET and GRPSET (R358 to R361). -/

namespace Sys2Proof.Machine

/-! ## Handshakes (R236, R333) -/

/-- XPUT: waits while xd is FULL, DROPPED or has a pending producer. -/
def execXput (f : AForm) (s : State) : Host.Outcome State Fault Refusal :=
  tWordClosing 2 (do
    let a ← rdS.x f.xa.toNat (f.ba == 1)
    let c ← curCtx
    let d := c.regX f.xd.toNat
    if d.fill != .empty || d.pend.isSome then stall
    rdS.xw f.xd.toNat a) s

/-- XTAKE: xa ends EMPTY, unless it is xd. -/
def execXtake (f : AForm) (s : State) : Host.Outcome State Fault Refusal :=
  tWordClosing 2 (do
    let a ← rdS.x f.xa.toNat (f.ba == 1)
    if f.xa != f.xd && f.xa != 0 then emptyReg .x f.xa.toNat
    rdS.xw f.xd.toNat a) s

/-! ## Branches (R334 to R338) -/

def ownPc : M Word := do return (← curCtx).t.pc.zeroExtend 64

/-- The address of an offset in parcels. -/
def offsetBy (pc : Word) (off : Int) : Word := pc + BitVec.ofInt 64 (2 * off)

def execB (f : CForm) (s : State) : Host.Outcome State Fault Refusal :=
  tBranch 2 (do return some (offsetBy (← ownPc) f.off.toInt)) s

def execCall (f : CForm) (s : State) : Host.Outcome State Fault Refusal :=
  tBranch 2 (do
    let pc ← ownPc
    rdS.xw 63 (pc + 4)
    return some (offsetBy pc f.off.toInt)) s

def execJr (f : BForm) (s : State) : Host.Outcome State Fault Refusal :=
  tBranch 2 (do
    let a ← rdS.x f.xa.toNat (f.ba == 1)
    let t := offsetBy a f.imm.toInt
    if t.getLsbD 0 then trap 0x12 t (BitVec.ofNat 64 aFetch)
    rdS.xw f.xd.toNat ((← ownPc) + 4)
    return some t) s

/-- A compare-and-branch word (R336). -/
def condBranch (f : DForm) (p : Word → Word → Bool) (s : State) : Host.Outcome State Fault Refusal :=
  tBranch 2 (do
    let a ← rdS.x f.xa.toNat false
    let b ← rdS.x f.xb.toNat false
    let pc ← ownPc
    return if p a b then some (offsetBy pc f.off.toInt) else none) s

def execBeq (f : DForm) (s : State) : Host.Outcome State Fault Refusal := condBranch f (fun a b => a == b) s
def execBne (f : DForm) (s : State) : Host.Outcome State Fault Refusal := condBranch f (fun a b => a != b) s
def execBlt (f : DForm) (s : State) : Host.Outcome State Fault Refusal := condBranch f (fun a b => a.toInt < b.toInt) s
def execBge (f : DForm) (s : State) : Host.Outcome State Fault Refusal := condBranch f (fun a b => b.toInt ≤ a.toInt) s
def execBltu (f : DForm) (s : State) : Host.Outcome State Fault Refusal := condBranch f (fun a b => a.toNat < b.toNat) s
def execBgeu (f : DForm) (s : State) : Host.Outcome State Fault Refusal := condBranch f (fun a b => b.toNat ≤ a.toNat) s

/-- The conditions of BP. -/
def bpTakes (mode : BitVec 2) (p : Pred) : Bool :=
  match mode.toNat with
  | 0 => p != 0
  | 1 => p == 0
  | 2 => p == BitVec.allOnes 64
  | _ => p != BitVec.allOnes 64

def execBp (f : FForm) (s : State) : Host.Outcome State Fault Refusal :=
  tBranch 2 (do
    let p ← rdS.p f.p.toNat false
    let pc ← ownPc
    return if bpTakes f.mode p then some (offsetBy pc f.off.toInt) else none) s

/-! ## CSRs (R339 to R342) -/

/-- CSRs whose access needs the supervisor (Table 15-3). -/
def csrSup (n : Nat) : Bool := (0x050 ≤ n && n ≤ 0x05B) || n == 0x060

/-- Vectors that the shadow bank holds (R229): those of a fresh context where it stands prepared for one (R231, R264). -/
def Core.shadowAllot (c : Core) : Nat :=
  match c.shadow with
  | some x => x.vallot
  | none => if c.prepared then 64 else 0

/-- REGPOOL.FREE. -/
def Core.poolFree (c : Core) : Nat := 384 - c.ctx.vallot - c.shadowAllot

def displ (c : Ctx) (i : Nat) : Nat := bits c.displ.toNat (63 - 16 * i) (48 - 16 * i)

/-- The value a CSR reads. -/
def csrRead (s : State) (core n : Nat) : Nat :=
  let k := s.core core
  let c := k.ctx
  match n with
  | 0x000 => s.cycle.toNat
  | 0x001 => k.tick.toNat
  | 0x002 => k.bank.toNat + c.serial.toNat * 65536
  | 0x003 => c.taskid.toNat
  | 0x004 => c.streamid.toNat
  | 0x010 => c.flags.toNat
  | 0x011 => c.trapen.toNat
  | 0x012 => c.rmode.toNat
  | 0x013 => c.srseed.toNat
  | 0x014 => c.srctr.toNat
  | 0x020 => c.vsize + c.psize * 256 + c.vrrb * 65536 + c.prrb * 2 ^ 24
  | 0x021 => c.vallot
  | 0x022 => c.slipw
  | 0x023 => k.poolFree + k.shadowAllot * 65536
  | 0x030 => k.stashb
  | 0x031 => k.stashn
  | 0x032 => k.stmapi
  | 0x033 =>
    let e := mapGet {} k.stmap k.stmapi
    e.gran + 16 * b2n e.valid + e.va * 2048
  | 0x040 | 0x041 | 0x042 | 0x043 =>
    let g := mapGet {} k.gmem (n - 0x040)
    if g.valid then g.group.toNat + 256 + g.member.toNat * 65536 else 0
  | 0x050 => tvec (siteOf core)
  | 0x051 => k.tcause.toNat
  | 0x052 => k.tpct.toNat
  | 0x053 => k.tpcm.toNat
  | 0x054 => k.tpcc.toNat
  | 0x055 => k.taddr.toNat
  | 0x056 => k.tinfo.toNat
  | 0x057 => k.teng.toNat + 4 * b2n k.ppriv + 8 * b2n k.intrap + 16 * k.thalted.toNat
  | 0x058 | 0x059 | 0x05A | 0x05B => displ c (n - 0x058)
  | 0x05C => c.evalid.toNat
  | 0x060 => b2n k.sup
  | 0x061 => c.asid.toNat
  | 0x062 => k.genl1.toNat
  | 0x063 => k.wlate.toNat
  | _ => 0

/-- The stored value of a write of SLIPW (Table 11-2). -/
def slipStored (v : Nat) : Nat := let w := v % 16; if w = 0 then 1 else if w > 8 then 8 else w

/-- The stored value of a write of RMODE (Table 13-3). -/
def rmodeStored (v : Nat) : BitVec 3 := if v % 8 ≥ 6 then 0 else BitVec.ofNat 3 v

/-- Applies a write to a CSR's RW fields; none where trap 0x19 refuses it. -/
def csrWrite (s : State) (core n : Nat) (v : Word) : Option State :=
  let w := v.toNat
  let ctx (f : Ctx → Ctx) : Option State := some (s.modCore core fun k => { k with ctx := f k.ctx })
  let cor (f : Core → Core) : Option State := some (s.modCore core f)
  match n with
  | 0x010 => ctx fun c => { c with flags := v.truncate 7 }
  | 0x011 => ctx fun c => { c with trapen := v.truncate 7 }
  | 0x012 => ctx fun c => { c with rmode := rmodeStored w }
  | 0x013 => ctx fun c => { c with srseed := v }
  | 0x014 => ctx fun c => { c with srctr := v }
  | 0x022 => ctx fun c => { c with slipw := slipStored w }
  | 0x030 => stashConfig s core true w
  | 0x031 => stashConfig s core false w
  | 0x032 => cor fun k => { k with stmapi := w % 64 }
  | 0x033 => stmapWrite s core w
  | 0x051 => cor fun k => { k with tcause := v.truncate 8 }
  | 0x052 => cor fun k => { k with tpct := v.truncate 56 }
  | 0x053 => cor fun k => { k with tpcm := v.truncate 56 }
  | 0x054 => cor fun k => { k with tpcc := v.truncate 56 }
  | 0x055 => cor fun k => { k with taddr := v }
  | 0x056 => cor fun k => { k with tinfo := v }
  | 0x057 => cor fun k => { k with teng := v.truncate 2, ppriv := v.getLsbD 2 }
  | 0x058 => ctx fun c => { c with displ := (v.truncate 16 : BitVec 16) ++ c.displ.extractLsb' 0 48 }
  | 0x059 => ctx fun c => { c with displ := c.displ.extractLsb' 48 16 ++ (v.truncate 16 : BitVec 16) ++ c.displ.extractLsb' 0 32 }
  | 0x05A => ctx fun c => { c with displ := c.displ.extractLsb' 32 32 ++ (v.truncate 16 : BitVec 16) ++ c.displ.extractLsb' 0 16 }
  | 0x05B => ctx fun c => { c with displ := c.displ.extractLsb' 16 48 ++ (v.truncate 16 : BitVec 16) }
  | _ => some s

/-- A CSR word (R339): privilege, source, then the old value, the write, and xd. -/
def csrWord (f : EForm) (read : Bool) (new : Word → Word → Option Word) (s : State) :
    Host.Outcome State Fault Refusal :=
  tWordClosing 2 (do
    let n := f.csr.toNat
    if csrSup n && !(← curCore).sup then badValue 1
    let a ← if read then rdS.x f.xa.toNat (f.ba == 1) else pure 0
    let s ← get
    let old := BitVec.ofNat 64 (csrRead s s.turn n)
    match new old a with
    | none => pure ()
    | some v =>
      match csrWrite s s.turn n v with
      | some s' => set s'
      | none => trap 0x19 0 0
    rdS.xw f.xd.toNat old) s

def execCsrr (f : EForm) (s : State) : Host.Outcome State Fault Refusal := csrWord f false (fun _ _ => none) s
def execCsrw (f : EForm) (s : State) : Host.Outcome State Fault Refusal := csrWord f true (fun _ a => some a) s
def execCsrs (f : EForm) (s : State) : Host.Outcome State Fault Refusal := csrWord f true (fun o a => some (o ||| a)) s
def execCsrc (f : EForm) (s : State) : Host.Outcome State Fault Refusal := csrWord f true (fun o a => some (o &&& ~~~a)) s

/-! ## Fences, traps, fetch control (R343 to R350) -/

def segRemote (g : Seg) : Bool :=
  match spaceOf g.pa with
  | .remote _ _ => true
  | _ => false

/-- A release waits for the pins on the dirty lines it writes back (R153), at module scope for the core's remote copies too (R62). -/
def releaseWaits (s : State) (scope : Nat) : Bool :=
  releasePinned s s.turn scope || scope == 3 && s.ops.any fun o => o.kind != .eval && o.core == s.turn && o.dst.any segRemote

/-- Operations that the context of the turn has launched and that have not retired (R211). -/
def launchedHere (s : State) : List Op :=
  s.ops.filter fun o => o.kind != .eval && o.core == s.turn && o.serial == s.ctx.serial

def acquireScope (s : State) (scope : Nat) : State :=
  match scope with
  | 2 => acquire s s.turn
  | 3 => acquireModule s s.turn
  | _ => s

/-- FENCE (R343, Table 10-3). Accesses perform in program order here but for a TOUCH, so a release waits only for pins and for what R62 and
ADRAIN name, and FULL for a TOUCH too. -/
def execFence (kind : BitVec 3) (scope : BitVec 2) (slot : BitVec 4) (s : State) : Host.Outcome State Fault Refusal :=
  tWordClosing 2 (do
    let s ← get
    let sc := effScope s s.turn scope.toNat slot.toNat
    match kind.toNat with
    | 0 =>
      if releaseWaits s sc || touchOut s s.turn then stall
      modify fun s => acquireScope (releaseScope s s.turn sc) sc
    | 1 => modify (acquireScope · sc)
    | 2 =>
      if releaseWaits s sc then stall
      modify fun s => releaseScope s s.turn sc
    | 3 => pure ()
    | _ =>
      if !(launchedHere s).isEmpty || releaseWaits s sc then stall
      modify fun s => releaseScope s s.turn sc) s

def execTrapf (s : State) : Host.Outcome State Fault Refusal :=
  tWordClosing 2 (do
    let c ← curCtx
    let e := enabledFlags c.flags c.trapen
    if e != 0 then trap 0x20 0 (e.zeroExtend 64)) s

def execSvc (n : BitVec 8) (s : State) : Host.Outcome State Fault Refusal :=
  tWordClosing 2 (trap 0x31 0 (n.zeroExtend 64)) s

/-- BRK and BRKL do not close a window: the trap restarts at its producer (R346, R267). -/
def execBrk (s : State) : Host.Outcome State Fault Refusal := tWord 2 (do trap 0x30 (← ownPc) 0) s
def execBrkl (s : State) : Host.Outcome State Fault Refusal := tWord 4 (do trap 0x30 (← ownPc) 0) s

def execIsync (s : State) : Host.Outcome State Fault Refusal := tWordClosing 2 (modify (dropFetched · .t)) s

/-- Translates every page of a range as a load, lowest first: the lowest failing address traps (R349). -/
def probePages (last : Nat) : Nat → Nat → M Unit
  | 0, _ => pure ()
  | n + 1, va =>
    if va > last then pure ()
    else do
      let s ← get
      let w := BitVec.ofNat 64 va
      match translateHere s w aLoad with
      | .error e =>
        askEntry w e
        trap e.cause w (faultInfo aLoad e { noPiece with va := w })
      | .ok l =>
        modify (noteLeaf · w l)
        probePages last n ((va / 65536 + 1) * 65536)

/-- The bytes of a line at the addresses of a virtual range of `n` bytes, that pages translate: lines that the range's aligned 64-byte
blocks touch. -/
def rangeLine (s : State) (a n l : Nat) : Bool :=
  let lo := a / 64 * 64
  let hi := (a + n + 63) / 64 * 64
  (List.range ((hi - lo) / 65536 + 2)).any fun i =>
    let va := max lo ((lo / 65536 + i) * 65536)
    let stop' := min hi ((lo / 65536 + i + 1) * 65536)
    decide (va < stop') && match translateHere s (BitVec.ofNat 64 va) aLoad with
      | .ok x => decide (x.pa < l + 128) && decide (l < x.pa + (stop' - va))
      | .error _ => false

/-- Invalidates the instruction caches of a scope (R220). -/
def dropText (s : State) (scope : Nat) : State :=
  let hit (n : Nat) : Bool := match scope with
    | 2 => siteOf n == siteOf s.turn
    | 3 => true
    | _ => n == s.turn
  { s with cores := s.cores.map fun c => (c.1, if hit c.1 then { c.2 with text := [] } else c.2) }

/-- ICINV (R349): the core's dirty lines of the range go to their homes, then the instruction caches of the scope lose their text. -/
def execIcinv (f : AForm) (s : State) : Host.Outcome State Fault Refusal :=
  tWordClosing 2 (do
    let a ← rdS.x f.xa.toNat (f.ba == 1)
    let b ← rdS.x f.xb.toNat (f.bb == 1)
    if b == 0 then pure ()
    else
      probePages (a.toNat + b.toNat - 1) (b.toNat / 65536 + 2) a.toNat
      let s ← get
      let hit (l : Nat) : Bool := rangeLine s a.toNat b.toNat l
      let dirty := (linesHeld (s.core s.turn)).filter fun l => l.dirty != 0 && hit l.addr
      if dirty.any fun l => s.pinned l.addr then stall
      modify fun s => dropText (cleanLines s s.turn true fun l => dirty.any (·.addr == l))
        (effScope s s.turn f.fn.toNat (f.xd.toNat % 4))) s

def execGetid (f : AForm) (s : State) : Host.Outcome State Fault Refusal :=
  tWordClosing 2 (do
    let n := (← get).turn
    rdS.xw f.xd.toNat (BitVec.ofNat 64 (match f.fn.toNat with
      | 0 => n
      | 1 => siteOf n
      | _ => numOf n))) s

/-- The 32 cycles of PAUSE are time, which the model does not count. -/
def execPause (s : State) : Host.Outcome State Fault Refusal := tWordClosing 2 (pure ()) s

/-! ## Register resources (R351 to R353) -/

/-- The shrink of R230 to `n` vectors. -/
def shrinkTo (n : Nat) : M Unit := do
  let c ← curCtx
  let gone (r : Nat) : Bool := n ≤ r && r < c.vallot
  (c.recipes.filter fun e => c.fill e.2.kind e.2.target == .dropped && !(e.2.kind == .v && gone e.2.target) &&
      e.2.pins.any (fun p => p.1 == .v && gone p.2)).forM fun e => do
    let c ← curCtx
    if c.fill e.2.kind e.2.target == .dropped then replay e.1
  modCtx fun c => { c with
    recipes := c.recipes.filter (fun e => !((e.2.kind == .v && gone e.2.target) || e.2.pins.any (fun p => p.1 == .v && gone p.2))),
    v := c.v.filter (fun e => e.1 < n), vallot := n }

def execAllot (f : BForm) (s : State) : Host.Outcome State Fault Refusal :=
  tWordClosing 2 (do
    let k ← curCore
    let c := k.ctx
    let n := f.imm.toNat
    if n ≥ c.vallot then
      let g := min n (c.vallot + k.poolFree)
      rdS.xprep f.xd.toNat
      modCtx fun c => { c with v := c.v.filter (fun e => e.1 < c.vallot || e.1 ≥ g), vallot := g }
      rdS.xw f.xd.toNat (BitVec.ofNat 64 g)
    else
      if n < 16 + c.vsize then trap 0x02 0 0
      shrinkTo n
      rdS.xw f.xd.toNat (BitVec.ofNat 64 n)) s

def execRotcfg (f : BForm) (s : State) : Host.Outcome State Fault Refusal :=
  tWordClosing 2 (do
    let c ← curCtx
    let v := 8 * bits f.imm.toNat 8 4
    let p := 8 * bits f.imm.toNat 3 0
    if v > 128 || p > 64 || 16 + v > c.vallot then trap 0x02 0 0
    modCtx fun c => { c with vsize := v, psize := p, vrrb := 0, prrb := 0 }) s

def execRotset (f : AForm) (s : State) : Host.Outcome State Fault Refusal :=
  tWordClosing 2 (do
    let a ← rdS.x f.xa.toNat (f.ba == 1)
    let c ← curCtx
    let v := bits a.toNat 7 0
    let p := bits a.toNat 15 8
    let bad (size b : Nat) : Bool := if size > 0 then b ≥ size else b != 0
    if a.toNat / 65536 != 0 || bad c.vsize v || bad c.psize p then trap 0x02 0 0
    modCtx fun c => { c with vrrb := v, prrb := p }) s

/-! ## Groups, address spaces, coherence (R358 to R361) -/

/-- PRIV.SUP = 1, and INTRAP = 1 where the word needs it (R354). -/
def needSup (intrap : Bool) : M Unit := do
  let k ← curCore
  if !k.sup then badValue 1
  if intrap && !k.intrap then badValue 2

/-- The bytes of a range of whole lines, read as loads. -/
def loadRange (va : Word) (n : Nat) : M (List Byte) := do
  let p ← placeOf va n aLoad 0
  tAccess 2 { act := .load, pieces := [p] } .again

def execGrpset (f : AForm) (s : State) : Host.Outcome State Fault Refusal :=
  tWordClosing 2 (do
    needSup false
    let a ← rdS.x f.xa.toNat (f.ba == 1)
    let b ← rdS.x f.xb.toNat (f.bb == 1)
    if a.toNat ≥ 256 then badValue 5
    if b.toNat ≥ 2 ^ 56 then trap 0x10 b 128
    if b.toNat % 128 != 0 then trap 0x12 b 0
    let bs ← loadRange b 128
    let g := decodeGroup bs
    let s ← get
    let t := mapSet s.fw.groups a.toNat g.1
    if !g.2 || !membershipOk t then badValue 5
    set (setGroups s t (mapSet s.fw.groupRaw a.toNat bs) ((groupMembers (mapGet [] s.fw.groups a.toNat) ++ groupMembers g.1).eraseDups))) s

/-- A cached translation that a wrap of its generation removes (R183). -/
def Tlb.wraps (t : Tlb) (asid : Nat) : Bool := t.asid.toNat == asid || (t.g && asid == 0)

/-- Advances an address space's generation on every die; where it wraps, its entries leave every cache first (R183). -/
def asgen (s : State) (asid : Nat) : State :=
  let wraps := mapGet 0 (s.die 0).gens asid == 0xFFFF
  let s := if wraps then
      { s with cores := s.cores.map fun c => (c.1, { c.2 with tlb := c.2.tlb.filter fun t => !t.wraps asid }) }
    else s
  (List.range 68).foldl (fun (s : State) n => s.modDie n fun d =>
    { d with gens := mapSet d.gens asid (mapGet 0 d.gens asid + 1),
             tlb := if wraps then d.tlb.filter fun t => !t.wraps asid else d.tlb }) s

/-- An access that an address space has translated and that has not performed yet (R183). -/
def accessPending (s : State) (asid : Nat) : Bool :=
  let of' (n : Nat) : Bool := asid = 0 || (s.core n).ctx.asid.toNat == asid
  s.waiters.any (fun w => match w.who with
    | .core n _ => of' n
    | _ => false) || s.requests.any fun r => r.op.isNone && of' r.core

def execAsgen (f : AForm) (s : State) : Host.Outcome State Fault Refusal :=
  tWordClosing 2 (do
    needSup false
    let a ← rdS.x f.xa.toNat (f.ba == 1)
    if a.toNat ≥ 4096 then badValue 5
    if accessPending (← get) a.toNat then stall
    modify (asgen · a.toNat)) s

def execCohset (f : AForm) (s : State) : Host.Outcome State Fault Refusal :=
  tWordClosing 2 (do
    needSup false
    let a ← rdS.x f.xa.toNat (f.ba == 1)
    let b ← rdS.x f.xb.toNat (f.bb == 1)
    let s ← get
    match translateHere s a aLoad with
    | .error e =>
      askEntry a e
      trap e.cause a (faultInfo aLoad e { noPiece with va := a })
    | .ok l =>
      modify (noteLeaf · a l)
      let cls := b.toNat % 4
      let owner := bits b.toNat 31 16
      if cls = 3 ∨ BitVec.ofNat 2 cls != l.cls ∨ bits b.toNat 15 2 != 0 ∨ b.toNat ≥ 2 ^ 32 ∨
          (if cls = 0 then !coreOk owner else owner != 0) then badValue 5
      let frames := if l.big then (List.range 64).map (· + l.pa / 0x400000 * 64) else [l.pa / 65536]
      let asid := s.ctx.asid.toNat
      if accessPending s asid then stall
      modify fun s =>
        let s := dropFrames s frames
        let s := frames.foldl (fun (s : State) fr =>
          { s with classes := mapSet s.classes fr (BitVec.ofNat 2 cls),
                   owners := mapSet s.owners fr (if cls = 0 then some owner else none) }) s
        asgen s asid) s

/-- PROBE's answer (R361). -/
def probeWord (r : Except MemErr Leaf) (acc : Nat) : Word :=
  match r with
  | .ok l => BitVec.ofNat 64 (l.pa % 2 ^ 48 + l.cls.toNat * 2 ^ 48 + bits l.raw 6 6 * 2 ^ 50 + bits l.raw 7 7 * 2 ^ 51 +
      bits l.raw 8 8 * 2 ^ 52 + bits l.raw 9 9 * 2 ^ 53 + b2n l.big * 2 ^ 54)
  | .error e => BitVec.ofNat 64 (2 ^ 63 + e.cause + (acc + e.info) % 65536 * 256)

def execProbe (f : AForm) (s : State) : Host.Outcome State Fault Refusal :=
  tWordClosing 2 (do
    needSup false
    let a ← rdS.x f.xa.toNat (f.ba == 1)
    let s ← get
    let acc := f.fn.toNat
    match translateHere s a acc with
    | .error e => askEntry a e
    | .ok l => modify (noteLeaf · a l)
    rdS.xw f.xd.toNat (probeWord (translateHere s a acc) acc)) s

end Sys2Proof.Machine
end

