-- ==== Sys2Proof/Machine/Memory.lean ====
section
/-! DEFINITION. Loads, stores, tagged words, nibble stores, gathers and scatters (R396 to R403). Plain loads keep a transient
window open; every other word closes it (R244). -/

namespace Sys2Proof.Machine

def execLdb (f : BForm) (s : State) : Host.Outcome State Fault Refusal := tWord 2 (ldbCore rdS f) s
def execLdh (f : BForm) (s : State) : Host.Outcome State Fault Refusal := tWord 2 (ldhCore rdS f) s
def execLdw (f : BForm) (s : State) : Host.Outcome State Fault Refusal := tWord 2 (ldwCore rdS f) s
def execLdd (f : BForm) (s : State) : Host.Outcome State Fault Refusal := tWord 2 (lddCore rdS f) s
def execLdbs (f : BForm) (s : State) : Host.Outcome State Fault Refusal := tWord 2 (ldbsCore rdS f) s
def execLdhs (f : BForm) (s : State) : Host.Outcome State Fault Refusal := tWord 2 (ldhsCore rdS f) s
def execLdws (f : BForm) (s : State) : Host.Outcome State Fault Refusal := tWord 2 (ldwsCore rdS f) s

/-- A scalar store of `n` bytes (R396). -/
def store (f : BForm) (n : Nat) (s : State) : Host.Outcome State Fault Refusal :=
  tWordClosing 2 (do
    let a ← rdS.x f.xa.toNat (f.ba == 1)
    let d ← rdS.x f.xd.toNat false
    let p ← placeAligned (a + simm9 f.imm * BitVec.ofNat 64 n) n n aStore
    let _ ← tAccess 2 { act := .store, pieces := [p], data := leBytes n d.toNat, scalar := true } .none) s

def execStb (f : BForm) (s : State) : Host.Outcome State Fault Refusal := store f 1 s
def execSth (f : BForm) (s : State) : Host.Outcome State Fault Refusal := store f 2 s
def execStw (f : BForm) (s : State) : Host.Outcome State Fault Refusal := store f 4 s
def execStd (f : BForm) (s : State) : Host.Outcome State Fault Refusal := store f 8 s

/-- LDF, and LDC with `clear` (Table 17-4). -/
def taggedLoad (f : BForm) (clear : Bool) (s : State) : Host.Outcome State Fault Refusal :=
  tWordClosing 2 (do
    let a ← rdS.x f.xa.toNat (f.ba == 1)
    let p ← placeAligned (a + simm9 f.imm * 4) 4 4 aTagLoad
    rdS.xprep f.xd.toNat
    let bs ← tAccess 2 { act := .tagLoad clear, pieces := [p] } (.x f.xd.toNat 4 false)
    rdS.xw f.xd.toNat (BitVec.ofNat 64 (leNat bs))) s

def execLdf (f : BForm) (s : State) : Host.Outcome State Fault Refusal := taggedLoad f false s
def execLdc (f : BForm) (s : State) : Host.Outcome State Fault Refusal := taggedLoad f true s

def execSte (f : BForm) (s : State) : Host.Outcome State Fault Refusal :=
  tWordClosing 2 (do
    let a ← rdS.x f.xa.toNat (f.ba == 1)
    let d ← rdS.x f.xd.toNat false
    let p ← placeAligned (a + simm9 f.imm * 4) 4 4 aTagStore
    let _ ← tAccess 2 { act := .tagStore 0, pieces := [p], data := leBytes 4 d.toNat } .none) s

def execSts (f : AForm) (s : State) : Host.Outcome State Fault Refusal :=
  tWordClosing 2 (do
    let a ← rdS.x f.xa.toNat (f.ba == 1)
    let d ← rdS.x f.xd.toNat false
    let p ← placeAligned a 4 4 aTagStore
    let _ ← tAccess 2 { act := .tagStore (f.fn.toNat + 1), pieces := [p], data := leBytes 4 d.toNat } .none) s

/-- STN: nibble 2 × xa + imm9 (R400). -/
def execStn (f : BForm) (s : State) : Host.Outcome State Fault Refusal :=
  tWordClosing 2 (do
    let a ← rdS.x f.xa.toNat (f.ba == 1)
    let d ← rdS.x f.xd.toNat false
    let n : Int := 2 * (a.toNat : Int) + f.imm.toInt
    let p ← placeAligned (BitVec.ofInt 64 (n / 2)) 1 1 aStore
    let hi : Bool := n % 2 == 1
    let v := d.toNat % 16
    let _ ← tAccess 2 { act := .store, pieces := [p], data := [BitVec.ofNat 8 (v + 16 * v)], mask := [!hi, hi], scalar := true } .none) s

/-! ## Vector accesses (R401, R402) -/

def execVld (f : VForm) (s : State) : Host.Outcome State Fault Refusal := tWord 4 (vldCore rdV f) s
def execVldx (f : VForm) (s : State) : Host.Outcome State Fault Refusal := tWord 4 (vldxCore rdV f) s

/-- VST and VSTX at an address. -/
def vstoreAt (f : VForm) (ea : Word) (data : List Byte) (pg : Pred) : M Unit := do
  let g := width f.dw
  if pg == 0 then pure ()
  else
    let ps ← groupPieces ea g aStore
    let _ ← tAccess 4 { act := .store, pieces := ps, data := data, mask := nibMask pg g } .none

def execVst (f : VForm) (s : State) : Host.Outcome State Fault Refusal :=
  tWordClosing 4 (do
    let a ← readXa rdV f
    let d ← rdV.v f.d.toNat (width f.dw) false
    let pg ← readPg rdV f
    vstoreAt f (a + BitVec.ofInt 64 (64 * simm11 f)) d pg) s

def execVstx (f : VForm) (s : State) : Host.Outcome State Fault Refusal :=
  tWordClosing 4 (do
    let a ← readXa rdV f
    let b ← readXb rdV f
    let d ← rdV.v f.d.toNat (width f.dw) false
    let pg ← readPg rdV f
    vstoreAt f (a + b * 64) d pg) s

/-- Where the data of a word goes that may name a port: by register where it does not. -/
def vDest (f : VForm) (nibs : List Nat) : M Dest := do
  if f.d.toNat ≥ 240 then pure .again
  else
    let c ← curCtx
    return .v (members c f.d.toNat (width f.dw)) nibs

/-- The one piece of VLDF and VSTE: 16 words of the issuing core's own scratchpad (R402). -/
def taggedGroup (ea : Word) (acc : Nat) : M (List Piece) := do
  let ps ← groupPieces ea 1 acc
  let s ← get
  match ps.find? (fun p => (ownPad s.turn p).isNone) with
  | some p => trap 0x19 p.va (faultInfo acc errRange p)
  | none => pure ps

def execVldf (f : VForm) (s : State) : Host.Outcome State Fault Refusal :=
  tWordClosing 4 (do
    let a ← readXa rdV f
    let pg ← readPg rdV f
    let ps ← taggedGroup (a + BitVec.ofInt 64 (64 * simm11 f)) aTagLoad
    let m := byteMask pg 1
    if f.d.toNat < 240 then rdV.vprep f.d.toNat 1
    let _ ← rdV.vOld f.d.toNat 1 (({ mask := m : VRes }).keepsAt f.d.toNat)
    let d ← vDest f (nibPlaces pg 1)
    let bs ← tAccess 4 { act := .tagLoad false, pieces := ps } d
    putV rdV f { val := Nat.land (leNat bs) m, mask := m }) s

def execVste (f : VForm) (s : State) : Host.Outcome State Fault Refusal :=
  tWordClosing 4 (do
    let a ← readXa rdV f
    let data ← rdV.v f.d.toNat 1 false
    let pg ← readPg rdV f
    let ps ← taggedGroup (a + BitVec.ofInt 64 (64 * simm11 f)) aTagStore
    let _ ← tAccess 4 { act := .tagStore 0, pieces := ps, data := data, mask := nibMask pg 1 }
      (if f.d.toNat ≥ 240 then .again else .none)) s

/-! ## Gathers and scatters (R403) -/

/-- The address of element `i`, and for a 4-bit type whether it is the high nibble. -/
def elemAddr (t : BitVec 4) (base : Word) (offs : Nat) (i : Nat) : Word × Bool :=
  let o : Int := sext 32 (Nat.shiftRight offs (32 * i) % 2 ^ 32)
  if tyBits t = 4 then
    let n : Int := 2 * (base.toNat : Int) + o
    (BitVec.ofInt 64 (n / 2), n % 2 == 1)
  else (base + BitVec.ofInt 64 (o * (tyBits t / 8)), false)

/-- Places the active elements in ascending order. Where one fails at translation, an earlier one that fails at its home is
the lowest-numbered fault (R403). -/
def placeElems (t : BitVec 4) (base : Word) (offs acc : Nat) (act : Action) : List Nat → List Piece → M (List Piece)
  | [], ps => pure ps
  | i :: is, ps => do
    let n := max 1 (tyBits t / 8)
    let va := (elemAddr t base offs i).1
    let p ← tryCatch (do
        if va.toNat ≥ 2 ^ 56 then trap 0x10 va (BitVec.ofNat 64 (128 + acc + i * 2 ^ 40))
        if va.toNat % n != 0 then trap 0x12 va (BitVec.ofNat 64 (acc + i * 2 ^ 40))
        placeOf va n acc i) fun e => do
      let s ← get
      match (checkPieces (.core s.turn .t) { act := act, pieces := ps } 0 ps).run s |>.1 with
      | .fault er q => trap er.cause q.va (faultInfo acc er q)
      | _ => throw e
    placeElems t base offs acc act is (ps ++ [p])

/-- The nibble selection of the pieces of elements: whole bytes, or one nibble of a 4-bit element's byte. -/
def elemMask (t : BitVec 4) (base : Word) (offs : Nat) (is : List Nat) : List Bool :=
  if tyBits t = 4 then is.flatMap fun i => let hi := (elemAddr t base offs i).2; [!hi, hi] else []

/-- Operands of VGATH and VSCAT: base, offsets, the data `readData` reads, active elements. All operands are read before the
address is formed (R364, R392). A base that is not aligned is every element's fault; with no active element it is the word's. -/
def gatherOperands (f : VForm) (acc : Nat) (readData : M Nat) : M (Word × Nat × Nat × List Nat) := do
  let a ← readXa rdV f
  let b ← readB rdV f
  let d ← readData
  let pg ← readPg rdV f
  let t := f.ty
  let is := (List.range (lanesD f t)).filter (active pg t)
  if is.isEmpty && tyBits t ≥ 8 && a.toNat % (tyBits t / 8) != 0 then trap 0x12 a (BitVec.ofNat 64 acc)
  return (a, b, d, is)

def execVgath (f : VForm) (s : State) : Host.Outcome State Fault Refusal :=
  tWordClosing 4 (do
    let (a, b, _, is) ← gatherOperands f aLoad (pure 0)
    let t := f.ty
    let g := width f.dw
    let ps ← placeElems t a b aLoad .load is []
    let w := tyBits t
    let nibs := is.flatMap fun i =>
      if w = 4 then (if (elemAddr t a b i).2 then [nowhere, elemBit t i / 4] else [elemBit t i / 4, nowhere])
      else (List.range (w / 4)).map (· + elemBit t i / 4)
    let empty := mapLanes t (lanesD f t) is.contains fun _ => (0, 0)
    if is.isEmpty then putV rdV f {}
    else
      if f.d.toNat < 240 then rdV.vprep f.d.toNat g
      let _ ← rdV.vOld f.d.toNat g empty.keeps
      let d ← vDest f nibs
      let bs ← tAccess 4 { act := .load, pieces := ps, mask := elemMask t a b is } d
      let img := placeNibs (List.replicate (128 * g) 0) nibs (nibbles bs)
      putV rdV f { val := leNat (ofNibbles img), mask := empty.mask }) s

def execVscat (f : VForm) (s : State) : Host.Outcome State Fault Refusal :=
  tWordClosing 4 (do
    let (a, b, d, is) ← gatherOperands f aStore (readD rdV f)
    let t := f.ty
    let ps ← placeElems t a b aStore .store is []
    let w := tyBits t
    let data := is.flatMap fun i =>
      let e := elemOf t d i
      if w = 4 then [BitVec.ofNat 8 (e + 16 * e)] else leBytes (w / 8) e
    if is.isEmpty then pure ()
    else
      let _ ← tAccess 4 { act := .store, pieces := ps, data := data, mask := elemMask t a b is }
        (if f.d.toNat ≥ 240 then .again else .none)) s

end Sys2Proof.Machine
end

