-- ==== Sys2Proof/Machine/Sync.lean ====
section
/-! DEFINITION. Atomics, cell words, flags, barrier words, range units and stream binding (R404 to R425). All close an open
transient window (R244). -/

namespace Sys2Proof.Machine

/-! ## Atomics (R404 to R406) -/

/-- An atomic word of operation `op` of Table 17-6; `cas` reads xd as the compare value. -/
def atomicWord (f : VForm) (op : Nat) (uns cas : Bool) (s : State) : Host.Outcome State Fault Refusal :=
  tWordClosing 4 (do
    let a ← readXa rdV f
    let b ← readXb rdV f
    let cmp ← if cas then rdV.x f.d.toNat false else pure 0
    let t := f.ty
    let n := tyBits t / 8
    let p ← placeAligned a n n aAtomic
    rdV.xprep f.d.toNat
    let signed := t == 8
    let bs ← tAccess 4 { act := .amo op uns t, pieces := [p], data := leBytes n b.toNat, arg := cmp }
      (.x f.d.toNat n signed)
    let m := leNat bs
    rdV.xw f.d.toNat (if signed then BitVec.ofInt 64 (sext 32 m) else BitVec.ofNat 64 m)) s

def execAmoadd (f : VForm) (s : State) : Host.Outcome State Fault Refusal := atomicWord f 0 false false s
def execAmomin (f : VForm) (s : State) : Host.Outcome State Fault Refusal := atomicWord f 1 (f.fn8.getLsbD 0) false s
def execAmomax (f : VForm) (s : State) : Host.Outcome State Fault Refusal := atomicWord f 2 (f.fn8.getLsbD 0) false s
def execAmoand (f : VForm) (s : State) : Host.Outcome State Fault Refusal := atomicWord f 3 false false s
def execAmoor (f : VForm) (s : State) : Host.Outcome State Fault Refusal := atomicWord f 4 false false s
def execAmoxor (f : VForm) (s : State) : Host.Outcome State Fault Refusal := atomicWord f 5 false false s
def execAmoswp (f : VForm) (s : State) : Host.Outcome State Fault Refusal := atomicWord f 6 false false s
def execAmocas (f : VForm) (s : State) : Host.Outcome State Fault Refusal := atomicWord f 7 false true s
def execAmofadd (f : VForm) (s : State) : Host.Outcome State Fault Refusal := atomicWord f 8 false false s

/-- VAMOADD (R406): d, then xa, then pg in the order of R364. Where no element is active nothing is accessed, and only the address itself
is checked (R392 steps 3 and 4). -/
def execVamoadd (f : VForm) (s : State) : Host.Outcome State Fault Refusal :=
  tWordClosing 4 (do
    let a ← readXa rdV f
    let d ← rdV.v f.d.toNat (width f.dw) false
    let pg ← readPg rdV f
    let t := f.ty
    let g := width f.dw
    let is := (List.range (lanesD f t)).filter (active pg t)
    if is.isEmpty then groupAddr a aAtomic
    else
      let ps ← groupPieces a g aAtomic
      let m := (mapLanes t (lanesD f t) (active pg t) fun _ => (0, 0)).mask
      let mask := (List.range (128 * g)).map fun i => Nat.shiftRight m (4 * i) % 16 == 15
      let _ ← tAccess 4 { act := .vamo t, pieces := ps, data := d, mask := mask }
        (if f.d.toNat ≥ 240 then .again else .none)) s

/-! ## Cells (R407 to R411) -/

/-- The cell at an address: alignment, translation, then the DEFER page (R407). -/
def cellPlace (ea : Word) (acc : Nat) : M Piece := do
  let p ← placeAligned ea 128 128 acc
  if !p.defer then trap 0x11 ea (faultInfo acc fPerm p)
  pure p

def cellEa (f : VForm) : M Word := do
  let a ← readXa rdV f
  return a + BitVec.ofInt 64 (64 * simm11 f)

/-- The slot as which a core's own request stands at a home while it waits there. -/
def ownSlot (s : State) (pa : Nat) : Slot := heldSlot s s.turn pa 0x28

/-- TOUCH does not wait for the home (R408): a request that finds the evaluation table full stays there, and so does one that another
module has not answered. -/
def execTouch (f : VForm) (s : State) : Host.Outcome State Fault Refusal :=
  tWordClosing 4 (do
    let ea ← cellEa f
    let p ← cellPlace ea aLoad
    let a : Access := { act := .cell 0, pieces := [p] }
    let s ← get
    if p.isRemote then liftH (newRequest s.turn .t a .none 0 (some 0) [])
    else
      match ← liftH (perform (.core s.turn .t) a) with
      | .full on | .wait on =>
        modify fun s => { s with waiters := s.waiters ++ [⟨.slot (ownSlot s p.pa), a, .none, on, 0, true⟩] }
      | _ => pure ()) s

/-- CSTAT and WAITC (R409). -/
def cellRead (f : VForm) (op : Nat) (s : State) : Host.Outcome State Fault Refusal :=
  tWordClosing 4 (do
    let ea ← cellEa f
    let p ← cellPlace ea aLoad
    rdV.xprep f.d.toNat
    let bs ← tAccess 4 { act := .cell op, pieces := [p] } (.x f.d.toNat 8 false)
    rdV.xw f.d.toNat (BitVec.ofNat 64 (leNat bs))) s

def execCstat (f : VForm) (s : State) : Host.Outcome State Fault Refusal := cellRead f 1 s
def execWaitc (f : VForm) (s : State) : Host.Outcome State Fault Refusal := cellRead f 5 s

/-- DEFER and RESOLVE (R410). -/
def cellWrite (f : VForm) (op : Nat) (s : State) : Host.Outcome State Fault Refusal :=
  tWordClosing 4 (do
    let ea ← cellEa f
    let d ← rdV.v f.d.toNat 2 false
    let p ← cellPlace ea aStore
    let _ ← tAccess 4 { act := .cell op, pieces := [p], data := d } .none) s

def execDefer (f : VForm) (s : State) : Host.Outcome State Fault Refusal := cellWrite f 2 s
def execResolve (f : VForm) (s : State) : Host.Outcome State Fault Refusal := cellWrite f 3 s

def execPoison (f : VForm) (s : State) : Host.Outcome State Fault Refusal :=
  tWordClosing 4 (do
    let a ← readXa rdV f
    let b ← readXb rdV f
    if b.toNat < 0x100 || b.toNat > 0xFFFF then badValue 5
    let p ← cellPlace a aStore
    let _ ← tAccess 4 { act := .cell 4, pieces := [p], arg := b } .none) s

/-! ## Flags (R416, R417) -/

/-- A flag lies on a COH = 10 page without DEFER, or in a scratchpad window outside the stash (R416). -/
def flagPlace (a : Word) : M Piece := do
  let p ← placeAligned a 8 8 aAtomic
  let s ← get
  let ok := match spaceOf p.pa with
    | .pad c off => off < 0x6000 && !inStash s c off
    | _ => p.cls == 2 && !p.defer
  if !ok then trap 0x11 a (faultInfo aAtomic fPerm p)
  pure p

/-- FADD and FSET release at module scope first; FARM acquires when it completes. -/
def flagWord (f : VForm) (op : Nat) (s : State) : Host.Outcome State Fault Refusal :=
  tWordClosing 4 (do
    let a ← readXa rdV f
    let b ← readXb rdV f
    let p ← flagPlace a
    rdV.xprep f.d.toNat
    if op != 2 && releaseWaits (← get) 3 then stall
    if op != 2 then modify fun s => releaseScope s s.turn 3
    let bs ← tAccess 4 { act := .flag op, pieces := [p], arg := b } (.x f.d.toNat 8 false)
    if op == 2 then modify fun s => acquireModule s s.turn
    rdV.xw f.d.toNat (BitVec.ofNat 64 (leNat bs))) s

def execFadd (f : VForm) (s : State) : Host.Outcome State Fault Refusal := flagWord f 0 s
def execFset (f : VForm) (s : State) : Host.Outcome State Fault Refusal := flagWord f 1 s
def execFarm (f : VForm) (s : State) : Host.Outcome State Fault Refusal := flagWord f 2 s

/-! ## Barriers (R418 to R421) -/

/-- The object at an address: own scratchpad, below 0x6000, outside the stash, tagged BARRIER where the word needs it. -/
def barrierPlace (a : Word) (acc : Nat) (tagged : Bool) : M Piece := do
  let p ← placeAligned a 16 16 acc
  let s ← get
  match ownPad s.turn p with
  | none => trap 0x19 a (faultInfo acc errRange p)
  | some off =>
    if off ≥ 0x6000 || inStash s s.turn off then trap 0x19 a (faultInfo acc errRange p)
    if scoreHolds s (acc != aTagLoad) p then stall
    if tagged && !isBarrier s p.pa then trap 0x14 a (BitVec.ofNat 64 acc)
    pure p

def execBinit (f : VForm) (s : State) : Host.Outcome State Fault Refusal :=
  tWordClosing 4 (do
    let a ← readXa rdV f
    let b ← readXb rdV f
    let p ← barrierPlace a aTagStore false
    modify fun s => binit s p.pa (b.toNat % 2 ^ 32)) s

def execBexp (f : VForm) (s : State) : Host.Outcome State Fault Refusal :=
  tWordClosing 4 (do
    let a ← readXa rdV f
    let b ← readXb rdV f
    let p ← barrierPlace a aTagStore true
    modify fun s => bexp s p.pa (b.toNat % 2 ^ 32)) s

def execBinv (f : VForm) (s : State) : Host.Outcome State Fault Refusal :=
  tWordClosing 4 (do
    let a ← readXa rdV f
    let p ← barrierPlace a aTagStore true
    modify fun s => binv s p.pa) s

/-- A wait that finds its phase already left acquires what has arrived (R218, R420). -/
def acquireAt (s : State) (core b : Nat) : State := acquireBar s core b

def execBwait (f : VForm) (s : State) : Host.Outcome State Fault Refusal :=
  tWordClosing 4 (do
    let a ← readXa rdV f
    let p ← barrierPlace a aTagLoad true
    rdV.xprep f.d.toNat
    let bs ← tAccess 4 { act := .barWait (f.imm.getLsbD 0), pieces := [p] } (.x f.d.toNat 4 false)
    modify fun s => acquireAt s s.turn p.pa
    rdV.xw f.d.toNat (BitVec.ofNat 64 (leNat bs))) s

def execBtest (f : VForm) (s : State) : Host.Outcome State Fault Refusal :=
  tWordClosing 4 (do
    let a ← readXa rdV f
    let p ← barrierPlace a aTagLoad true
    let s ← get
    rdV.xw f.d.toNat (BitVec.ofNat 64 (leNat (readBytes s (p.pa + 8) 8)))) s

/-! ## Range units (R147, R422, R423) -/

/-- A take: start, length, and the unit after it. -/
def rangeTake (u : RangeUnit) : Nat × Nat × RangeUnit :=
  let want := max u.minc.toNat ((u.remain.toNat + u.pdiv.toNat - 1) / u.pdiv.toNat)
  let len := min want u.remain.toNat
  (u.next.toNat, len, { u with next := u.next + BitVec.ofNat 48 len, remain := u.remain - BitVec.ofNat 48 len,
                               takes := u.takes + 1 })

def execRginit (f : VForm) (s : State) : Host.Outcome State Fault Refusal :=
  tWordClosing 4 (do
    let a ← readXa rdV f
    let b ← readXb rdV f
    let d ← rdV.x f.d.toNat false
    if a.toNat ≥ 2 ^ 48 || b.toNat ≥ 2 ^ 48 || d.toNat ≥ 2 ^ 28 then badValue 5
    let one (v : Nat) : Nat := if v = 0 then 1 else v
    modify fun s => s.modDie (siteOf s.turn) fun k =>
      let u : RangeUnit := ⟨a.truncate 48, b.truncate 48, BitVec.ofNat 16 (one (bits d.toNat 15 0)),
        BitVec.ofNat 12 (one (bits d.toNat 27 16)), 0⟩
      { k with ranges := mapSet k.ranges f.fn8.toNat u }) s

def execRgtake (f : VForm) (s : State) : Host.Outcome State Fault Refusal :=
  tWordClosing 4 (do
    let d := f.d.toNat
    rdV.xprep d
    rdV.xprep (d + 1)
    let s ← get
    let k := s.die (siteOf s.turn)
    let (start, len, u) := rangeTake (mapGet {} k.ranges f.fn8.toNat)
    set (s.setDie (siteOf s.turn) { k with ranges := mapSet k.ranges f.fn8.toNat u })
    rdV.xw d (BitVec.ofNat 64 start)
    rdV.xw (d + 1) (BitVec.ofNat 64 len)) s

/-! ## Stream binding (R424, R425) -/

/-- A 48-byte stream descriptor; none where it is malformed. -/
def streamOf (bs : List Byte) : Option Stream :=
  let base := field bs 0 8
  let es := field bs 8 1
  let dir := field bs 9 1
  let c0 := field bs 16 4
  let c1 := field bs 20 4
  let c2 := field bs 24 4
  let st (o : Nat) : Int := sext 32 (field bs o 4)
  if !(es == 1 || es == 2 || es == 4 || es == 8) || dir > 1 || c0 == 0 || c1 == 0 || c2 == 0 || base % es != 0 ||
      st 32 % es != 0 || st 36 % es != 0 || st 40 % es != 0 || field bs 10 6 != 0 || field bs 28 4 != 0 || field bs 44 4 != 0
  then none
  else some { base := BitVec.ofNat 64 base, es := es, write := dir == 1, c0 := c0, c1 := c1, c2 := c2,
              s0 := BitVec.ofInt 64 (st 32), s1 := BitVec.ofInt 64 (st 36), s2 := BitVec.ofInt 64 (st 40), pos := 0 }

/-- 16-byte parts of a descriptor, which may cross lines and pages. -/
def descPieces (va : Word) : Nat → M (List Piece)
  | 0 => pure []
  | n + 1 => do
    let p ← placeOf va 16 aLoad 0
    return p :: (← descPieces (va + 16) n)

def execSbind (f : VForm) (s : State) : Host.Outcome State Fault Refusal :=
  tWordClosing 4 (do
    let a ← readXa rdV f
    if a.toNat ≥ 2 ^ 56 then trap 0x10 a 128
    if a.toNat % 16 != 0 then trap 0x12 a 0
    let ps ← descPieces a 3
    let bs ← tAccess 4 { act := .load, pieces := ps } .again
    match streamOf bs with
    | none => badValue 5
    | some q => modCtx fun c => { c with streams := mapSet c.streams f.fn8.toNat q }) s

def execSunbind (f : VForm) (s : State) : Host.Outcome State Fault Refusal :=
  tWordClosing 4 (modCtx fun c => { c with streams := mapDel c.streams f.fn8.toNat }) s

/-- Table 17-9. -/
def streamState (q : Option Stream) : Nat :=
  match q with
  | none => 0
  | some q => 1 + 2 * b2n q.write + 4 * b2n (q.pos == q.total) + 256 * min q.pos (2 ^ 56 - 1)

def execSstat (f : VForm) (s : State) : Host.Outcome State Fault Refusal :=
  tWordClosing 4 (do
    let c ← curCtx
    rdV.xw f.d.toNat (BitVec.ofNat 64 (streamState (mapFind c.streams f.fn8.toNat)))) s

end Sys2Proof.Machine
end

