-- ==== Sys2Proof/Machine/Engine.lean ====
section
/-! DEFINITION. Words of the M and C engines that launch nothing: parameter stacks (R426), handshakes (R236), literals (R308),
skips (R427), barrier registers and waits (R429, R430), breakpoints (R267), epilogue slots (R439). -/

namespace Sys2Proof.Machine

/-! ## Parameter stacks -/

def stackOf (e : Eng) : M (List Word) := do return ((← curCtx).eng e).params
def modEng (e : Eng) (f : EngCtx → EngCtx) : M Unit := modCtx fun c => c.setEng e (f (c.eng e))
def setStack (e : Eng) (st : List Word) : M Unit := modEng e fun g => { g with params := st }

/-- A word other than a literal: it ends a literal run (R308). -/
def engWord (e : Eng) (body : M Unit) (s : State) : Host.Outcome State Fault Refusal :=
  mcWord e (do modEng e (fun g => { g with litRun := 0 }); body) s

/-- The top `n` entries, top first, without removing them: 0x05 where the stack holds fewer (R426). -/
def topN (e : Eng) (n : Nat) : M (List Word) := do
  let st ← stackOf e
  if st.length < n then trap 0x05 0 0
  pure (st.take n)

def drop (e : Eng) (n : Nat) : M Unit := do setStack e ((← stackOf e).drop n)

/-- Pushes an entry: 0x04 where the stack is full (R426). -/
def push (e : Eng) (v : Word) : M Unit := do
  let st ← stackOf e
  if st.length ≥ 8 then trap 0x04 0 0
  setStack e (v :: st)

/-- A word of Table 18-1 that turns its top `n` entries into others. -/
def stackWord (e : Eng) (n : Nat) (f : List Word → List Word) (s : State) : Host.Outcome State Fault Refusal :=
  engWord e (do
    let top ← topN e n
    let st := f top ++ (← stackOf e).drop n
    if st.length > 8 then trap 0x04 0 0
    setStack e st) s

def dupTop : List Word → List Word
  | t :: r => t :: t :: r
  | [] => []

def swapTop : List Word → List Word
  | t :: u :: r => u :: t :: r
  | l => l

def overTop : List Word → List Word
  | t :: u :: r => u :: t :: u :: r
  | l => l

def addTop : List Word → List Word
  | t :: u :: r => (u + t) :: r
  | l => l

def orTop : List Word → List Word
  | t :: u :: r => (u ||| t) :: r
  | l => l

def execMnop (s : State) : Host.Outcome State Fault Refusal := engWord .m (pure ()) s
def execCnop (s : State) : Host.Outcome State Fault Refusal := engWord .c (pure ()) s
def execMdup (s : State) : Host.Outcome State Fault Refusal := stackWord .m 1 dupTop s
def execCdup (s : State) : Host.Outcome State Fault Refusal := stackWord .c 1 dupTop s
def execMdrop (s : State) : Host.Outcome State Fault Refusal := stackWord .m 1 List.tail s
def execCdrop (s : State) : Host.Outcome State Fault Refusal := stackWord .c 1 List.tail s
def execMswap (s : State) : Host.Outcome State Fault Refusal := stackWord .m 2 swapTop s
def execCswap (s : State) : Host.Outcome State Fault Refusal := stackWord .c 2 swapTop s
def execMover (s : State) : Host.Outcome State Fault Refusal := stackWord .m 2 overTop s
def execCover (s : State) : Host.Outcome State Fault Refusal := stackWord .c 2 overTop s
def execMadd (s : State) : Host.Outcome State Fault Refusal := stackWord .m 2 addTop s
def execCadd (s : State) : Host.Outcome State Fault Refusal := stackWord .c 2 addTop s
def execMor (s : State) : Host.Outcome State Fault Refusal := stackWord .m 2 orTop s
def execCor (s : State) : Host.Outcome State Fault Refusal := stackWord .c 2 orTop s

def execMshl (n : BitVec 6) (s : State) : Host.Outcome State Fault Refusal := stackWord .m 1 (List.map (· <<< n.toNat)) s
def execCshl (n : BitVec 6) (s : State) : Host.Outcome State Fault Refusal := stackWord .c 1 (List.map (· <<< n.toNat)) s

/-! ## Handshakes (Table 11-7) -/

/-- MPUSHX and CPUSHX. What T has executed behind an unanswered access has not committed, so no other engine meets it (R254). -/
def pushX (e : Eng) (take trapBit : BitVec 1) (x : BitVec 6) (s : State) : Host.Outcome State Fault Refusal :=
  engWord e (do
    modCur Core.unwind
    let c ← curCtx
    if c.fill .x x.toNat == .empty && trapBit == 1 then trap 0x07 ((c.eng e).pc.zeroExtend 64) (emptyInfo x.toNat .x)
    let v ← readX replay x.toNat false
    push e v
    if take == 1 && x != 0 then emptyReg .x x.toNat) s

/-- MPOPX and CPOPX: x0 does not wait and discards the top. -/
def popX (e : Eng) (x : BitVec 6) (s : State) : Host.Outcome State Fault Refusal :=
  engWord e (do
    modCur Core.unwind
    let top ← topN e 1
    let c ← curCtx
    let r := c.regX x.toNat
    if x != 0 && (r.fill != .empty || r.pend.isSome) then stall
    rdS.xw x.toNat (top.headD 0)
    drop e 1) s

def execMpushx (take trapBit : BitVec 1) (x : BitVec 6) (s : State) : Host.Outcome State Fault Refusal :=
  pushX .m take trapBit x s
def execCpushx (take trapBit : BitVec 1) (x : BitVec 6) (s : State) : Host.Outcome State Fault Refusal :=
  pushX .c take trapBit x s
def execMpopx (x : BitVec 6) (s : State) : Host.Outcome State Fault Refusal := popX .m x s
def execCpopx (x : BitVec 6) (s : State) : Host.Outcome State Fault Refusal := popX .c x s

/-! ## Literals (R308) -/

def literal (e : Eng) (p : BitVec 13) (s : State) : Host.Outcome State Fault Refusal :=
  mcWord e (do
    let g := (← curCtx).eng e
    if g.litRun ≥ 5 then illegal
    if g.litRun = 0 then push e (p.signExtend 64)
    else
      let top ← topN e 1
      setStack e (((top.headD 0 <<< 13) ||| p.zeroExtend 64) :: (← stackOf e).drop 1)
    modEng e fun g => { g with litRun := g.litRun + 1 }) s

def execMlit (p : BitVec 13) (s : State) : Host.Outcome State Fault Refusal := literal .m p s
def execClit (p : BitVec 13) (s : State) : Host.Outcome State Fault Refusal := literal .c p s

/-! ## Skips (R427): the step passes over the words. -/

def skipz (e : Eng) (n : BitVec 8) (s : State) : Host.Outcome State Fault Refusal :=
  engWord e (do
    let top ← topN e 1
    drop e 1
    if top.headD 0 == 0 then modEng e fun g => { g with skip := n.toNat }) s

def execMskipz (n : BitVec 8) (s : State) : Host.Outcome State Fault Refusal := skipz .m n s
def execCskipz (n : BitVec 8) (s : State) : Host.Outcome State Fault Refusal := skipz .c n s

/-! ## Barrier registers (R429, R430) -/

/-- The physical address of a barrier object anywhere in the module: 16-byte aligned, in a scratchpad window, below 0x6000,
outside the stash of its core. -/
def barrierAddr (va : Word) : M Nat := do
  let p ← placeAligned va 16 16 aTagStore
  let s ← get
  match spaceOf p.pa with
  | .pad c off =>
    if coreOk c && off < 0x6000 && !inStash s c off then pure p.pa else trap 0x19 va (faultInfo aTagStore errRange p)
  | _ => trap 0x19 va (faultInfo aTagStore errRange p)

/-- MBAR and CBAR. -/
def setBreg (e : Eng) (s : State) : Host.Outcome State Fault Refusal :=
  engWord e (do
    let va := (← topN e 1).headD 0
    let b ← if va == 0 then pure none else some <$> barrierAddr va
    drop e 1
    modEng e fun g => { g with breg := b }) s

def execMbar (s : State) : Host.Outcome State Fault Refusal := setBreg .m s
def execCbar (s : State) : Host.Outcome State Fault Refusal := setBreg .c s

/-- MWAIT and CWAIT. -/
def waitWord (e : Eng) (ph : BitVec 1) (s : State) : Host.Outcome State Fault Refusal :=
  engWord e (do
    let s ← get
    match (s.ctx.eng e).breg with
    | none => if (launchedHere s).any (fun o => o.eng == e) then stall
    | some b =>
      let p : Piece := { pa := b, len := 4, cls := 0, defer := false, va := BitVec.ofNat 64 b, elem := 0, stash := false }
      if (ownPad s.turn p).isNone then trap 0x19 p.va (faultInfo aTagLoad errRange p)
      if !isBarrier s b then trap 0x14 p.va (BitVec.ofNat 64 aTagLoad)
      let _ ← access e 1 { act := .barWait (ph == 1), pieces := [p] } .none
      modify fun s => acquireAt s s.turn b) s

def execMwait (ph : BitVec 1) (s : State) : Host.Outcome State Fault Refusal := waitWord .m ph s
def execCwait (ph : BitVec 1) (s : State) : Host.Outcome State Fault Refusal := waitWord .c ph s

/-! ## Breakpoints (R267) -/

def breakWord (e : Eng) (s : State) : Host.Outcome State Fault Refusal :=
  mcWord e (do
    let c ← curCtx
    trap 0x30 ((c.eng e).pc.zeroExtend 64) 0) s

def execMbrk (s : State) : Host.Outcome State Fault Refusal := breakWord .m s
def execCbrk (s : State) : Host.Outcome State Fault Refusal := breakWord .c s

/-! ## Epilogue slots (R439) -/

/-- The bytes of a range as an M or C engine reads them: the parts of its lines, all at once. -/
def rangePieces (va : Word) (acc : Nat) : Nat → Nat → M (List Piece)
  | 0, _ => pure []
  | n + 1, len =>
    if len = 0 then pure []
    else do
      let k := min len (128 - va.toNat % 128)
      let p ← placeOf va k acc 0
      return p :: (← rangePieces (va + BitVec.ofNat 64 k) acc n (len - k))

def execMepi (slot : BitVec 4) (s : State) : Host.Outcome State Fault Refusal :=
  engWord .m (do
    let va := (← topN .m 1).headD 0
    if va.toNat ≥ 2 ^ 56 then trap 0x10 va 128
    if va.getLsbD 0 then trap 0x12 va 0
    let ps ← rangePieces va aLoad 3 66
    match ps.find? (fun p => isControl p.pa) with
    | some p => trap 0x11 p.va (faultInfo aLoad fPerm p)
    | none => pure ()
    let bs ← access .m 1 { act := .load, pieces := ps } .again
    drop .m 1
    modCur fun c => { c with epis := mapSet c.epis slot.toNat { mapGet {} c.epis slot.toNat with image := bs, filled := true } }) s

def execMconst (c slot : BitVec 4) (s : State) : Host.Outcome State Fault Refusal :=
  engWord .m (do
    let v := (← topN .m 1).headD 0
    drop .m 1
    modCur fun k =>
      let p := mapGet {} k.epis slot.toNat
      { k with epis := mapSet k.epis slot.toNat { p with consts := p.consts.set c.toNat (v.truncate 32) } }) s

end Sys2Proof.Machine
end

