-- ==== Sys2Proof/Machine/Streams.lean ====
section
/-! DEFINITION. Slots, the event ring and the ends of streams at the sequencer (R70 to R76, R94, R104 to R107, R129). -/

namespace Sys2Proof.Machine

/-! ## Slots and the event ring -/

def slotImage (s : State) (n : Nat) : List Byte := mapGet (List.replicate 256 0) s.fw.slots n
def slotState (s : State) (n : Nat) : Nat := field (slotImage s n) 0 4 % 16

/-- Writes bytes of a slot. -/
def slotWrite (s : State) (n o : Nat) (bs : List Byte) : State :=
  s.modFw fun f => { f with slots := mapSet f.slots n (patch (mapGet (List.replicate 256 0) f.slots n) o bs) }

def terminalSlot (st : Nat) : Bool := 4 ≤ st && st ≤ 7

/-- Writes one entry of the event ring and raises vector 1 (R75). -/
def ringWrite (s : State) (e : List Byte) : State :=
  let f := s.fw
  let e := patch e 3 [BitVec.ofNat 8 (b2n f.evPhase)]
  let next := (f.evIndex + 1) % 4096
  let s := { s with fw := { f with
    ring := mapSet f.ring f.evIndex e, evIndex := next, evPhase := if next = 0 then !f.evPhase else f.evPhase } }
  raiseMsix s 1

/-- The ring cannot take another entry without its index reaching EVHEAD (R75). -/
def ringFull (s : State) : Bool := (s.fw.evIndex + 1) % 4096 == s.fw.evhead.toNat

/-- Appends an entry, or holds it behind those held (R75). -/
def ringAppend (s : State) (e : List Byte) : State :=
  if ringFull s || !s.fw.evHeld.isEmpty then s.modFw fun f => { f with evHeld := f.evHeld ++ [e] } else ringWrite s e

/-- Writes held entries while the ring has room. -/
def ringFlush : Nat → State → State
  | 0, s => s
  | n + 1, s =>
    match s.fw.evHeld with
    | e :: es => if ringFull s then s else ringFlush n (ringWrite (s.modFw fun f => { f with evHeld := es }) e)
    | [] => s

/-- The terminal sequence of a slot: NTOK, CAUSE, STATE, ring entry, MSI-X (R73). -/
def terminal (s : State) (slot st cause ntok : Nat) (id : BitVec 20) : State :=
  let s := slotWrite s slot 132 (leBytes 4 ntok)
  let s := slotWrite s slot 136 (leBytes 2 cause)
  let s := slotWrite s slot 0 (leBytes 4 st)
  ringAppend s (leBytes 2 slot ++ [BitVec.ofNat 8 st, 0] ++ leBytes 4 id.toNat ++ leBytes 4 ntok ++ leBytes 2 cause ++ [0, 0])

/-! ## Streams -/

/-- Model instance of a plan. -/
def planInst (s : State) (i : Nat) : Option Inst :=
  match s.fw.plan with
  | some p => mapFind p.insts i
  | none => none

/-- P-dies of an instance's prefill placements. -/
def placementOf (s : State) (i : Nat) : List Nat :=
  match s.fw.plan with
  | some p => ((p.placement.filter fun e => e.inst == i).flatMap (·.dies)).eraseDups
  | none => []

/-- Destinations of a stream, each once. -/
def destsOf (e : StreamEnt) : List Nat := (e.dset.map (·.1)).eraseDups

/-- There is no path from a site to another: a link of the route is DOWN, and of the plan's alternate if there is one (R107). -/
def cut (s : State) (a b : Nat) : Bool :=
  let (r, alt) := routesOf s a b
  (r :: alt.toList).all fun x => (pathOf 20 a b x).any (linkDown s)

/-- The sequencer cannot reach a die, or is not reached by it (R107). -/
def unreachable (s : State) (site : Nat) : Bool := cut s 64 site || cut s site 64

def lostSite (s : State) (site : Nat) : Bool := tripped s site || unreachable s site

/-- Returns frames to a stack's free list in order (R129). -/
def returnFrames (s : State) (site : Nat) (fs : List Nat) : State :=
  s.modDie site fun d => fs.foldl (fun (d : Die) f =>
    let n := mapGet 0 d.frameRefs f
    if n ≤ 1 then { d with frameRefs := mapDel d.frameRefs f, freeFrames := if n = 1 then d.freeFrames ++ [f] else d.freeFrames }
    else { d with frameRefs := mapSet d.frameRefs f (n - 1) }) d

/-- Stops the cores that run a record's task and drops its shadow contexts. -/
def stopTask (s : State) (site i : Nat) : State :=
  let id := BitVec.ofNat 19 (site * 4096 + i)
  (List.range (coresOf site)).foldl (fun (s : State) c =>
    let n := site * 1024 + c
    let k := s.core n
    let s := if k.running && k.ctx.taskid == id then (withdraw s n).modCore n fun k => { k with running := false, intrap := false }
      else s
    match k.shadow with
    | some x => if x.taskid == id then s.modCore n fun k => { k with shadow := none } else s
    | none => s) s

/-- Removes every record of a stream from the dispatchers, the parked ones with KILL (R105, R107). A borrower's are not the stream's. -/
def removeTasks (s : State) (id : BitVec 20) : State :=
  (List.range 64).foldl (fun (s : State) site =>
    (s.die site).records.foldl (fun (s : State) r =>
      if r.2.st != .free && !r.2.foreign && recStream r.2.bytes == id.toNat then
        let s := if r.2.st == .faulted then s else stopTask s site r.1
        endRec s site r.1 false
      else s) s) s

/-- Returns a stream's frames in the order they were popped, then its attached frames; a lost die's share stays away until the
next start or plan, and nobody holds it any more (R104, R107, R129, R130). -/
def freeFramesOf (s : State) (e : StreamEnt) : State :=
  let s := e.frames.foldl (fun (s : State) f => if lostSite s f.1 then s else returnFrames s f.1 f.2) s
  (destsOf e).foldl (fun (s : State) site =>
    let k := e.id.toNat % 65536
    let s := if lostSite s site then s else returnFrames s site (mapGet [] (s.die site).attached k)
    s.modDie site fun d => { d with attached := mapDel d.attached k }) s

/-- Takes a stream's hand-off entry out of a die. -/
def dropEntry (s : State) (site : Nat) (id : BitVec 20) : State :=
  match mapFind (s.die site).entries (id.toNat % 65536) with
  | some h =>
    if h.stream == id then
      s.modDie site fun d => { d with
        entries := mapDel d.entries (id.toNat % 65536), dsts := d.dsts.filter (fun b => b.stream != id) }
    else s
  | none => s

/-- Releases a stream's hand-off entries (R110). Blocks that no answer can come for any more are released by their engine's next step. -/
def freeEntriesOf (s : State) (id : BitVec 20) : State :=
  (List.range 64).foldl (fun (s : State) site =>
    if (s.die site).pool == 0 then dropEntry s site id else s) s

/-- Every logical time and every line time goes back to 0 (R208); the copies of hardware-coherent lines, whose leases those times have
bounded, leave their caches. -/
def resetTimes (s : State) : State :=
  let keep (l : Line) : Option Line := if l.cls == 2 then none else some l
  { s with cores := s.cores.map (fun e => (e.1, { keepLines e.2 keep with tick := 0 })),
           dies := s.dies.map (fun d => (d.1, { d.2 with near := d.2.near.filterMap keep })),
           times := [], barTimes := [], farTime := 0, idleTick := 0,
           fw := { s.fw with ltwarn := false } }

/-- A module that drains itself because of its logical times serves again once no stream is left (R208). -/
def settleDrain (s : State) : State :=
  if s.fw.selfDrain && s.fw.streams.isEmpty then
    let s := resetTimes s
    { s with fw := { s.fw with selfDrain := false, st := if s.fw.st == .draining then .serving else s.fw.st } }
  else s

/-- A message to the module that has lent a die (R65). -/
def tellLender (s : State) (peer : BitVec 12) (ask : PeerReq) (site i : Nat) (data : List Byte) : State :=
  s.modFw fun f => { f with peerOut := f.peerOut ++ [{ peer := peer, ask := ask, site := site, index := i, data := data }] }

/-- What a stream has on borrowed dies goes: its records, then its entries. -/
def dropFar (s : State) (e : StreamEnt) : State :=
  let s := e.far.foldl (fun (s : State) t => tellLender s t.1 .kill t.2.1 t.2.2.1 []) s
  e.farSites.foldl (fun (s : State) t => tellLender s t.1 .release t.2 0 (leBytes 4 e.id.toNat)) s

/-- Ends a stream: its resources are released, then its slot takes the terminal state (R94, R104, R105, R107). -/
def finishStream (s : State) (e : StreamEnt) (st cause : Nat) : State :=
  let s := removeTasks (dropFar s e) e.id
  let s := freeFramesOf s e
  let s := freeEntriesOf s e.id
  let s := s.modFw fun f => { f with streams := mapDel f.streams e.slot, queue := f.queue.filter (fun q => q != e.slot) }
  settleDrain (terminal s e.slot st cause e.ntok e.id)

/-- Destinations of a stream's blocks at a source: the stacks of its entry, and the windows of its unreleased blocks. -/
def blockDests (s : State) (n : Nat) (h : HoEntry) : List Nat :=
  (h.dests.map (·.1) ++ (((s.die n).srcs.filter fun b => b.stream == h.stream && b.dst ≥ 128).map (·.dst))).eraseDups

/-- A destination that can answer a source no more: its die is lost, or there is no path between them; the window's ports are lost, or the
window is gone (R66, R107). -/
def lostDst (s : State) (n d : Nat) : Bool :=
  if d < 128 then lostSite s d || cut s n d || cut s d n
  else let w := mapGet {} s.fw.fwin (d - 128); !w.valid || windowLost s w

/-- A source that sends no SRCDONE because a destination has been lost since it was cancelled: every other has answered (R106, R107). -/
def sourceSettled (s : State) (id : BitVec 20) (n : Nat) : Bool :=
  match mapFind (s.die n).entries (id.toNat % 65536) with
  | some h =>
    let open' := (blockDests s n h).filter fun d => !h.acked.contains d
    h.stream == id && h.cancelled && !open'.isEmpty && open'.all (lostDst s n)
  | none => false

/-- A borrowed die as the source of an answer. -/
def farSite (peer : BitVec 12) (site : Nat) : Nat := 64 * (peer.toNat + 2) + site

/-- A borrowed die answers no more: no window to its module has a port that works, or the grace time of its reclaim has ended. -/
def farLost (s : State) (peer : BitVec 12) (site : Nat) : Bool :=
  !s.fw.fwin.any (fun w => w.2.valid && w.2.rmod == peer && !windowLost s w.2) ||
    s.fw.reclaims.any fun r => r.peer == peer && r.expired && r.sites.getLsbD site

/-- Every source and destination has answered, or cannot be reached (R127 step 7). A destination that no source reaches gets no marker. -/
def endAnswered (s : State) (e : StreamEnt) : Bool :=
  let ps := placementOf s e.inst
  ps.all (fun n => e.srcdone.contains n || lostSite s n || sourceSettled s e.id n) &&
    (e.farSites.filter fun t => isP t.2).all (fun t => e.srcdone.contains (farSite t.1 t.2) || farLost s t.1 t.2) &&
    (destsOf e).all (fun d => e.cxacked.contains d || ps.all (fun n => lostDst s n d))

/-- Completes a cancellation or failure that has all its answers. -/
def checkEnd (s : State) (id : Nat) : State :=
  match findStream s id with
  | none => s
  | some e =>
    match e.st with
    | .cancelling => if endAnswered s e then finishStream s e 5 0x0010 else s
    | .failed => if endAnswered s e then finishStream s e 6 e.cause else s
    | _ => s

/-- Sends HCANCEL to the hand-off engine of every P-die of the placement that can be reached (R127 step 1). -/
def sendCancels (s : State) (e : StreamEnt) : State :=
  let s := (e.farSites.filter fun t => isP t.2).foldl (fun (s : State) t =>
    tellLender s t.1 .cancel t.2 0 (leBytes 4 e.id.toNat)) s
  (placementOf s e.inst).foldl (fun (s : State) n =>
    if lostSite s n then s
    else postSlot s { noSlot with src := 64, dst := n, op := 0x62, arg := e.id.zeroExtend 64 }) s

/-- Cancels a stream where its state allows it (R105, R106). -/
def cancelStream (s : State) (id : Nat) : State :=
  match findStream s id with
  | none => s
  | some e =>
    match e.st with
    | .queued => finishStream s e 5 0x0010
    | .prefill | .handoff | .decode =>
      let e := { e with st := .cancelling }
      checkEnd (sendCancels (setStream s e) e) id
    | _ => s

/-- Moves a stream to FAILED with a cause (R107); one that is CANCELLING stays so. -/
def failStream (s : State) (id cause : Nat) : State :=
  match findStream s id with
  | none => s
  | some e =>
    match e.st with
    | .queued => finishStream s e 6 cause
    | .prefill | .handoff | .decode | .retiring =>
      let e := { e with st := .failed, cause := cause }
      checkEnd (sendCancels (setStream s e) e) id
    | _ => checkEnd s id

/-- A fault of a task fails its stream, unless that has not been admitted (R107). -/
def failTask (s : State) (id cause : Nat) : State :=
  match findStream s id with
  | none => s
  | some e => if e.st == .queued then s else failStream s id cause

/-- A stream that is not terminal when a logical time reaches its limit (R208): FAILED, also one that is CANCELLING. -/
def failAtLimit (s : State) (id cause : Nat) : State :=
  match findStream s id with
  | none => s
  | some e =>
    if e.st == .cancelling then checkEnd (setStream s { e with st := .failed, cause := cause }) id else failStream s id cause

/-- Fails every stream that `sel` picks. -/
def failStreams (s : State) (sel : StreamEnt → Bool) (cause : Nat) : State :=
  (s.fw.streams.filter (fun e => sel e.2)).foldl (fun (s : State) e => failStream s e.2.id.toNat cause) s

/-- Whether a stream has work on a die: tasks, frames or blocks (R107). -/
def hasWorkOn (s : State) (e : StreamEnt) (site : Nat) : Bool :=
  e.frames.any (fun f => f.1 == site) || ((s.die site).pool == 0 &&
    ((s.die site).records.any (fun r => r.2.st != .free && recStream r.2.bytes == e.id.toNat) ||
      (s.die site).srcs.any (fun b => b.stream == e.id)))

/-- A stream whose blocks are still to cross has a source and a destination with no path between them (R107). -/
def splitWork (s : State) (e : StreamEnt) : Bool :=
  (e.st == .prefill || e.st == .handoff || e.st == .cancelling || e.st == .failed) &&
    (placementOf s e.inst).any fun n => (destsOf e).any fun d => cut s n d || cut s d n

/-- Fails the streams with work on dies, or with blocks for dies or windows, that cannot be reached any more (R49, R66, R107). -/
def failUnreachable (s : State) : State :=
  let lost := (List.range 64).filter (unreachable s)
  let gone (e : StreamEnt) (d : Nat × Die) : Bool := d.2.pool == 0 && d.2.srcs.any fun b => b.stream == e.id && lostDst s d.1 b.dst
  failStreams s (fun e => lost.any (hasWorkOn s e) || s.dies.any (gone e) || splitWork s e) 0x0022

end Sys2Proof.Machine
end

