-- ==== Sys2Proof/Machine/Tasks.lean ====
section
/-! DEFINITION. How launched operations end: the arrival at the barrier (R217), the fault queue (R144, R146), the task's
asynchronous count (R143), refused launches (R428); and a core that leaves its task (R136, R143). -/

namespace Sys2Proof.Machine

/-- Site and index of the record that a TASKID names (R136). -/
def taskSite (id : BitVec 19) : Nat := id.toNat / 4096
def taskIndex (id : BitVec 19) : Nat := id.toNat % 4096

/-! ## The fault queue -/

/-- The queue can take no entry: it is full, or entries already wait. -/
def fqBlocked (d : Die) : Bool := !d.heldFaults.isEmpty || (freeFq d).isNone

/-- Appends an entry, or holds it while the queue is full (R144). Every entry of a task of a stream is reported to the
sequencer, which fails the stream where it has been admitted (R107); that of a lent die's task is the borrower's (R65). -/
def appendFault (s : State) (site : Nat) (f : FqEntry) : State :=
  let d := s.die site
  let s := match (if d.heldFaults.isEmpty then freeFq d else none) with
    | some i => putFault s site i f
    | none => s.setDie site { d with fqfull := true, heldFaults := d.heldFaults ++ [f] }
  if d.pool == 0 then failTask s f.stream.toNat 0x0024 else tellPeer s site .fault f.task.toNat (leBytes 4 f.stream.toNat)

/-- The entry of a task's fault (Table 7-6). -/
def taskFault (s : State) (task : BitVec 19) (core kind cause : Nat) (addr info : Word) (image : Nat) (stream : BitVec 20)
    (evalid : BitVec 16) : FqEntry :=
  { task := BitVec.ofNat 12 (taskIndex task), core := BitVec.ofNat 10 (numOf core), kind := BitVec.ofNat 8 kind,
    cause := BitVec.ofNat 8 cause, addr := addr, info := info, image := BitVec.ofNat 64 image, stream := stream,
    evalid := evalid, time := s.cycle }

/-- An error that a record's task has met: the entry, and ERRMARK (R146). A record that is gone, or serves another task now,
keeps no mark. -/
def taskError (s : State) (task : BitVec 19) (live : Bool) (f : FqEntry) : State :=
  let s := if live then s.modRec (taskSite task) (taskIndex task) fun r => { r with errmark := r.errmark || r.st != .free } else s
  if live then appendFault s (taskSite task) f else s

/-! ## Arrivals -/

/-- An arrival of `n` bytes that carries a logical time (R217), and the sites whose homes the operation has written (R218). False where
no barrier stands. -/
def arriveAt (s : State) (bar : Option Nat) (n : Nat) (launch : Bool) (code : Nat) (time : BitVec 48) (wrote : List Nat) :
    State × Bool :=
  match bar with
  | none => (s, true)
  | some b =>
    let s := if isBarrier s b && (mapGet 0 s.barTimes b).toNat < time.toNat then
        { s with barTimes := cellSet 0 s.barTimes b time } else s
    let s := if isBarrier s b && !wrote.isEmpty then
        { s with barSites := mapSet s.barSites b (mapGet [] s.barSites b ++ wrote).eraseDups } else s
    arrive s b n launch code

/-- The accesses that an operation or evaluation has waiting leave their queues. -/
def dropWaits (s : State) (who : Who) : State :=
  let mine := s.waiters.filter (·.who == who)
  if mine.isEmpty then s
  else
    let s := mine.foldl (fun (s : State) w => match w.on with
      | .cell l => endWait s (loaderOf s who).evalid l
      | _ => s) s
    { s with waiters := s.waiters.filter (·.who != who) }

/-! ## Retiring an operation (R143, R217) -/

/-- The task's count goes down; a record that drains may complete. -/
def countDown (s : State) (task : BitVec 19) (live : Bool) : State :=
  if !live then s
  else
    let s := s.modRec (taskSite task) (taskIndex task) fun r => { r with async := r.async - 1 }
    runHeld (settleRec s (taskSite task) (taskIndex task)) (taskSite task) (taskIndex task)

/-- Retires an operation with a code, 0 for success, and its failing address. An arrival at no barrier makes it an error of code
0x01. While the fault queue cannot take its entry it is held pending (R144): the operation stays, without its scoreboard entries, whose
bytes it has read and written (R168). -/
def retireOp (s : State) (o : Op) (code addr : Nat) : State :=
  let lost : Bool := match o.bar with
    | some b => !isBarrier s b
    | none => false
  let code' := if code = 0 && lost then 1 else code
  let site := taskSite o.task
  let s := s.modCore o.core fun c => { c with scores := c.scores.filter (fun e => e.op != o.id) }
  if code' ≠ 0 && o.live && fqBlocked (s.die site) then s.modDie site fun d => { d with fqfull := true }
  else
    let s := dropWaits s (.op o.id)
    let now := ((s.ops.find? fun (x : Op) => x.id == o.id)).getD o
    let s := { s with ops := s.ops.filter (fun x => x.id != o.id),
                      arrived := s.arrived.filter (fun r => r.1 != 2 ^ 20 + o.id),
                      requests := s.requests.filter (fun r => r.op != some o.id) }
    let s := (arriveAt s o.bar o.count false code now.wtime now.wrote).1
    let s := if code' = 0 then s
      else taskError s o.task o.live
        (taskFault s o.task o.core 1 code' (BitVec.ofNat 64 addr) (o.word.zeroExtend 64) 0 o.stream o.evalid)
    countDown s o.task o.live

/-! ## Launching and refusing (R428) -/

/-- The operation that a launch word of the turn forms, with no ranges yet. -/
def newOp (s : State) (kind : OpKind) (e : Eng) (count : Nat) : Op :=
  let c := s.ctx
  { id := s.nextOp, kind := kind, core := s.turn, eng := e, serial := c.serial, task := c.taskid, stream := c.streamid,
    evalid := c.evalid, asid := c.asid, bar := (c.eng e).breg, count := count, word := (c.eng e).pc, src := [], dst := [], resolve := false,
    snap := none, nums := [], live := (s.core s.turn).running }

/-- Step 6 of R428: the operation starts and counts for its task; what it will read and write leaves the caches of its core (R204). -/
def launchOp (s : State) (o : Op) : State :=
  let s := dropRanges s o.core (o.src ++ o.dst)
  let s := { s with nextOp := s.nextOp + 1, ops := s.ops ++ [o] }
  if o.live then s.modRec (taskSite o.task) (taskIndex o.task) fun r => { r with async := r.async + 1 } else s

/-- A refused launch: its bytes arrive at once with LAUNCH set, and an entry of kind 2 is appended (R217, R428). -/
def refuse (s : State) (e : Eng) (count code : Nat) : State :=
  let o := newOp s .copy e count
  let (s, _) := arriveAt s o.bar count true 0 0 []
  taskError s o.task o.live (taskFault s o.task o.core 2 code 0 (o.word.zeroExtend 64) 0 o.stream o.evalid)

/-! ## A core leaves its task -/

/-- The core of a task halts: it takes new work at once, and the task drains once all its cores have halted, none of them parked or out
(R135, R142, R143). -/
def leaveTask (s : State) (core : Nat) : State :=
  let k := s.core core
  if !k.running then s
  else
    let id := k.ctx.taskid
    let site := siteOf core
    let s := s.modCore core fun k => { k with running := false }
    let s := s.modDie site fun d => { d with requests := d.requests.filter (fun q => q.core != core) }
    let s := s.modRec site (taskIndex id) fun r =>
      let left := r.cores.filter (· != numOf core)
      { r with cores := left,
               st := if left.isEmpty && r.images.isEmpty && r.parked.isEmpty && r.st == .running then .draining else r.st }
    runHeld (settleRec s site (taskIndex id)) site (taskIndex id)

end Sys2Proof.Machine
end

