-- ==== Sys2Proof/Machine/Ranges.lean ====
section
/-! DEFINITION. Operand ranges of launch words: translation (R181), placement checks (R428, R444), and reading and writing them
by lines when the operation runs (Tables 8-3, 9-1, R176, R194). -/

namespace Sys2Proof.Machine

/-! ## Translation at the launch word -/

/-- The parts of a virtual range, page by page; the lowest failing address traps (R181). -/
def segsGo (acc : Nat) : Nat → Word → Nat → M (List Seg)
  | 0, _, _ => pure []
  | n + 1, va, len =>
    if len = 0 then pure []
    else do
      let p0 : Piece := { pa := 0, len := len, cls := 0, defer := false, va := va, elem := 0, stash := false }
      match translateHere (← get) va acc with
      | .error e =>
        askEntry va e
        trap e.cause va (faultInfo acc e p0)
      | .ok l =>
        modify (noteLeaf · va l)
        let k := min len (65536 - va.toNat % 65536)
        let rest ← segsGo acc n (va + BitVec.ofNat 64 k) (len - k)
        return ⟨l.pa, k, l.cls, l.defer⟩ :: rest

def segsOf (va : Word) (len acc : Nat) : M (List Seg) := segsGo acc (len / 65536 + 2) va len

/-- Parts that follow one another in one page class are one part. -/
def joinSegs : List Seg → List Seg
  | a :: b :: r =>
    match joinSegs (b :: r) with
    | c :: r' => if a.pa + a.len = c.pa ∧ a.cls = c.cls ∧ a.defer = c.defer then { a with len := a.len + c.len } :: r' else a :: c :: r'
    | [] => [a]
  | l => l

def segsLen (gs : List Seg) : Nat := gs.foldl (fun n g => n + g.len) 0

/-! ## Placement checks -/

def overlaps (a n b m : Nat) : Bool := n != 0 && m != 0 && a < b + m && b < a + n

/-- A part cut at multiples of 32 KiB, where every row of Table 8-1 and every scratchpad window begins and ends. -/
def windowParts : Nat → Seg → List Seg
  | 0, _ => []
  | n + 1, g =>
    if g.len = 0 then []
    else
      let k := min g.len (0x8000 - g.pa % 0x8000)
      { g with len := k } :: windowParts n { g with pa := g.pa + k, len := g.len - k }

/-- Some piece of a part in one window is as a test says. -/
def Seg.some (g : Seg) (f : Seg → Bool) : Bool := (windowParts (g.len / 0x8000 + 2) g).any f

/-- A part touches the stash of a core whose window it lies in or runs on into (R166). -/
def segStash (s : State) (g : Seg) : Bool := g.some fun g =>
  match spaceOf g.pa with
  | .pad c off =>
    let k := s.core c
    overlaps off g.len (k.stashb * 0x800) (k.stashn * 0x800)
  | _ => false

/-- Another core's private frame, or an own one through another class (R213). -/
def segPrivate (s : State) (core : Nat) (g : Seg) : Bool :=
  isDram g.pa && (List.range ((g.pa % 65536 + g.len + 65535) / 65536)).any fun i =>
    match mapGet none s.owners (g.pa / 65536 + i) with
    | some o => o != core || g.cls != 0
    | none => false

def segControl (g : Seg) : Bool := g.some fun g => isControl g.pa

def segActiveWeight (g : Seg) : Bool := g.some fun g =>
  match spaceOf g.pa with
  | .weight _ off => decide (off < 0x18000000)
  | _ => false

/-- A forbidden source or destination (R158, R166, R174, R213). -/
def badSrc (s : State) (g : Seg) : Bool := segControl g || segStash s g || segPrivate s s.turn g
def badDst (s : State) (g : Seg) : Bool := badSrc s g || segActiveWeight g

/-! ## Reading and writing when the operation runs -/

/-- Splits a part at line boundaries. -/
def lineParts : Nat → Seg → List Seg
  | 0, _ => []
  | n + 1, g =>
    if g.len = 0 then []
    else
      let k := min g.len (128 - g.pa % 128)
      { g with len := k } :: lineParts n { g with pa := g.pa + k, len := g.len - k }

def linesOf (gs : List Seg) : List Seg := gs.flatMap (fun g => lineParts (g.len / 128 + 2) g)

/-- A part in the class that its frame has now (R214). -/
def State.nowSeg (s : State) (g : Seg) : Seg := { g with cls := (mapFind s.classes (g.pa / 0x10000)).getD g.cls }

/-- Bytes of a part of at most one line as a copy reads them, each with an error code, 0 for none (Table 9-1, R176): a line that the
operation has waited for as it stood when it was served (R194). A frame that another core has claimed meanwhile answers with 0x01
(notes/assumptions/13.md). -/
def readPart (s : State) (site id : Nat) (g : Seg) : List (Byte × Nat) :=
  match locate s g.pa with
  | .error e =>
    match spaceOf g.pa with
    | .remote w _ =>
      if (mapGet {} s.fw.fwin w).valid then
        (List.range g.len).map fun i =>
          let at_ (a n : Nat) : Bool := decide (a ≤ g.pa + i ∧ g.pa + i < a + n)
          match s.arrived.find? (fun r => r.1 == opKey id && at_ r.2.1 r.2.2.length),
              s.arrived.find? (fun r => r.1 == opKey id && 2 ^ 48 ≤ r.2.1 && r.2.1 < 2 ^ 58 && at_ (r.2.1 % 2 ^ 48) r.2.2.length) with
          | some r, _ => (r.2.2.getD (g.pa + i - r.2.1) 0, 0)
          | none, some r => (0, farCode r.2.1)
          | none, none => (0, 4)
      else List.replicate g.len (0, 4)
    | _ => List.replicate g.len (0, e.code)
  | .ok _ =>
    let op := s.ops.find? fun (o : Op) => o.id == id
    let kept := (op.map (·.taken)).getD [] |>.find? fun t => t.1 == lineOf g.pa
    match kept with
    | some t => (slice t.2 (g.pa % 128) g.len).map (·, 0)
    | none =>
    if homeSite g.pa < 64 && (pathDown s site (homeSite g.pa) || pathDown s (homeSite g.pa) site) then List.replicate g.len (0, 4)
    else if (op.map fun o => segPrivate s o.core (s.nowSeg g)).getD false then List.replicate g.len (0, 1)
    else
      let bad : Bool := match spaceOf g.pa with
        | .pad _ _ => false
        | _ => s.poisoned g.pa || (g.defer && s.cellTag g.pa == 3)
      (List.range g.len).map fun i =>
        let padBad : Bool := match spaceOf g.pa with
          | .pad _ _ => s.tag (g.pa + i) == 3
          | _ => false
        (readPhys s (g.pa + i), if bad || padBad then 5 else 0)

def readSegs (s : State) (site id : Nat) (gs : List Seg) : List (Byte × Nat) := (linesOf gs).flatMap (readPart s site id)

/-- The first failing byte of a read: its code and address. -/
def firstBad (gs : List Seg) (bs : List (Byte × Nat)) : Option (Nat × Nat) :=
  ((linesOf gs).flatMap (fun g => (List.range g.len).map (g.pa + ·))).zip bs |>.findSome? fun e =>
    if e.2.2 = 0 then none else some (e.2.2, e.1)

def pieceOfSeg (g : Seg) : Piece :=
  { pa := g.pa, len := g.len, cls := g.cls, defer := g.defer, va := BitVec.ofNat 64 g.pa, elem := 0, stash := false }

/-- Writes a part of at most one line as a copy does: bytes with codes, of which those with a code other than 5 are not
written and those with 5 mark it poisoned. Answers the write's own error code. -/
def writePart (site : Nat) (id : Nat) (resolve : Bool) (g : Seg) (bs : List (Byte × Nat)) : H Nat := do
  let s ← get
  let data := bs.map (·.1)
  let keep := bs.map (fun b => b.2 == 0 || b.2 == 5)
  let bad := bs.any (fun b => b.2 == 5)
  match locate s g.pa with
  | .error e => pure e.code
  | .ok _ =>
    if homeSite g.pa < 64 && bulkDown s site (homeSite g.pa) then pure 4
    else if ((s.ops.find? fun (o : Op) => o.id == id).map fun o => segPrivate s o.core (s.nowSeg g)).getD false then pure 1
    else
      set (wake s g.pa)
      let p := pieceOfSeg (s.nowSeg g)
      let _ ← ownerCheck (.op id) p
      modify fun s => s.modOp id fun o => { o with wrote := if o.wrote.contains (homeSite g.pa) then o.wrote else homeSite g.pa :: o.wrote }
      let s ← get
      match spaceOf g.pa with
      | .pad c off =>
        if inStash s c off then pure 1
        else
          let mask := (List.range g.len).flatMap fun i =>
            let ok := keep.getD i false && s.tag (g.pa + i) != 2
            [ok, ok]
          let skipped := (List.range g.len).any fun i => keep.getD i false && s.tag (g.pa + i) == 2
          modify (writeNibs · mask 0 p data)
          modify fun s => (List.range g.len).foldl (fun (s : State) i =>
            if (bs.getD i (0, 0)).2 == 5 && s.tag (g.pa + i) != 2 then s.setTag (g.pa + i) 3 else s) s
          pure (if skipped then 1 else 0)
      | _ =>
        if resolve then
          if s.cellTag g.pa == 3 then pure 1
          else if keep.all id' then do
            resolveCell g.pa data
            touchTime (.op id) true p
            if bad then modify fun s => s.setPoison g.pa true
            pure 0
          else pure 0
        else if segActiveWeight g then pure 1
        else if g.defer && s.cellTag g.pa == 3 then pure 1
        else do
          modify (writeNibs · (keep.flatMap fun k => [k, k]) 0 p data)
          touchTime (.op id) true p
          if g.len = 128 && keep.all id' then modify fun s => s.setPoison g.pa false
          if bad then modify fun s => s.setPoison g.pa true
          pure 0
where
  id' (b : Bool) : Bool := b

/-- Writes a destination line by line; the first failing code and address (R444). -/
def writeLines (site id : Nat) (resolve : Bool) : List Seg → List (Byte × Nat) → H (Option (Nat × Nat))
  | [], _ => pure none
  | g :: gs, bs => do
    let c ← writePart site id resolve g (bs.take g.len)
    let r ← writeLines site id resolve gs (bs.drop g.len)
    pure (if c = 0 then r else some (c, g.pa))

def writeSegs (site id : Nat) (resolve : Bool) (gs : List Seg) (bs : List (Byte × Nat)) : H (Option (Nat × Nat)) :=
  writeLines site id resolve (linesOf gs) bs

/-- The access that an operation queues at the home of a line it must wait for. -/
def lineAccess (g : Seg) : Access := { act := .load, pieces := [pieceOfSeg { g with pa := lineOf g.pa, len := 128 }] }

/-- An operation waits for a cell at its home, in the order its accesses reached it (R194). -/
def queueLine (who : Who) (g : Seg) (on : WaitOn) (retry : Bool) : H Unit := modify fun s =>
  let dest : Dest := match who with
    | .core _ _ => .again
    | _ => .none
  { s with waiters := s.waiters ++ [{ who := who, acc := lineAccess g, dest := dest, on := on, len := 0, retry := retry }] }

/-- The line has been served to the operation, or it waits there already. -/
def lineTaken (s : State) (who : Who) (g : Seg) : Bool := ((opOf s who).map (·.taken)).getD [] |>.any (·.1 == lineOf g.pa)

def lineWaits (s : State) (who : Who) (g : Seg) : Bool := s.waiters.any fun w => w.who == who && w.acc == lineAccess g

/-- Brings the cells of a range to VALUE or POISON: the code of a depth or self-dependence failure with its address; `true`
where a cell is still to come (Table 9-1, R195). The operation's core claims the private frames that nobody has (R213). -/
def cellsReady (who : Who) : List Seg → H (Bool × Option (Nat × Nat))
  | [] => pure (false, none)
  | g :: gs => do
    modify (wake · g.pa)
    let s ← get
    let _ ← if (s.nowSeg g).cls == 0 then ownerCheck who (pieceOfSeg (s.nowSeg g)) else pure none
    let s ← get
    let t := s.cellTag g.pa
    let here ← if g.defer && isDram g.pa && (t == 1 || t == 2) && (locate s g.pa).toBool && !lineTaken s who g then
        if lineWaits s who g then pure (true, none)
        else do
          match ← needValue g.pa who (pieceOfSeg g) with
          | .fault e _ => pure (if e.cause = 0x15 then (false, none) else (false, some (1, g.pa)))
          | .done _ => pure (false, none)
          | .wait on => do queueLine who g on false; pure (true, none)
          | .full on => do queueLine who g on true; pure (true, none)
      else pure (false, none)
    let rest ← cellsReady who gs
    pure (here.1 || rest.1, here.2 <|> rest.2)

/-! ## Parts behind a remote window (R59, R62) -/

def remoteSegs (gs : List Seg) : List Seg := (linesOf gs).filter segRemote

/-- Sends reads or writes of remote parts for a core, one part after another; what they bring is kept at `opKey id`. A write takes
bytes with codes: those of a code other than 0 and 5 are not written, those of 5 are marked poisoned, where they go as a whole line. -/
def askFar (core : Nat) (eng : Eng) (id : Nat) (gs : List Seg) (data : Option (Bool × List (Byte × Nat))) : H Unit :=
  match data with
  | none => newRequest core eng { act := .load, pieces := gs.map pieceOfSeg } .none 0 (some id) []
  | some (resolve, bs) =>
    let keep (b : Byte × Nat) : Bool := b.2 == 0 || b.2 == 5
    newRequest core eng
      { act := if resolve then .resolveWrite else .store, pieces := gs.map pieceOfSeg, data := bs.map (·.1),
        mask := if bs.all keep then [] else bs.flatMap fun b => [keep b, keep b] }
      .none 0 (some id) ((List.range bs.length).filter fun i => (bs.getD i (0, 0)).2 == 5)

/-- Sends a launched operation's reads or writes of remote parts. -/
def remoteOp (o : Op) (gs : List Seg) (data : Option (Bool × List (Byte × Nat))) : H Unit := askFar o.core o.eng o.id gs data

/-- The remote source parts of an operation are here; where none has been asked for, asks. -/
def remoteReady (o : Op) (gs : List Seg) : H Bool := do
  let s ← get
  let rs := remoteSegs gs
  if rs.isEmpty then pure true
  else if s.requests.any (fun r => r.op == some o.id) then pure false
  else if s.arrived.any (fun r => r.1 == opKey o.id) then pure true
  else do
    remoteOp o rs none
    pure false

/-- The bytes of a range as a launch word reads them, behind a window too; the word is executed again for what is not here yet
(R59). -/
def readHere : List Seg → M (List (Byte × Nat))
  | [] => pure []
  | g :: gs => do
    let s ← get
    let reach : Bool := match spaceOf g.pa with
      | .remote w _ => (mapGet {} s.fw.fwin w).valid
      | _ => false
    let here ← if reach then
        (·.map (·, 0)) <$> access s.eng 0 { act := .load, pieces := [pieceOfSeg g] } .again
      else pure (readPart s (siteOf s.turn) s.nextOp g)
    return here ++ (← readHere gs)

end Sys2Proof.Machine
end

