-- ==== Sys2Proof/Machine/Copy.lean ====
section
/-! DEFINITION. Copy words of the C engine (R428, R444 to R446): their launches, and what they do when they run. -/

namespace Sys2Proof.Machine

/-! ## Launch words (R428) -/

/-- What the checks of a launch word end in. -/
inductive Verdict where
  /-- nothing to do (a total length of 0) -/
  | nothing
  | refused (count code : Nat)
  | launch (o : Op)
  deriving DecidableEq, Repr

/-- A launch word of `n` arguments, top first. -/
def launchWord (e : Eng) (n : Nat) (body : List Word → M Verdict) (s : State) : Host.Outcome State Fault Refusal :=
  engWord e (do
    let args ← topN e n
    let v ← body args
    drop e n
    match v with
    | .nothing => pure ()
    | .refused count code => modify (refuse · e count code)
    | .launch o => modify (launchOp · o)) s

/-- Scoreboard entries of a copy: the span of its parts in the core's own scratchpad, by words (R168). -/
def scoreOf (core op : Nat) (incoming : Bool) (gs : List Seg) : List Score :=
  let offs := gs.filterMap fun g => match spaceOf g.pa with
    | .pad c off => if c = core then some (off / 4 * 4, (off + g.len + 3) / 4 * 4) else none
    | _ => none
  match offs with
  | [] => []
  | o :: os =>
    let lo := os.foldl (fun m x => min m x.1) o.1
    let hi := os.foldl (fun m x => max m x.2) o.2
    [{ op := op, incoming := incoming, lo := lo, len := hi - lo }]

/-- Takes the scoreboard entries of a copy, or waits for them (R168). -/
def takeScores (src dst : List Seg) : M Unit := do
  let s ← get
  let new := scoreOf s.turn s.nextOp false src ++ scoreOf s.turn s.nextOp true dst
  if (s.core s.turn).scores.length + new.length > 16 then stall
  modCur fun c => { c with scores := c.scores ++ new }

/-- Some source byte is also a destination byte. -/
def overlap (src dst : List Seg) : Bool := src.any fun a => dst.any fun b => overlaps a.pa a.len b.pa b.len

/-- The ranges of a copy's rows: virtual source and destination, and length of each. -/
def rowSegs : List (Word × Word × Nat) → M (List Seg × List Seg)
  | [] => pure ([], [])
  | (src, dst, n) :: rs => do
    let a ← segsOf src n aSrc
    let b ← segsOf dst n aDst
    let r ← rowSegs rs
    return (a ++ r.1, b ++ r.2)

/-- Address and placement checks of a copy, and its operation. -/
def copyLaunch (kind : OpKind) (count : Nat) (resolve : Bool) (rows : List (Word × Word × Nat)) (srcOk : Seg → Bool) : M Verdict := do
  if resolve && rows.any (fun r => r.2.1.toNat % 128 != 0 || r.2.2 % 128 != 0) then return .refused count 1
  let (src, dst) ← rowSegs rows
  let src := joinSegs src
  let dst := joinSegs dst
  let s ← get
  if src.any (badSrc s) || dst.any (badDst s) || !src.all srcOk || (resolve && !dst.all (·.defer)) then return .refused count 1
  takeScores src dst
  modify fun s => dropRanges s s.turn (src ++ dst)
  let s ← get
  let snap := if overlap src dst then some ((readSegs s (siteOf s.turn) s.nextOp src).map (·.1)) else none
  return .launch { newOp s kind .c count with src := src, dst := dst, resolve := resolve, snap := snap }

def anySeg (_ : Seg) : Bool := true

def slowSeg (g : Seg) : Bool := !g.some fun g =>
  match spaceOf g.pa with
  | .slow _ => false
  | _ => true

/-- Largest byte count of CCOPY, CFILL, CPAGE, CPREF and CFLUSH (R444). -/
def maxCount : Nat := 2 ^ 32 - 1

/-- CCOPY, and CPAGE from slow-tier pages. -/
def plainCopy (resolve : BitVec 1) (srcOk : Seg → Bool) (s : State) : Host.Outcome State Fault Refusal :=
  launchWord .c 3 (fun a => do
    let n := (a.getD 0 0).toNat
    if n = 0 then return .nothing
    if n > maxCount then return .refused n 1
    copyLaunch .copy n (resolve == 1) [(a.getD 1 0, a.getD 2 0, n)] srcOk) s

def execCcopy (resolve : BitVec 1) (s : State) : Host.Outcome State Fault Refusal := plainCopy resolve anySeg s
def execCpage (resolve : BitVec 1) (s : State) : Host.Outcome State Fault Refusal := plainCopy resolve slowSeg s

def execCcopy2 (resolve : BitVec 1) (s : State) : Host.Outcome State Fault Refusal :=
  launchWord .c 4 (fun a => do
    let shape := (a.getD 0 0).toNat
    let st := (a.getD 1 0).toNat
    let rows := bits shape 19 0
    let n := bits shape 39 20
    if rows = 0 ∨ n = 0 then return .nothing
    if shape ≥ 2 ^ 40 then return .refused (rows * n) 1
    let at_ (base : Word) (stride i : Nat) : Word := base + BitVec.ofInt 64 (sext 32 stride * (i : Int))
    copyLaunch .copy (rows * n) (resolve == 1)
      ((List.range rows).map fun i => (at_ (a.getD 2 0) (bits st 31 0) i, at_ (a.getD 3 0) (bits st 63 32) i, n)) anySeg) s

/-- The index list of CGATH and CSCAT: unsigned 32-bit values in the core's own scratchpad, read at the launch word. -/
def indexList (off count : Nat) : M (List Nat) := do
  let s ← get
  return (List.range count).map fun i => leNat (readBytes s (padAddr s.turn (off + 4 * i)) 4)

/-- CGATH and CSCAT (Table 18-5). -/
def gatherWord (scatter : Bool) (resolve : BitVec 1) (s : State) : Host.Outcome State Fault Refusal :=
  launchWord .c 4 (fun a => do
    let list := (a.getD 0 0).toNat
    let n := (a.getD 1 0).toNat
    let count := bits list 15 0
    let off := bits list 30 16
    if count = 0 ∨ n = 0 then return .nothing
    let s ← get
    if list ≥ 2 ^ 31 ∨ n ≥ 2 ^ 20 ∨ off % 4 ≠ 0 ∨ off + 4 * count > 0x6000 then return .refused (count * n) 1
    if (List.range count).any (fun i => inStash s s.turn (off + 4 * i) || s.tag (padAddr s.turn (off + 4 * i)) == 3) then
      return .refused (count * n) 1
    let idx ← indexList off count
    let far (base : Word) (i : Nat) : Word := base + BitVec.ofNat 64 (i * n)
    copyLaunch .gather (count * n) (resolve == 1)
      ((idx.zip (List.range count)).map fun e =>
        if scatter then (far (a.getD 2 0) e.2, far (a.getD 3 0) e.1, n) else (far (a.getD 2 0) e.1, far (a.getD 3 0) e.2, n)) anySeg) s

def execCgath (resolve : BitVec 1) (s : State) : Host.Outcome State Fault Refusal := gatherWord false resolve s
def execCscat (resolve : BitVec 1) (s : State) : Host.Outcome State Fault Refusal := gatherWord true resolve s

def execCfill (resolve : BitVec 1) (s : State) : Host.Outcome State Fault Refusal :=
  launchWord .c 3 (fun a => do
    let n := (a.getD 0 0).toNat
    let va := a.getD 2 0
    if n = 0 then return .nothing
    if n > maxCount then return .refused n 1
    if resolve == 1 && (va.toNat % 128 != 0 || n % 128 != 0) then return .refused n 1
    let dst ← segsOf va n aDst
    let s ← get
    if dst.any (badDst s) || (resolve == 1 && !dst.all (·.defer)) then return .refused n 1
    takeScores [] dst
    return .launch { newOp s .fill .c n with dst := dst, resolve := resolve == 1, nums := [(a.getD 1 0).toNat] }) s

/-! ## Decompression (R177, R178, R445) -/

/-- Codewords by symbol: length and code; none where the table is invalid. -/
def codesGo (lens : List Nat) : Nat → Nat → Nat → List (Nat × Nat × Nat) → Option (List (Nat × Nat × Nat))
  | 0, _, _, acc => some acc
  | n + 1, len, code, acc =>
    let syms := (List.range lens.length).filter fun i => lens.getD i 0 == len
    let acc := acc ++ (syms.zip (List.range syms.length)).map fun e => (len, code + e.2, e.1)
    let code := code + syms.length
    if code > 2 ^ len then none else codesGo lens n (len + 1) (2 * code) acc

/-- The symbol size and codewords (length, code, symbol) of a 512-byte table; none where it is invalid. -/
def decompTable (t : List Byte) : Option (Nat × List (Nat × Nat × Nat)) :=
  let size := field t 0 1
  let nsym := if size = 4 then 16 else 256
  let lens := (slice t 256 nsym).map (·.toNat)
  if (size ≠ 4 ∧ size ≠ 8) ∨ (slice t 1 255).any (· != 0) ∨ (size = 4 ∧ (slice t 272 240).any (· != 0)) ∨ lens.any (· > 15) then
    none
  else (codesGo lens 15 1 0 []).map (fun c => (size, c))

/-- One symbol from bit position `at_` of the stream: the symbol and the next position. -/
def nextSymbol (codes : List (Nat × Nat × Nat)) (bs : List Byte) (at_ : Nat) : Nat → Nat → Nat → Option (Nat × Nat)
  | 0, _, _ => none
  | n + 1, len, code =>
    let i := at_ + len
    let code := 2 * code + b2n ((bs.getD (i / 8) 0).getLsbD (7 - i % 8))
    match codes.find? (fun c => c.1 == len + 1 && c.2.1 == code) with
    | some c => some (c.2.2, i + 1)
    | none => nextSymbol codes bs at_ n (len + 1) code

/-- `n` symbols of a stream, and whether a prefix matched no codeword. -/
def decodeSymbols (codes : List (Nat × Nat × Nat)) (bs : List Byte) : Nat → Nat → List Nat × Bool
  | 0, _ => ([], false)
  | n + 1, at_ =>
    match nextSymbol codes bs at_ 15 0 0 with
    | none => ([], true)
    | some (sym, at') =>
      let r := decodeSymbols codes bs n at'
      (sym :: r.1, r.2)

/-- The bit of a stream at which `n` symbols end, or the first one that matches no codeword begins. -/
def decodeEnd (codes : List (Nat × Nat × Nat)) (bs : List Byte) : Nat → Nat → Nat
  | 0, at_ => at_
  | n + 1, at_ =>
    match nextSymbol codes bs at_ 15 0 0 with
    | none => at_
    | some (_, at') => decodeEnd codes bs n at'

/-- Symbols that `n` bytes of output take. -/
def symbolsOf (size n : Nat) : Nat := if size = 4 then 2 * n else n

/-- Brings the cells of the source lines that `n` symbols take, and of none past them (R178, R445), from the `k` first lines on. -/
def decompReady (who : Who) (site id : Nat) (codes : List (Nat × Nat × Nat)) (n : Nat) (lines : List Seg) :
    Nat → Nat → H (Bool × Option (Nat × Nat))
  | 0, _ => pure (false, none)
  | fuel + 1, k => do
    let s ← get
    let bs := (lines.take k).flatMap (readPart s site id)
    let good := (bs.takeWhile fun b => b.2 == 0 || b.2 == 5).map (·.1)
    let r := decodeSymbols codes good n 0
    if good.length < bs.length || decodeEnd codes good n 0 + (if r.2 then 15 else 0) ≤ 8 * good.length then pure (false, none)
    else match lines[k]? with
      | none => pure (false, none)
      | some g =>
        match ← cellsReady who [g] with
        | (true, b) => pure (true, b)
        | (false, some b) => pure (false, some b)
        | (false, none) => decompReady who site id codes n lines fuel (k + 1)

/-- Symbols to bytes: 4-bit symbols two to a byte, the first low; a last one alone is not written. -/
def packSymbols (size : Nat) : List Nat → List Byte
  | a :: b :: r => if size = 4 then BitVec.ofNat 8 (a + 16 * b) :: packSymbols size r else BitVec.ofNat 8 a :: packSymbols size (b :: r)
  | [a] => if size = 4 then [] else [BitVec.ofNat 8 a]
  | [] => []

/-- The bytes of a source by the bound of R445, where the table's symbol size is valid. -/
def decompBound (n : Nat) (t : List Byte) : Option Nat :=
  match field t 0 1 with
  | 4 => some ((n * 15 + 3) / 4)
  | 8 => some ((n * 15 + 7) / 8)
  | _ => none

/-- R445: the table is read at the launch word, after the write-back of R204; one that cannot be read whole is refused as an invalid table
is (log 33). All ranges are translated before it is judged (R428); a table whose symbol size is invalid gives its source no bound. -/
def execCdecomp (s : State) : Host.Outcome State Fault Refusal :=
  launchWord .c 4 (fun a => do
    let n := (a.getD 1 0).toNat
    if n = 0 ∨ n > maxCount then return .refused n 1
    let table ← segsOf (a.getD 0 0) 512 aSrc
    modify fun s => dropRanges s s.turn table
    let (more, bad) ← liftH (cellsReady (.core (← get).turn .c) (linesOf table))
    if more then throw (.hold .again)
    let bytes ← readHere (linesOf table)
    let src ← match decompBound n (bytes.map (·.1)) with
      | some bound => segsOf (a.getD 2 0) bound aSrc
      | none => pure []
    let dst ← segsOf (a.getD 3 0) n aDst
    let s ← get
    match decompTable (bytes.map (·.1)) with
    | none => return .refused n 1
    | some (size, _) =>
      if bad.isSome || bytes.any (·.2 != 0) || (table ++ src).any (badSrc s) || dst.any (badDst s) then return .refused n 1
      takeScores src dst
      return .launch { newOp s .decomp .c n with src := src, dst := dst, nums := size :: (bytes.map (·.1.toNat)) }) s

/-! ## CPREF and CFLUSH (R446) -/

/-- Requests the lines of a page into the near cache: those of another die that it keeps, not of NC or DEFER pages; a line that
cannot be read is dropped. -/
def prefetch (s : State) (l : Leaf) (n : Nat) : State :=
  if l.nc || l.defer then s
  else (List.range ((l.pa % 128 + n + 127) / 128)).foldl (fun (s : State) i =>
    let a := lineOf l.pa + 128 * i
    let p : Piece := { pa := a, len := 128, cls := l.cls, defer := false, va := 0, elem := 0, stash := false }
    if mayHold s p && nearLine (siteOf s.turn) a && (locate s a).toBool && !s.poisoned a &&
        !cutOff s (.core s.turn .c) a then (readThrough s (siteOf s.turn) (s.core s.turn).tick a l.cls).2 else s) s

/-- Prefetches a virtual range page by page; its translation faults are precise. -/
def prefetchGo : Nat → Word → Nat → M Unit
  | 0, _, _ => pure ()
  | n + 1, va, len =>
    if len = 0 then pure ()
    else do
      let k := min len (65536 - va.toNat % 65536)
      match translateHere (← get) va aSrc with
      | .error _ => pure ()
      | .ok l => modify (prefetch · l k)
      prefetchGo n (va + BitVec.ofNat 64 k) (len - k)

def execCpref (s : State) : Host.Outcome State Fault Refusal :=
  launchWord .c 2 (fun a => do
    let n := (a.getD 0 0).toNat
    if n = 0 then return .nothing
    if n > maxCount then return .refused 0 1
    let _ ← segsOf (a.getD 1 0) n aSrc
    prefetchGo (n / 65536 + 2) (a.getD 1 0) n
    return .nothing) s

def execCflush (s : State) : Host.Outcome State Fault Refusal :=
  launchWord .c 2 (fun a => do
    let n := (a.getD 0 0).toNat
    if n = 0 then return .nothing
    if n > maxCount then return .refused n 1
    let gs ← segsOf (a.getD 1 0) n aSrc
    let sel (l : Nat) : Bool := gs.any fun g => g.pa < l + 128 && l < g.pa + g.len
    let s ← get
    if gs.any (segPrivate s s.turn) then return .refused n 1
    if (linesHeld (s.core s.turn)).any fun l => sel l.addr && l.dirty != 0 && s.pinned l.addr then stall
    modify fun s => cleanLines s s.turn true sel
    return .launch (newOp (← get) .flush .c n)) s

/-! ## Running a copy -/

/-- The value of source byte `k` where source and destination overlap: in a scratchpad the launch value (R170), elsewhere the launch
value or the value this copy wrote there, which of them is not defined (R444). -/
def overlapped (srcs dsts : List Nat) (cur snap : List Byte) (fresh : Nat) : Nat → Nat → Byte
  | 0, k => snap.getD k 0
  | n + 1, k =>
    let a := srcs.getD k 0
    if isPad a then snap.getD k 0
    else match (List.range dsts.length).reverse.find? (fun i => dsts.getD i 0 == a) with
      | none => cur.getD k 0
      | some k' =>
        if (Config.freeByte (fresh + k)).getLsbD 0 then snap.getD k 0 else overlapped srcs dsts cur snap fresh n k'

def addrsOf (gs : List Seg) : List Nat := gs.flatMap (fun g => (List.range g.len).map (g.pa + ·))

/-- The bytes a copy writes, with their codes. -/
def copyBytes (s : State) (o : Op) : List (Byte × Nat) :=
  let cur := readSegs s (siteOf o.core) o.id o.src
  match o.snap with
  | none => cur
  | some snap =>
    let srcs := addrsOf o.src
    let dsts := addrsOf o.dst
    let now := cur.map (·.1)
    (cur.zip (List.range cur.length)).map fun e => (overlapped srcs dsts now snap s.fresh cur.length e.2, e.1.2)

/-- Destination parts that hold the first `n` bytes. -/
def takeSegs : List Seg → Nat → List Seg
  | [], _ => []
  | g :: gs, n => if n = 0 then [] else if g.len ≤ n then g :: takeSegs gs (n - g.len) else [{ g with len := n }]

/-- What a data operation writes: bytes with codes, and its own error. A CFLUSH writes nothing; a collective that has become one
writes what it has computed. -/
def opBytes (s : State) (o : Op) : List (Byte × Nat) × Option (Nat × Nat) :=
  match o.kind with
  | .fill =>
    let pat := leBytes 8 (o.nums.getD 0 0)
    ((List.range (segsLen o.dst)).map fun k => (pat.getD (k % 8) 0, 0), none)
  | .decomp =>
    let src := readSegs s (siteOf o.core) o.id o.src
    let size := o.nums.getD 0 0
    match decompTable (o.nums.tail.map (BitVec.ofNat 8 ·)) with
    | none => ([], some (1, 0))
    | some (_, codes) =>
      let n := symbolsOf size (segsLen o.dst)
      let r := decodeSymbols codes (src.map (·.1)) n 0
      let out := packSymbols size r.1
      -- bytes past the last code used are never read (R445)
      let used := (decodeEnd codes (src.map (·.1)) n 0 + (if r.2 then 15 else 0) + 7) / 8
      match firstBad (takeSegs o.src used) (src.take used) with
      | some (c, a) => if c = 5 then (out.map (·, 5), some (c, a)) else ([], some (c, a))
      | none => (out.map (·, 0), if r.2 then some (1, 0) else none)
  | .flush => ([], none)
  | _ =>
    let bs := copyBytes s o
    (bs, firstBad o.src bs)

/-- The cells that a data operation waits for before it has read its source: those of its source lines. -/
def opCells (o : Op) : H (Bool × Option (Nat × Nat)) :=
  let who : Who := .op o.id
  match o.kind, decompTable (o.nums.tail.map (BitVec.ofNat 8 ·)) with
  | .decomp, some (size, codes) =>
    let lines := linesOf o.src
    decompReady who (siteOf o.core) o.id codes (symbolsOf size (segsLen o.dst)) lines (lines.length + 1) 0
  | _, _ => cellsReady who (linesOf o.src)

/-- One poisoned source byte marks every destination line (R176, R444). -/
def spread (bs : List (Byte × Nat)) : List (Byte × Nat) :=
  if bs.any (·.2 == 5) then bs.map fun b => if b.2 = 0 then (b.1, 5) else b else bs

/-- The code with which line `i` of an operation's destination has been written, once it has. -/
def lineDone (o : Op) (i : Nat) : Option Nat := (o.taken.find? (·.1 == 2 ^ 48 + i)).map fun t => field t.2 0 1

/-- Line `i` of an operation's destination as it waits at its home: its number, and whether it marks its line, stand in ARG. -/
def writeAccess (o : Op) (i : Nat) (g : Seg) (bs : List (Byte × Nat)) : Access :=
  { act := if o.resolve then .resolveWrite else .store, pieces := [pieceOfSeg g], data := bs.map (·.1),
    mask := bs.flatMap fun b => let k := b.2 == 0 || b.2 == 5; [k, k],
    arg := BitVec.ofNat 64 (i + 2 ^ 32 * b2n (bs.any (·.2 == 5))) }

/-- Writes line `i` of an operation's destination in this module, unless it has been written or waits already. A pinned line, and a cell
that is DEFERRED or RUNNING where the copy does not resolve, is waited for at its home, in the order of arrival there (R153, R194). -/
def putLine (o : Op) (i : Nat) (g : Seg) (bs : List (Byte × Nat)) : H Unit := do
  let s ← get
  let who : Who := .op o.id
  let g := s.nowSeg g
  let waiting := s.waiters.any fun w => w.who == who && w.acc.act != .load && w.acc.arg.toNat % 2 ^ 32 == i
  let done (code : Nat) : H Unit := modify fun s => noteWrite s o.id (pieceOfSeg g) i code
  let queue (on : WaitOn) (retry : Bool) : H Unit := modify fun s =>
    { s with waiters := s.waiters ++ [{ who := who, acc := writeAccess o i g bs, dest := .none, on := on, len := 0, retry := retry }] }
  let write : H Unit := do done (← writePart (siteOf o.core) o.id o.resolve g bs)
  if waiting || segRemote g || (lineDone o i).isSome then pure ()
  else if !isPad g.pa && s.pinned g.pa then queue (.pin (lineOf g.pa)) false
  else if !o.resolve && g.defer && isDram g.pa && (s.cellTag g.pa == 1 || s.cellTag g.pa == 2) && (locate s g.pa).toBool then do
    modify (wake · g.pa)
    match ← needValue g.pa who (pieceOfSeg g) with
    | .fault _ _ => done 1
    | .done _ => write
    | .wait on => queue on false
    | .full on => queue on true
  else write

def putLines (o : Op) : Nat → List Seg → List (Byte × Nat) → H Unit
  | _, [], _ => pure ()
  | i, g :: gs, bs => do
    putLine o i g (bs.take g.len)
    putLines o (i + 1) gs (bs.drop g.len)

/-- Each part with the bytes it takes. -/
def segBytes : List Seg → List (Byte × Nat) → List (Seg × List (Byte × Nat))
  | [], _ => []
  | g :: gs, bs => (g, bs.take g.len) :: segBytes gs (bs.drop g.len)

/-- The first line of an operation's destination that has gone wrong, in order: its code and address. -/
def firstFailed (s : State) (o : Op) : Nat → List Seg → Option (Nat × Nat)
  | _, [] => none
  | i, g :: gs =>
    let far := s.arrived.find? fun r => r.1 == opKey o.id && 2 ^ 58 ≤ r.2.1 && g.pa ≤ r.2.1 % 2 ^ 48 && r.2.1 % 2 ^ 48 < g.pa + g.len
    let code := if segRemote g then (far.map fun r => farCode r.2.1).getD 0 else (lineDone o i).getD 0
    if code = 0 then firstFailed s o (i + 1) gs else some (code, g.pa)

/-- Counts the flits of an operation's parts at the links they cross (R52). -/
def countSegs (s : State) (o : Op) (gs : List Seg) : State :=
  (linesOf gs).foldl (fun (s : State) g => if segRemote g then s else countAccess s (siteOf o.core) g.pa) s

/-- Frees scoreboard entries of an operation (R168). -/
def freeScores (s : State) (o : Op) (incoming : Bool) : State :=
  s.modCore o.core fun c => { c with scores := c.scores.filter fun e => !(e.op == o.id && e.incoming == incoming) }

/-- Writes what an operation has computed, and retires it once every line is written, behind windows too (R62, R217). -/
def writeOut (o : Op) (bs : List (Byte × Nat)) (err : Option (Nat × Nat)) : H Unit := do
  let lines := linesOf (takeSegs o.dst bs.length)
  putLines o 0 lines bs
  let s ← get
  let o := (s.ops.find? fun (x : Op) => x.id == o.id).getD o
  let far := (segBytes lines bs).filter fun x => segRemote x.1
  let nearDone := (List.range lines.length).all fun i => (lines[i]?).any segRemote || (lineDone o i).isSome
  let farOver := far.isEmpty || s.arrived.any fun r => r.1 == opKey o.id && r.2.1 == farDone
  if nearDone then modify fun s => freeScores s o true
  if !farOver && !s.requests.any (fun r => r.op == some o.id) then remoteOp o (far.map (·.1)) (some (o.resolve, far.flatMap (·.2)))
  if nearDone && farOver then
    let e := err <|> firstFailed s o 0 lines
    modify fun s => retireOp (countSegs s o o.dst) o ((e.map (·.1)).getD 0) ((e.map (·.2)).getD 0)

/-- Runs a data operation: it waits for the cells and the remote parts of its source, reads it, then writes and retires (R217, R444). -/
def runCopy (o : Op) : H Unit := do
  match o.out with
  | some (bs, err) => writeOut o bs err
  | none =>
    let (more, bad) ← opCells o
    if more then pure ()
    else if !(← remoteReady o o.src) then pure ()
    else match bad with
      | some (c, a) => modify (retireOp · o c a)
      | none =>
        let (raw, err) := opBytes (← get) o
        let out := spread raw
        modify fun s =>
          let s := freeScores (countSegs s o o.src) o false
          { s.modOp o.id fun x => { x with out := some (out, err) } with fresh := s.fresh + raw.length }
        writeOut o out err

end Sys2Proof.Machine
end

