-- ==== Sys2Proof/Machine/Coll.lean ====
section
/-! DEFINITION. Collectives (R448, R449): launch, matching of the members of an instance, and the reduction tree of R295. -/

namespace Sys2Proof.Machine

/-- Numbers that a collective's operation keeps: op, type, n, group, instance, member index, then the members. -/
structure CollNums where
  op : Nat
  ty : BitVec 4
  n : Nat
  group : Nat
  inst : Nat
  member : Nat
  members : List Nat
  deriving DecidableEq, Repr

def CollNums.pack (c : CollNums) : List Nat := [c.op, c.ty.toNat, c.n, c.group, c.inst, c.member] ++ c.members

def collNums (l : List Nat) : CollNums :=
  { op := l.getD 0 0, ty := BitVec.ofNat 4 (l.getD 1 0), n := l.getD 2 0, group := l.getD 3 0, inst := l.getD 4 0,
    member := l.getD 5 0, members := l.drop 6 }

/-- Elements a member reads and writes (Table 18-6). -/
def collSrcLen (op n p : Nat) (member : Nat) : Nat :=
  match op with
  | 3 => p * n
  | 5 => if member = 0 then n else 0
  | _ => n

def collDstLen (op n p : Nat) : Nat := if op = 4 then p * n else n

/-- The GMEM slot of a core that holds a group. -/
def gmemSlot (c : Core) (g : Nat) : Option (Nat × Gmem) :=
  (c.gmem.find? fun e => e.2.valid && e.2.group.toNat == g).map fun e => (e.1, e.2)

def execCcoll (ty op : BitVec 4) (s : State) : Host.Outcome State Fault Refusal :=
  launchWord .c 3 (fun a => do
    let d := (a.getD 0 0).toNat
    let g := bits d 7 0
    let n := bits d 47 16
    let s ← get
    let w := tyBits ty / 8
    let bytes (p : Nat) : Nat := collDstLen op.toNat n p * w
    match gmemSlot (s.core s.turn) g with
    | none => return .refused (bytes 1) 1
    | some (slot, m) =>
      let ms := groupMembers (mapGet [] s.fw.groups g)
      let p := ms.length
      if n = 0 ∨ bits d 15 8 ≠ 0 ∨ d ≥ 2 ^ 48 then return .refused (bytes p) 1
      let i := m.member.toNat
      let src ← segsOf (a.getD 1 0) (collSrcLen op.toNat n p i * w) aSrc
      let dst ← segsOf (a.getD 2 0) (bytes p) aDst
      if src.any (badSrc s) || dst.any (badDst s) then return .refused (bytes p) 1
      modCur fun c => { c with gmem := mapSet c.gmem slot { m with count := m.count + 1 } }
      let c : CollNums := { op := op.toNat, ty := ty, n := n, group := g, inst := m.count, member := i, members := ms }
      return .launch { newOp s .coll .c (bytes p) with src := joinSegs src, dst := joinSegs dst, nums := c.pack }) s

/-- Element `i` of a list of bytes. -/
def collElem (w : Nat) (bs : List (Byte × Nat)) (i : Nat) : Nat := leNat (((bs.drop (i * w)).take w).map (·.1))

/-- Combines the members' values of one element (R295, R369). -/
def collCombine (op : Nat) (t : BitVec 4) (vs : List Nat) : Nat :=
  match op with
  | 1 | 2 => (foldMinMax (op == 1) t.toNat (vs.map some)).getD 0 |> canon t.toNat
  | _ =>
    if isF t then (deliverFp t.toNat 0 false (f32 (treeSum 20 (vs.map (leaf32 t.toNat))).1) 0).1
    else vs.foldl (· + ·) 0 % 2 ^ tyBits t

/-- The worst code among bytes: a hard error before poison. -/
def worst (bs : List (Byte × Nat)) : Nat :=
  match bs.find? (fun b => b.2 != 0 && b.2 != 5) with
  | some b => b.2
  | none => if bs.any (fun b => b.2 == 5) then 5 else 0

/-- What member `i` writes, from the members' sources in member order: each element's bytes with a code. -/
def collOut (c : CollNums) (srcs : List (List (Byte × Nat))) : List (Byte × Nat) :=
  let w := tyBits c.ty / 8
  let part (bs : List (Byte × Nat)) (i : Nat) : List (Byte × Nat) := (bs.drop (i * w)).take w
  match c.op with
  | 4 => srcs.flatMap fun bs => bs.take (c.n * w)
  | 5 => (srcs.headD []).take (c.n * w)
  | _ =>
    (List.range c.n).flatMap fun k =>
      let at_ := if c.op = 3 then c.member * c.n + k else k
      let code := worst (srcs.flatMap (part · at_))
      (leBytes w (collCombine c.op c.ty (srcs.map (collElem w · at_)))).map (·, code)

/-- Runs a collective once every member of its instance has launched it; each member's operation retires (R449). A member whose
retirement must wait for room in the fault queue has nothing left to do but that. -/
def runColl (o : Op) : H Unit := do
  let c := collNums o.nums
  let s ← get
  let peer (n : Nat) : Option Op := s.ops.find? fun x =>
    x.kind == .coll && x.core == n && (collNums x.nums).group == c.group && (collNums x.nums).inst == c.inst
  match c.members.mapM peer with
  | none => pure ()
  | some os =>
    let same := os.all fun x => let d := collNums x.nums; d.op == c.op && d.ty == c.ty && d.n == c.n
    if !same then os.forM fun x => finish' x 1 0
    else
      let (more, err) ← os.foldlM (fun (m : Bool × Nat) x => do
        let r ← cellsReady (.op x.id) (linesOf (x.src ++ x.dst))
        let far ← remoteReady x x.src
        pure (m.1 || r.1 || !far, max m.2 ((r.2.map (·.1)).getD 0))) (false, 0)
      let s ← get
      let pinned := os.any fun x => (linesOf x.dst).any fun g => s.pinned g.pa
      if more || pinned then pure ()
      else if err ≠ 0 then os.forM fun x => finish' x err 0
      else
        let srcs := os.map fun x => readSegs s (siteOf x.core) x.id x.src
        os.forM fun x => do
          let out := collOut (collNums x.nums) srcs
          if !(remoteSegs x.dst).isEmpty && worst out = 0 then
            modify fun s => { s with ops := s.ops.map fun (y : Op) =>
              if y.id = x.id then { y with kind := .flush, nums := [], src := [], out := some (out, none) } else y }
            return ()
          let r ← writeSegs (siteOf x.core) x.id false x.dst out
          let code := worst out
          match r with
          | some (k, a) => finish' x (if code = 0 then k else code) a
          | none => finish' x code (match firstBad x.src (readSegs s (siteOf x.core) x.id x.src) with
            | some b => b.2
            | none => 0)
where
  finish' (x : Op) (code addr : Nat) : H Unit := modify fun s =>
    let s := { s with ops := s.ops.map fun (y : Op) => if y.id = x.id then { y with kind := .flush, nums := [code, addr] } else y }
    retireOp s { x with kind := .flush, nums := [code, addr] } code addr

end Sys2Proof.Machine
end

