-- ==== Sys2Proof/Machine/KeyGen.lean ====
section
/-! DEFINITION. ML-DSA-87 key generation from a 32-byte seed as far as the public key (R90), which FIPS 204 fixes
(notes/assumptions/11.md): polynomials over Z_q of degree below 256 as lists of 256 residues. -/

namespace Sys2Proof.Machine

def mlQ : Nat := 8380417

/-- Residues of the bytes of a stream in threes, the top bit dropped, each below q (RejNTTPoly). -/
def residues : List Byte → List Nat
  | a :: b :: c :: r =>
    let z := a.toNat + 256 * b.toNat + 65536 * (c.toNat % 128)
    if z < mlQ then z :: residues r else residues r
  | _ => []

/-- Small coefficients of the half-bytes of a stream: 2 less the half-byte modulo 5, where it is below 15 (RejBoundedPoly, η = 2). -/
def smalls (bs : List Byte) : List Nat :=
  bs.flatMap fun b => [b.toNat % 16, b.toNat / 16].flatMap fun h => if h < 15 then [(mlQ + 2 - h % 5) % mlQ] else []

/-- Takes 256 entries of a rejection from as many blocks of a stream as that needs, 16 times what it expects at most. -/
def sample256 (f : Nat → List Nat) : Nat → Nat → List Nat
  | 0, len => (f len).take 256
  | n + 1, len => let r := f len; if r.length ≥ 256 then r.take 256 else sample256 f n (2 * len)

/-- Entry (r, s) of the public matrix, already transformed (ExpandA). -/
def matrixPoly (rho : List Byte) (r s : Nat) : List Nat :=
  sample256 (fun len => residues (shake128 len (rho ++ [BitVec.ofNat 8 s, BitVec.ofNat 8 r]))) 4 840

/-- The i-th secret polynomial (ExpandS). -/
def secretPoly (rho' : List Byte) (i : Nat) : List Nat :=
  sample256 (fun len => smalls (shake256 len (rho' ++ [BitVec.ofNat 8 i, 0]))) 4 272

/-- The eight bits of a number in reverse. -/
def reverse8 (n : Nat) : Nat := (List.range 8).foldl (fun v i => 2 * v + n / 2 ^ i % 2) 0

/-- Powers of a number modulo q, the first `n`. -/
def powers (z : Nat) : Nat → Nat → List Nat
  | 0, _ => []
  | n + 1, p => p :: powers z n (p * z % mlQ)

/-- Powers of the 512-th root of unity 1753. -/
def roots512 : Array Nat := (powers 1753 512 1).toArray

/-- A polynomial at the odd powers of the root in bit-reversed order (NTT). -/
def transform (w : List Nat) : List Nat :=
  (List.range 256).map fun i =>
    let e := 2 * reverse8 i + 1
    (w.foldl (fun (a : Nat × Nat) c => (a.1 + c * roots512.getD a.2 0, (a.2 + e) % 512)) (0, 0)).1 % mlQ

/-- The polynomial with the given values: 8347681 is the inverse of 256. -/
def untransform (v : List Nat) : List Nat :=
  (List.range 256).map fun j =>
    (((List.range 256).zip v).foldl (fun a x => a + x.2 * roots512.getD ((512 - (2 * reverse8 x.1 + 1) * j % 512) % 512) 0) 0)
      % mlQ * 8347681 % mlQ

/-- Row r of t = A s1 + s2 (ML-DSA.KeyGen_internal). -/
def keyRow (rho rho' : List Byte) (secrets : List (List Nat)) (r : Nat) : List Nat :=
  let sum := (List.range 7).foldl (fun (acc : List Nat) s =>
    acc.zipWith (fun a x => (a + x) % mlQ) ((matrixPoly rho r s).zipWith (fun x y => x * y) (secrets.getD s [])))
    (List.replicate 256 0)
  (untransform sum).zipWith (fun a b => (a + b) % mlQ) (secretPoly rho' (7 + r))

/-- The high part of a residue: the nearest multiple of 2^13, in units of it (Power2Round). -/
def highPart (v : Nat) : Nat := (v + 4095) / 8192

/-- Ten-bit numbers packed, the first lowest. -/
def pack10 : List Nat → List Byte
  | a :: b :: c :: d :: r =>
    let n := a + 1024 * (b + 1024 * (c + 1024 * d))
    [0, 1, 2, 3, 4].map (fun i => BitVec.ofNat 8 (n / 256 ^ i)) ++ pack10 r
  | _ => []

/-- The public key that key generation gives from the seed ξ: 2,592 bytes. -/
def publicKey (seed : List Byte) : List Byte :=
  let h := shake256 128 (seed ++ [8, 7])
  let rho := h.take 32
  let rho' := (h.drop 32).take 64
  let secrets := (List.range 7).map fun i => transform (secretPoly rho' i)
  rho ++ (List.range 8).flatMap fun r => pack10 ((keyRow rho rho' secrets r).map highPart)

end Sys2Proof.Machine
end

