-- ==== Sys2Proof/Machine/Epilogue.lean ====
section
/-! DEFINITION. Epilogue programs (R440 to R443): one operation on the element a processor is at, the check of a program, and
a whole run for one element. -/

namespace Sys2Proof.Machine

/-! ## Registers of a run -/

def EpiRun.reg (r : EpiRun) (e : BitVec 3) : BitVec 32 := r.regs.getD e.toNat 0

/-- Writes a register with the flags of the step; the run goes on at the next E-op. -/
def EpiRun.put (r : EpiRun) (e : BitVec 3) (v : BitVec 32 × BitVec 7) : EpiRun :=
  { r with regs := r.regs.set e.toNat v.1, flags := r.flags ||| v.2, at_ := r.at_.map (· + 1) }

/-- The draw of the element for SR (R283). -/
def EpiRun.dr (r : EpiRun) : Nat := if r.mode.toNat = 5 then draw r.srseed r.srctr r.j else 0

/-- A value that FP32 holds exactly. -/
def exact32 (v : Val) : BitVec 32 := (rne32 (v, 0)).1

def nan32 : BitVec 32 := 0x7FC00000

/-- FP32 multiplication and fused multiply-add, rounded RNE. -/
def mul32 (a b : BitVec 32) : BitVec 32 × BitVec 7 := rne32 (mulVal (f32 a) (f32 b))
def fma32 (a b c : BitVec 32) : BitVec 32 × BitVec 7 := rne32 (fmaVal 0 (f32 a) (f32 b) (f32 c))

/-! ## E-ops (Table 18-4) -/

def eEnd (r : EpiRun) : EpiRun := { r with at_ := none }
def eLda (d : BitVec 3) (r : EpiRun) : EpiRun := r.put d (r.s, 0)
def eAddOp (d s : BitVec 3) (r : EpiRun) : EpiRun := r.put d (add32 (r.reg d) (r.reg s))
def eMulOp (d s : BitVec 3) (r : EpiRun) : EpiRun := r.put d (mul32 (r.reg d) (r.reg s))
def eFmaOp (d s : BitVec 3) (r : EpiRun) : EpiRun := r.put d (fma32 (r.reg s) (r.reg 7) (r.reg d))
def eMaxOp (d s : BitVec 3) (r : EpiRun) : EpiRun :=
  r.put d (BitVec.ofNat 32 (minMax true 0 (r.reg d).toNat (r.reg s).toNat), 0)
def eCon (d : BitVec 3) (c : BitVec 4) (r : EpiRun) : EpiRun := r.put d (r.consts.getD c.toNat 0, 0)

/-- EROW: the row-scale element i is m for MMMA and r for MMVA. -/
def eRow (d s : BitVec 3) (r : EpiRun) : EpiRun :=
  r.put d (mul32 (r.reg s) (BitVec.ofNat 32 (field r.rows (4 * (if r.mmma then r.group else r.pos)) 4)))

/-- The constants of R442. -/
def cL : BitVec 32 := 0x3FB8AA3B
def c1 : BitVec 32 := 0x3D372713
/-- The FP32 nearest 2 √(2/π). -/
def c2 : BitVec 32 := 0x3FCC422A

/-- A step of EACT: a value with the flags so far. -/
def actBind (x : BitVec 32 × BitVec 7) (f : BitVec 32 → BitVec 32 × BitVec 7) : BitVec 32 × BitVec 7 :=
  let y := f x.1
  (y.1, x.2 ||| y.2)

/-- sigmoid (R442): −x × L, exp2, 1 + t, reciprocal. -/
def sigmoid32 (x : BitVec 32) : BitVec 32 × BitVec 7 :=
  actBind (actBind (actBind (mul32 (x ^^^ 0x80000000) cL) fun t => rne32 (exp2Val (f32 t))) fun t => add32 0x3F800000 t)
    fun t => rne32 (rcpVal (f32 t))

def relu32 (x : BitVec 32) : BitVec 32 :=
  match f32 x with
  | .nan => nan32
  | .inf neg => if neg then 0 else x
  | .fin neg num _ => if neg ∨ num = 0 then 0 else x

/-- EACT's functions (R442). -/
def act32 (f : Nat) (x : BitVec 32) : BitVec 32 × BitVec 7 :=
  match f with
  | 0 => (relu32 x, 0)
  | 1 => actBind (sigmoid32 x) fun t => mul32 x t
  | 2 =>
    let z := actBind (actBind (actBind (actBind (mul32 x x) fun u => mul32 u x) fun u => fma32 c1 u x) fun w => mul32 c2 w) sigmoid32
    actBind z fun t => mul32 x t
  | 3 => rne32 (exp2Val (f32 x))
  | _ => sigmoid32 x

def eActOp (d s : BitVec 3) (f : BitVec 5) (r : EpiRun) : EpiRun := r.put d (act32 f.toNat (r.reg s))

/-- ECVT onto a type, held in FP32; NB4 on the lattice of block type constant 7 [1:0] at exponent 32. -/
def cvt32 (t mode : Nat) (sat : Bool) (nbTy dr : Nat) (x : BitVec 32) : BitVec 32 × BitVec 7 :=
  let v := f32 x
  if t = 14 then
    match v with
    | .nan => (nan32, fNV)
    | .inf _ =>
      if sat then let c := nbElem nbTy mode v dr; (exact32 (nbValue (64 * nbTy + 32) c.1), c.2) else (nan32, fNV)
    | _ => let c := nbElem nbTy mode v dr; (exact32 (nbValue (64 * nbTy + 32) c.1), c.2)
  else if t ≤ 7 then
    let c := deliverFp t mode sat (plainZero v) dr
    (exact32 (decodeFp t c.1), c.2)
  else
    let c := deliverFpInt t mode sat v dr
    (exact32 (ofInt (decodeInt t c.1)), c.2)

def eCvt (d s : BitVec 3) (sat : BitVec 1) (t : BitVec 4) (r : EpiRun) : EpiRun :=
  r.put d (cvt32 t.toNat r.mode.toNat (sat == 1) ((r.consts.getD 7 0).toNat % 4) r.dr (r.reg s))

/-- One update of a group's maximum and sum (R443). -/
def statStep (st : BitVec 32 × BitVec 32) (x : BitVec 32) : (BitVec 32 × BitVec 32) × BitVec 7 :=
  let (mx, sm) := st
  let mn : BitVec 32 := BitVec.ofNat 32 (minMax true 0 mx.toNat x.toNat)
  if f32 x == .nan || f32 mx == .nan then ((nan32, nan32), 0)
  else if f32 mn == .inf true then ((mx, 0), 0)
  else
    let f := if f32 mx == .inf true then (0, 0)
      else actBind (rne32 (addVal 0 (f32 mx) (negVal (f32 mn)))) fun t => rne32 (exp2Val (f32 t))
    let a := actBind f fun g => mul32 sm g
    let e := actBind (rne32 (addVal 0 (f32 x) (negVal (f32 mn)))) fun t => rne32 (exp2Val (f32 t))
    let s := add32 a.1 e.1
    ((mn, s.1), a.2 ||| e.2 ||| s.2)

def eStatOp (d s : BitVec 3) (r : EpiRun) : EpiRun :=
  let x := r.reg s
  let u := statStep (mapGet (0xFF800000, 0) r.stats r.group) x
  { r with stats := mapSet r.stats r.group u.1 }.put d (x, u.2)

/-- EQKV (R116): the scale byte of the element's column or row. -/
def eQkv (d s : BitVec 3) (t : BitVec 4) (r : EpiRun) : EpiRun :=
  let s8 := field r.scales (r.pos % 128) 1
  let x := f32 (r.reg s)
  if s8 = 0xFF ∨ x = .nan then r.put d (nan32, 0)
  else
    let c := deliverFp t.toNat 0 true (scaleVal x (127 - (s8 : Int))) 0
    r.put d (exact32 (decodeFp t.toNat c.1), c.2)

/-- ERES: the residual element at this position, in C's or Y's shape and format. -/
def eRes (d : BitVec 3) (r : EpiRun) : EpiRun :=
  let b := tyBits r.cty / 8
  let pitch := (r.rowLen * b + 63) / 64 * 64
  r.put d (exact32 (decodeFp r.cty.toNat (field r.resid (r.group * pitch + r.pos * b) b)), 0)

def eSt (s : BitVec 3) (t : BitVec 4) (r : EpiRun) : EpiRun :=
  let c := deliverFp t.toNat r.mode.toNat false (plainZero (f32 (r.reg s))) r.dr
  { r with out := some (BitVec.ofNat 32 c.1), flags := r.flags ||| c.2, at_ := r.at_.map (· + 1) }

def eSel (d s c : BitVec 3) (r : EpiRun) : EpiRun :=
  match f32 (r.reg c) with
  | .nan => r.put d (r.reg d, 0)
  | .inf _ => r.put d (r.reg s, 0)
  | .fin _ num _ => r.put d (if num = 0 then r.reg d else r.reg s, 0)

def eMov (d s : BitVec 3) (r : EpiRun) : EpiRun := r.put d (r.reg s, 0)

/-- The effect of an E-op; a word that is none is not legal in a program. -/
def epiStep (i : Instr) (r : EpiRun) : EpiRun :=
  match i with
  | .eend => eEnd r
  | .elda d => eLda d r
  | .eadd d s => eAddOp d s r
  | .emul d s => eMulOp d s r
  | .efma d s => eFmaOp d s r
  | .emax d s => eMaxOp d s r
  | .econ d c => eCon d c r
  | .erow d s => eRow d s r
  | .eact d s f => eActOp d s f r
  | .ecvt d s u t => eCvt d s u t r
  | .estat d s => eStatOp d s r
  | .eqkv d s t => eQkv d s t r
  | .eres d => eRes d r
  | .est s t => eSt s t r
  | .esel d s c => eSel d s c r
  | .emov d s => eMov d s r
  | _ => { r with bad := true, at_ := none }

/-- An E-op as a step of the run in progress. -/
def epiWord (f : EpiRun → EpiRun) (s : State) : Host.Outcome State Fault Refusal :=
  event (modify fun s => { s with epi := f s.epi }) s

def execEend (s : State) : Host.Outcome State Fault Refusal := epiWord eEnd s
def execElda (d : BitVec 3) (s : State) : Host.Outcome State Fault Refusal := epiWord (eLda d) s
def execEadd (d e : BitVec 3) (s : State) : Host.Outcome State Fault Refusal := epiWord (eAddOp d e) s
def execEmul (d e : BitVec 3) (s : State) : Host.Outcome State Fault Refusal := epiWord (eMulOp d e) s
def execEfma (d e : BitVec 3) (s : State) : Host.Outcome State Fault Refusal := epiWord (eFmaOp d e) s
def execEmax (d e : BitVec 3) (s : State) : Host.Outcome State Fault Refusal := epiWord (eMaxOp d e) s
def execEcon (d : BitVec 3) (c : BitVec 4) (s : State) : Host.Outcome State Fault Refusal := epiWord (eCon d c) s
def execErow (d e : BitVec 3) (s : State) : Host.Outcome State Fault Refusal := epiWord (eRow d e) s
def execEact (d e : BitVec 3) (f : BitVec 5) (s : State) : Host.Outcome State Fault Refusal := epiWord (eActOp d e f) s
def execEcvt (d e : BitVec 3) (u : BitVec 1) (t : BitVec 4) (s : State) : Host.Outcome State Fault Refusal :=
  epiWord (eCvt d e u t) s
def execEstat (d e : BitVec 3) (s : State) : Host.Outcome State Fault Refusal := epiWord (eStatOp d e) s
def execEqkv (d e : BitVec 3) (t : BitVec 4) (s : State) : Host.Outcome State Fault Refusal := epiWord (eQkv d e t) s
def execEres (d : BitVec 3) (s : State) : Host.Outcome State Fault Refusal := epiWord (eRes d) s
def execEst (e : BitVec 3) (t : BitVec 4) (s : State) : Host.Outcome State Fault Refusal := epiWord (eSt e t) s
def execEsel (d e c : BitVec 3) (s : State) : Host.Outcome State Fault Refusal := epiWord (eSel d e c) s
def execEmov (d e : BitVec 3) (s : State) : Host.Outcome State Fault Refusal := epiWord (eMov d e) s

/-! ## Programs (R438, R440) -/

/-- The E-op parcels of an image, and its header. -/
def epiHeader (image : List Byte) : Nat := field image 0 2
def epiParcels (image : List Byte) : List Parcel := (List.range 32).map fun i => BitVec.ofNat 16 (field image (2 + 2 * i) 2)

/-- The E-ops up to the first EEND, without it; none where one is not an E-op, or none of the 32 is EEND. -/
def epiOps : List Parcel → Option (List Instr)
  | [] => none
  | p :: ps =>
    match rawE p with
    | .error _ => none
    | .ok i => if !i.wf then none else if i == .eend then some [] else (epiOps ps).map (i :: ·)

def isEst (i : Instr) : Bool :=
  match i with
  | .est _ _ => true
  | _ => false

/-- R440: the program of a tile-task whose C or Y format is `cty`. -/
def epiOk (image : List Byte) (cty : BitVec 4) : Bool :=
  epiHeader image < 6 &&
  match epiOps (epiParcels image) with
  | none => false
  | some is =>
    (is.filter isEst).length ≤ 1 && is.all fun i => match i with
      | .est _ t => t == cty
      | .eqkv _ _ t => t == 3 || t == 4
      | .ecvt _ _ _ t => t != 8 && t != 13 && t != 15
      | _ => true

/-- The program rounds in SR: header mode 5 with an ECVT or EST (R283). -/
def epiSr (image : List Byte) : Bool :=
  epiHeader image % 8 == 5 && match epiOps (epiParcels image) with
    | none => false
    | some is => is.any fun i => match i with
      | .est _ _ | .ecvt _ _ _ _ => true
      | _ => false

/-- Whether a program uses an operation that has a side range. -/
def epiUses (image : List Byte) (p : Instr → Bool) : Bool :=
  match epiOps (epiParcels image) with
  | none => false
  | some is => is.any p

/-- The 64-bit address in a pair of constants (R441). -/
def constPair (consts : List (BitVec 32)) (i : Nat) : Word := (consts.getD (i + 1) 0 ++ consts.getD i 0 : BitVec 64)

/-- Runs a program for one element: registers at +0, then the E-ops up to EEND. -/
def epiElement (is : List Instr) (r : EpiRun) : EpiRun :=
  is.foldl (fun r i => epiStep i r) { r with regs := List.replicate 8 0, out := none }

end Sys2Proof.Machine
end

