-- ==== Sys2Proof/Machine/Tiles.lean ====
section
/-! DEFINITION. Tile-tasks: MMMA, MMVA and MSWPW (R431 to R437), the tile-task queues (R150 to R154), the current-step gate
(R32), and what a tile-task computes and writes. -/

namespace Sys2Proof.Machine

/-! ## Shapes (R431) -/

/-- Bytes and pitch of a row of `n` elements. -/
def rowBytes (t : BitVec 4) (n : Nat) : Nat := (n * tyBits t + 7) / 8
def rowPitch (t : BitVec 4) (n : Nat) : Nat := (rowBytes t n + 63) / 64 * 64

/-- Bytes of a tile, with its scale section where it has one. -/
def tileBytes (t : BitVec 4) (rows n : Nat) (scaled : Bool) : Nat :=
  if scaled then rows * rowPitch t n + rows * n / 32 else (rows - 1) * rowPitch t n + rowBytes t n

/-- The scaling rules of R431 for a format with its MX bit and row length. -/
def scaleOk (t : BitVec 4) (mx : Bool) (n : Nat) : Bool :=
  let scaled := t == 14 || mx
  (match t.toNat with
    | 1 | 2 => !mx
    | 5 | 6 | 7 => mx
    | 14 => !mx
    | _ => true) && (!scaled || n % 32 == 0)

/-- What a launch's geometry says: rows and row length of the output, K, formats. -/
structure Geo where
  mmma : Bool
  /-- MMMA: M, N; MMVA: vectors, rows -/
  m : Nat
  n : Nat
  k : Nat
  aty : BitVec 4
  wty : BitVec 4
  cty : BitVec 4
  amx : Bool
  wmx : Bool
  deriving DecidableEq, Repr

def geoOf (mmma : Bool) (g : Word) : Geo :=
  let v := g.toNat
  let ty (i : Nat) : BitVec 4 := BitVec.ofNat 4 (v / 2 ^ i)
  if mmma then { mmma := true, m := bits v 15 0, n := bits v 24 16, k := bits v 33 25, aty := ty 34, wty := ty 38, cty := ty 42,
                 amx := v.testBit 46, wmx := v.testBit 47 }
  else { mmma := false, m := bits v 34 32 + 1, n := bits v 15 0, k := bits v 31 16, aty := ty 39, wty := ty 35, cty := ty 43,
         amx := v.testBit 47, wmx := v.testBit 48 }

def Geo.ascaled (g : Geo) : Bool := g.aty == 14 || g.amx
def Geo.wscaled (g : Geo) : Bool := g.wty == 14 || g.wmx
def Geo.count (g : Geo) : Nat := g.m * rowBytes g.cty g.n
def Geo.aBytes (g : Geo) : Nat := tileBytes g.aty g.m g.k g.ascaled
def Geo.wBytes (g : Geo) : Nat := tileBytes g.wty g.n g.k g.wscaled
def Geo.cBytes (g : Geo) : Nat := tileBytes g.cty g.m g.n false

/-- A format field that names the reserved code, or NB4 elsewhere than for the weights: an illegal word (R274). -/
def Geo.illegal (g : Geo) : Bool := g.aty.toNat ≥ 14 || g.wty == 15 || g.cty.toNat ≥ 14

/-- Field checks of R433 and R436 that need no handle. -/
def geoOk (g : Geo) (word : Word) (slot : BitVec 4) : Bool :=
  let okA : Bool := if g.mmma then [1, 2, 3, 4, 5, 6, 7, 10].contains g.aty.toNat else [1, 2, 3, 4, 10].contains g.aty.toNat
  let okW : Bool := if g.mmma then [1, 2, 3, 4, 5, 6, 7, 10, 14].contains g.wty.toNat else [7, 14, 3, 4, 5, 6, 10, 1].contains g.wty.toNat
  let okC : Bool := if slot == 0 then g.cty == 0 else g.cty.toNat ≤ 4
  let ranges : Bool := if g.mmma then 1 ≤ g.m && 1 ≤ g.n && g.n ≤ 256 && 1 ≤ g.k && g.k ≤ 256 && word.toNat < 2 ^ 48
    else 1 ≤ g.n && 1 ≤ g.k && word.toNat < 2 ^ 49
  okA && okW && okC && ranges && scaleOk g.aty g.amx g.k && scaleOk g.wty g.wmx g.k

/-! ## Queues (R150) -/

/-- Keys of the queue entries that a launch of a core may take. -/
def tileSlots (core : Nat) : List Nat :=
  if isP (siteOf core) then List.range 1024 else (List.range 16).map (16 * numOf core + ·)

def freeTile (s : State) (core : Nat) : Option Nat :=
  (tileSlots core).find? fun i => (mapFind (s.die (siteOf core)).tiles i).isNone

/-- The queue that a queue entry belongs to, as its first key. -/
def tileQueue (site key : Nat) : Nat := if isP site then 0 else key / 16

/-- Enters a record or marker in the lowest-numbered free slot, in queue order. -/
def enterTile (s : State) (core key : Nat) (t : TileTask) : State :=
  noteMarkers (s.modDie (siteOf core) fun d =>
    { d with tiles := mapSet d.tiles key { t with qseq := d.nextQseq }, nextQseq := d.nextQseq + 1 })

def noTile : TileTask :=
  { g := 0, aref := 0, cref := 0, w := 0, bar := none, arg := 0, st := 1, core := 0, task := 0, array := 0, kind := 0,
    phase := false, qseq := 0, op := 0, a := [], c := [], wseg := [], image := [], consts := [], rows := [], qscale := [],
    stats := [], resid := [], srseed := 0, srctr := 0, aBytes := [], wBytes := [], cBytes := [], err := 0, late := false }

/-! ## Launches (R432, R433, R436) -/

/-- The core of the issuing die in whose scratchpad window a range lies. -/
def tilePad (site : Nat) (g : Seg) : Option Nat :=
  match spaceOf g.pa with
  | .pad c off => if siteOf c == site && coreOk c && off + g.len ≤ 0x6000 then some c else none
  | _ => none

/-- R432: a tile lies in DRAM, or in the scratchpad window of one core of the issuing die. -/
def tilePlace (site : Nat) (gs : List Seg) : Bool :=
  gs.all (fun g => isDram g.pa) || match gs with
    | [] => true
    | g :: r => (tilePad site g).isSome && r.all fun q => tilePad site q == tilePad site g

def refAddr (r : Word) : Word := r &&& 0x00FFFFFFFFFFFFFF

/-- The side ranges of a program: row scales, quantiser scales, statistics, residual (R441). -/
def sideRanges (g : Geo) (image : List Byte) (consts : List (BitVec 32)) : M (List Seg × List Seg × List Seg × List Seg) := do
  let use (p : Instr → Bool) (i len acc : Nat) : M (List Seg) :=
    if epiUses image p then segsOf (constPair consts i) len acc else pure []
  let resid ← use (fun i => match i with
    | .eres _ => true
    | _ => false) 8 g.cBytes aSrc
  let qscale ← use (fun i => match i with
    | .eqkv _ _ _ => true
    | _ => false) 10 128 aSrc
  let stats ← use (fun i => match i with
    | .estat _ _ => true
    | _ => false) 12 (8 * g.m) aDst
  let rows ← use (fun i => match i with
    | .erow _ _ => true
    | _ => false) 14 (4 * (if g.mmma then g.m else g.n)) aSrc
  return (rows, qscale, stats, resid)

/-- What the checks of MMMA and MMVA end in: a refusal with its code, or the operation, its record, and whether its program draws
(R283). -/
inductive TileVerdict where
  | refused (code : Nat)
  | launch (o : Op) (t : TileTask) (sr : Bool)
  deriving DecidableEq, Repr

/-- The checks of MMMA and MMVA on their arguments, top first, in the order of R428. -/
def matrixChecks (mmma : Bool) (slot : BitVec 4) (emptyA markC acc : BitVec 1) (key : Nat) (a : List Word) : M TileVerdict := do
  let s0 ← get
  let site := siteOf s0.turn
  let word := a.getD 0 0
  let cref := a.getD 1 0
  let aref := a.getD 2 0
  let w := a.getD 3 0
  let g := geoOf mmma word
  let epi := mapGet {} (s0.core s0.turn).epis slot.toNat
  let handleOk : Bool := !mmma || (bits w.toNat 7 3 == 0 && w.toNat < 2 ^ 34 && bits w.toNat 33 8 % 64 == 0 &&
    bits w.toNat 33 8 + g.wBytes ≤ 0x03000000)
  if g.illegal then illegal
  if !geoOk g word slot || !handleOk || (slot != 0 && !epi.filled) then return .refused 1
  if mmma && !(s0.die site).wbok.getLsbD (w.toNat % 8) then return .refused 2
  let asegs ← segsOf (refAddr aref) g.aBytes aSrc
  if acc == 1 then
    let _ ← segsOf (refAddr cref) g.cBytes aSrc
  let csegs ← segsOf (refAddr cref) g.cBytes aDst
  let wsegs ← if mmma then pure [] else segsOf w g.wBytes aSrc
  let image := if slot == 0 then [] else epi.image
  let (rows, qscale, stats, resid) ← sideRanges g image epi.consts
  let s ← get
  let wOk : Bool := wsegs.all fun q => match spaceOf q.pa with
    | .dram k => dSite k == site
    | _ => false
  if !tilePlace site asegs || !tilePlace site csegs || !wOk || (asegs ++ wsegs ++ rows ++ qscale ++ resid).any (badSrc s) ||
      (csegs ++ stats).any (badDst s) then return .refused 1
  let c := s.ctx
  let o := newOp s .tile .m g.count
  let o := { o with src := joinSegs (asegs ++ wsegs ++ rows ++ qscale ++ resid ++ stats), dst := joinSegs csegs, nums := [site, key] }
  let t : TileTask := { noTile with
    g := word, aref := aref, cref := cref, w := w, bar := o.bar, arg := slot ++ (0 : BitVec 1) ++ emptyA ++ markC ++ acc,
    core := s.turn, task := BitVec.ofNat 12 (taskIndex c.taskid), kind := b2n (!mmma), op := o.id, a := joinSegs asegs,
    c := joinSegs csegs, wseg := joinSegs wsegs, image := image, consts := epi.consts, rows := rows, qscale := qscale,
    stats := stats, resid := resid, srseed := c.srseed, srctr := c.srctr }
  return .launch o t (epiSr image)

/-- MMMA and MMVA. -/
def matrixWord (mmma : Bool) (slot : BitVec 4) (emptyA markC acc : BitVec 1) (s : State) : Host.Outcome State Fault Refusal :=
  engWord .m (do
    -- its SRCTR and SRSEED are those that T has committed (R254)
    modCur Core.unwind
    let s0 ← get
    if mmma != isP (siteOf s0.turn) then illegal
    match freeTile s0 s0.turn with
    | none => stall
    | some key =>
      let a ← topN .m 4
      let v ← matrixChecks mmma slot emptyA markC acc key a
      drop .m 4
      let g := geoOf mmma (a.getD 0 0)
      match v with
      | .refused code => modify fun s => refuse s .m g.count code
      | .launch o t sr =>
        modify fun s => enterTile (launchOp s o) s.turn key t
        if sr then modCtx fun c => { c with srctr := c.srctr + BitVec.ofNat 64 (g.m * g.n) }) s

def execMmma (slot : BitVec 4) (emptyA markC acc : BitVec 1) (s : State) : Host.Outcome State Fault Refusal :=
  matrixWord true slot emptyA markC acc s
def execMmva (slot : BitVec 4) (emptyA markC acc : BitVec 1) (s : State) : Host.Outcome State Fault Refusal :=
  matrixWord false slot emptyA markC acc s

/-- PHASE of a barrier object, whatever its tags (R154). -/
def barPhase (s : State) (b : Nat) : Bool := barWord s b 2 % 2 == 1

/-- MSWPW (R437): its bad values are refused with 0 bytes. -/
def execMswpw (s : State) : Host.Outcome State Fault Refusal :=
  engWord .m (do
    let s0 ← get
    if !isP (siteOf s0.turn) then illegal
    match freeTile s0 s0.turn with
    | none => stall
    | some key =>
      let a ← topN .m 2
      let b := a.getD 0 0
      let p := a.getD 1 0
      let no : M Unit := do
        drop .m 2
        modify fun s => refuse s .m 0 1
      if p.toNat ≥ 8 || (b != 0 && b.toNat < 2 ^ 56 && b.toNat % 16 != 0) then no
      else
        let bar ← if b == 0 then pure (some none) else do
          let q ← placeOf b 16 aTagStore 0
          let s ← get
          match spaceOf q.pa with
          | .pad c off => pure (if coreOk c && off < 0x6000 && !inStash s c off then some (some q.pa) else none)
          | _ => pure none
        match bar with
        | none => no
        | some bar =>
          drop .m 2
          modify fun s =>
            let t : TileTask := { noTile with w := p, bar := bar, core := s.turn, task := BitVec.ofNat 12 (taskIndex s.ctx.taskid), kind := 2,
                                              phase := (bar.map (barPhase s)).getD false }
            enterTile s s.turn key t) s

/-! ## Eligibility and issue (R151 to R153) -/

/-- Header word of a tile reference; none where the tile is untracked. -/
def headerOf (core : Nat) (ref : Word) : Option Nat :=
  let h := ref.toNat / 2 ^ 56
  if h = 0 then none else some (padAddr core (0x5C00 + 4 * h))

def tileAcc (t : TileTask) : Bool := t.arg.getLsbD 0

/-- A header that makes its record refused: BARRIER, reserved, or in the stash (R151, R166). -/
def badHeader (s : State) (core : Nat) (ref : Word) : Bool :=
  match headerOf core ref with
  | none => false
  | some h => s.tag h == 2 || s.tag h == 3 || inStash s core (h % 0x8000)

def headerIs (s : State) (core : Nat) (ref : Word) (t : BitVec 2) : Bool :=
  match headerOf core ref with
  | none => true
  | some h => s.tag h == t

/-- Entries of a queue, in queue order. -/
def queueOf (s : State) (site q : Nat) : List (Nat × TileTask) :=
  inOrder (fun a b => decide (a.2.qseq ≤ b.2.qseq)) ((s.die site).tiles.filter fun e => tileQueue site e.1 == q)

/-- The bank pair that a P-die entry refers to. -/
def tilePair (t : TileTask) : Nat := t.w.toNat % 8

/-- The arrays of a queue, and those that are free. The one array of a D-stack core has the core's number (DESIGN CHOICE,
notes/assumptions/31.md), of which the entry's byte ARRAY holds the lowest 8 bits. -/
def freeArrays (s : State) (site q : Nat) : List Nat :=
  (if isP site then List.range 8 else [q]).filter fun i => !(mapGet {} (s.die site).arrays i).busy

/-- R151, but for the headers' refusal. -/
def eligible (s : State) (site : Nat) (before : List (Nat × TileTask)) (t : TileTask) : Bool :=
  t.kind != 2 && t.st == 1 && headerIs s t.core t.aref 1 && headerIs s t.core t.cref (if tileAcc t then 1 else 0) &&
    before.all fun e => if e.2.kind == 2 then !(isP site && tilePair e.2 == tilePair t)
      else !(e.2.core == t.core && refAddr e.2.cref == refAddr t.cref)

/-- The first record of a queue that is refused or eligible, and whether it is refused. -/
def nextTile (s : State) (site : Nat) : List (Nat × TileTask) → List (Nat × TileTask) → Option (Nat × TileTask × Bool)
  | _, [] => none
  | before, (k, t) :: r =>
    if t.kind != 2 && t.st == 1 && (badHeader s t.core t.aref || badHeader s t.core t.cref) then some (k, t, true)
    else if eligible s site before t then some (k, t, false)
    else nextTile s site (before ++ [(k, t)]) r

def setTile (s : State) (site key : Nat) (t : TileTask) : State :=
  s.modDie site fun d => { d with tiles := mapSet d.tiles key t }
def delTile (s : State) (site key : Nat) : State :=
  noteMarkers ((s.modDie site fun d => { d with tiles := mapDel d.tiles key }).modRegion (regionOf site) fun r =>
    { r with held := r.held.filter fun h => !(h.1 == site && h.2.1 == key) })

/-- A record refused on a header: it leaves the queue, its bytes count with launch-error status, an entry of kind 2 (R151). -/
def refuseTile (s : State) (site key : Nat) (t : TileTask) : State :=
  let s := delTile s site key
  match s.ops.find? (fun o => o.id == t.op) with
  | none => s
  | some o =>
    let s := dropWaits s (.op o.id)
    let s := { s with ops := s.ops.filter (fun x => x.id != o.id) }
    let s := (arriveAt s o.bar o.count true 0 0 []).1
    let s := taskError s o.task o.live (taskFault s o.task o.core 2 1 0 (o.word.zeroExtend 64) 0 o.stream o.evalid)
    countDown s o.task o.live

/-- The array that runs a record: the lowest free one that holds its weight tile, else the lowest free one (R152). -/
def chooseArray (s : State) (site q : Nat) (t : TileTask) : Option Nat :=
  let free := freeArrays s site q
  let want : Nat × Nat × Nat × BitVec 16 :=
    (tilePair t, bits t.w.toNat 33 8, bits t.g.toNat 41 38, (mapGet {} (s.die site).wpairs (tilePair t)).epoch)
  match free.find? (fun i => isP site && (mapGet {} (s.die site).arrays i).tile == some want) with
  | some i => some i
  | none => free.head?

/-- Physical parts of a weight handle's tile: the pair's active half. -/
def handleSegs (site : Nat) (w : Word) (len : Nat) : List Seg :=
  let j := (List.range 32).find? (fun j => pSite j == site) |>.getD 0
  [⟨0x020000000000 + j * 0x40000000 + (w.toNat % 8) * 0x03000000 + bits w.toNat 33 8, len, 2, false⟩]

/-- Lines that an issue pins: those of A, and of C when ACC = 1, in L2 (R153). -/
def pinLines (t : TileTask) : List Nat :=
  ((linesOf (t.a ++ (if tileAcc t then t.c else []))).filter fun g => isDram g.pa).map fun g => lineOf g.pa

/-- Pinning would take a slice beyond 2,048 lines; a line pinned twice is one line. -/
def pinsFull (s : State) (lines : List Nat) : Bool :=
  s.pins.length + lines.length > 2048 && lines.any fun l =>
    let same (x : Nat) : Bool := homeSite x == homeSite l && homeSlice s x == homeSlice s l
    ((s.pins.map (·.line) ++ lines).filter same).eraseDups.length > 2048

/-- Tiles in a scratchpad hold their owner's stores while they are read (R153). -/
def padScores (op : Nat) (gs : List Seg) (s : State) : State :=
  gs.foldl (fun (s : State) g => match spaceOf g.pa with
    | .pad c off => s.modCore c fun k => { k with scores := k.scores ++ [{ op := op, incoming := false, lo := off, len := g.len }] }
    | _ => s) s

/-- Lines whose cells a start needs VALUE. -/
def startLines (t : TileTask) : List Seg := linesOf (t.a ++ t.wseg ++ (if tileAcc t then t.c else []))

/-- Starts the array of an eligible record: operands are read as they stand (R153). -/
def issueTile (s : State) (site key : Nat) (t : TileTask) (array : Nat) : State :=
  let g := geoOf (t.kind == 0) t.g
  let wsegs := if g.mmma then handleSegs site t.w g.wBytes else t.wseg
  let a := readSegs s site t.op t.a
  let w := readSegs s site t.op wsegs
  let c := if tileAcc t then readSegs s site t.op t.c else []
  let bad := worst (a ++ w ++ c)
  let s := setTile s site key { t with
    st := 2, array := array, aBytes := a.map (·.1), wBytes := w.map (·.1), cBytes := c.map (·.1), err := BitVec.ofNat 8 bad }
  let s := { s with pins := s.pins ++ (pinLines t).map fun l => ⟨site, key, l⟩ }
  let s := noteMarkers (padScores t.op (t.a ++ (if tileAcc t then t.c else [])) s)
  s.modDie site fun d =>
    let tile := if g.mmma then some (tilePair t, bits t.w.toNat 33 8, g.wty.toNat, (mapGet {} d.wpairs (tilePair t)).epoch) else none
    { d with arrays := mapSet d.arrays array { tile := tile, busy := true } }
where
  worst (bs : List (Byte × Nat)) : Nat :=
    match bs.find? (fun b => b.2 != 0 && b.2 != 5) with
    | some b => b.2
    | none => if bs.any (fun b => b.2 == 5) then 5 else 0

/-- Weight of an array start in quarter amperes (R32). -/
def startWeight (t : TileTask) : Nat := if t.kind = 0 then 32 else 1

/-- The current-step gate: a start within the last µs's weight is admitted, as is a single one over the limit after a quiet µs. -/
def gateAdmits (r : Region) (w : Nat) : Bool :=
  if w > 4 * r.cstep.toNat then r.recent == 0 else r.recent + w ≤ 4 * r.cstep.toNat

/-- The start of an eligible record passes the gate, or is held in arrival order (R32); a region whose turn in a staggered
launch has not come holds it as well (R33). -/
def startTile (s : State) (site key : Nat) (t : TileTask) (array : Nat) : State :=
  let r := s.region (regionOf site)
  let w := startWeight t
  if r.staggered.contains (site, t.task.toNat) then s
  else if r.held.any (fun h => h.1 == site && h.2.1 == key) then s
  else if r.held.isEmpty && gateAdmits r w then
    issueTile (s.modRegion (regionOf site) fun r => { r with recent := r.recent + w }) site key t array
  else s.modRegion (regionOf site) fun r => { r with held := r.held ++ [(site, key, w)], csheld := r.csheld + 1 }

/-- Sets the header of a tile, if it has one. -/
def markHeader (s : State) (core : Nat) (ref : Word) (v : BitVec 2) : State :=
  match headerOf core ref with
  | some h => s.setTag h v
  | none => s

/-- The array has consumed the operands of a record: the pins and the holds on stores end (R153), A's header becomes EMPTY if it is to
(R151). -/
def consumeTile (s : State) (site key : Nat) (t : TileTask) : State :=
  if t.consumed then s
  else
    let s := setTile s site key { t with consumed := true }
    let s := { s with pins := s.pins.filter fun p => !(p.site == site && p.entry == key) }
    let s := (t.a ++ t.c).foldl (fun (s : State) g => match spaceOf g.pa with
      | .pad c _ => s.modCore c fun k => { k with scores := k.scores.filter (fun e => e.op != t.op) }
      | _ => s) s
    if t.arg.getLsbD 2 then markHeader s t.core t.aref 0 else s

/-- A tile-task has done its work: its slot and array are free, C's header changes (R151, R434). -/
def endTile (s : State) (site key : Nat) (t : TileTask) : State :=
  let s := delTile (consumeTile s site key t) site key
  let s := if t.wBytes.isEmpty then s
    else s.modDie site fun d => { d with arrays := mapSet d.arrays t.array { mapGet {} d.arrays t.array with busy := false } }
  if t.arg.getLsbD 1 then markHeader s t.core t.cref 1 else s

/-- Retires a tile-task. While the fault queue cannot take its error it stays. -/
def retireTile (s : State) (site key : Nat) (t : TileTask) (code addr : Nat) : State :=
  match s.ops.find? (fun o => o.id == t.op) with
  | none => delTile s site key
  | some o =>
    let s' := retireOp s o code addr
    if s'.ops.any (fun x => x.id == o.id) then
      setTile (consumeTile s' site key t) site key { t with st := 3, err := BitVec.ofNat 8 code, consumed := true }
    else endTile s' site key t

/-- Retires a tile-task whose statistics lie behind a remote window: the operation goes on as their write (R59). -/
def sendStats (s : State) (site key : Nat) (t : TileTask) (data : List Byte) : State :=
  endTile (s.modOp t.op fun o => { o with kind := .flush, nums := [], src := [], dst := takeSegs t.stats data.length,
                                          snap := some data }) site key t

/-- TILE_TASK_ISSUE: the oldest eligible record of a queue issues, or one is refused; one whose operands wait for a cell, whose
pins find no room, or whose program is not legal (R440) does not start. -/
def execTileTaskIssue (s : State) : Host.Outcome State Fault Refusal :=
  event (do
    let s ← get
    let site := s.arg.n
    let q := if isP site then 0 else s.arg.k
    match nextTile s site [] (queueOf s site q) with
    | none => pure ()
    | some (key, t, true) => set (refuseTile s site key t)
    | some (key, t, false) =>
      let (more, bad) ← cellsReady (.op t.op) (startLines t)
      let s ← get
      match bad with
      | some (c, a) => set (retireTile s site key t c a)
      | none =>
        if more then pure ()
        else match chooseArray s site q t with
          | none => pure ()
          | some i =>
            if !t.image.isEmpty && !epiOk t.image (geoOf (t.kind == 0) t.g).cty then set (retireTile s site key t 1 0)
            else if pinsFull s (pinLines t) then pure ()
            else set (startTile s site key t i)) s

/-- A record of a queue is still eligible, and not to be refused (R151). -/
def stillEligible (s : State) (site key : Nat) (t : TileTask) : Bool :=
  !(badHeader s t.core t.aref || badHeader s t.core t.cref) &&
    eligible s site ((queueOf s site (tileQueue site key)).takeWhile fun e => e.1 != key) t

/-- Admits held starts in arrival order while the gate allows. One that cannot start any more, because it is eligible no longer, or a cell,
a pin or an array is missing, leaves the gate and comes back by TILE_TASK_ISSUE. -/
def admitHeld (g : Nat) : Nat → H Unit
  | 0 => pure ()
  | n + 1 => do
    let s ← get
    match (s.region g).held with
    | [] => pure ()
    | (site, key, w) :: rest =>
      if gateAdmits (s.region g) w then
        set (s.modRegion g fun r => { r with held := rest })
        match mapFind (s.die site).tiles key with
        | some t =>
          let (more, bad) ← cellsReady (.op t.op) (startLines t)
          let s ← get
          match (if stillEligible s site key t && !more && bad.isNone && !pinsFull s (pinLines t) then chooseArray s site (tileQueue site key) t else none) with
          | some i => set (issueTile (s.modRegion g fun r => { r with recent := r.recent + w }) site key t i)
          | none => pure ()
        | none => pure ()
        admitHeld g n

/-- HELD_START_ADMIT: a µs has passed since the last starts. -/
def execHeldStartAdmit (s : State) : Host.Outcome State Fault Refusal :=
  event (do
    let g := s.arg.n
    modify fun s => s.modRegion g fun r => { r with recent := 0 }
    admitHeld g 4096) s

/-- A start of a staggered launch whose turn has come: no region below has one of the same stream to begin (R33). -/
def turnCome (s : State) (g : Nat) (t : Nat × Nat) : Bool :=
  let launch (t : Nat × Nat) : Nat := recStream (s.record t.1 t.2).bytes
  !(List.range g).any fun k => (s.region k).staggered.any fun u => launch u == launch t

/-- STAGGERED_REGION_START: the turn of region n has come (R33). -/
def execStaggeredRegionStart (s : State) : Host.Outcome State Fault Refusal :=
  event (modify fun s => s.modRegion s.arg.n fun r => { r with staggered := r.staggered.filter fun t => !turnCome s s.arg.n t }) s

/-! ## Completion (R434, R436, R441) -/

/-- Element `i` of a packed row (R278). -/
def packedElem (t : BitVec 4) (bs : List Byte) (i : Nat) : Nat :=
  let b := tyBits t
  field bs (i * b / 8) 2 / 2 ^ (i * b % 8) % 2 ^ b +
    (if b = 32 then field bs (4 * i + 2) 2 * 65536 else 0)

/-- Value of element `i` of row `r` of an operand with its block's scale (R288, R291). -/
def tileElem (t : BitVec 4) (rows n : Nat) (scaled : Bool) (bs : List Byte) (r i : Nat) : Val :=
  let c := packedElem t (bs.drop (r * rowPitch t n)) i
  if !scaled then plainVal t.toNat c
  else
    let s := field bs (rows * rowPitch t n + r * n / 32 + i / 32) 1
    if t == 14 then nbValue s c else mxValue t.toNat s c

def tileRow (t : BitVec 4) (rows n : Nat) (scaled : Bool) (bs : List Byte) (r : Nat) : List Val :=
  (List.range n).map (tileElem t rows n scaled bs r)

/-- The run of a tile-task's program before its first element. -/
def epiStart (s : State) (site : Nat) (t : TileTask) (g : Geo) : EpiRun :=
  { regs := List.replicate 8 0, consts := t.consts, mode := BitVec.ofNat 3 (epiHeader t.image), srseed := t.srseed, srctr := t.srctr,
    rows := (readSegs s site t.op t.rows).map (·.1), scales := (readSegs s site t.op t.qscale).map (·.1),
    resid := (readSegs s site t.op t.resid).map (·.1), cty := g.cty, rowLen := g.n, mmma := g.mmma }

/-- One output element: group, position, and what is stored there, with the run after it. -/
def tileElement (t : TileTask) (g : Geo) (is : Option (List Instr)) (arow wrow : List Val) (m n : Nat) (r : EpiRun) :
    EpiRun × Option (BitVec 32) :=
  let old : BitVec 32 := if tileAcc t then
      exact32 (decodeFp g.cty.toNat (field (t.cBytes.drop (m * rowPitch g.cty g.n)) (n * (tyBits g.cty / 8)) (tyBits g.cty / 8)))
    else 0
  let d := blockDot ((g.k + 31) / 32 + 1) (old, 0) (arow.zip wrow)
  let r := { r with s := d.1, flags := r.flags ||| d.2, group := m, pos := n, j := if g.mmma then m * g.n + n else n * g.m + m }
  match is with
  | none => (r, some d.1)
  | some is => let r' := epiElement is r; (r', r'.out)

/-- All elements in group order, positions ascending: the run after them and the stored elements. -/
def tileElements (t : TileTask) (g : Geo) (is : Option (List Instr)) (r : EpiRun) : EpiRun × List (Nat × Nat × BitVec 32) :=
  let wrows := (List.range g.n).map fun n => tileRow g.wty g.n g.k g.wscaled t.wBytes n
  (List.range g.m).foldl (fun acc m =>
    let arow := tileRow g.aty g.m g.k g.ascaled t.aBytes m
    (wrows.zip (List.range g.n)).foldl (fun (acc : EpiRun × List (Nat × Nat × BitVec 32)) e =>
      let x := tileElement t g is arow e.1 m e.2 acc.1
      (x.1, match x.2 with
        | some v => acc.2 ++ [(m, e.2, v)]
        | none => acc.2)) acc) (r, [])

/-- The parts of a byte range [off, off + n) of a list of parts. -/
def subSegs : List Seg → Nat → Nat → List Seg
  | [], _, _ => []
  | g :: gs, off, n =>
    if n = 0 then []
    else if off ≥ g.len then subSegs gs (off - g.len) n
    else
      let k := min n (g.len - off)
      { g with pa := g.pa + off, len := k } :: subSegs gs 0 (n - k)

/-- Writes the stored elements; every line of C that is written is marked poisoned with `poison` (R176). -/
def writeElems (t : TileTask) (g : Geo) (site : Nat) (poison : Bool) : List (Nat × Nat × BitVec 32) → H (Option (Nat × Nat))
  | [] => pure none
  | (m, n, v) :: es => do
    let b := tyBits g.cty / 8
    let part := subSegs t.c (m * rowPitch g.cty g.n + n * b) b
    let r ← writeSegs site t.op false part ((leBytes b v.toNat).map (·, if poison then 5 else 0))
    let rest ← writeElems t g site poison es
    pure (r <|> rest)

/-- Merges flags into the context that launched an operation, wherever it lies (R257). -/
def mergeFlags (s : State) (core : Nat) (serial : BitVec 16) (f : BitVec 7) : State :=
  let k := (s.core core).unwind
  if k.running && k.ctx.serial == serial then s.setCore core { k with ctx := { k.ctx with flags := k.ctx.flags ||| f } }
  else match k.shadow with
    | some x =>
      if x.serial == serial then s.setCore core { k with shadow := some { x with flags := x.flags ||| f } } else image s
    | none => image s
where
  image (s : State) : State :=
    let d := s.die (siteOf core)
    let slots := ((s.core core).saved.filterMap fun e => if e.1 = serial then some e.2 else none) ++ (d.records.flatMap fun r => r.2.images.filterMap fun e => if e.1 = core ∧ e.2 ≠ bankOnly then some e.2 else none) ++
      d.fq.filterMap fun e => if e.2.kind == 0 && e.2.core.toNat == numOf core then some e.2.image.toNat else none
    match slots.find? (fun a => leNat (readBytes s (a + 0x40 + 8 * 14) 2) == serial.toNat) with
    | some a => let s := wake (wake s a) (a + slotBytesLen - 1); writePhys s (a + 0x40) (readPhys s (a + 0x40) ||| f.zeroExtend 8)
    | none => s

/-- The key of the entry that a step names: the entry of a P-die, or of a core of a D-stack. -/
def tileKey (s : State) : Nat := if isP s.arg.n then s.arg.c else 16 * s.arg.k + s.arg.c % 16

/-- TILE_TASK_COMPLETE: the array has consumed its operands; the outputs and side writes of an issued record perform, flags merge, it
retires. -/
def completeTile (site key : Nat) (t : TileTask) : H Unit := do
  modify (consumeTile · site key t)
  let t : TileTask := { t with consumed := true }
  let g := geoOf (t.kind == 0) t.g
  let is := if t.image.isEmpty then none else epiOps (epiParcels t.image)
  let side := t.rows ++ t.qscale ++ t.resid
  let (more, bad) ← cellsReady (.op t.op) (linesOf (t.c ++ side ++ t.stats))
  let far ← match opOf (← get) (.op t.op) with
    | some o => (!·) <$> remoteReady o side
    | none => pure false
  let s ← get
  let sideBytes := readSegs s site t.op side
  let pinned := (linesOf (t.c ++ t.stats)).any fun l =>
    s.heldLine l.pa || s.pins.any fun p => p.line == lineOf l.pa && !(p.site == site && p.entry == key)
  if more || far || pinned then pure ()
  else
    let hard : Option (Nat × Nat) := match bad with
      | some e => some e
      | none =>
        if t.err != 0 && t.err != 5 then some (t.err.toNat, (t.a.headD ⟨0, 0, 0, false⟩).pa)
        else match firstBad side sideBytes with
          | some (5, _) => none
          | r => r
    match hard with
    | some (c, a) => set (retireTile s site key t c a)
    | none =>
      let poison : Bool := t.err == 5 || sideBytes.any (fun b => b.2 == 5)
      let (r, es) := tileElements t g is (epiStart s site t g)
      let werr ← writeElems t g site poison es
      let stats := r.stats.flatMap fun e => leBytes 4 e.2.1.toNat ++ leBytes 4 e.2.2.toNat
      let remote := !poison && !(remoteSegs t.stats).isEmpty && werr.isNone
      let serr ← if remote then pure none else writeSegs site t.op false (takeSegs t.stats stats.length) (stats.map (·, if poison then 5 else 0))
      match s.ops.find? (fun o => o.id == t.op) with
      | some o => modify fun s => mergeFlags s o.core o.serial r.flags
      | none => pure ()
      let e := (if poison then some (5, (t.a.headD ⟨0, 0, 0, false⟩).pa) else none) <|> werr <|> serr
      modify fun s => if remote then sendStats s site key t stats
        else retireTile s site key t ((e.map (·.1)).getD 0) ((e.map (·.2)).getD 0)

def execTileTaskComplete (s : State) : Host.Outcome State Fault Refusal :=
  event (do
    let s ← get
    match mapFind (s.die s.arg.n).tiles (tileKey s) with
    | some t =>
      if t.st = 2 then completeTile s.arg.n (tileKey s) t
      else if t.st = 3 then set (retireTile s s.arg.n (tileKey s) t t.err.toNat 0)
      else pure ()
    | none => pure ()) s

/-! ## Bank-pair swaps (R154) -/

/-- The first marker for a pair in a queue. -/
def firstMarker (p : Nat) (q : List (Nat × TileTask)) : Option (Nat × TileTask) := q.find? fun e => e.2.kind == 2 && tilePair e.2 == p

/-- A bank swap over several regions goes in ascending region number (R33): a marker waits while a lower region has one to do that arrives at
the same barrier (notes/assumptions/39.md). -/
def swapWaits (s : State) (site : Nat) (t : TileTask) : Bool :=
  t.bar.isSome && s.dies.any fun d => decide (d.1 < 64) && decide (regionOf d.1 < regionOf site) && !tripped s d.1 &&
    d.2.tiles.any fun e => e.2.kind == 2 && e.2.due && e.2.bar == t.bar

/-- The first marker of a pair takes effect once both of its conditions have held: the halves exchange. -/
def bankSwap (s : State) (site p : Nat) : State :=
  match firstMarker p (queueOf (noteMarkers s) site 0) with
  | none => s
  | some (key, t) =>
    if !t.due || swapWaits s site t then noteMarkers s
    else
      let s := delTile (noteMarkers s) site key
      let s := s.modDie site fun d =>
        let w := mapGet {} d.wpairs p
        { d with wpairs := mapSet d.wpairs p { act := w.act + 1, epoch := w.epoch + 1 }, wlate := if t.late then d.wlate + 1 else d.wlate }
      if t.late then s.modCore t.core fun c => { c with wlate := c.wlate + 1 } else s

def execBankPairSwap (s : State) : Host.Outcome State Fault Refusal :=
  event (modify fun s => bankSwap s s.arg.n s.arg.k) s

end Sys2Proof.Machine
end

