-- ==== Sys2Proof/Machine/Evals.lean ====
section
/-! DEFINITION. ENGINE evaluations (R188, R197, R201), the retries of what found a table full (R162, R192 to R194), and the
retirement of launched operations (R143). -/

namespace Sys2Proof.Machine

/-! ## ENGINE evaluations -/

/-- Ends an ENGINE evaluation's operation. -/
def dropOp (s : State) (id : Nat) : State :=
  let s := (s.ops.filter fun (o : Op) => o.id == id).foldl (fun (s : State) o =>
    dropWaits s (.eval (o.nums.getD 0 0) (o.nums.getD 1 0))) s
  { s with ops := s.ops.filter (fun x => x.id != id), arrived := s.arrived.filter (fun r => r.1 != opKey id),
           requests := s.requests.filter (fun r => r.op != some id) }

/-- A failed retry of shared model data: the instance moves to MODEL_MEDIA and its streams fail (R201). -/
def modelMedia (s : State) (inst : Nat) : State :=
  let s := s.modFw fun f => { f with mediaInst := if f.mediaInst.contains inst then f.mediaInst else f.mediaInst ++ [inst] }
  raiseMsix (failStreams s (fun e => e.inst == inst) 0x0020) 2

/-- An ENGINE evaluation ends: every line of its range that is not VALUE takes the reason (R198). -/
def endRange (s : State) (rec' : List Byte) (id reason : Nat) : State :=
  let dest := field rec' 16 8
  let s := (List.range (field rec' 24 8 / 128)).foldl (fun (s : State) i =>
    let l := dest + 128 * i
    match (s.cellTag l).toNat with
    | 0 => s
    | 3 => writeBytes s (lineOf l + 34) (leBytes 2 reason)
    | _ => ((poisonAt l reason).run s).2) s
  endEval s id reason

/-- An ENGINE evaluation retires with a code, 0 for success (R197, R198, R201). What is bound to it outside its range then is
UNRESOLVED. -/
def endEngine (s : State) (o : Op) (rec' : List Byte) (site entry code : Nat) : State :=
  let id := site * 1024 + entry
  match getEval s id with
  | none => dropOp s o.id
  | some e =>
    let shared : Bool := bits (field rec' 3 1) 1 1 == 1
    if code = 0 then endEval (dropOp s o.id) id 1
    else if code ≠ 5 then endRange (dropOp s o.id) rec' id 5
    else if shared && !e.retried then
      let s := s.modDie site fun d => { d with evals := mapSet d.evals entry { e with retried := true } }
      -- the head line may have been written over, so the record is kept for the retry
      { s with ops := s.ops.map (fun (x : Op) => if x.id = o.id then { x with nums := [site, entry, 0], snap := some rec' } else x),
               arrived := s.arrived.filter (fun x => x.1 != opKey o.id) }
    else
      let s := endRange (dropOp s o.id) rec' id 3
      if shared then modelMedia s (field rec' 4 4 % 16) else s

/-- A part of an evaluation's source: a line that a DEFER page may map (R197). -/
def engineSeg (a n : Nat) : Seg := ⟨a, n, 1, true⟩

/-- The source parts of a command: its code table, and its source up to the bound of R445. -/
def engineTable (rec' : List Byte) : List Seg := if field rec' 8 8 % 16 = 2 then [engineSeg (field rec' 40 8) 512] else []

def engineSrc (rec' : List Byte) (size : Nat) : List Seg :=
  let cmd := field rec' 8 8
  let count := field rec' 24 8
  [engineSeg (cmd / 65536) (if cmd % 16 = 2 then (count * 15 + size - 1) / size else count)]

/-- How a line of an evaluation went: the next may follow, it must wait, or a code ends the evaluation. -/
inductive LineEnd where
  | next
  | waits
  | fails (code : Nat)
  deriving DecidableEq, Repr

/-- Writes a line of an evaluation's range, which becomes VALUE (R197); not one that cannot be written. -/
def engineWrite (o : Op) (line : Nat) (data : List Byte) : H LineEnd := do
  let s ← get
  if s.pinned line then return .waits
  match locate s line with
  | .error e => pure (.fails e.code)
  | .ok _ =>
    if pathDown s (siteOf o.core) (homeSite line) then return .fails 4
    if s.cellTag line == 3 then return .fails 1
    set (wake s line)
    modify (tagTime · line 0)
    resolveCell line data
    pure .next

/-- Line `i` of a COPY or PAGEIN: its source line first. -/
def copyLine (who : Who) (o : Op) (rec' : List Byte) (i : Nat) : H LineEnd := do
  let g := engineSeg (field rec' 8 8 / 65536 + 128 * i) 128
  match ← cellsReady who (linesOf [g]) with
  | (_, some (c, _)) => pure (.fails c)
  | (true, _) => pure .waits
  | (false, none) =>
    let part := readSegs (← get) (siteOf o.core) o.id [g]
    if worst part ≠ 0 then pure (.fails (worst part))
    else engineWrite o (field rec' 16 8 + 128 * i) (part.map (·.1))

/-- Line `i` of a DECOMP: the source lines that its symbols take, and none past them (R178). -/
def decompLine (who : Who) (o : Op) (rec' : List Byte) (size : Nat) (codes : List (Nat × Nat × Nat)) (i : Nat) : H LineEnd := do
  let lines := linesOf (engineSrc rec' size)
  let n := symbolsOf size (128 * (i + 1))
  match ← decompReady who (siteOf o.core) o.id codes n lines (lines.length + 1) 0 with
  | (_, some (c, _)) => pure (.fails c)
  | (true, _) => pure .waits
  | (false, none) =>
    let bs := lines.flatMap (readPart (← get) (siteOf o.core) o.id)
    let good := (bs.takeWhile fun b => b.2 == 0).map (·.1)
    let r := decodeSymbols codes good n 0
    let used := decodeEnd codes good n 0
    if r.2 && used + 15 ≤ 8 * good.length then pure (.fails 1)
    else if r.2 || used > 8 * good.length then pure (.fails (((bs[good.length]?).map (·.2)).getD 1))
    else engineWrite o (field rec' 16 8 + 128 * i) ((packSymbols size r.1).drop (128 * i))

/-- Writes lines in ascending order from line `i`, until one waits or fails. Answers the next line and the end. -/
def engineLines (line : Nat → H LineEnd) : Nat → Nat → H (Nat × LineEnd)
  | 0, i => pure (i, .next)
  | n + 1, i => do
    match ← line i with
    | .next => engineLines line n (i + 1)
    | e => pure (i, e)

/-- The code table of a DECOMP: its size and codes, once it is here and valid. -/
def engineCodes (who : Who) (o : Op) (rec' : List Byte) : H (Except LineEnd (Nat × List (Nat × Nat × Nat))) := do
  let gs := engineTable rec'
  match ← cellsReady who (linesOf gs) with
  | (_, some (c, _)) => pure (.error (.fails c))
  | (true, _) => pure (.error .waits)
  | (false, none) =>
    let bs := readSegs (← get) (siteOf o.core) o.id gs
    match firstBad gs bs, decompTable (bs.map (·.1)) with
    | some (c, _), _ => pure (.error (.fails c))
    | none, none => pure (.error (.fails 1))
    | none, some x => pure (.ok x)

/-- Runs an ENGINE evaluation as far as its source allows (R197). -/
def runEngine (o : Op) : H Unit := do
  let site := o.nums.getD 0 0
  let entry := o.nums.getD 1 0
  let from' := o.nums.getD 2 0
  let s ← get
  match getEval s (site * 1024 + entry) with
  | none => set (dropOp s o.id)
  | some e =>
    -- the record is read before the head line is written over
    let rec' := if o.snap.isSome then o.snap.getD [] else readLine s e.cell
    let who : Who := .eval site entry
    let lines := field rec' 24 8 / 128 - from'
    let keep (i : Nat) : H Unit := modify fun s => s.modOp o.id fun x => { x with nums := [site, entry, i], snap := some rec' }
    if !(← remoteReady o (engineTable rec' ++ engineSrc rec' 4)) then keep from'
    else
      let (i, stop') ← if field rec' 8 8 % 16 = 2 then do
          match ← engineCodes who o rec' with
          | .error e => pure (from', e)
          | .ok (size, codes) => engineLines (decompLine who o rec' size codes) lines from'
        else engineLines (copyLine who o rec') lines from'
      match stop' with
      | .waits => keep i
      | .next => modify (endEngine · o rec' site entry 0)
      | .fails c => modify (endEngine · o rec' site entry c)

/-- ENGINE_EVAL_END: the evaluation of site n, entry k. -/
def execEngineEvalEnd (s : State) : Host.Outcome State Fault Refusal :=
  event (do
    let s ← get
    match s.ops.find? (fun o => o.kind == .eval && o.nums.getD 0 0 == s.arg.n && o.nums.getD 1 0 == s.arg.k) with
    | some o => runEngine o
    | none => pure ()) s

/-! ## Retries -/

/-- Tries the waiters that found a table full again; one that now finds room joins its queue last. -/
def retryGo (sel : Waiter → Bool) : List Waiter → H Unit
  | [] => pure ()
  | w :: ws => do
    if w.retry && sel w then
      let before ← get
      set { before with waiters := before.waiters.filter (· != w) }
      match ← perform w.who w.acc with
      | .done bs => modify (completeWaiter · w bs)
      | .fault e p => modify (failWaiter · w e p)
      | .wait on => modify fun s => { s with waiters := s.waiters ++ [{ w with on := on, retry := false }] }
      | .full on => modify fun s => { s with waiters := before.waiters.map fun x => if x == w then { w with on := on } else x }
    retryGo sel ws

def retryWaiters (sel : Waiter → Bool) : H Unit := do
  let s ← get
  retryGo sel s.waiters

/-- Waits at a home slice of a site, or at a scratchpad of a core. -/
def waitsAt (site : Nat) (w : Waiter) : Bool :=
  match w.on with
  | .cell l => homeSite l == site
  | .flag a => homeSite a == site && !isPad a
  | _ => false

def waitsPad (core : Nat) (w : Waiter) : Bool :=
  let at_ (a : Nat) : Bool := match spaceOf a with
    | .pad c _ => c == core
    | _ => false
  match w.on with
  | .tag a => at_ a
  | .flag a => at_ a
  | _ => false

def execEvalTableRetry (s : State) : Host.Outcome State Fault Refusal := event (retryWaiters (waitsAt s.arg.n)) s
def execWaiterTableRetry (s : State) : Host.Outcome State Fault Refusal := event (retryWaiters (waitsAt s.arg.n)) s
def execTagwaitRetry (s : State) : Host.Outcome State Fault Refusal := event (retryWaiters (waitsPad s.arg.n)) s

/-- A launch of a PROGRAM record. -/
def waitsPost (s : State) (site : Nat) (w : Waiter) : Bool :=
  match w.on with
  | .cell l => homeSite l == site && s.cellTag l == 1 && recKind s l == 1
  | _ => false

/-- PROGRAM launches of a home that have found no free task record (R193). -/
def execEvalPostRetry (s : State) : Host.Outcome State Fault Refusal := event (retryWaiters (waitsPost s s.arg.n)) s

/-! ## ASYNC_RETIRE -/

/-- The operation that a step names retires once it can: tile-tasks, hand-offs and evaluations have steps of their own. -/
def execAsyncRetire (s : State) : Host.Outcome State Fault Refusal :=
  event (do
    let s ← get
    match s.ops.find? (fun o => o.id == s.arg.n) with
    | none => pure ()
    | some o =>
      match o.kind with
      | .copy | .gather | .fill | .decomp => runCopy o
      | .flush =>
        if o.nums.isEmpty then runCopy o else set (retireOp s o (o.nums.getD 0 0) (o.nums.getD 1 0))
      | .coll => runColl o
      | .tile | .handoff | .eval => pure ()) s

end Sys2Proof.Machine
end

