-- ==== Sys2Proof/Machine/Slots.lean ====
section
/-! DEFINITION. Request slots at their home (Table 2-3), line flits (R40), bulk transfers (R41), and responses at the requester
(R39, R50, R59). -/

namespace Sys2Proof.Machine

/-! ## Slots at the home -/

/-- The place a slot names. It carries no page class: remote pages are of class 01 (R61), and a line that is no cell reads
VALUE. -/
def slotPiece (m : Slot) (len : Nat) : Piece :=
  { pa := m.addr.toNat, len := len, cls := 1, defer := isDram m.addr.toNat, va := m.addr.zeroExtend 64, elem := 0, stash := false, nc := true }

/-- The nibble selection of a slot's NMASK. -/
def maskOf (m : Slot) : List Bool := (List.range (2 * m.len)).map fun i => m.nmask.getLsbD i

/-- A VAMOADD's operand and the nibbles it selects: each of its slots brings 32 bytes and its NMASK. -/
def vamoParts (len : Nat) (data : List Byte) : List Byte × List Bool :=
  let units := List.range (slotCount len)
  ((units.flatMap fun i => slice data (40 * i) 32).take len,
   (units.flatMap fun i =>
      let m : BitVec 64 := BitVec.ofNat 64 (field data (40 * i + 32) 8)
      (List.range 64).map fun b => m.getLsbD b).take (2 * len))

/-- The types that an atomic takes (Table 17-6, R406). -/
def amoTypeOk (op : Nat) (ty : BitVec 4) : Bool :=
  match op with
  | 8 => ty.toNat ≤ 2
  | 9 => ty.toNat ≤ 2 || ty == 8 || ty == 13
  | _ => ty == 8 || ty == 13

/-- The action of a slot and the bytes it covers; none where an operand is reserved (Tables 2-3, 9-3). An atomic's type and form
stand in NMASK, a VAMOADD's type in ARG above the logical time (notes/assumptions/17.md). -/
def slotAction (m : Slot) : Option (Action × Nat) :=
  let ty : BitVec 4 := m.nmask.truncate 4
  match m.op.toNat with
  | 0x00 => some (.load, 128)
  | 0x01 => some (.load, m.len)
  | 0x02 => some (.store, m.len)
  | 0x03 => if m.arg.toNat % 4 = 3 then none else some (.tagStore (m.arg.toNat % 4), 4)
  | 0x04 => some (.tagLoad (m.arg.getLsbD 0), 4)
  | 0x10 | 0x11 | 0x12 | 0x13 | 0x14 | 0x15 | 0x16 | 0x17 | 0x18 =>
    if amoTypeOk (m.op.toNat - 0x10) ty then some (.amo (m.op.toNat - 0x10) (m.nmask.getLsbD 4) ty, tyBits ty / 8) else none
  | 0x19 =>
    let t : BitVec 4 := m.arg.extractLsb' 48 4
    if amoTypeOk 9 t && m.len % (tyBits t / 8) == 0 then some (.vamo t, m.len) else none
  | 0x20 | 0x21 | 0x22 => some (.flag (m.op.toNat - 0x20), 8)
  | 0x28 => if m.arg.toNat % 16 < 7 then some (.cell (m.arg.toNat % 16), 128) else none
  | _ => none

/-- Accesses whose address must be aligned to their length. -/
def slotAligned (a : Action) (addr len : Nat) : Bool :=
  match a with
  | .amo _ _ _ | .flag _ | .tagLoad _ | .tagStore _ => addr % len == 0
  | _ => true

/-- Executes a slot at its home: performs, waits, or answers an error (R38, R39). Within one line, or ERR 0x01. -/
def runSlot (m : Slot) (data : List Byte) : H Unit := do
  match slotAction m with
  | none => modify (answerErr · m 1)
  | some (act, len) =>
    let whole := decide (m.op = 0x00 ∨ m.op = 0x28)
    let p := slotPiece m len
    let p := if whole then { p with pa := lineOf p.pa } else p
    if m.addr.toNat % 128 + m.len > 128 ∨ p.pa % 128 + len > 128 ∨ (m.op.toNat < 0x10 ∧ m.len > 32) ∨ !slotAligned act p.pa len then
      modify (answerErr · m 1)
    else
      let v := vamoParts m.len data
      let a : Access := {
        act := act, pieces := [p],
        data := if m.op = 0x19 then v.1 else if bigSlot m then slice data 0 128 else slice m.payload 0 len,
        mask := if m.op = 0x02 then maskOf m else if m.op = 0x19 then v.2 else [],
        arg := if m.op = 0x28 then m.arg >>> 16 else m.arg }
      match ← perform (.slot m) a with
      | .done bs => modify (answer · m bs)
      | .fault e _ => modify (answerErr · m e.arg)
      | .wait on => modify fun s => { s with waiters := s.waiters ++ [⟨.slot m, a, .none, on, 0, false⟩] }
      | .full on => modify fun s => { s with waiters := s.waiters ++ [⟨.slot m, a, .none, on, 0, true⟩] }

/-- A slot row: the slot as the step in progress names it, under its row's operation and sub-operation. -/
def slotRow (op : Nat) (sub : Option Nat) (s : State) : Host.Outcome State Fault Refusal :=
  event (do
    let a := (← get).arg
    let m := { a.msg with op := BitVec.ofNat 8 op, arg := match sub with
      | some k => (a.msg.arg >>> 4 <<< 4) ||| BitVec.ofNat 64 k
      | none => a.msg.arg }
    runSlot m a.data) s

def execRdline (s : State) : Host.Outcome State Fault Refusal := slotRow 0x00 none s
def execRdpart (s : State) : Host.Outcome State Fault Refusal := slotRow 0x01 none s
def execWrmask (s : State) : Host.Outcome State Fault Refusal := slotRow 0x02 none s
def execTagst (s : State) : Host.Outcome State Fault Refusal := slotRow 0x03 none s
def execTagld (s : State) : Host.Outcome State Fault Refusal := slotRow 0x04 none s
def execSlotAmoadd (s : State) : Host.Outcome State Fault Refusal := slotRow 0x10 none s
def execSlotAmomin (s : State) : Host.Outcome State Fault Refusal := slotRow 0x11 none s
def execSlotAmomax (s : State) : Host.Outcome State Fault Refusal := slotRow 0x12 none s
def execSlotAmoand (s : State) : Host.Outcome State Fault Refusal := slotRow 0x13 none s
def execSlotAmoor (s : State) : Host.Outcome State Fault Refusal := slotRow 0x14 none s
def execSlotAmoxor (s : State) : Host.Outcome State Fault Refusal := slotRow 0x15 none s
def execSlotAmoswp (s : State) : Host.Outcome State Fault Refusal := slotRow 0x16 none s
def execSlotAmocas (s : State) : Host.Outcome State Fault Refusal := slotRow 0x17 none s
def execSlotAmofadd (s : State) : Host.Outcome State Fault Refusal := slotRow 0x18 none s
def execSlotVamoadd (s : State) : Host.Outcome State Fault Refusal := slotRow 0x19 none s
def execSlotFadd (s : State) : Host.Outcome State Fault Refusal := slotRow 0x20 none s
def execSlotFset (s : State) : Host.Outcome State Fault Refusal := slotRow 0x21 none s
def execSlotFarm (s : State) : Host.Outcome State Fault Refusal := slotRow 0x22 none s
def execCellopTouch (s : State) : Host.Outcome State Fault Refusal := slotRow 0x28 (some 0) s
def execCellopCstat (s : State) : Host.Outcome State Fault Refusal := slotRow 0x28 (some 1) s
def execCellopDefer (s : State) : Host.Outcome State Fault Refusal := slotRow 0x28 (some 2) s
def execCellopResolve (s : State) : Host.Outcome State Fault Refusal := slotRow 0x28 (some 3) s
def execCellopPoison (s : State) : Host.Outcome State Fault Refusal := slotRow 0x28 (some 4) s
def execCellopWaitc (s : State) : Host.Outcome State Fault Refusal := slotRow 0x28 (some 5) s
def execCellopHeadQuery (s : State) : Host.Outcome State Fault Refusal := slotRow 0x28 (some 6) s

/-! ## Line writes (R40) -/

/-- A line flit that writes: the slot its answer goes to. -/
def lineSlot (l : LineMsg) : Slot :=
  { noSlot with src := l.src, dst := l.dst, addr := BitVec.ofNat 48 (lineOf l.addr.toNat), op := 0x02, len := 32, tag := l.tag,
                core := l.core }

/-- A line of uncorrectable data is written marked poisoned, in a scratchpad as POISONED words (R176, Table 8-3). -/
def markLine (s : State) (l : LineMsg) : State :=
  match spaceOf l.addr.toNat with
  | .pad _ _ =>
    if l.status != 5 then s
    else (List.range 32).foldl (fun (s : State) i =>
      let w := lineOf l.addr.toNat + 4 * i
      if s.tag w == 2 then s else s.setTag w 3) s
  | _ => if l.status == 5 then s.setPoison l.addr.toNat true else s

def lineWrite (act : Action) (s : State) : Host.Outcome State Fault Refusal :=
  event (do
    let l := (← get).arg.line
    let m := lineSlot l
    let p := { slotPiece m 128 with pa := lineOf l.addr.toNat }
    let a : Access := { act := act, pieces := [p], data := slice l.line 0 128 }
    match ← perform (.slot m) a with
    | .done _ => modify fun s => answer (markLine s l) m []
    | .fault e _ => modify (answerErr · m e.arg)
    | .wait on => modify fun s => { s with waiters := s.waiters ++ [⟨.slot m, a, .none, on, 0, false⟩] }
    | .full on => modify fun s => { s with waiters := s.waiters ++ [⟨.slot m, a, .none, on, 0, true⟩] }) s

def execLwrite (s : State) : Host.Outcome State Fault Refusal := lineWrite .store s
def execLwritev (s : State) : Host.Outcome State Fault Refusal := lineWrite .resolveWrite s

/-! ## Bulk transfers (R41) -/

/-- BOPEN at its destination; a refused one is answered, and the open transfer goes on. -/
def openBulk (s : State) (m : Slot) : State :=
  let count := m.arg.toNat % 2 ^ 24
  let bxid := bits m.arg.toNat 31 24
  let b : Bulk := { src := m.src, bxid := BitVec.ofNat 8 bxid, dst := m.dst, addr := m.addr.toNat, count := count, got := 0,
                    tag := m.tag, core := m.core, err := 0 }
  if count = 0 ∨ s.bulks.any (fun x => x.src == m.src && x.dst == m.dst && x.bxid == b.bxid) then respond s m 0x42 1 []
  else { s with bulks := s.bulks ++ [b] }

def execBopen (s : State) : Host.Outcome State Fault Refusal := event (modify fun s => openBulk s s.arg.msg) s

/-- Writes the bytes of a bulk flit line by line, each at its home. -/
def writeBulk (src dst bxid : Nat) : Nat → Nat → List Byte → H Unit
  | 0, _, _ => pure ()
  | n + 1, addr, bs =>
    if bs.isEmpty then pure ()
    else do
      let k := min bs.length (128 - addr % 128)
      let m := bulkPart src dst bxid addr k
      let a : Access := { act := .store, pieces := [slotPiece m k], data := bs.take k }
      match ← perform (.slot m) a with
      | .done _ => pure ()
      | .fault e _ => modify (answerErr · m e.arg)
      | .wait on => modify fun s => { s with waiters := s.waiters ++ [⟨.slot m, a, .none, on, 0, false⟩] }
      | .full on => modify fun s => { s with waiters := s.waiters ++ [⟨.slot m, a, .none, on, 0, true⟩] }
      writeBulk src dst bxid n (addr + k) (bs.drop k)

/-- Counts a protocol error at a link's receiver (R36, R39, R41). -/
def protoErr (s : State) (site e : Nat) : State := s.modLink site e fun l => { l with proto := true }

/-- A bulk flit of source k and transfer c at site n, which came in by edge `size`. The image of a hand-off block is kept until it
is whole: landing it is a step of the site's own, which a marker that arrives first still overtakes (R124, Table 6-3). -/
def bulkFlit (dst src bxid edge : Nat) (data : List Byte) : H Unit := do
  let s ← get
  let key := bulkPart src dst bxid 0 0
  match s.bulks.find? (·.isOf key) with
  | none => set (protoErr s dst edge)
  | some b =>
    let n := min 240 (b.count - 240 * b.got)
    let bs := slice data 0 n
    let set' (f : Bulk → Bulk) : State → State := fun s => { s with bulks := s.bulks.map fun (x : Bulk) => if x.isOf key then f x else x }
    let last := decide (b.count ≤ 240 * (b.got + 1))
    modify (set' fun x => { x with got := x.got + 1 })
    match b.block with
    | some _ =>
      modify (set' fun x => if x.discard then x else { x with data := x.data ++ bs })
      if last && b.discard then modify fun s => { s with bulks := s.bulks.filter (fun x => !x.isOf key) }
    | none =>
      if !b.discard then writeBulk src dst bxid 4 (b.addr + 240 * b.got) bs
      if last then modify (bulkSettle · key)

def execBulkFlit (s : State) : Host.Outcome State Fault Refusal :=
  event (do let a := (← get).arg; bulkFlit a.n a.k a.c a.size a.data) s

/-! ## Responses at the requester (R39, R50, R59) -/

/-- The request that a response's TAG and CORE name. -/
def findRequest (s : State) (m : Slot) : Option Request :=
  s.requests.find? fun r => r.tag == m.tag && numOf r.core == m.core.toNat && siteOf r.core == m.dst

def dropRequest (s : State) (r : Request) : State := { s with requests := s.requests.filter (fun x => x.tag != r.tag) }

/-- The bytes of an access in order: those of its parts behind windows, and of its parts in this module. -/
def mergeBytes : List Piece → List Byte → List Byte → List Byte
  | [], _, _ => []
  | p :: ps, far, near =>
    if p.isRemote then slice far 0 p.len ++ mergeBytes ps (far.drop p.len) near
    else slice near 0 p.len ++ mergeBytes ps far (near.drop p.len)

/-- A request of an engine's word whose last part has been answered: its parts in this module perform, which the home has held for it
(R394), and the word goes on. -/
def finishWord (s : State) (r : Request) : State :=
  let near := r.acc.near
  let w : Waiter := ⟨.core r.core r.eng, r.acc, r.dest, .flag 0, r.len, false⟩
  if near.pieces.isEmpty then completeCore s r.core r.eng w r.got
  else
    let (res, s) := (performNow (.core r.core r.eng) near).run s
    let bs := match res with
      | .done bs => bs
      | _ => []
    completeCore s r.core r.eng w (mergeBytes r.acc.pieces r.got bs)

/-- A request goes on: its next part, the stores whose parts have all been checked (R394), or its end. -/
def nextPart (s : State) (r : Request) : State :=
  match r.rest, (if r.checking then partsOf r.acc else []) with
  | p :: ps, _ => ((sendRequest r p ps).run s).2
  | [], p :: ps => ((sendRequest { r with checking := false, got := [] } p ps).run s).2
  | [], [] =>
    let s := dropRequest s r
    match r.op with
    | some 0 => s
    | some id => if r.acc.act.isStore then { s with arrived := s.arrived ++ [(opKey id, farDone, [])] } else s
    | none => finishWord s r

/-- A slot of the part of a request that is out has been answered with data. -/
def completePart (s : State) (r : Request) (bs : List Byte) : State :=
  let r := { r with got := r.got ++ bs }
  if r.more > 0 then
    { s with requests := s.requests.map fun (x : Request) => if x.tag == r.tag then { r with more := r.more - 1 } else x }
  else
    let s := match r.op with
      | some (id + 1) => if r.acc.act.isStore then s else { s with arrived := s.arrived ++ [(opKey (id + 1), r.part.2.pa, bs)] }
      | _ => s
    nextPart s r

/-- A trap of an engine's word that its access meets after the word has been issued (R259). It waits for what the other engines of the
core are about: the word is then executed again, and meets it. -/
def lateTrap (s : State) (n : Nat) (e : Eng) (arg : Nat) (acc : Nat) (p : Piece) : State :=
  let er := remoteFault arg
  if othersBusy s n e then
    noteFailed (s.modCore n fun c =>
      let c := if e == .t then c.unwind else c
      { c with ctx := clearPending c.ctx }) n e arg p
  else takeTrap s n (engCode e) er.cause p.va (faultInfo acc er p)

/-- The part of a request that is out ends with an error: the trap of its word; an operation notes it and goes on with its other parts,
a write that meets a POISON cell with code 0x01 (Table 9-1). -/
def failRequest (s : State) (r : Request) (arg : Nat) : State :=
  let p := r.part.2
  match r.op with
  | some 0 => dropRequest s r
  | some id =>
    let w := r.acc.act.isStore
    let code := if w && bits arg 15 8 == 0x15 then 1 else arg % 256
    nextPart { s with arrived := s.arrived ++ [(opKey id, farErr w code p.pa, List.replicate p.len 0)] } r
  | none => lateTrap (dropRequest s r) r.core r.eng arg (reqCode r.acc) p

/-- The FOLLOW line on whose account a response's TAG asks a head behind a window (R191). -/
def findQuery (s : State) (m : Slot) : Option Nat :=
  (s.queries.find? fun q => q.1 == m.tag && homeSite q.2 == m.dst).map (·.2)

/-- A head has answered, with its tag and its reason, or with an error, which counts as a head that is no cell (R191;
notes/assumptions/38.md). -/
def headAnswer (s : State) (l word : Nat) : State :=
  { s with queries := s.queries.filter (fun q => q.2 != l), heads := mapSet s.heads l word }

/-- RDATA. -/
def execRdata (s : State) : Host.Outcome State Fault Refusal :=
  event (modify fun s => match findRequest s s.arg.msg with
    | some r => completePart s r (slice s.arg.msg.payload 0 (if r.acc.act.isStore && !r.acc.act.isAtomic then 0 else r.part.2.len))
    | none => match findQuery s s.arg.msg with
      | some l => headAnswer s l (field s.arg.msg.payload 0 8)
      | none => s) s

def execDone (s : State) : Host.Outcome State Fault Refusal :=
  event (modify fun s => match findRequest s s.arg.msg with
    | some r => completePart s r []
    | none => s) s

/-- A line that a core's load has brought from another module stays in its L1, unless its page is not cached (Table 8-1, R61). -/
def keepRemote (s : State) (r : Request) (l : LineMsg) : State :=
  let p := r.part.2
  if r.op.isSome || r.acc.act != .load || !mayHold s p then s
  else l1Put s r.core { addr := lineOf p.pa, cls := p.cls, data := l.line, stamp := (s.core r.core).genl1 }

/-- LDATA: the requester's part of the line, or the error of its STATUS. A line whose tag is POISON is the cell trap of its reason
(R186). -/
def execLdata (s : State) : Host.Outcome State Fault Refusal :=
  event (modify fun s =>
    let l := s.arg.line
    match findRequest s { noSlot with dst := l.dst, tag := l.tag, core := l.core } with
    | some r =>
      let p := r.part.2
      if l.status != 0 then failRequest s r l.status.toNat
      else if l.ctag == 3 then failRequest s r (5 + 0x1500 + 65536 * field l.line 34 2)
      else completePart (keepRemote s r l) r (slice l.line (p.pa % 128) p.len)
    | none => s) s

/-- PEND: the request waits at its home. It restarts the requester's timer, which the model does not run: RESPONSE_TIMEOUT says when it
expires. -/
def execPend (s : State) : Host.Outcome State Fault Refusal :=
  event (modify fun s => match findRequest s s.arg.msg with
    | some r => { s with requests := s.requests.map fun (x : Request) => if x.tag == r.tag then { x with pended := true } else x }
    | none => s) s

/-- A request holds an entry of a wait table: it waits on a tag, a cell, a flag or a pinned line (R50). -/
def Waiter.pends (w : Waiter) : Bool :=
  !w.retry && match w.on with
    | .tag _ | .cell _ | .flag _ | .pin _ => true
    | .barrier _ | .path _ => false

/-- PEND_TIMER: site n sends PEND for the requests that wait in its tables (R50). -/
def execPendTimer (s : State) : Host.Outcome State Fault Refusal :=
  event (modify fun s => s.waiters.foldl (fun (s : State) w =>
    match w.who with
    | .slot m => if m.dst == s.arg.n && m.op != 0x30 && w.pends then respond s m 0x43 0 [] else s
    | _ => s) s) s

/-- The slot as which a request goes on waiting at its home once its requester has given it up. -/
def leftSlot (s : State) (n : Nat) (a : Access) (p : Piece) : Slot := heldSlot s n p.pa (requestOp a p)

/-- The timer of a request that waits at a home of the module expires: no PEND has come back (R50). The request stays at its
home, and its answer is lost. -/
def abandonWaiter (s : State) (n : Nat) : State :=
  let lost (w : Waiter) : Option Piece := w.acc.pieces.find? (fun p => answerLost s w.who p.pa)
  let mine (w : Waiter) : Bool := match w.who with
    | .core c _ => c == n && (lost w).isSome
    | _ => false
  match s.waiters.find? mine with
  | none => s
  | some w =>
    match lost w with
    | none => s
    | some p =>
      let orphan : Waiter := { w with who := .slot (leftSlot s n w.acc p), dest := .none, len := 0 }
      lateTrap { s with waiters := s.waiters.map fun x => if x == w then orphan else x } n (waitEng w) 4 (accCode w.acc.act) p
where
  waitEng (w : Waiter) : Eng := match w.who with
    | .core _ e => e
    | _ => .t

/-- RESPONSE_TIMEOUT: the request with tag k of core n ends with ERR 0x04, or the question with tag k that the site of core n has asked
about a head, or the access of core n that waits at a home whose answers no longer reach it. -/
def execResponseTimeout (s : State) : Host.Outcome State Fault Refusal :=
  event (modify fun s => match s.requests.find? (fun r => r.core == s.arg.n && r.tag.toNat == s.arg.k) with
    | some r => failRequest s r 4
    | none => match s.queries.find? (fun q => q.1.toNat == s.arg.k && homeSite q.2 == siteOf s.arg.n) with
      | some q => headAnswer s q.2 0
      | none => abandonWaiter s s.arg.n) s

end Sys2Proof.Machine
end

