-- ==== Sys2Proof/Machine/Links.lean ====
section
/-! DEFINITION. Links and fabric ports: receiving, go-back-N retry, retraining and DOWN (R35 to R37, R42 to R49, R52, R54 to
R58), and the passage between the grid and the ports (R60, R66). -/

namespace Sys2Proof.Machine

/-! ## Ports and sites -/

/-- E-die and link number of a port (R53, R57). -/
def portSite (p : Nat) : Nat := 64 + p / 18
def portEdge (p : Nat) : Nat := 8 + p % 18
def portOfEdge (site e : Nat) : Nat := (site - 64) * 18 + e - 8

/-- The other end of a link; a port has none in the module. -/
def otherEnd (n e : Nat) : Option (Nat × Nat) := if isPort e then none else some (neighbour n e)

/-- A change of both ends of a link. -/
def modEnds (s : State) (n e : Nat) (f : Link → Link) : State :=
  let s := s.modLink n e f
  match otherEnd n e with
  | some o => s.modLink o.1 o.2 f
  | none => s

/-- A link that exists at a site (R52, R57). -/
def linkExists (n e : Nat) : Bool := if n < 64 then e < 4 else e < 26

/-! ## Retry (R46, R56) -/

/-- Puts a flit of a link on the wire. -/
def putWire (s : State) (n e : Nat) (bytes : List Byte) : State :=
  let onto := match otherEnd n e with
    | some o => o
    | none => (outside, portOfEdge n e)
  { s with wires := s.wires ++ [⟨onto.1, onto.2, bytes⟩] }

/-- The wire form of a flit of a link: its hop fields, or a route header around it. -/
def wireForm (s : State) (n e : Nat) (b : List Byte) (seq ack : BitVec 12) (crvc crcnt : Nat) (null nak : Bool) : List Byte :=
  if isPort e then
    withFabric (BitVec.ofNat 12 (field b 0 2)) s.fw.modid (portOfEdge n e) (slice (portPayload b) 0 256) seq ack null nak crvc crcnt
  else withHop (slice b 0 256) seq ack crvc null nak crcnt

/-- Sends a null flit with the link's ACK and the credits it owes next (R37). DESIGN CHOICE (notes/assumptions/39.md): a null fabric flit
and an FNAK carry DMOD 0 and the E-die's own site as inner SRC and DST, since no module is named as theirs. -/
def sendNull (s : State) (n e : Nat) (nak : Bool) : State :=
  let l := s.link n e
  let (cv, cr) := creditOut s n e
  let b := if isPort e then [0, 0] ++ nullFlit n n else nullFlit n (neighbour n e).1
  let w := wireForm s n e b 0 (l.expect - 1) cv cr true nak
  putWire (s.modLink n e (·.returned cv cr)) n e w

/-- Resends buffered flits in order, each as it was first sent but for its ACK (R46). -/
def resend (n e : Nat) : List (BitVec 12 × Nat × List Byte) → State → State
  | [], s => s
  | (seq, _, b) :: r, s =>
    let k := b.length - 2
    let w := wireForm s n e (b.take k) seq ((s.link n e).expect - 1) (field b k 1) (field b (k + 1) 1) false false
    resend n e r (putWire (s.modLink n e fun l => { l with replay := l.replay + 1 }) n e w)

/-- An ACK covers the flits up to its number. -/
def applyAck (l : Link) (ack : BitVec 12) : Link :=
  match l.buffer.findIdx? (fun x => x.1 == ack) with
  | some i => { l with buffer := l.buffer.drop (i + 1) }
  | none => l

/-! ## Retraining (R47, R48, R52) -/

/-- CRC failures in 1 ms that a link or a port bears (R47, R56). -/
def failLimit (e : Nat) : Nat := if isPort e then 128 else 64

/-- Cycles of 1 ms at 940 MHz (R2). -/
def msCycles : Nat := 940000

/-- Eight NAKs of one SEQ, or too many CRC failures in 1 ms, ask for a retrain of a link that is UP (R47, R56). -/
def limitMet (s : State) (n e : Nat) : Bool :=
  let l := s.link n e
  l.state == 2 && (l.nakRun ≥ 8 || decide (failLimit e ≤ (l.failAt.filter fun t => s.cycle.toNat < t + msCycles).length))

/-- The retrain that the retry rules ask for. -/
def replayLimit (s : State) (n e : Nat) : State :=
  startRetrain (modEnds s n e fun l => { l with replim := true, nakRun := 0, failAt := [] }) n e

/-- A NAK at a sender: every buffered flit after ACK goes out again; the eighth in a row for one SEQ asks for a retrain. -/
def nakAt (s : State) (n e : Nat) (ack : BitVec 12) : State :=
  let s := s.modLink n e fun l =>
    let l := applyAck l ack
    { l with nakRun := if l.nakSeq == ack + 1 then l.nakRun + 1 else 1, nakSeq := ack + 1 }
  if (s.link n e).nakRun ≥ 8 then s else resend n e (s.link n e).buffer s

/-- Buffers of an input per virtual channel (Table 2-6). -/
def fullCredits : List Nat := [32, 32, 64, 8]

/-- Buffers of an input that flits still hold: those queued to go on from it, and those that wait for a proxy entry. -/
def heldIn (s : State) (n e v : Nat) : Nat :=
  ((s.die n).links.flatMap fun l => l.2.queue.filter fun f => f.inp == some e && f.vc == v).length +
    ((s.die n).portHeld.filter fun f => portEdge f.1 == e && isPort e && flitVc (slice f.2 16 256) == v).length

/-- A sender's credits after a training: the buffers free at the receiver, less those that the flits to be resent take (R42, R48). -/
def creditsAfter (s : State) (n e : Nat) (buffer : List (BitVec 12 × Nat × List Byte)) : List Nat :=
  (List.range 4).map fun v =>
    let held := match otherEnd n e with
      | some o => heldIn s o.1 o.2 v
      | none => 0
    fullCredits.getD v 0 - held - (buffer.filter fun f => f.2.1 == v).length

/-- A link's flits on the wire are gone. -/
def clearWires (s : State) (ends : List (Nat × Nat)) : State :=
  { s with wires := s.wires.filter fun f => !ends.contains (f.site, f.edge) }

/-- Both ends of a link; a port has one. -/
def endsOf (n e : Nat) : List (Nat × Nat) :=
  match otherEnd n e with
  | some o => [(n, e), o]
  | none => [(n, e)]

/-- Both senders of a link learn what the other end has accepted: a port's, `ack`. -/
def ackEnds (s : State) (n e : Nat) (ack : BitVec 12) : State :=
  (endsOf n e).foldl (fun (s : State) x =>
    let a := match otherEnd x.1 x.2 with
      | some o => (s.link o.1 o.2).expect - 1
      | none => ack
    s.modLink x.1 x.2 fun l => applyAck l a) s

/-- A training attempt succeeds: the link is UP with the modules that passed, credits are the free buffers, each sender resumes
from its receiver's ACK (R35, R42, R48). What a flit returned before counts no more. -/
def trained (s : State) (n e : Nat) (mods : BitVec 8) (ack : BitVec 12) : State :=
  let s := ackEnds (clearWires s (endsOf n e)) n e ack
  let up (s : State) (x : Nat × Nat) : State := s.modLink x.1 x.2 fun l => { l with
    state := 2, half := !isPort e && popcount8 mods < 8, modok := if isPort e then 0 else mods, force := false, attempts := 0,
    credits := creditsAfter s x.1 x.2 l.buffer, owed := [0, 0, 0, 0], failAt := [], nakRun := 0, dropping := false,
    buffer := l.buffer.map fun f => (f.1, f.2.1, f.2.2.set (f.2.2.length - 1) 0) }
  let s := (endsOf n e).foldl up s
  let s := (endsOf n e).foldl (fun (s : State) x => resend x.1 x.2 (s.link x.1 x.2).buffer s) s
  (endsOf n e).foldl (fun s x => pump s x.1 x.2) s

/-- What a link that goes DOWN holds to be sent: the flits that its other end has not accepted, then those queued (R49). -/
def unsent (s : State) (x : Nat × Nat) : List Queued :=
  let l := s.link x.1 x.2
  (l.buffer.map fun f => (⟨f.2.1, f.2.2.take (f.2.2.length - 2), none⟩ : Queued)) ++ l.queue

/-- A link or port goes DOWN (R49, R56): what is on its way over it is treated as DOWN traffic, the firmware is told, streams with work
on dies that cannot be reached fail. -/
def goDown (s : State) (n e : Nat) : State :=
  let ends := endsOf n e
  let s := ends.foldl (fun (s : State) x => match otherEnd x.1 x.2 with
    | some o => s.modLink x.1 x.2 fun l => applyAck l ((s.link o.1 o.2).expect - 1)
    | none => s) (clearWires s ends)
  let lost := ends.map fun x => (x, unsent s x)
  let s := modEnds s n e fun l => { l with state := 0, down := true, timeout := true, force := false, queue := [], buffer := [] }
  let s := lost.foldl (fun (s : State) q => q.2.foldl (fun (s : State) f =>
    f.leave (discardFlit s (innerOf q.1.2 f.bytes)) q.1.1) s) s
  let s := s.modFw fun f => { f with newDown := f.newDown ++ ends }
  failUnreachable (raiseMsix s 2)

/-- A training attempt fails: the next begins, or after three the link goes DOWN (R48, R49). MODOK shows the modules that passed. -/
def attemptFails (s : State) (n e : Nat) (mods : BitVec 8) : State :=
  let s := modEnds s n e fun l => { l with timeout := true, attempts := l.attempts + 1, modok := if isPort e then 0 else mods }
  if (s.link n e).attempts ≥ 3 then goDown s n e else s

/-- A training attempt of a link in RETRAIN ends with the modules that passed: 4 of 8 suffice (R35). `ack` is the FACK of a port's far
end. -/
def attemptEnd (s : State) (n e : Nat) (mods : BitVec 8) (ack : BitVec 12) : State :=
  if (s.link n e).state != 3 then s
  else if popcount8 mods ≥ 4 then trained s n e mods ack
  else attemptFails s n e mods

/-- An attempt that is stopped has trained no module. -/
def attemptTimeout (s : State) (n e : Nat) : State := if (s.link n e).state == 3 then attemptFails s n e 0 else s

/-! ## Delivery -/

/-- A flit may leave a die toward the next one; its planned route moves on (R44, R45). -/
def forward (s : State) (n : Nat) (b : List Byte) (inp : Nat) : State :=
  let (e, route) := nextEdge n (flitDst b) (flitRoute b)
  enqueue s n e (flitVc b) (patch b 3 (leBytes 3 route.toNat)) (some inp)

/-- Sends an inner flit out of a port toward a module (R55). -/
def portOut (s : State) (p : Nat) (dmod : BitVec 12) (vc : Nat) (inner : List Byte) : State :=
  enqueue s (portSite p) (portEdge p) vc (leBytes 2 dmod.toNat ++ inner)

def isWindow (pa : Nat) : Bool :=
  match spaceOf pa with
  | .remote _ _ => true
  | _ => false

/-- Window and offset of an address in the pooled range (R59). -/
def windowOf (pa : Nat) : Nat × Nat := ((pa - 0x700000000000) / 0x40000000000, (pa - 0x700000000000) % 0x40000000000)

/-- The transfer that a slot opens: its number and its bytes (R41, R122). -/
def bulkOf (m : Slot) : Option (Nat × Nat) :=
  match m.op.toNat with
  | 0x30 => some (bits m.arg.toNat 31 24, bits m.arg.toNat 23 0)
  | 0x60 => some (bits m.arg.toNat 63 56, bits m.arg.toNat 55 32)
  | _ => none

/-- A message for another module at the E-die that carries its window's port (R60); a window that is not valid answers ERR
0x04 (R59). -/
def egress (s : State) (n : Nat) (m : Slot) (data : List Byte) : State :=
  let (w, off) := windowOf m.addr.toNat
  let fw := mapGet {} s.fw.fwin w
  let p := windowPort s fw
  let p := if portSite p = n then p else if fw.altv && portSite fw.altport.toNat = n then fw.altport.toNat else p
  -- a hand-off block or marker keeps the route its source chose (R66)
  let route (i : Nat) : Nat := if field m.payload i 1 = 1 && fw.altv then fw.altport.toNat else fw.port.toNat
  let p := if m.op == 0x60 then route 4 else if m.op == 0x63 then route 1 else p
  if !fw.valid then (if vcOf m = 0 ∨ vcOf m = 2 then (slotParts m data).foldl (fun s p => postSlot s (errBack p 4)) s else s)
  else
    let out := { m with addr := BitVec.ofNat 48 off, dst := homeSite off }
    let s := match bulkOf m with
      | some (bxid, count) => s.modDie n fun d => { d with outBulks := d.outBulks ++
          [{ src := m.src, bxid := BitVec.ofNat 8 bxid, port := p, rmod := fw.rmod, dst := homeSite off, left := bulkFlits count }] }
      | none => s
    let ps := slotParts out data
    portOut s p fw.rmod (vcOf m) (mkFlit 0 (vcOf m) ps.length m.src out.dst 0 0 (ps.flatMap slotBytes))

/-- An E-die forgets proxy entries. -/
def dropProxies (s : State) (n : Nat) (sel : Proxy → Bool) : State :=
  s.modDie n fun d => { d with proxies := d.proxies.filter fun x => !sel x }

/-- The proxy entries that an answer to one of them frees: itself, with the last of its answers, and after a CXACK what the stream's source still had open; an interim
answer and the note that follows a commitment free none. -/
def freeProxies (s : State) (n : Nat) (x : Proxy) (op : Byte) : State :=
  if op == 0x43 || op == 0x66 then s
  else if op == 0x64 then [64, 65, 66, 67].foldl (fun s n => dropProxies s n fun y =>
    y.smod == x.smod && y.src == x.src && y.stream == x.stream && (y.isBulk || y.tag == x.tag)) s
  else if x.left > 1 then
    s.modDie n fun d => { d with proxies := d.proxies.map fun y => if y.tag == x.tag then { y with left := y.left - 1 } else y }
  else dropProxies s n fun y => y.tag == x.tag

/-- A message to the sequencer of the module that a stream belongs to, from a die that has its block (notes/assumptions/24.md). -/
def toSequencer (m : Slot) : Bool := m.op == 0x66 || (m.op == 0x64 && m.core == 1)

/-- The answer to a request that came through a port goes out where it came in (R60); a final one frees its proxy entry. -/
def egressAnswer (s : State) (n : Nat) (x : Proxy) (m : Slot) : State :=
  let dst := if toSequencer m then 64 else x.src
  let out := { m with dst := dst, tag := x.origTag, nmask := if m.len = 0x30 then x.origBxid.zeroExtend 64 else m.nmask }
  let s := if toSequencer m then s else freeProxies s n x m.op
  portOut s x.port x.smod (vcOf m) (mkFlit 0 (vcOf m) 1 m.src dst 0 0 (slotBytes out))

/-- The entry behind an answer: by its TAG, or by the transfer number that an error names. -/
def findProxy (s : State) (n : Nat) (m : Slot) : Option Proxy :=
  (s.die n).proxies.find? fun x => if m.op == 0x42 && m.len == 0x30 then x.isBulk && x.bxid.zeroExtend 64 == m.nmask else x.tag == m.tag

/-- Operations that answer a request of another module. -/
def answersProxy (op : Byte) : Bool :=
  (0x40 ≤ op.toNat && op.toNat ≤ 0x43) || op == 0x61 || op == 0x64 || op == 0x66 || op == 0x68

/-- A slot at its destination site (R39); one with an unlisted operation gets ERR 0x01, a reserved hand-off operation is
discarded (R122). -/
def deliverSlot (s : State) (n e : Nat) (m : Slot) (data : List Byte) : State :=
  if n ≥ 64 && isWindow m.addr.toNat && !answersProxy m.op then egress s n m data
  else
    match (if n ≥ 64 && answersProxy m.op then findProxy s n m else none) with
    | some x => egressAnswer s n x m
    | none =>
      match rowOf m with
      | some r => arriveMsg s r m data none
      | none =>
        let s := protoErr s n e
        if 0x69 ≤ m.op.toNat && m.op.toNat ≤ 0x6F then s.modDie n fun d => { d with ho := { d.ho with proto := true } }
        else respondAll s m fun _ s => respond s m 0x42 1 []

/-- A line flit at its destination (R40); a reserved LOP gets ERR 0x01. -/
def deliverLine (s : State) (n : Nat) (l : LineMsg) : State :=
  let m := lineSlot l
  if n ≥ 64 && isWindow l.addr.toNat && l.lop != 0 then
    let (w, off) := windowOf l.addr.toNat
    let fw := mapGet {} s.fw.fwin w
    if !fw.valid then respond s m 0x42 4 []
    else
      let out := { l with addr := BitVec.ofNat 48 off, dst := homeSite off }
      portOut s (windowPort s fw) fw.rmod 0 (mkFlit 1 0 0 l.src out.dst 0 0 (lineBytes out))
  else
    match (if n ≥ 64 && l.lop == 0 then findProxy s n { m with op := 0x40 } else none) with
    | some x =>
      let out := { l with dst := x.src, tag := x.origTag }
      let s := freeProxies s n x 0x40
      portOut s x.port x.smod 1 (mkFlit 1 1 0 l.src x.src 0 0 (lineBytes out))
    | none =>
      match l.lop.toNat with
      | 0 => arriveMsg s .ldata m [] (some l)
      | 1 => arriveMsg s .lwrite m [] (some l)
      | 2 => arriveMsg s .lwritev m [] (some l)
      | _ => respond s m 0x42 1 []

/-- A bulk flit at its destination; at an E-die one of a transfer out of the module goes on (R60). -/
def deliverBulk (s : State) (n e : Nat) (b : List Byte) : State :=
  match (s.die n).outBulks.find? (fun o => o.src == flitSrc b && o.bxid == flitBxid b) with
  | some o =>
    let s := s.modDie n fun d => { d with outBulks :=
      if o.left ≤ 1 then d.outBulks.filter (· != o) else d.outBulks.map fun x => if x = o then { x with left := x.left - 1 } else x }
    portOut s o.port o.rmod 2 (mkFlit 2 2 0 (flitSrc b) o.dst 0 o.bxid.toNat (slice b 16 240))
  | none =>
    arriveMsg s .bulkFlit
      { noSlot with src := flitSrc b, dst := n, arg := (flitBxid b).zeroExtend 64, len := e } (slice b 16 240) none

/-- A flit that a site has accepted: forwarded, when it keeps its input buffer for now, or executed in slot order (R38, R42, R44). -/
def deliverFlit (s : State) (n e : Nat) (b : List Byte) : State × Bool :=
  if flitDst b ≠ n then (forward s n b e, false)
  else match flitKind b with
    | 0 => ((flitSlotList b).foldl (fun (s : State) m => deliverSlot s n e m.1 m.2) s, true)
    | 1 => (deliverLine s n (lineOfBytes (flitSrc b) (flitDst b) (slice b 16 240)), true)
    | _ => (deliverBulk s n e b, true)

/-! ## From other modules (R60) -/

/-- The die is lent to a module (R64). -/
def lentTo (s : State) (site : Nat) (smod : BitVec 12) : Bool := (s.die site).pool != 0 && (s.die site).peer == smod

/-- Numbers from an E-die's pools that no entry uses. TAGs are taken from 0x8000 up, which the module's own messages to an E-die do not
carry (notes/assumptions/24.md). -/
def freeProxyTag (d : Die) : Option (BitVec 16) :=
  ((List.range 4096).find? (fun t => !d.proxies.any (fun x => x.tag.toNat == 0x8000 + t))).map fun t => BitVec.ofNat 16 (0x8000 + t)
def freeBxid (d : Die) : Option (BitVec 8) :=
  ((List.range 256).find? (fun t => !d.proxies.any (fun x => x.isBulk && x.bxid.toNat == t))).map (BitVec.ofNat 8 ·)

/-- A transfer whose number its source uses again has ended (R41): its entry is free. -/
def endedBefore (smod : BitVec 12) (m : Slot) (x : Proxy) : Bool :=
  match bulkOf m with
  | some (b, _) => x.isBulk && x.smod == smod && x.src == m.src && x.origBxid.toNat == b
  | none => false

/-- Passes a request slot of another module on under the E-die's own name; none while the proxy table is full. -/
def ingressSlot (s : State) (p : Nat) (smod : BitVec 12) (m : Slot) (data : List Byte) : Option State :=
  let n := portSite p
  if m.dst ≥ 64 ∨ !lentTo s m.dst smod then
    some ((slotParts m data).foldl (fun s q =>
      portOut s p smod 1 (mkFlit 0 1 1 m.dst m.src 0 0 (slotBytes (errBack q 6)))) s)
  else
    let s := dropProxies s n (endedBefore smod m)
    match freeProxyTag (s.die n), (if (bulkOf m).isSome then freeBxid (s.die n) else some 0) with
    | none, _ | _, none => none
    | some t, some bx =>
      let old := ((bulkOf m).map (·.1)).getD 0
      let arg := if m.op == 0x30 then m.arg.toNat % 2 ^ 24 + bx.toNat * 2 ^ 24
        else if m.op == 0x60 then m.arg.toNat % 2 ^ 56 + bx.toNat * 2 ^ 56 else m.arg.toNat
      let s := s.modDie n fun d => { d with proxies := d.proxies ++
        [{ tag := t, smod := smod, port := p, src := m.src, origTag := m.tag, origBxid := BitVec.ofNat 8 old, bxid := bx, isBulk := (bulkOf m).isSome,
           stream := if m.op.toNat ≥ 0x60 then m.arg.truncate 20 else 0, left := (slotParts m data).length }] }
      some (postOn s { m with src := n, tag := t, arg := BitVec.ofNat 64 arg } data 0)

/-- A bulk flit of another module's transfer takes the number its transfer goes on with. -/
def ingressBulk (s : State) (p : Nat) (smod : BitVec 12) (b : List Byte) : State :=
  let n := portSite p
  match (s.die n).proxies.find? (fun x => x.isBulk && x.smod == smod && x.src == flitSrc b && x.origBxid == flitBxid b) with
  | some x => inject s 2 2 0 n (flitDst b) 0 x.bxid.toNat (slice b 16 240)
  | none => protoErr s n (portEdge p)

/-- What becomes of a flit that a port has accepted: its buffer is free, it goes on and keeps it, or it must wait for a proxy entry. -/
inductive Taken where
  | free | goesOn | waits
  deriving DecidableEq, Repr

/-- A flit that a port has accepted (R60): requests pass through the proxy table, answers go into the grid as they are. -/
def ingress (s : State) (p : Nat) (smod : BitVec 12) (b : List Byte) : State × Taken :=
  let vc := flitVc b
  let on : State × Taken := (forward s (portSite p) b (portEdge p), .goesOn)
  match flitKind b with
  | 0 =>
    if vc = 1 ∨ (flitSlotList b).all (fun m => answersProxy m.1.op) then
      (if flitDst b = portSite p then ((deliverFlit s (portSite p) (portEdge p) b).1, .free) else on)
    else
      let rec go (s : State) : List (Slot × List Byte) → Option State
        | [] => some s
        | m :: ms =>
          match ingressSlot s p smod m.1 m.2 with
          | some s => go s ms
          | none => none
      match go s (flitSlotList b) with
      | some s => (s, .free)
      | none => (s, .waits)
  | 1 =>
    let l := lineOfBytes (flitSrc b) (flitDst b) (slice b 16 240)
    if l.lop == 0 then on
    else if l.dst ≥ 64 ∨ !lentTo s l.dst smod then
      (portOut s p smod 1 (mkFlit 0 1 1 l.dst l.src 0 0 (slotBytes (responseSlot (lineSlot l) 0x42 6 []))), .free)
    else match freeProxyTag (s.die (portSite p)) with
      | none => (s, .waits)
      | some t =>
        let s := s.modDie (portSite p) fun d => { d with proxies := d.proxies ++ [{ tag := t, smod := smod, port := p, src := l.src, origTag := l.tag, origBxid := 0 }] }
        (postLine s { l with src := portSite p, tag := t }, .free)
  | _ => (ingressBulk s p smod b, .free)

/-- Flits that waited at a die's ports for a proxy entry go on, those of a port in order; each then returns its credit. `kept` are those
that wait on. -/
def flushHeld (n : Nat) (kept : List (Nat × List Byte)) : List (Nat × List Byte) → State → State
  | [], s => s.modDie n fun d => { d with portHeld := kept }
  | (p, b) :: r, s =>
    if kept.any (·.1 == p) then flushHeld n (kept ++ [(p, b)]) r s
    else
      let (s', how) := ingress s p (BitVec.ofNat 12 (field b 2 2)) (slice b 16 256)
      if how == .waits then flushHeld n (kept ++ [(p, b)]) r s
      else flushHeld n kept r (if how == .free then freeInput s' n (portEdge p) (flitVc (slice b 16 256)) else s')

def flushPorts (n : Nat) (s : State) : State :=
  match (s.die n).portHeld with
  | [] => s
  | l => flushHeld n [] l s

/-! ## Receiving (R36, R37, R46, R55, R56) -/

/-- Hop fields of a flit as its receiver reads them. -/
structure Hop where
  seq : BitVec 12
  ack : BitVec 12
  crvc : Nat
  crcnt : Nat
  null : Bool
  nak : Bool
  crcOk : Bool
  /-- a reserved kind or a reserved bit that is set -/
  bad : Bool
  vc : Nat
  deriving DecidableEq, Repr

/-- A flit that fails: counted, and but for a null flit answered with NAK; later flits are discarded until the replay. -/
def failFlit (s : State) (n e : Nat) (h : Hop) : State :=
  let s := modEnds s n e fun l => { l with lcrc := true }
  let s := s.modLink n e fun l => { l with
    crcerr := l.crcerr + 1, failAt := (s.cycle.toNat :: l.failAt).take (failLimit e), proto := l.proto || (h.crcOk && h.bad) }
  if h.null then s else sendNull (s.modLink n e fun l => { l with dropping := true }) n e true

/-- The receiver of a link takes a flit; `deliver` answers whether its buffer is free again. -/
def receive (s : State) (n e : Nat) (h : Hop) (deliver : State → State × Bool) : State :=
  let l := s.link n e
  if l.state != 2 then s
  else if !h.crcOk || h.bad then failFlit s n e h
  else if !h.null && h.seq != l.expect then if l.dropping then s else failFlit s n e h
  else
    let s := s.modLink n e fun l =>
      let l := applyAck l h.ack
      { l with credits := l.credits.set h.crvc (l.credits.getD h.crvc 0 + h.crcnt) }
    let s := if h.nak then nakAt s n e h.ack else s
    let s := if h.null then s
      else
        let (s, free) := deliver (s.modLink n e fun l => { l with expect := l.expect + 1, dropping := false, rxflit := l.rxflit + 1 })
        if free then freeInput s n e h.vc else s
    pump s n e

/-- Hop fields of a 256-byte flit. -/
def hopOf (b : List Byte) : Hop :=
  { seq := flitSeq b, ack := flitAck b, crvc := field b 10 1 % 4, crcnt := field b 11 1, null := flitNull b, nak := flitNak b,
    crcOk := slice b 12 4 == flitCrc b, vc := flitVc b,
    bad := flitKind b = 3 || field b 0 1 ≥ 128 || field b 1 1 ≥ 128 || field b 2 1 ≥ 128 || field b 10 1 ≥ 16 }

/-- Hop fields of a fabric flit (Table 3-1). -/
def fabricHop (b : List Byte) : Hop :=
  let q := field b 5 3
  let f := field b 8 1
  let inner := slice b 16 256
  { seq := BitVec.ofNat 12 q, ack := BitVec.ofNat 12 (q / 4096), crvc := bits f 3 2, crcnt := field b 9 1,
    null := f.testBit 0, nak := f.testBit 1, crcOk := slice b 12 4 == leBytes 4 (crc32c (slice b 0 12 ++ inner)).toNat,
    vc := flitVc inner,
    bad := field b 0 2 ≥ 4096 || field b 2 2 ≥ 4096 || field b 4 1 ≥ 128 || f ≥ 16 || field b 10 2 ≠ 0 || flitKind inner = 3 ||
      field inner 0 1 ≥ 128 || field inner 1 1 ≥ 128 || field inner 2 1 ≥ 128 || field inner 10 1 ≥ 16 }

/-! ## Rows of links -/

/-- FLIT_RECEIVE: a flit comes in at edge k of site n. -/
def execFlitReceive (s : State) : Host.Outcome State Fault Refusal :=
  event (modify fun s =>
    let a := s.arg
    if linkExists a.n a.k && !isPort a.k && !tripped s a.n then
      let s := receive s a.n a.k (hopOf a.data) fun s => deliverFlit s a.n a.k a.data
      if a.n ≥ 64 then flushPorts a.n s else s
    else s) s

/-- NAK_RECEIVE: a NAK whose ACK is `val` at edge k of site n. -/
def execNakReceive (s : State) : Host.Outcome State Fault Refusal :=
  event (modify fun s =>
    if (s.link s.arg.n s.arg.k).state == 2 then nakAt s s.arg.n s.arg.k (s.arg.val.truncate 12) else s) s

/-- NULL_FLIT_SEND at edge k of site n; it asks again for a replay that has not come. -/
def execNullFlitSend (s : State) : Host.Outcome State Fault Refusal :=
  event (modify fun s =>
    let l := s.link s.arg.n s.arg.k
    if linkExists s.arg.n s.arg.k && l.state == 2 then sendNull s s.arg.n s.arg.k l.dropping else s) s

/-- RETRAIN_START at edge k of site n, where the retry rules ask for it. -/
def execRetrainStart (s : State) : Host.Outcome State Fault Refusal :=
  event (modify fun s => if linkExists s.arg.n s.arg.k && limitMet s s.arg.n s.arg.k then replayLimit s s.arg.n s.arg.k else s) s

def execLinkForceRetrain (s : State) : Host.Outcome State Fault Refusal :=
  event (modify fun s => if linkExists s.arg.n s.arg.k then forceRetrain s s.arg.n s.arg.k else s) s

/-- RETRAIN_ATTEMPT_END: the modules of `val` have passed. -/
def execRetrainAttemptEnd (s : State) : Host.Outcome State Fault Refusal :=
  event (modify fun s => attemptEnd s s.arg.n s.arg.k (s.arg.val.truncate 8) 0) s

def execRetrainAttemptTimeout (s : State) : Host.Outcome State Fault Refusal :=
  event (modify fun s => attemptTimeout s s.arg.n s.arg.k) s

/-! ## Rows of ports -/

/-- FABRIC_FLIT_RECEIVE: a fabric flit comes in at port n; `flag` says that a codeword with a byte of it could not be corrected
(R54). -/
def execFabricFlitReceive (s : State) : Host.Outcome State Fault Refusal :=
  event (modify fun s =>
    let a := s.arg
    let site := portSite a.n
    let h := fabricHop a.data
    let h := if a.flag then { h with crcOk := false } else h
    let smod := BitVec.ofNat 12 (field a.data 2 2)
    if tripped s site then s else receive s site (portEdge a.n) h fun s =>
      let inner := slice a.data 16 256
      let hold : State × Bool := (s.modDie site fun d => { d with portHeld := d.portHeld ++ [(a.n, a.data)] }, false)
      if !(s.die site).portHeld.any (·.1 == a.n) || flitVc inner % 2 = 1 then
        let r := ingress s a.n smod inner
        if r.2 == .waits then hold else (r.1, r.2 == .free)
      else hold) s

def execFabricNakReceive (s : State) : Host.Outcome State Fault Refusal :=
  event (modify fun s =>
    let site := portSite s.arg.n
    let e := portEdge s.arg.n
    if (s.link site e).state == 2 then nakAt s site e (s.arg.val.truncate 12) else s) s

/-- PORT_RETRAIN_START of port n, where the retry rules ask for it. -/
def execPortRetrainStart (s : State) : Host.Outcome State Fault Refusal :=
  event (modify fun s =>
    let n := portSite s.arg.n
    let e := portEdge s.arg.n
    if limitMet s n e then replayLimit s n e else s) s

/-- PORT_RETRAIN_ATTEMPT_END of port n: `flag` says that it trained, `val` is the FACK from which it resumes. -/
def execPortRetrainAttemptEnd (s : State) : Host.Outcome State Fault Refusal :=
  event (modify fun s => attemptEnd s (portSite s.arg.n) (portEdge s.arg.n) (if s.arg.flag then 0xFF else 0) (s.arg.val.truncate 12)) s

def execPortRetrainAttemptTimeout (s : State) : Host.Outcome State Fault Refusal :=
  event (modify fun s => attemptTimeout s (portSite s.arg.n) (portEdge s.arg.n)) s

end Sys2Proof.Machine
end

