-- ==== Sys2Proof/Machine/Handoff.lean ====
section
/-! DEFINITION. The hand-off engine (chapter 6): block images (R112 to R120), CHOFF (R121, R447), sending, commit and retry (Tables
6-2, 6-3), cancellation at source and destination (R127), shared frames (R130), and error responses (R39). -/

namespace Sys2Proof.Machine

/-! ## Entries and blocks -/

/-- A die uses an entry only for its full stream id (R110). -/
def findEntry (s : State) (n : Nat) (stream : BitVec 20) : Option HoEntry :=
  match mapFind (s.die n).entries (stream.toNat % 65536) with
  | some h => if h.stream == stream then some h else none
  | none => none

def modEntry (s : State) (n : Nat) (h : HoEntry) : State :=
  s.modDie n fun d => { d with entries := mapSet d.entries (h.stream.toNat % 65536) h }

def modHo (s : State) (n : Nat) (f : HoRegs → HoRegs) : State := s.modDie n fun d => { d with ho := f d.ho }

/-- T, tokens of a block (R109). -/
def blockTokens (h : HoEntry) (bsn : Nat) : Nat :=
  if bsn % h.ntb + 1 < h.ntb then 128 else h.plen - 128 * (h.ntb - 1)

/-- FP8 rows of a frame whose page holds r tokens (R115). -/
def fp8Rows (r conv : Nat) : Nat :=
  if r = 256 then 256
  else if conv = 2 ∧ r = 128 then 128
  else [128, 192, 224, 240, 248, 252, 254].foldl (fun q t => if r > t then t else q) 0

/-- What of a block its image holds: its half, q, its first row and its tokens (R118). -/
structure BlockShape where
  heads : Nat
  half : Nat
  q : Nat
  tokens : Nat
  conv : Nat
  deriving DecidableEq, Repr

def blockShape (h : HoEntry) (bsn conv : Nat) : BlockShape :=
  let t := bsn % h.ntb
  { heads := h.heads, half := t % 2, q := fp8Rows (min 256 (h.plen - 256 * (t / 2))) conv, tokens := blockTokens h bsn,
    conv := conv }

/-- A line of an image: head, K 0 or V 1, and a scale line, an FP8 row, or half of a BF16 row. -/
inductive ImageLine where
  | scale (head kv : Nat)
  | fp8 (head kv row : Nat)
  | bf16 (head kv row part : Nat)
  deriving DecidableEq, Repr

def BlockShape.first (b : BlockShape) : Nat := 128 * b.half

/-- FP8 rows and BF16 rows of a block. -/
def BlockShape.fp8 (b : BlockShape) : List Nat :=
  (List.range (min b.q (b.first + b.tokens) - b.first)).map (b.first + ·)
def BlockShape.window (b : BlockShape) : List Nat :=
  let lo := max b.q b.first
  (List.range (b.first + b.tokens - lo)).map (lo + ·)

/-- The lines of an image in order (R119). -/
def BlockShape.lines (b : BlockShape) : List ImageLine :=
  (List.range b.heads).flatMap fun h =>
    (if b.fp8.isEmpty then [] else [.scale h 0, .scale h 1]) ++
    [0, 1].flatMap (fun kv => b.fp8.map (ImageLine.fp8 h kv)) ++
    [0, 1].flatMap (fun kv => b.window.flatMap fun i => [ImageLine.bf16 h kv i 0, ImageLine.bf16 h kv i 1])

/-! ## Source images (R112, R116, R118) -/

/-- The BF16 code of row i, dimension d of K or V of a head in a source image. -/
def BlockShape.elem (b : BlockShape) (src : List Byte) (head kv row d : Nat) : Nat :=
  field src (kv * (b.tokens * b.heads * 256) + ((row - b.first) * b.heads + head) * 256 + 2 * d) 2

/-- The scale byte of a channel from the values first quantised (R116). -/
def scaleByte (vs : List Val) : Nat :=
  if vs.contains .nan then 0xFF
  else
    let (n, d) := amax vs
    if n = 0 then 0 else (clampI 1 254 (floorLog2 n d - 8 + 127)).toNat

/-- The E4M3 code of a value under a scale byte (R116). -/
def kvCode (v : Val) (scale : Nat) : Nat :=
  match v with
  | .nan => 0x7F
  | v => (deliverFp 3 0 true (scaleVal v (127 - (scale : Int))) 0).1

/-- The rows whose values fix the scales of a block's half (R118). -/
def BlockShape.scaleRows (b : BlockShape) : List Nat :=
  if b.conv = 1 ∧ b.half = 1 then (List.range 64).map (128 + ·) else b.fp8

def BlockShape.scaleOf (b : BlockShape) (src : List Byte) (head kv d : Nat) : Nat :=
  scaleByte (b.scaleRows.map fun i => decodeFp 1 (b.elem src head kv i d))

/-- The 128 bytes of a line of an image. -/
def BlockShape.line (b : BlockShape) (src : List Byte) : ImageLine → List Byte
  | .scale h kv => (List.range 128).map fun d => BitVec.ofNat 8 (b.scaleOf src h kv d)
  | .fp8 h kv i => (List.range 128).map fun d => BitVec.ofNat 8 (kvCode (decodeFp 1 (b.elem src h kv i d)) (b.scaleOf src h kv d))
  | .bf16 h kv i part => (List.range 64).flatMap fun d => leBytes 2 (b.elem src h kv i (64 * part + d))

/-- The image that a block travels as (R119, R120). -/
def blockImage (h : HoEntry) (bsn conv : Nat) (src : List Byte) : List Byte :=
  if conv = 0 then src else let b := blockShape h bsn conv; b.lines.flatMap (b.line src)

/-! ## Landing addresses (R111, R113, R114, R119) -/

/-- First frame number and frame count of a stack's pool. -/
def poolOf (s : State) (site : Nat) : Nat × Nat :=
  match s.fw.plan with
  | some p => mapGet (0, 0) p.pools site
  | none => (0, 0)

/-- Physical addresses of free frame i and of its header slot (R114). -/
def frameAddr (pool : Nat × Nat) (i : Nat) : Nat × Nat :=
  ((pool.1 + (pool.2 + 127) / 128 + i) * 0x10000, (pool.1 + i / 128) * 0x10000 + i % 128 * 512)

/-- The frame of page p of (layer, head) on a stack (R111). -/
def pageFrame (s : State) (n : Nat) (h : HoEntry) (layer head p : Nat) : Nat × Nat :=
  let rank := ((h.dests.take layer).filter (fun d => d.1 == n)).length
  frameAddr (h.pool.getD (poolOf s n)) (h.list.getD ((rank * h.heads + head) * h.frames + p) 0)

/-- Where a line of an image lands. -/
def landAt (s : State) (n : Nat) (h : HoEntry) (bsn : Nat) (b : BlockShape) : ImageLine → Nat
  | .scale hd kv => (pageFrame s n h (bsn / h.ntb) hd (bsn % h.ntb / 2)).2 + 128 * (2 * b.half + kv)
  | .fp8 hd kv i => (pageFrame s n h (bsn / h.ntb) hd (bsn % h.ntb / 2)).1 + 32768 * kv + 128 * i
  | .bf16 hd kv i part => (pageFrame s n h (bsn / h.ntb) hd (bsn % h.ntb / 2)).1 + 32768 * kv + 128 * b.q + 256 * (i - b.q) + 128 * part

def headCell (s : State) (n : Nat) (h : HoEntry) (bsn : Nat) : Nat :=
  (pageFrame s n h (bsn / h.ntb) 0 (bsn % h.ntb / 2)).1 + 16384 * (bsn % h.ntb % 2)

/-- The landing range of a block of conversion 1 or 2, in the image's order. -/
def landingLines (s : State) (n : Nat) (h : HoEntry) (bsn conv : Nat) : List Nat :=
  let b := blockShape h bsn conv
  b.lines.map (landAt s n h bsn b)

/-- The range of a raw block (R120). -/
def rawLines (cell bytes : Nat) : List Nat := (List.range ((bytes + 127) / 128)).map fun i => cell + 128 * i

/-! ## Routes (R48, R66) -/

/-- Window of a destination that lies behind one. -/
def winOf (s : State) (dst : Nat) : Fwin := mapGet {} s.fw.fwin (dst - 128)

/-- Port of a route through a window. -/
def winPort (w : Fwin) (r : Nat) : Nat := if r = 1 && w.altv then w.altport.toNat else w.port.toNat

/-- The destination of a block: the D-stack of its layer, or the window of its cell, 128 + w. -/
def blockDst (h : HoEntry) (bsn cell : Nat) : Nat :=
  match spaceOf cell with
  | .remote w _ => 128 + w
  | _ => (h.dests.getD (bsn / h.ntb) (0, false)).1

/-- The number of the route a message takes now: 0 primary, 1 alternate. -/
def currentRoute (s : State) (n dst : Nat) : Nat :=
  if dst ≥ 128 then b2n (windowPort s (winOf s dst) != (winOf s dst).port.toNat)
  else b2n (chooseRoute s n dst 2 != (routesOf s n dst).1)

/-- A route exists and no link of it is DOWN. -/
def routeUsable (s : State) (n dst r : Nat) : Bool :=
  if dst ≥ 128 then
    let w := winOf s dst
    let p := winPort w r
    w.valid && (r = 0 || w.altv) && !linkDown s (portSite p, portEdge p) && !bulkDown s n (portSite p)
  else match r, routesOf s n dst with
    | 0, (a, _) => !(pathOf 20 n dst a).any (linkDown s)
    | _, (_, some a) => !(pathOf 20 n dst a).any (linkDown s)
    | _, (_, none) => false

/-- Site and ROUTE by which a message of route r leaves. -/
def routeTo (s : State) (n dst r : Nat) : Nat × BitVec 24 :=
  if dst ≥ 128 then
    let e := portSite (winPort (winOf s dst) r)
    (e, chooseRoute s n e 2)
  else
    let (a, alt) := routesOf s n dst
    (dst, if r = 1 then alt.getD a else a)

def streamOfSlot (m : Slot) : BitVec 20 := m.arg.truncate 20
def bsnOfSlot (m : Slot) : Nat := field m.payload 0 2

/-- A hand-off message from site n (R122). -/
def hoSlot (n dst op : Nat) (stream : BitVec 20) (payload : List Byte) : Slot :=
  { noSlot with src := n, dst := dst, op := BitVec.ofNat 8 op, arg := stream.zeroExtend 64, payload := slice payload 0 32 }

/-! ## Source blocks (Table 6-2) -/

def SrcBlock.isOf (b : SrcBlock) (stream : BitVec 20) (bsn : Nat) : Bool := b.stream == stream && b.bsn == bsn

def findSrc (s : State) (n : Nat) (stream : BitVec 20) (bsn : Nat) : Option SrcBlock :=
  (s.die n).srcs.find? (·.isOf stream bsn)

def setSrc (s : State) (n : Nat) (b : SrcBlock) : State :=
  s.modDie n fun d => { d with srcs := d.srcs.map fun (x : SrcBlock) => if x.isOf b.stream b.bsn then b else x }

/-- The engine sends a block of the stream. -/
def sendingNow (s : State) (n : Nat) (stream : BitVec 20) : Bool :=
  (s.die n).srcs.any fun b => b.stream == stream && b.st == .sending

/-- Releases a block: its bytes arrive at its barrier, with the code of a source that could not be read (R123). A release that the
full fault queue holds up is tried again. SRCDONE counts what has been released since HCANCEL (Table 23-5). -/
def releaseSrc (s : State) (n : Nat) (b : SrcBlock) (code addr : Nat) : State :=
  match s.ops.find? (fun o => o.id == b.op) with
  | none => drop s
  | some o =>
    let s' := retireOp s o code addr
    if s'.ops.any (fun x => x.id == b.op) then s' else drop s'
where
  drop (s : State) : State :=
    let s := s.modDie n fun d => { d with srcs := d.srcs.filter (fun x => !x.isOf b.stream b.bsn) }
    let s := modHo s n fun h => { h with released := h.released + 1 }
    match findEntry s n b.stream with
    | some h =>
      if !h.cancelled then s
      else modEntry s n (if b.st == .queued then { h with unsent := h.unsent + 1 } else { h with sentRel := h.sentRel + 1 })
    | none => s

/-- The head cell that an HBLK names; a cell that its 48 bits cannot name goes as all ones, which is no cell (notes/assumptions/24.md). -/
def cellField (cell : Nat) : BitVec 48 := BitVec.ofNat 48 (min cell (2 ^ 48 - 1))

/-- Sends an attempt of a block: HBLK and its image on one route (R122, R41). -/
def sendBlock (s : State) (n : Nat) (h : HoEntry) (b : SrcBlock) (route : Nat) (src : List Byte) : State :=
  let img := blockImage h b.bsn b.conv src
  let bxid := ((s.die n).ho.sent + (s.die n).ho.resent).toNat % 256
  let (onto, bits) := routeTo s n b.dst route
  let m : Slot := { hoSlot n onto 0x60 b.stream
      (leBytes 2 b.bsn ++ [BitVec.ofNat 8 b.conv, BitVec.ofNat 8 b.attempt, BitVec.ofNat 8 route, 0] ++ leBytes 2 (blockTokens h b.bsn)) with
    addr := cellField b.cell, arg := BitVec.ofNat 64 (b.stream.toNat + img.length * 2 ^ 32 + bxid * 2 ^ 56) }
  let first := b.st == .queued
  let s := modHo s n fun r => if first then { r with sent := r.sent + 1 } else { r with resent := r.resent + 1 }
  let s := setSrc s n { b with st := .sending, route := route, bxid := bxid, used := if b.used.contains route then b.used else b.used ++ [route],
                               due := false, via := none }
  let s := postOn s m [] bits
  postBulk n onto bxid bits (bulkFlits img.length) img s

/-- Starts an attempt: reads the source (R118); a source that cannot be read releases the block (Table 6-2). An attempt waits while
its source has cells or remote parts still to come. A block whose stream has been freed is released. -/
def attempt (n : Nat) (b : SrcBlock) : H Unit := do
  let s ← get
  match findEntry s n b.stream, s.ops.find? (fun o => o.id == b.op) with
  | some h, some o =>
    let (more, bad) ← cellsReady (.op o.id) (linesOf o.src)
    if more then pure ()
    else if !(← remoteReady o o.src) then pure ()
    else match bad with
      | some (c, a) => modify (releaseSrc · n b c a)
      | none =>
        let s ← get
        let bs := readSegs s n o.id o.src
        match firstBad o.src bs with
        | some (c, a) => set (releaseSrc s n b c a)
        | none =>
          set { sendBlock s n h b (b.via.getD (currentRoute s n b.dst)) (bs.map (·.1)) with
            arrived := s.arrived.filter (fun r => r.1 != opKey o.id) }
  | none, _ => set (releaseSrc s n b 0 0)
  | _, _ => pure ()

/-- A burst of hand-offs over several regions begins in ascending region number (R33): a die's first block of a stream waits while a die
of a lower region has one that could go and none that has begun (notes/assumptions/39.md). -/
def burstWaits (s : State) (n : Nat) (stream : BitVec 20) : Bool :=
  let mine (d : Die) : List SrcBlock := d.srcs.filter fun b => b.stream == stream
  let begun (d : Die) : Bool := (mine d).any fun b => b.st != .queued
  !begun (s.die n) && s.dies.any fun d => decide (d.1 < 64) && decide (regionOf d.1 < regionOf n) && !tripped s d.1 && !begun d.2 &&
    (mine d.2).any fun b => !s.waiters.any fun w => w.who == .op b.op

/-- HANDOFF_SEND: the engine of site n is free for stream `val`: a resend that waits, else the first QUEUED block in order of
acceptance. -/
def execHandoffSend (s : State) : Host.Outcome State Fault Refusal :=
  event (do
    let s ← get
    let stream : BitVec 20 := s.arg.val.truncate 20
    if sendingNow s s.arg.n stream && (findEntry s s.arg.n stream).isSome then pure ()
    else
      let mine := (s.die s.arg.n).srcs.filter (fun b => b.stream == stream)
      let freed := if (findEntry s s.arg.n stream).isSome then none else mine.head?
      match freed <|> mine.find? (·.due) <|> mine.find? (fun b => b.st == .queued && !burstWaits s s.arg.n stream) with
      | some b => attempt s.arg.n b
      | none => pure ()) s

/-- HBLK_SENT: the last flit of block c of stream `val` has left site n. -/
def execHblkSent (s : State) : Host.Outcome State Fault Refusal :=
  event (modify fun s => match findSrc s s.arg.n (s.arg.val.truncate 20) s.arg.c with
    | some b => if b.st == .sending then setSrc s s.arg.n { b with st := .wait } else s
    | none => s) s

/-- A block at its retry limit: HFAIL, and the copy is kept. -/
def holdBlock (s : State) (n : Nat) (b : SrcBlock) : State :=
  postSlot (setSrc s n { b with st := .held, due := false, via := none })
    (hoSlot n 64 0x67 b.stream (leBytes 2 b.bsn))

/-- A resend: at once while the engine is free for the stream, else when it becomes so. -/
def resendBlock (n : Nat) (b : SrcBlock) : H Unit := do
  let b := { b with st := .wait, due := true }
  modify (setSrc · n b)
  if !sendingNow (← get) n b.stream then attempt n b

/-- HANDOFF_TIMER_EXPIRE: the timer of block c of stream `val` at site n. -/
def execHandoffTimerExpire (s : State) : Host.Outcome State Fault Refusal :=
  event (do
    let s ← get
    let n := s.arg.n
    match findSrc s n (s.arg.val.truncate 20) s.arg.c with
    | some b =>
      if b.st != .wait || b.due then pure ()
      else if b.attempt < (s.die n).ho.retrylim.toNat then resendBlock n { b with attempt := b.attempt + 1 }
      else set (holdBlock (modHo s n fun h => { h with limit := true }) n b)
    | none => pure ()) s

/-! ## CHOFF (R121, R447) -/

/-- Which HERR bit a CHOFF sets that R121 refuses: ORDER 0, CONV 1, PROTO 4. The cell of a conversion 1 or 2 is the destination's to
judge. -/
def choffRefusal (s : State) (n handle bytes cell : Nat) : Option Nat :=
  let bsn := bits handle 35 20
  let conv := bits handle 43 36
  match findEntry s n (BitVec.ofNat 20 handle) with
  | none => some 4
  | some h =>
    let early : Bool := match h.lastBsn with
      | some l => decide (bsn ≤ l)
      | none => false
    if handle ≥ 2 ^ 44 then some 1
    else if bsn ≥ h.layers * h.ntb then some 0
    else if conv ≠ 0 ∧ conv ≠ h.conv then some 1
    else if conv ≠ 0 ∧ bytes ≠ 2 * blockTokens h bsn * h.heads * 256 then some 1
    else if conv = 0 ∧ (bytes = 0 ∨ bytes > 0x400000 ∨ cell % 128 ≠ 0 ∨
      cell / 0x400000 ≠ (cell + (bytes + 127) / 128 * 128 - 1) / 0x400000) then some 1
    else if early then some 0
    else none

def setHerr (s : State) (n bit : Nat) : State := modHo s n fun h => match bit with
  | 0 => { h with order := true }
  | 1 => { h with conv := true }
  | _ => { h with proto := true }

/-- Accepts a launched hand-off: QUEUED, or released at once after HCANCEL (R123, R127 step 2). -/
def acceptBlock (s : State) (n : Nat) (o : Op) : State :=
  let handle := o.nums.getD 0 0
  let cell := o.nums.getD 1 0
  let bsn := bits handle 35 20
  match findEntry s n (BitVec.ofNat 20 handle) with
  | none => s
  | some h =>
    let b : SrcBlock := { stream := h.stream, bsn := bsn, st := .queued, dst := blockDst h bsn cell, cell := cell,
                          conv := bits handle 43 36, op := o.id }
    let s := modEntry s n { h with lastBsn := some bsn }
    let s := s.modDie n fun d => { d with srcs := d.srcs ++ [b] }
    if h.cancelled then releaseSrc s n b 0 0 else s

/-- CHOFF pops the handle, src, bytes and the destination cell. -/
def execChoff (s : State) : Host.Outcome State Fault Refusal :=
  engWord .c (do
    let a ← topN .c 4
    let handle := (a.getD 0 0).toNat
    let bytes := (a.getD 2 0).toNat
    let cell := (a.getD 3 0).toNat
    let s ← get
    let n := siteOf s.turn
    match choffRefusal s n handle bytes cell with
    | some bit => do
      drop .c 4
      modify fun s => refuse (setHerr s n bit) .c bytes 1
    | none => do
      let src ← segsOf (a.getD 1 0) bytes aSrc
      drop .c 4
      let s ← get
      if src.any (badSrc s) then modify fun s => refuse s .c bytes 1
      else
        let o := { newOp s .handoff .c bytes with src := joinSegs src, nums := [handle, cell] }
        modify fun s => acceptBlock (launchOp s o) n o) s

/-! ## Answers at the source -/

/-- CACK releases the block (Table 6-2). -/
def execCack (s : State) : Host.Outcome State Fault Refusal :=
  event (modify fun s =>
    let m := s.arg.msg
    match findSrc s m.dst (streamOfSlot m) (bsnOfSlot m) with
    | some b => if b.st == .queued then s else releaseSrc s m.dst b 0 0
    | none => s) s

/-- HREJ: the block is as at the retry limit (R125). -/
def execHrej (s : State) : Host.Outcome State Fault Refusal :=
  event (modify fun s =>
    let m := s.arg.msg
    let s := modHo s m.dst fun h => { h with rej := true }
    match findSrc s m.dst (streamOfSlot m) (bsnOfSlot m) with
    | some b => if b.st == .sending || b.st == .wait then holdBlock s m.dst b else s
    | none => s) s

/-! ## Cancellation at the source (R127) -/

/-- Sends one marker, which names the route it stands for; a route that is DOWN gives way to the other. -/
def sendMark (s : State) (n dst : Nat) (stream : BitVec 20) (cell nmark route : Nat) : State :=
  let r := if !routeUsable s n dst route && routeUsable s n dst (1 - route) then 1 - route else route
  let (onto, bits) := routeTo s n dst r
  let m := hoSlot n onto 0x63 stream [BitVec.ofNat 8 nmark, BitVec.ofNat 8 route, BitVec.ofNat 8 n]
  postOn s (if dst ≥ 128 then { m with addr := BitVec.ofNat 48 cell, tag := BitVec.ofNat 16 dst } else m) [] bits

/-- The markers for one destination: one on each route that carried an unreleased block, or one on the primary (step 3). -/
def markDest (n : Nat) (stream : BitVec 20) (s : State) (dst : Nat) : State :=
  let mine := (s.die n).srcs.filter (fun b => b.stream == stream && b.dst == dst)
  let used := [0, 1].filter (fun r => mine.any (fun b => b.used.contains r))
  let routes := if used.isEmpty then [0] else used
  let cell := (mine.head?.map (·.cell)).getD 0
  let s := modHo s n fun h => { h with marks := h.marks + BitVec.ofNat 32 routes.length }
  routes.foldl (fun (s : State) r => sendMark s n dst stream cell routes.length r) s

/-- SRCDONE once every destination that can answer the source has (step 6). -/
def checkSource (s : State) (n : Nat) (stream : BitVec 20) : State :=
  match findEntry s n stream with
  | none => s
  | some h =>
    let done := (blockDests s n h).all fun d => h.acked.contains d || lostDst s n d
    if h.cancelled && !h.srcdone && done then
      postSlot (modEntry s n { h with srcdone := true }) (hoSlot n 64 0x65 stream (leBytes 4 h.unsent ++ leBytes 4 h.sentRel))
    else s

/-- HCANCEL at a source (steps 2 and 3). A die with no entry answers SRCDONE at once. -/
def execHcancel (s : State) : Host.Outcome State Fault Refusal :=
  event (modify fun s =>
    let m := s.arg.msg
    let n := m.dst
    let stream := streamOfSlot m
    match findEntry s n stream with
    | none => postSlot s (hoSlot n 64 0x65 stream (List.replicate 8 0))
    | some h =>
      if h.cancelled then s
      else
        let s := modEntry s n { h with cancelled := true }
        let mine := (s.die n).srcs.filter (fun b => b.stream == stream)
        let s := mine.foldl (fun (s : State) b =>
          if b.st == .queued then releaseSrc s n b 0 0 else setSrc s n { b with st := .cancelWait, due := false, via := none }) s
        let s := (blockDests s n h).foldl (markDest n stream) s
        checkSource s n stream) s

/-- A destination has answered a source's markers: its blocks in CANCELWAIT are released (step 6). -/
def ackDest (s : State) (n : Nat) (stream : BitVec 20) (d : Nat) : State :=
  match findEntry s n stream with
  | none => s
  | some h =>
    let s := modEntry s n { h with acked := if h.acked.contains d then h.acked else h.acked ++ [d] }
    let wait := (s.die n).srcs.filter (fun b => b.stream == stream && b.dst == d && b.st == .cancelWait)
    checkSource (wait.foldl (fun (s : State) b => releaseSrc s n b 0 0) s) n stream

/-- The destination that a message names: one behind a window by its TAG (notes/assumptions/24.md). -/
def destOf (m : Slot) : Nat := if m.tag.toNat ≥ 128 then m.tag.toNat else m.src

/-- CXACK at a source (step 6). -/
def execCxack (s : State) : Host.Outcome State Fault Refusal :=
  event (modify fun s => ackDest s s.arg.msg.dst (streamOfSlot s.arg.msg) (destOf s.arg.msg)) s

/-! ## Destination blocks (Table 6-3) -/

def findDst (s : State) (n : Nat) (stream : BitVec 20) (bsn : Nat) : Option DstBlock :=
  (s.die n).dsts.find? fun b => b.stream == stream && b.bsn == bsn

def setDst (s : State) (n : Nat) (b : DstBlock) : State :=
  s.modDie n fun d => { d with dsts := d.dsts.filter (fun x => !(x.stream == b.stream && x.bsn == b.bsn)) ++ [b] }

/-- Every line of a raw block's range names the block (R120). DESIGN CHOICE (notes/assumptions/24.md): a cell that is POISON is no ARRIVAL
head any more, whatever its record says. -/
def rawRangeOk (s : State) (n : Nat) (stream : BitVec 20) (bsn cell bytes : Nat) : Bool :=
  cell % 128 == 0 && (rawLines cell bytes).all fun l =>
    isDram l && homeSite l == n &&
    (if l = cell then (s.cellTag l == 1 || s.cellTag l == 2) && recKind s l == 2 &&
        leNat (readBytes s (l + 4) 4) == stream.toNat && leNat (readBytes s (l + 32) 2) == bsn
      else isFollow s l && headOf s l == cell)

/-- Why a destination rejects a block (R125): 1 no entry, 2 BSN range, 3 bad image or cell. -/
def hblkRefusal (s : State) (m : Slot) : Option Nat :=
  let bsn := bsnOfSlot m
  let conv := field m.payload 2 1
  let bytes := bits m.arg.toNat 55 32
  match findEntry s m.dst (streamOfSlot m) with
  | none => some 1
  | some h =>
    if bsn ≥ h.layers * h.ntb then some 2
    else if conv = 0 then if bytes ≠ 0 && rawRangeOk s m.dst h.stream bsn m.addr.toNat bytes then none else some 3
    else if conv ≠ h.conv ∨ (h.dests.getD (bsn / h.ntb) (64, false)).1 ≠ m.dst ∨ m.addr.toNat ≠ headCell s m.dst h bsn ∨
      bytes ≠ 128 * (blockShape h bsn conv).lines.length then some 3
    else none

/-- Opens the transfer that follows an HBLK. -/
def openImage (s : State) (m : Slot) (discard : Bool) : State :=
  let b : Bulk := { src := m.src, bxid := BitVec.ofNat 8 (bits m.arg.toNat 63 56), dst := m.dst, addr := m.addr.toNat,
                    count := bits m.arg.toNat 55 32, got := 0, tag := m.tag, core := m.core, err := 0,
                    block := some (streamOfSlot m, bsnOfSlot m), discard := discard }
  if b.count = 0 ∨ s.bulks.any (fun x => x.src == b.src && x.dst == b.dst && x.bxid == b.bxid) then s
  else { s with bulks := s.bulks ++ [b] }

/-- An answer of the destination to the source of a block. -/
def hoAnswer (s : State) (m : Slot) (op : Nat) (payload : List Byte) : State :=
  postSlot s { hoSlot m.dst m.src op (streamOfSlot m) payload with tag := m.tag, core := m.core }

def execHblk (s : State) : Host.Outcome State Fault Refusal :=
  event (modify fun s =>
    let m := s.arg.msg
    let n := m.dst
    let stream := streamOfSlot m
    let bsn := bsnOfSlot m
    let known := findEntry s n stream
    let late := (known.map (·.inEffect)).getD false
    let seen := (known.map (fun h => h.received.contains bsn)).getD false
    if late then modHo (openImage s m true) n fun h => { h with latedisc := h.latedisc + 1 }
    else if seen then
      let s := modHo (openImage s m true) n fun h => { h with dup := h.dup + 1 }
      match findDst s n stream bsn with
      | some b => if b.st == .committed then hoAnswer s m 0x61 (leBytes 2 bsn) else s
      | none => s
    else match hblkRefusal s m, known with
      | some r, _ => hoAnswer (openImage s m true) m 0x68 (leBytes 2 bsn ++ [BitVec.ofNat 8 r])
      | none, none => s
      | none, some h =>
        let conv := field m.payload 2 1
        let lines := if conv = 0 then rawLines m.addr.toNat (bits m.arg.toNat 55 32) else landingLines s n h bsn conv
        let s := modEntry s n { h with received := h.received ++ [bsn] }
        let s := setDst s n { stream := stream, bsn := bsn, st := .landing, src := m.src, lines := lines }
        openImage s m false) s

/-- Poisons the cells of lines that are DEFERRED or RUNNING. -/
def poisonLines (reason : Nat) : List Nat → H Unit
  | [] => pure ()
  | l :: ls => do
    let s ← get
    if s.cellTag l == 1 || s.cellTag l == 2 then poisonAt l reason
    poisonLines reason ls

/-- Writes the lines of a block and makes their cells VALUE, in one pass (R124); each write performs one tick beyond its line's
lease (R206). A POISON cell discards its line (R186). -/
def landLines : List Nat → List Byte → H Unit
  | [], _ => pure ()
  | l :: ls, bs => do
    modify (wake · l)
    if (← get).cellTag l != 3 then
      modify (tagTime · l 2)
      resolveCell l (slice bs 0 128)
    landLines ls (bs.drop 128)

/-- The ARRIVAL evaluations whose head cells lie among some lines end: their block has landed or is abandoned (R190). -/
def endArrivals (s : State) (n : Nat) (lines : List Nat) (reason : Nat) : State :=
  ((s.die n).evals.filter fun e => e.2.kind == 2 && lines.contains e.2.cell).foldl (fun (s : State) e =>
    endEval s (n * 1024 + e.1) reason) s

/-- What the arrival of a block of this module carries to its barrier: that it has written at site n, and its latest write time (R217,
R218). -/
def noteLanding (s : State) (n src : Nat) (stream : BitVec 20) (bsn : Nat) (lines : List Nat) : State :=
  match (if src < 64 then findSrc s src stream bsn else none) with
  | none => s
  | some b =>
    let t := lines.foldl (fun (t : BitVec 48) l => let w := (mapGet {} s.times l).wts; if t < w then w else t) 0
    { s with ops := s.ops.map fun (o : Op) =>
        if o.id == b.op then { o with wtime := if o.wtime < t then t else o.wtime, wrote := if o.wrote.contains n then o.wrote else o.wrote ++ [n] } else o }

/-- BLOCK_LANDED: the image of block k of stream `val` is whole at site n (R124). It waits while a line of its range is pinned (R153); an
uncorrectable error that the step brings for one is a failed write. -/
def execBlockLanded (s : State) : Host.Outcome State Fault Refusal :=
  event (do
    let s ← get
    let n := s.arg.n
    let stream : BitVec 20 := s.arg.val.truncate 20
    let bsn := s.arg.k
    let mine (b : Bulk) : Bool := b.dst == n && b.block == some (stream, bsn) && !b.discard && b.data.length ≥ b.count
    match s.bulks.find? mine, findDst s n stream bsn with
    | some b, some d =>
      if d.st != .landing then set { s with bulks := s.bulks.filter (fun x => !mine x) }
      else
        let s := { s with bulks := s.bulks.filter (fun x => !mine x) }
        let m : Slot := { noSlot with src := b.src, dst := n, tag := b.tag, core := b.core, arg := stream.zeroExtend 64 }
        let bad (l : Nat) : Bool := (locate s l).toOption.isNone || s.arg.flaws.any fun f => f.2 && lineOf f.1 == l
        if d.lines.any bad then
          set (setDst s n { d with st := .abandoned })
          poisonLines 3 d.lines
          modify fun s => hoAnswer (endArrivals s n d.lines 3) m 0x68 (leBytes 2 bsn ++ [3])
        else if d.lines.any s.pinned then pure ()
        else
          set (modHo (setDst s n { d with st := .committed }) n fun h => { h with commit := h.commit + 1 })
          landLines d.lines b.data
          modify (noteLanding · n m.src stream bsn d.lines)
          modify fun s => endArrivals s n d.lines 1
          modify fun s => if m.src < 64 then postSlot s (hoSlot n 64 0x66 stream (leBytes 2 bsn))
            else hoAnswer s m 0x66 (leBytes 2 bsn)
          modify fun s => hoAnswer s m 0x61 (leBytes 2 bsn)
    | some _, none => set { s with bulks := s.bulks.filter (fun x => !mine x) }
    | _, _ => pure ()) s

/-! ## Cancellation at the destination (R127 steps 4 and 5) -/

/-- The bytes of a received bitmap (R110). -/
def bitmapBytes (h : HoEntry) : List Byte :=
  let words := (h.layers * h.ntb + 63) / 64
  (List.range (8 * words)).map fun i =>
    BitVec.ofNat 8 ((List.range 8).foldl (fun v k => v + 2 ^ k * b2n (h.received.contains (8 * i + k))) 0)

/-- Cells of a stream on a die: ARRIVAL cells that carry its id, FOLLOW cells of those. -/
def streamCells (s : State) (n : Nat) (stream : BitVec 20) : List Nat :=
  let here := (s.cellTags.filter (fun e => (e.2 == 1 || e.2 == 2) && homeSite e.1 == n)).map (·.1)
  let own (l : Nat) : Bool := recKind s l == 2 && leNat (readBytes s (l + 4) 4) == stream.toNat
  here.filter fun l => own l || (recKind s l == 3 && own (headOf s l))

/-- Cancellation takes effect with a marker (step 4): only committed blocks stay in the bitmap (Table 6-4). The sequencer of the stream's
module is told, across packages by the way that the marker came (R66). -/
def cancelEffect (m : Slot) (h : HoEntry) : H Unit := do
  let n := m.dst
  let s ← get
  let stream := h.stream
  let mine := (s.die n).dsts.filter (fun b => b.stream == stream)
  let done := (mine.filter (fun b => b.st == .committed)).map (·.bsn)
  let lines := (mine.filter (fun b => b.st == .landing)).flatMap (·.lines)
  let h := { h with inEffect := true, received := h.received.filter (fun b => done.contains b) }
  let s := modEntry s n h
  let s := s.modDie n fun d => { d with dsts := d.dsts.map fun (b : DstBlock) =>
    if b.stream == stream && b.st == .landing then { b with st := .abandoned } else b }
  let landing (b : Bulk) : Bool := b.dst == n && (b.block.map (·.1)) == some stream
  let left := s.bulks.filter fun b => !(landing b && decide (b.count ≤ 240 * b.got))
  let s := { s with bulks := left.map fun (b : Bulk) => { b with discard := b.discard || landing b } }
  let s := modHo s n fun r => { r with cancels := r.cancels + 1 }
  set (writeBytes (wake s h.bitmapAt) h.bitmapAt (bitmapBytes h))
  let cells := streamCells (← get) n stream ++ lines
  poisonLines 2 cells
  modify fun s => endArrivals s n cells 2
  let pay := leBytes 4 done.length ++ [0, 0, 0, 0] ++ leBytes 6 h.bitmapAt
  modify fun s => if m.src < 64 then postSlot s (hoSlot n 64 0x64 stream pay)
    else hoAnswer s { m with core := 1 } 0x64 pay

/-- The source behind a marker: one that came through an E-die names it. -/
def markSource (m : Slot) : Nat := if m.src < 64 then m.src else 128 + field m.payload 2 1

def execCmark (s : State) : Host.Outcome State Fault Refusal :=
  event (do
    let s ← get
    let m := s.arg.msg
    let n := m.dst
    let stream := streamOfSlot m
    match findEntry s n stream with
    | none => pure ()
    | some h =>
      if !h.inEffect then cancelEffect m h
      let s ← get
      match findEntry s n stream with
      | none => pure ()
      | some h =>
        let c := Nat.lor (mapGet 0 h.marks (markSource m)) (2 ^ (field m.payload 1 1 % 2))
        let s := modEntry s n { h with marks := mapSet h.marks (markSource m) c }
        let pay := leBytes 4 h.received.length ++ [0, 0, 0, 0] ++ leBytes 6 h.bitmapAt
        set (if bits c 0 0 + bits c 1 1 = field m.payload 0 1 then hoAnswer s m 0x64 pay else s)) s

/-! ## Frames (R130, R131): frame k of site n -/

def execFrefopAttach (s : State) : Host.Outcome State Fault Refusal :=
  event (modify fun s => if isD s.arg.n then attachFrame s s.arg.n s.arg.k else s) s

def execFrefopRead (s : State) : Host.Outcome State Fault Refusal :=
  event (modify fun s => if isD s.arg.n then readFrame s s.arg.n s.arg.k else s) s

/-! ## Error responses (R39, R49) -/

/-- Site and index of the record at an address of control space (Table 7-1). -/
def recordAt (pa : Nat) : Option (Nat × Nat) :=
  let o := pa - 0xFF0040000000
  if 0xFF0040000000 ≤ pa ∧ o / 0x400000 < 64 ∧ o % 0x400000 < 0x80000 then some (o / 0x400000, o % 0x400000 / 128) else none

/-- A predecessor decrement that has been lost (R143). -/
def lostDecrement (s : State) (site i : Nat) : State :=
  failStream (raiseMsix s 2) (recStream (s.record site i).bytes) 0x0022

/-- A hand-off transfer that ends with ERR 0x04 is resent at once on the other route (Table 6-2). -/
def rerouteBlock (n : Nat) (m : Slot) : H Unit := do
  let s ← get
  let hit (b : SrcBlock) : Bool := if m.len = 0x30 then (b.st == .sending || b.st == .wait) && b.bxid == m.nmask.toNat
    else b.isOf (m.nmask.truncate 20) (field m.payload 0 2)
  match (s.die n).srcs.find? hit with
  | some b =>
    let other := 1 - b.route
    if (b.st == .sending || b.st == .wait) && routeUsable s n b.dst other then resendBlock n { b with via := some other }
    else pure ()
  | none => pure ()

/-- A marker whose route went DOWN goes on the other (step 3); the E-die that gives one back has taken the window's base out of its
address (R60). One that no route is left for is lost, and its destination answers no more. -/
def rerouteMark (s : State) (n : Nat) (m : Slot) : State :=
  let dst := destOf m
  let stream : BitVec 20 := m.nmask.truncate 20
  let route := field m.payload 1 1 % 2
  let cell := if dst < 128 then m.addr.toNat else 0x700000000000 + (dst - 128) * 0x40000000000 + m.addr.toNat % 0x40000000000
  if routeUsable s n dst route || routeUsable s n dst (1 - route) then sendMark s n dst stream cell (field m.payload 0 1) route
  else checkSource s n stream

/-- The proxy entry whose request an ERR ends at an E-die (R60). -/
def errProxy (s : State) (m : Slot) : Option Proxy := if m.dst ≥ 64 then findProxy s m.dst m else none

/-- ERR: the request ends with the code in ARG [7:0]; that of another module goes back to it. -/
def execErr (s : State) : Host.Outcome State Fault Refusal :=
  event (do
    let s ← get
    let m := s.arg.msg
    let code := m.arg.toNat % 256
    if let some x := errProxy s m then set (egressAnswer s m.dst x m)
    else if m.len = 0x60 ∨ m.len = 0x30 then (if code = 4 then rerouteBlock m.dst m else pure ())
    else if m.len = 0x63 then
      -- a destination that is lent to this module no more holds none of its blocks (R65)
      set (if code = 4 then rerouteMark s m.dst m else ackDest s m.dst (m.nmask.truncate 20) (destOf m))
    else match recordAt m.addr.toNat, findRequest s m with
      | some (site, i), _ => set (if code = 4 then lostDecrement s site i else s)
      | none, some r => set (failRequest s r (m.arg.toNat % 2 ^ 32))
      | none, none =>
        match findQuery s m with
        | some l => set (headAnswer s l 0)
        | none => pure ()) s

end Sys2Proof.Machine
end

