-- ==== Sys2Proof/Machine/Sequencer.lean ====
section
/-! DEFINITION. The request sequencer (chapter 5): admission (R99 to R102), sampling and the end of a stream (R103, R104), what
hand-off engines report (R126, R127), tier misses (R108), and logical times (R207, R208). -/

namespace Sys2Proof.Machine

/-! ## Admission -/

/-- The stream admitted next: the highest PRIO, then the order of SUBMIT (R99). -/
def queueHead (s : State) : Option StreamEnt :=
  let es := s.fw.queue.filterMap fun q => mapFind s.fw.streams q
  es.foldl (fun (h : Option StreamEnt) e => match h with
    | none => some e
    | some x => if x.prio < e.prio then some e else some x) none

/-- L, NTB and F of a stream (R101 step 1). -/
def streamNeed (i : Inst) (e : StreamEnt) : Nat × Nat × Nat :=
  let l := min (e.plen + e.toklim) i.ctxlim
  (l, (e.plen + 127) / 128, 1 + l / 256)

/-- Frames that a set takes of each of its stacks: site and count. -/
def setNeed (i : Inst) (f : Nat) (set' : DestSet) : List (Nat × Nat) :=
  ((set'.map (·.1)).eraseDups).map fun n => (n, (set'.filter (fun d => d.1 == n)).length * i.heads * f)

/-- No stack of the set lies in a tripped region (R107). -/
def setUntripped (s : State) (set' : DestSet) : Bool := set'.all fun d => !tripped s d.1

def setFits (s : State) (need : List (Nat × Nat)) : Bool := need.all fun x => x.2 ≤ (s.die x.1).freeFrames.length

/-- Frames of a stack that are free or that a stream holds: all but those force-reclaimed (R100). -/
def usableFrames (s : State) (n : Nat) : Nat :=
  let d := s.die n
  let held := s.fw.streams.flatMap fun e => (e.2.frames.filter (fun f => f.1 == n)).flatMap (·.2)
  let shared := d.attached.flatMap (·.2)
  (d.freeFrames ++ held ++ shared).eraseDups.length

/-- The first set in rotation order that has room now: its index and itself (R101 step 2). -/
def pickSet (s : State) (i : Inst) (f : Nat) (rot : List DestSet) (start : Nat) : Option (Nat × DestSet) :=
  (List.range rot.length).findSome? fun k =>
    let j := (start + k) % rot.length
    let set' := rot.getD j []
    if setUntripped s set' && setFits s (setNeed i f set') then some (j, set') else none

/-- Some set could ever hold the stream (R100). -/
def setPossible (s : State) (i : Inst) (f : Nat) (rot : List DestSet) : Bool :=
  rot.any fun set' => setUntripped s set' && (setNeed i f set').all fun x => x.2 ≤ usableFrames s x.1

/-- Takes the first `n` frames of a stack's free list; each has one reference (R129). -/
def popFrames (s : State) (site n : Nat) : List Nat × State :=
  let fs := (s.die site).freeFrames.take n
  (fs, s.modDie site fun d => { d with
    freeFrames := d.freeFrames.drop n, frameRefs := fs.foldl (fun m f => mapSet m f 1) d.frameRefs })

def popAll (s : State) : List (Nat × Nat) → List (Nat × List Nat) × State
  | [] => ([], s)
  | (site, n) :: r =>
    let (fs, s) := popFrames s site n
    let (rest, s) := popAll s r
    ((site, fs) :: rest, s)

/-- The record of an ARRIVAL cell, and of a FOLLOW cell of one (Table 9-2). -/
def arrivalRecord (id : BitVec 20) (bsn : Nat) : List Byte :=
  patch (patch (patch (List.replicate 128 0) 0 [2]) 4 (leBytes 4 id.toNat)) 32 (leBytes 2 bsn)
def followRecord (head : Nat) : List Byte := patch (patch (List.replicate 128 0) 0 [3]) 40 (leBytes 8 head)

/-- Makes a line a DEFERRED cell with a record. -/
def installCell (s : State) (line : Nat) (record : List Byte) : State :=
  let s := tagTime (wake s line) line 0
  ((writeBytes s line record).setPoison line false).setCellTag line 1

/-- ARRIVAL cells over the landing range of a block (R101 step 4). -/
def installBlock (s : State) (h : HoEntry) (bsn conv : Nat) : State :=
  let n := (h.dests.getD (bsn / h.ntb) (64, false)).1
  let head := headCell s n h bsn
  (landingLines s n h bsn conv).foldl (fun (s : State) l =>
    installCell s l (if l = head then arrivalRecord h.stream bsn else followRecord head)) s

/-- What a received bitmap of a stack must not touch: the pool's frames and headers, the image slots, the other entries' bitmaps, the
destinations of the plan's tensors, and every 64 KiB frame that holds a byte other than 0 (text, page tables, data). -/
def bitmapClash (s : State) (site lo len : Nat) : Bool :=
  let d := s.die site
  let base := (site / 2) * 0x000C00000000
  let pool := poolOf s site
  decide (lo < base) || decide (base + d.stackCap * 0x400000 < lo + len) ||
    overlaps lo len (pool.1 * 0x10000) ((pool.2 + (pool.2 + 127) / 128) * 0x10000) ||
    overlaps lo len d.pbase.toNat (d.pslots.toNat * slotBytesLen) ||
    (d.entries.any fun e => overlaps lo len e.2.bitmapAt 8192) ||
    (s.mem.any fun c => lo / 65536 ≤ c.1 / 65536 && c.1 / 65536 ≤ (lo + len - 1) / 65536) ||
    match s.fw.plan with
    | some p => p.tensors.any fun t => overlaps lo len t.dest t.len
    | none => false

/-- Where the engine of a stack keeps a received bitmap of `len` bytes (R110): a place of its choice, or the highest free 8 KiB below
the end of the stack where that one would touch what is not the engine's (notes/assumptions/25.md). -/
def bitmapOf (s : State) (site entry len : Nat) : Nat :=
  let base := (site / 2) * 0x000C00000000
  let size := (s.die site).stackCap * 0x400000
  let want := base + Config.bitmapPlace site entry % (size / 8) * 8
  if !bitmapClash s site want len then want
  else
    let low (i : Nat) : Nat := base + size - (i + 1) * 8192
    (((List.range (size / 8192)).find? fun i => !bitmapClash s site (low i) 8192).map low).getD want

/-- The hand-off entry of a stream on a die. -/
def entryOf (s : State) (i : Inst) (e : StreamEnt) (site : Nat) : HoEntry :=
  { stream := e.id, plen := e.plen, ntb := e.ntb, layers := i.layers, heads := i.heads, conv := i.conv,
    frames := (streamNeed i e).2.2, dests := e.dset, list := ((e.frames.find? (fun f => f.1 == site)).map (·.2)).getD [],
    bitmapAt := bitmapOf s site (e.id.toNat % 65536) ((i.layers * e.ntb + 63) / 64 * 8) }

/-! ## Writing to a space of virtual addresses -/

/-- Parts of a virtual range, one for each 64 KiB page: address and bytes. -/
def pageParts : Nat → Nat → Nat → List (Nat × Nat)
  | 0, _, _ => []
  | n + 1, va, len =>
    if len = 0 then []
    else
      let k := min len (0x10000 - va % 0x10000)
      (va, k) :: pageParts n (va + k) (len - k)

/-- Physical parts of a virtual range under an address space, with supervisor rights; none where a page is not mapped. -/
def rangeParts (s : State) (core asid acc va len : Nat) : Option (List (Nat × Nat)) :=
  (pageParts (len / 0x10000 + 2) va len).mapM fun p =>
    match translate s core (BitVec.ofNat 12 asid) false (BitVec.ofNat 64 p.1) acc with
    | .ok l => if (locate s l.pa).toOption.isSome then some (l.pa, p.2) else none
    | .error _ => none

/-- Writes bytes over physical parts, in order. -/
def writeParts (s : State) : List (Nat × Nat) → List Byte → State
  | [], _ => s
  | p :: ps, bs => writeParts (writeBytes (wake s p.1) p.1 (slice bs 0 p.2)) ps (bs.drop p.2)

/-! ## Templates (R101, R467) -/

/-- The bytes of a field of an argument block. -/
def argBytes (s : State) (e : StreamEnt) : ArgItem → List Byte
  | .bytes bs => bs
  | .streamId => leBytes 8 e.id.toNat
  | .plen => leBytes 8 e.plen
  | .toklim => leBytes 8 e.toklim
  | .seed => leBytes 8 e.seed.toNat
  | .prompt => e.prompt.flatMap fun t => leBytes 4 t.toNat
  | .cell layer block =>
    let n := (e.dset.getD layer (64, false)).1
    match findEntry s n e.id with
    | some h => leBytes 8 (headCell s n h (layer * e.ntb + block))
    | none => []
  | .frame layer head page =>
    let n := (e.dset.getD layer (64, false)).1
    match findEntry s n e.id with
    | some h => leBytes 8 (pageFrame s n h layer head page).1
    | none => []

/-- Fills an argument block from the stream entry, through the tables of the task's address space; nothing where they do not map it
(notes/assumptions/10.md). -/
def fillArgs (s : State) (asid : Nat) (e : StreamEnt) (b : ArgBlock) : State :=
  match rangeParts s 0 asid aLoad b.va b.len with
  | some ps => writeParts s ps ((b.items.foldl (fun bs x => patch bs x.1 (argBytes s e x.2)) (List.replicate b.len 0)).take b.len)
  | none => s

/-- The records of a site that templates of the plan name. -/
def namedRecords (s : State) (site : Nat) : List Nat :=
  match s.fw.plan with
  | none => []
  | some p => (p.templates.filterMap fun t => if t.site == site && t.peer.isNone then t.index else none).eraseDups

/-- The lowest-numbered FREE record of a site that no template names (notes/assumptions/10.md). -/
def freeIndex (s : State) (site : Nat) : Option Nat :=
  let named := namedRecords s site
  (List.range 4096).find? fun i => (s.record site i).st == .free && !named.contains i

/-- The content of a hand-off entry as a pool peer sends it (notes/assumptions/29.md): the stream, PLEN, NTB, layers, heads, conversion, F,
the pool of the frames, the destination of each layer, the frames. -/
def entryBytes (h : HoEntry) (pool : Nat × Nat) : List Byte :=
  leBytes 4 h.stream.toNat ++ leBytes 4 h.plen ++ leBytes 2 h.ntb ++ leBytes 2 h.layers ++ leBytes 2 h.heads ++ leBytes 2 h.conv ++
    leBytes 2 h.frames ++ leBytes 2 h.dests.length ++ leBytes 4 h.list.length ++ leBytes 4 pool.1 ++ leBytes 4 pool.2 ++
    h.dests.flatMap (fun d => [BitVec.ofNat 8 d.1, BitVec.ofNat 8 (b2n d.2)]) ++ h.list.flatMap (leBytes 4 ·)

/-- The entry that such content says. -/
def entryOfBytes (bs : List Byte) : HoEntry :=
  let n := field bs 18 2
  { stream := BitVec.ofNat 20 (field bs 0 4), plen := field bs 4 4, ntb := field bs 8 2, layers := field bs 10 2, heads := field bs 12 2,
    conv := field bs 14 2, frames := field bs 16 2, pool := some (field bs 24 4, field bs 28 4),
    dests := (List.range n).map fun i => (field bs (32 + 2 * i) 1, field bs (33 + 2 * i) 1 != 0),
    list := (List.range (field bs 20 4)).map fun i => field bs (32 + 2 * n + 4 * i) 4 }

/-- Sends a stream's record to a borrowed die, and before the first to a die its hand-off entry (R65, R66). -/
def postFar (s : State) (e : StreamEnt) (t : Template) (peer : BitVec 12) (b : List Byte) : State :=
  match mapFind s.fw.streams e.slot, planInst s e.inst with
  | some e, some i =>
    let known := e.farSites.contains (peer, t.site)
    let s := if known then s else tellLender s peer .entry t.site 0 (entryBytes { entryOf s i e t.site with list := [] } (0, 0))
    let j := t.index.getD 0
    setStream (tellLender s peer .post t.site j b) { e with
      far := e.far ++ [(peer, t.site, j, t.decode)], farSites := if known then e.farSites else e.farSites ++ [(peer, t.site)] }
  | _, _ => s

/-- Writes and posts a stream's record from a template, with its argument blocks filled: its STREAM, and its CLASS from PRIO (R99). The
record is the one that the template names, else the lowest-numbered FREE one; one that is not FREE keeps its bytes (R134). -/
def postTemplate (s : State) (e : StreamEnt) (t : Template) : State :=
  let b := patch (patch (slice t.bytes 0 128) 30 [BitVec.ofNat 8 e.prio]) 40 (leBytes 4 e.id.toNat)
  let s := t.args.foldl (fun s a => fillArgs s (recAsid b) e a) s
  match t.peer, t.index <|> freeIndex s t.site with
  | some peer, _ => postFar s e t peer b
  | none, none => s
  | none, some i =>
    let s := s.modRec t.site i fun r => { r with bytes := if r.st == .free then b else r.bytes }
    let s := postRecord s t.site i
    match mapFind s.fw.streams e.slot with
    | some e => setStream s { e with tasks := e.tasks ++ [(t.site, i, t.decode)] }
    | none => s

/-- The templates of a stream's jobs: prefill on the placement's P-dies, decode on the chosen stacks, and what is placed on borrowed dies.
DESIGN CHOICE (notes/assumptions/10.md): a P-die of the placement in a tripped region, which takes no work (R107), is left out, and the stream
is admitted with its other records. -/
def jobTemplates (s : State) (e : StreamEnt) (decode : Bool) : List Template :=
  match s.fw.plan with
  | none => []
  | some p => p.templates.filter fun t => t.inst == e.inst && t.decode == decode && (t.peer.isSome ||
      ((if decode then (destsOf e).contains t.site else (placementOf s e.inst).contains t.site) && !tripped s t.site))

/-- Enough FREE records for the templates of a list, those that templates name among them. DESIGN CHOICE (notes/assumptions/10.md): a head
that finds too few stays QUEUED, as one that finds too few frames does. -/
def roomFor (s : State) (ts : List Template) : Bool :=
  let ts := ts.filter (·.peer.isNone)
  (ts.all fun t => match t.index with
    | some i => (s.record t.site i).st == .free
    | none => true) &&
  ((ts.map (·.site)).eraseDups).all fun n =>
    let named := namedRecords s n
    (ts.filter (fun t => t.site == n && t.index.isNone)).length + named.length +
      ((s.die n).records.filter (fun r => r.2.st != .free && !named.contains r.1)).length ≤ 4096

/-- A die of another module is borrowed, and not being reclaimed (R65). -/
def borrowed (s : State) (peer : BitVec 12) (site : Nat) : Bool :=
  (s.fw.fwin.any fun w => w.2.valid && w.2.rmod == peer && w.2.sites.getLsbD site) &&
    !s.fw.reclaims.any fun r => r.peer == peer && r.sites.getLsbD site

/-- The dies that the templates of a list place on pool peers take work. A borrower admits none to a die that is being reclaimed (R65 step
1). -/
def peersReady (s : State) (ts : List Template) : Bool :=
  ts.all fun t => match t.peer with
    | some p => borrowed s p t.site
    | none => true

/-- The prompt of a stream, read from host memory (R67, R70). DESIGN CHOICE (notes/assumptions/10.md): it is read whole, in the step that
admits the stream; the manual does not say when. -/
def readPrompt (s : State) (e : StreamEnt) : List (BitVec 32) :=
  (List.range e.plen).map fun i => BitVec.ofNat 32 (leNat (hostRead s (e.paddr.toNat + 4 * i) 4))

/-- The records of a launch that spans regions begin region by region in ascending order: all but the first region wait for their turn
(R33). -/
def stagger (s : State) (posted : List (Nat × Nat)) : State :=
  let low := posted.foldl (fun m t => min m (regionOf t.1)) 16
  posted.foldl (fun (s : State) t =>
    if regionOf t.1 = low then s else s.modRegion (regionOf t.1) fun r => { r with staggered := r.staggered ++ [t] }) s

/-- Posts the records of a job, and staggers its launch. -/
def postJob (s : State) (e : StreamEnt) (decode : Bool) : State :=
  let s := (jobTemplates s e decode).foldl (fun (s : State) t => postTemplate s e t) s
  match mapFind s.fw.streams e.slot with
  | some e => stagger s ((e.tasks.filter fun t => t.2.2 == decode).map fun t => (t.1, t.2.1))
  | none => s

/-- Steps 3 to 6 of R101 with a chosen set. -/
def admitStream (s : State) (i : Inst) (e : StreamEnt) (index : Nat) (set' : DestSet) (sets : Nat) : State :=
  let (_, ntb, f) := streamNeed i e
  let (frames, s) := popAll s (setNeed i f set')
  let e := { e with dset := set', frames := frames, ntb := ntb }
  let dsites := destsOf e
  let s := ((placementOf s e.inst) ++ dsites).eraseDups.foldl (fun (s : State) n => modEntry s n (entryOf s i e n)) s
  let h := entryOf s i e 0
  -- the frame list of each block's stack places its cells
  let s := (List.range (i.layers * ntb)).foldl (fun (s : State) bsn =>
    let n := (h.dests.getD (bsn / ntb) (64, false)).1
    installBlock s (entryOf s i e n) bsn i.conv) s
  let s := s.modFw fun w => { w with pointers := mapSet w.pointers e.inst ((index + 1) % sets),
                                     queue := w.queue.filter (· != e.slot) }
  let s := setStream s { e with st := .prefill, prompt := readPrompt s e }
  let s := postJob (postJob s e false) e true
  slotWrite s e.slot 0 (leBytes 4 3)

/-- One attempt to admit the head of the queue. -/
def admission (s : State) : State :=
  match queueHead s with
  | none => s
  | some e =>
    match planInst s e.inst, s.fw.plan with
    | some i, some p =>
      let rot := mapGet [] p.rotation e.inst
      let f := (streamNeed i e).2.2
      if !setPossible s i f rot then finishStream s e 6 0x0026
      else match pickSet s i f rot (mapGet 0 s.fw.pointers e.inst) with
        | some (j, set') =>
          let e' := { e with dset := set' }
          let ts := jobTemplates s e' false ++ jobTemplates s e' true
          if roomFor s ts && peersReady s ts then admitStream s i e j set' rot.length else s
        | none => s
    | _, _ => s

def execAdmission (s : State) : Host.Outcome State Fault Refusal := event (modify admission) s

/-! ## Sampling (R103) -/

/-- `a` comes before `b`: the larger value, and for equal ones the lower id. -/
def ranksBefore (a b : Nat × Val) : Bool :=
  match cmpVal a.2 b.2 with
  | some .gt => true
  | some .eq => a.1 < b.1
  | _ => false

def insertRank (x : Nat × Val) : List (Nat × Val) → List (Nat × Val)
  | [] => [x]
  | y :: r => if ranksBefore x y then x :: y :: r else y :: insertRank x r

/-- Candidates in descending order. -/
def ranked (l : List (Nat × Val)) : List (Nat × Val) := l.foldr insertRank []

/-- Rounds to FP32, nearest even. -/
def rnd (r : Val × BitVec 7) : Val := f32 (rne32 r).1

/-- Running sums, each rounded. -/
def runningSums (acc : Val) : List Val → List Val
  | [] => []
  | w :: ws => let c := rnd (addVal 0 acc w); c :: runningSums c ws

def finVal (v : Val) : Bool :=
  match v with
  | .fin _ _ _ => true
  | _ => false

/-- The token of output position `i` from FP32 logits; none where the logits give no order or no finite sums. -/
def sampleToken (e : StreamEnt) (logits : List (BitVec 32)) : Option Nat :=
  let vs := (List.range logits.length).zip (logits.map f32)
  if vs.isEmpty || vs.any (fun v => v.2 == .nan) then none
  else if e.tempr == 0 || e.tempr == 0x80000000 then (ranked vs).head?.map (·.1)
  else
    let ss := ranked (vs.map fun v => (v.1, rnd (divVal v.2 (f32 e.tempr))))
    let ss := if e.topk > 0 then ss.take e.topk else ss
    let s0 := (ss.head?.map (·.2)).getD .nan
    if !finVal s0 then none
    else
      let ws := ss.map fun v => rnd (exp2Val (rnd (mulVal (rnd (addVal 0 v.2 (negVal s0))) (f32 0x3FB8AA3B))))
      let cs := runningSums (.fin false 0 1) ws
      let total := cs.getLast?.getD .nan
      let bound := rnd (mulVal (f32 e.topp) total)
      let keep := (cs.findIdx? (fun c => cmpVal c bound != some .lt)).getD (cs.length - 1) + 1
      let kept := (ss.zip cs).take keep
      let w' := (kept.getLast?.map (·.2)).getD .nan
      let u := (drawWord e.seed 0 e.ntok).toNat / 2 ^ 40
      let t := rnd (mulVal (.fin false u (2 ^ 24)) w')
      match kept.find? (fun x => cmpVal x.2 t == some .gt) with
      | some x => some x.1.1
      | none => kept.getLast?.map (·.1.1)

/-- The first end condition that holds after a token, with the lowest cause (R104). -/
def endCause (s : State) (e : StreamEnt) (token : Nat) : Option Nat :=
  let eos := ((planInst s e.inst).map (fun i => i.eos.toNat)).getD (2 ^ 32)
  if token = eos then some 0x0001
  else if e.ntok = e.toklim then some 0x0002
  else if e.ntok = e.olen / 4 then some 0x0003
  else none

/-- STREAM_END: the sampler of the stream on slot n has the logits of a step (FP32, `data`): it writes the token, advances NTOK
(R73), and the sequencer judges the end conditions. An end that comes after a cancel or a failure is ignored (R106). -/
def execStreamEnd (s : State) : Host.Outcome State Fault Refusal :=
  event (modify fun s =>
    match mapFind s.fw.streams s.arg.n with
    | none => s
    | some e =>
      if e.st == .prefill || e.st == .handoff || e.st == .decode then
        let logits := (List.range (s.arg.data.length / 4)).map fun i => BitVec.ofNat 32 (field s.arg.data (4 * i) 4)
        let token := (sampleToken e logits).getD (Config.freeToken s.fresh)
        let s := { s with fresh := s.fresh + 1 }
        let s := hostWrite s (e.oaddr.toNat + 4 * e.ntok) (leBytes 4 token)
        let e := { e with ntok := e.ntok + 1 }
        let s := slotWrite s e.slot 132 (leBytes 4 e.ntok)
        match endCause s e token with
        | some c => setStream s { e with st := .retiring, cause := c }
        | none => setStream s e
      else s) s

/-- RETIREMENT of the stream on slot n, once its decode tasks have completed (R104). -/
def execRetirement (s : State) : Host.Outcome State Fault Refusal :=
  event (modify fun s =>
    match mapFind s.fw.streams s.arg.n with
    | none => s
    | some e =>
      if e.st == .retiring && jobGone s e true then finishStream s e 4 e.cause else s) s

/-! ## Reports

What a lent die reports of a stream is the borrower's: the module passes it on (R65). -/

/-- A report of a die of this module is taken here, one of a lent die passed on. -/
def reported (s : State) (f : State → State) : State :=
  let m := s.arg.msg
  if m.src < 64 && (s.die m.src).pool != 0 then tellPeer s m.src .report 0 (slotBytes m) else f s

/-- A tier-miss event of a stream (R108). -/
def execTiermissEvent (s : State) : Host.Outcome State Fault Refusal :=
  event (modify fun s => reported s fun s =>
    match findStream s (streamOfSlot s.arg.msg).toNat with
    | none => s
    | some e => setStream s { e with tiermiss := if e.tiermiss == BitVec.allOnes 32 then e.tiermiss else e.tiermiss + 1 }) s

/-- CNOTE (R126). -/
def execCnote (s : State) : Host.Outcome State Fault Refusal :=
  event (modify fun s => reported s fun s =>
    let m := s.arg.msg
    let b := bsnOfSlot m
    match findStream s (streamOfSlot m).toNat with
    | none => s
    | some e =>
      let e := { e with committed := if e.committed.contains b then e.committed else e.committed ++ [b],
                        st := if e.st == .prefill then .handoff else e.st }
      advanceStream (setStream s e) e.id.toNat) s

/-- HFAIL (R126). -/
def execHfail (s : State) : Host.Outcome State Fault Refusal :=
  event (modify fun s => reported s fun s => failStream s (streamOfSlot s.arg.msg).toNat 0x0022) s

/-- SRCDONE (R127 step 7). -/
def execSrcdone (s : State) : Host.Outcome State Fault Refusal :=
  event (modify fun s => reported s fun s =>
    let m := s.arg.msg
    match findStream s (streamOfSlot m).toNat with
    | none => s
    | some e => checkEnd (setStream s { e with srcdone := if e.srcdone.contains m.src then e.srcdone else e.srcdone ++ [m.src] })
        e.id.toNat) s

/-- CXACK at the sequencer (R127 step 7). -/
def execCxackSequencer (s : State) : Host.Outcome State Fault Refusal :=
  event (modify fun s => reported s fun s =>
    let m := s.arg.msg
    match findStream s (streamOfSlot m).toNat with
    | none => s
    | some e => checkEnd (setStream s { e with cxacked := if e.cxacked.contains (destOf m) then e.cxacked else e.cxacked ++ [destOf m] })
        e.id.toNat) s

/-! ## Logical times (R207, R208) -/

/-- A logical time of the module is above a bound: that of a core it lists, or that of those it does not. -/
def timePast (s : State) (t : Nat) : Bool := s.cores.any (fun e => t < e.2.tick.toNat) || t < s.idleTick.toNat

def execLtimeWarn (s : State) : Host.Outcome State Fault Refusal :=
  event (modify fun s =>
    if timePast s (2 ^ 47) && !s.fw.ltwarn then raiseMsix (s.modFw fun f => { f with ltwarn := true }) 2 else s) s

def execLtimeSelfDrain (s : State) : Host.Outcome State Fault Refusal :=
  event (modify fun s =>
    if timePast s (3 * 2 ^ 46) && s.fw.st == .serving then
      settleDrain (s.modFw fun f => { f with st := .draining, selfDrain := true })
    else s) s

def execLtimeLimit (s : State) : Host.Outcome State Fault Refusal :=
  event (modify fun s =>
    if timePast s (2 ^ 48 - 2 ^ 44) then s.fw.streams.foldl (fun (s : State) e => failAtLimit s e.2.id.toNat 0x0025) s else s) s

/-- LOGICAL_TIME_TICK of core n. -/
def execLogicalTimeTick (s : State) : Host.Outcome State Fault Refusal :=
  event (modify fun s => s.modCore s.arg.n fun c =>
    { c with tick := if c.tick == BitVec.allOnes 48 then c.tick else c.tick + 1 }) s

end Sys2Proof.Machine
end

