-- ==== Sys2Proof/Machine/Thermal.lean ====
section
/-! DEFINITION. Temperature sensors and limits (R21 to R24), power states of DRAM layers (R25 to R27), power regions (R29 to R31), and
writes to the other registers of control space (R9). -/

namespace Sys2Proof.Machine

/-! ## Sensors (R21, R22, R24) -/

/-- Sensor 64 L + c of a die exists (R21). -/
def sensorExists (n k : Nat) : Bool :=
  let l := k / 64
  let c := k % 64
  if isD n then l ≤ 12 else if isP n then c < 8 && l ≤ 2 else c < 4 && l = 0

/-- One sample of a sensor (Table 1-5). -/
def sampleOne (n : Nat) (m : Map Sensor) (x : Nat × BitVec 16) : Map Sensor :=
  if sensorExists n x.1 then
    mapSet m x.1 { temp := x.2, seq := (mapGet {} m x.1).seq + 1, valid := true }
  else m

/-- THSTAT after a sample whose hottest value is `t`, in 0.125 °C (R24). -/
def judge (d : Die) (t : Int) : Die :=
  { d with
    thWarn := d.thWarn || decide (t > 8 * (d.warn : Int))
    thThrot := decide (t > 8 * (d.throt : Int)) || (d.thThrot && decide (t > 8 * ((d.throt : Int) - 2)))
    thTrip := d.thTrip || decide (t > 8 * (d.trip : Int)) }

/-- Sites whose clocks a trip at a site stops. -/
def tripSites (n : Nat) : List Nat :=
  if n < 64 then (List.range 64).filter (fun m => regionOf m == regionOf n) else [n]

/-- SENSOR_SAMPLE of site n: the sensors that `temps` lists take their samples. -/
def execSensorSample (s : State) : Host.Outcome State Fault Refusal :=
  event (modify fun s =>
    let n := s.arg.n
    let was := s.die n
    let d := { was with sensors := s.arg.temps.foldl (sampleOne n) was.sensors }
    let d := match hottest d with
      | some t => judge d t
      | none => d
    let s := s.setDie n d
    let s := if (d.thWarn && !was.thWarn) || (d.thThrot && !was.thThrot) || (d.thTrip && !was.thTrip) then raiseMsix s 3 else s
    if d.thTrip && !was.thTrip then failStreams s (fun e => (tripSites n).any (hasWorkOn s e)) 0x0023 else s) s

def execThstatWarnClear (s : State) : Host.Outcome State Fault Refusal :=
  event (modify fun s => clearWarn s s.arg.n) s

/-- TLIM_WRITE of site n: `val` as TLIM lays it out. -/
def execTlimWrite (s : State) : Host.Outcome State Fault Refusal :=
  event (modify fun s => setTlim s s.arg.n (bits s.arg.val.toNat 7 0) (bits s.arg.val.toNat 15 8)) s

/-! ## DRAM layers -/

/-- LPWR_WRITE of layer k of site n. -/
def execLpwrWrite (s : State) : Host.Outcome State Fault Refusal :=
  event (modify fun s => if isD s.arg.n then setLpwr s s.arg.n s.arg.k (s.arg.val.truncate 2) else s) s

def execLayerTransitionDone (s : State) : Host.Outcome State Fault Refusal :=
  event (modify fun s =>
    if isD s.arg.n && (mapGet {} (s.die s.arg.n).lpwr s.arg.k).busy then endLayer s s.arg.n s.arg.k else s) s

/-! ## Power regions -/

/-- CAP_TICK of region n: `val` is the mean power of the last ms in 0.25 W (R30). -/
def execCapTick (s : State) : Host.Outcome State Fault Refusal :=
  event (modify fun s => s.modRegion s.arg.n fun r =>
    let p : BitVec 16 := s.arg.val.truncate 16
    let req := if p.toNat > 4 * r.pcap.toNat then max 8 (r.capReq - 1)
      else if 100 * p.toNat < 392 * r.pcap.toNat then min 16 (r.capReq + 1)
      else r.capReq
    { r with pmon := p, capReq := req }) s

/-- DROOP_ALARM in region n (R31). -/
def execDroopAlarm (s : State) : Host.Outcome State Fault Refusal :=
  event (modify fun s => s.modRegion s.arg.n fun r =>
    { r with alarm := true, active := true, dcount := if r.dcount == 255 then 255 else r.dcount + 1 }) s

def execDroopHoldEnd (s : State) : Host.Outcome State Fault Refusal :=
  event (modify fun s => s.modRegion s.arg.n fun r => { r with active := false }) s

/-! ## Other registers -/

/-- REGISTER_WRITE: core n writes `size` bytes of `val` at an address of control space, unprivileged with `flag` (R9, R16). -/
def execRegisterWrite (s : State) : Host.Outcome State Fault Refusal :=
  event (modify fun s =>
    let a := s.arg
    let pa := a.addr.toNat
    let p : Piece := { pa := pa, len := a.size, cls := 1, defer := false, va := a.addr.zeroExtend 64, elem := 0, stash := false }
    if pa < 0xFF0000000000 then s
    else if pa % a.size ≠ 0 then takeTrap s a.n 0 0x12 p.va (faultInfo aStore ⟨0x12, 0, 1⟩ p)
    else if a.flag && ctlGuarded pa then takeTrap s a.n 0 0x11 p.va (faultInfo aStore fPerm p)
    else ctlWrite s pa a.size (a.val.toNat % 2 ^ (8 * a.size))) s

end Sys2Proof.Machine
end

