-- ==== Sys2Proof/Machine/Start.lean ====
section
/-! DEFINITION. Start, minimal mode and reset (R85 to R88), the configuration record (R89), identity (R90) and the measurement chain
(R91). -/

namespace Sys2Proof.Machine

/-! ## Cause records and measurement -/

/-- Appends a cause record; the newest 16 are kept, newest first (R88). The step in progress gives the detail (`addr`) and the time
since the start began (`val`). -/
def appendCause (s : State) (stage code site : Nat) : State :=
  let r := [BitVec.ofNat 8 stage, s.fw.attempts] ++ leBytes 2 code ++ [BitVec.ofNat 8 site, 0, 0, 0] ++
    leBytes 8 s.arg.addr.toNat ++ leBytes 8 s.arg.val.toNat ++ List.replicate 8 0
  s.modFw fun f => { f with causes := (r :: f.causes).take 16 }

/-- Measures an item by its digest (R91). -/
def measure (f : Firmware) (kind : Nat) (digest : List Byte) : Firmware :=
  { f with items := f.items ++ [(kind, digest)], chain := sha3 (f.chain ++ [BitVec.ofNat 8 kind] ++ digest) }

/-! ## Reset -/

/-- The module after a reset: what flash, the always-on domain and the host hold stays; what the outside brings next stays. -/
def resetModule (s : State) : State :=
  { State.reset with
    agenda := s.agenda, arg := s.arg, fresh := s.fresh, nextOp := s.nextOp, hostMem := s.hostMem,
    wires := s.wires.filter (fun w => w.site ≥ outside),
    fw := { ({} : Firmware) with flash0 := s.fw.flash0, flash1 := s.fw.flash1, attempts := s.fw.attempts, causes := s.fw.causes,
                                 msix := s.fw.msix, started := true } }

/-! ## Stages (Table 4-9) -/

/-- A stage that fails fatally: code and site, 0xFF for none. -/
structure Fatal where
  code : Nat
  site : Nat
  deriving DecidableEq, Repr

/-- Stage 2: dies, carving, weight banks (R14, R17). -/
def stage2 (s : State) (t : SelfTest) : Except Fatal State :=
  if t.badSites.contains 64 then .error ⟨0x0201, 64⟩
  else
    let s := t.badSites.foldl (fun (s : State) n => if n < 68 then s.modDie n fun d => { d with usable := false } else s) s
    let s := t.segFail.foldl (fun (s : State) x =>
      if isD x.1 && x.2.1 < 64 && 1 ≤ x.2.2.1 && x.2.2.1 ≤ 12 then
        s.modDie x.1 fun d => { d with carve := mapSet d.carve (16 * x.2.1 + x.2.2.1) x.2.2.2 }
      else s) s
    let s := t.wbok.foldl (fun (s : State) x => if x.1 < 32 then s.modDie (pSite x.1) fun d => { d with wbok := x.2 } else s) s
    .ok ((List.range 32).foldl (fun (s : State) k => s.modDie (dSite k) fun d => { d with carved := true }) s)

/-- Modules of a link that pass training, as either end reports. -/
def passing (t : SelfTest) (n e : Nat) : BitVec 8 :=
  let at_ (n e : Nat) : BitVec 8 := ((t.linkOk.find? (fun x => x.1 == n && x.2.1 == e)).map (·.2.2)).getD 0xFF
  let o := neighbour n e
  at_ n e &&& at_ o.1 o.2

/-- A link after the training of a start (R35, R49). -/
def trainedLink (port : Bool) (mods : BitVec 8) : Link :=
  if popcount8 mods ≥ 4 then { state := 2, half := !port && popcount8 mods < 8, modok := if port then 0 else mods }
  else { state := 0, timeout := true, down := true, modok := if port then 0 else mods }

/-- An E-die that is not usable has no link. -/
def deadEdie (s : State) (n : Nat) : Bool := n ≥ 64 && !(s.die n).usable

/-- Trains the links of a grid site, the links of the E-dies, and the fabric ports. -/
def trainLinks (s : State) (t : SelfTest) : State :=
  let grid := (List.range 64).flatMap fun n => (List.range 4).map fun e => (n, e)
  let edges := [64, 65, 66, 67].flatMap fun n => (List.range 8).map fun e => (n, e)
  let put (s : State) (n e : Nat) (l : Link) : State := s.modDie n fun d => { d with links := mapSet d.links e l }
  let s := (grid ++ edges).foldl (fun (s : State) x =>
    let mods := if deadEdie s x.1 || deadEdie s (neighbour x.1 x.2).1 then 0 else passing t x.1 x.2
    put s x.1 x.2 (trainedLink false mods)) s
  (List.range 72).foldl (fun (s : State) p =>
    let up := !t.badPorts.contains p && !deadEdie s (portSite p)
    put s (portSite p) (portEdge p) (trainedLink true (if up then 0xFF else 0))) s

/-- Grid sites that flits from E-die N reach over links that are UP and usable dies. -/
def reached (s : State) : Nat → List Nat → List Nat
  | 0, r => r
  | k + 1, r =>
    let next := (List.range 64).filter fun n => r.contains n || ((s.die n).usable && (List.range 4).any fun e =>
      let o := neighbour n e
      !linkDown s (n, e) && (o.1 == 64 || r.contains o.1))
    if next.length = r.length then r else reached s k next

/-- A usable die with no path to E-die N. -/
def cutDie (s : State) : Option Nat :=
  let r := reached s 64 []
  (List.range 68).find? fun n =>
    n != 64 && (s.die n).usable &&
      (if n < 64 then !r.contains n
        else !(List.range 8).any fun e => !linkDown s (n, e) && r.contains (neighbour n e).1)

/-- Stage 3: links and ports; each that fails is DOWN. -/
def stage3 (s : State) (t : SelfTest) : Except Fatal State :=
  let s := trainLinks s t
  let down := (List.range 68).flatMap fun n => ((s.die n).links.filter (fun l => l.2.state == 0)).map fun l => (n, l.1)
  let s := s.modFw fun f => { f with newDown := down }
  let s := down.foldl (fun (s : State) _ => raiseMsix s 2) s
  match cutDie s with
  | some n => .error ⟨0x0301, n⟩
  | none => .ok s

/-- SEQ of a flash copy. -/
def Flash.seq (f : Flash) : Nat := field f.body 4 4

def Flash.verifies (f : Flash) : Bool := Config.recordSigOk f.body f.sig

/-- The copy that stage 4 takes: the one with the higher SEQ, else the other (R89). -/
def chooseCopy (f : Firmware) : Option (Nat × Flash) :=
  let (a, b) := if f.flash0.seq ≥ f.flash1.seq then ((0, f.flash0), (1, f.flash1)) else ((1, f.flash1), (0, f.flash0))
  if a.2.verifies then some a else if b.2.verifies then some b else none

/-- Stage 4: the record's fields come into use (Table 4-12) and CONFIG is measured. DESIGN CHOICE (notes/assumptions/30.md): a verified
record whose TRIP is above 115 or whose PCAP is above 660 counts as one of that bound. -/
def stage4 (s : State) : Except Fatal State :=
  match chooseCopy s.fw with
  | none => .error ⟨0x0401, 0xFF⟩
  | some (i, c) =>
    let b := c.body
    let s := s.modFw fun f =>
      let f := measure { f with inUse := some i, cfgSeq := c.seq, modid := BitVec.ofNat 12 (field b 12 2),
                                dbg := field b 14 1 % 2 == 1, keyDigest := slice b 64 64 } 2 (sha3 b)
      { f with chainCfg := f.chain }
    let s := (List.range 68).foldl (fun (s : State) n => s.modDie n fun d => { d with trip := min 115 (field b 15 1) }) s
    .ok ((List.range 16).foldl (fun (s : State) g =>
      s.modRegion g fun r => { r with pcap := BitVec.ofNat 16 (min 660 (field b (16 + 2 * g) 2)) }) s)

/-- The verified body in use. -/
def bodyInUse (f : Firmware) : List Byte :=
  match f.inUse with
  | some 0 => f.flash0.body
  | some _ => f.flash1.body
  | none => []

/-- The key generation seed from a PUF seed (R90): the label is GALICA-ID. -/
def keySeed (puf : List Byte) : List Byte :=
  (sha3 ([0x47, 0x41, 0x4C, 0x49, 0x43, 0x41, 0x2D, 0x49, 0x44] ++ puf)).take 32

/-- Stage 5: the identity key (R90). -/
def stage5 (s : State) (t : SelfTest) : Except Fatal State :=
  if !t.pufOk then .error ⟨0x0501, 0xFF⟩
  else
    let puf := (List.range 64).map (Config.pufByte (slice (bodyInUse s.fw) 128 1024))
    let seed := keySeed puf
    if sha3 (publicKey seed) == s.fw.keyDigest then .ok (s.modFw fun f => { f with idOk := true, seed := seed })
    else .error ⟨0x0502, 0xFF⟩

/-- A fatal stage: its record, and a reset 100 ms later (R85). -/
def fatal (s : State) (stage : Nat) (f : Fatal) : State :=
  (appendCause s stage f.code f.site).modFw fun f => { f with retryReset := true }

/-- A stage that an overrun stops. -/
def overrun (ovr : Option Nat) (stage : Nat) (r : Except Fatal State) : Except Fatal State :=
  if ovr = some stage then .error ⟨256 * stage + 0xFF, 0xFF⟩ else r

/-- Minimal mode (R87): stages 4 and 5 on E-die N, whose failures are recorded. -/
def minimalMode (s : State) (t : SelfTest) (ovr : Option Nat) : State :=
  let s := s.modFw fun f => { f with st := .minimal }
  match overrun ovr 4 (stage4 s) with
  | .error f => appendCause s 4 f.code f.site
  | .ok s =>
    match overrun ovr 5 (stage5 s t) with
    | .error f => appendCause s 5 f.code f.site
    | .ok s => s

/-- Stages 2 to 6 of a full start. -/
def laterStages (s : State) (t : SelfTest) (ovr : Option Nat) : State :=
  match overrun ovr 2 (stage2 s t) with
  | .error f => fatal s 2 f
  | .ok s =>
    match overrun ovr 3 (stage3 s t) with
    | .error f => fatal s 3 f
    | .ok s =>
      match overrun ovr 4 (stage4 s) with
      | .error f => fatal s 4 f
      | .ok s =>
        match overrun ovr 5 (stage5 s t) with
        | .error f => fatal s 5 f
        | .ok s => s.modFw fun f => { f with st := .noPlan }

/-- A start from reset: stage 1 counts the attempt (notes/assumptions/27.md) and checks the ROM, which is measured first. -/
def start (s : State) (t : SelfTest) (ovr : Option Nat) : State :=
  let s := resetModule s
  let read := s.fw.attempts.toNat
  let s := s.modFw fun f => { f with attempts := BitVec.ofNat 8 (min 255 (read + 1)) }
  match overrun ovr 1 (if t.romOk then .ok s else .error ⟨0x0101, 0xFF⟩) with
  | .error f => fatal s 1 f
  | .ok s =>
    let s := s.modFw fun f => measure f 1 ((List.range 64).map Config.romDigestByte)
    if read ≥ 3 then minimalMode s t ovr else laterStages s t ovr

/-! ## The end of a command -/

/-- RESULT codes (Table 4-7). -/
inductive Result where
  | ok | badArg | badState | busy | sig | hash | noSpace | notFound | planRej | minimal | layerOff | peer
  deriving DecidableEq, Repr

def Result.code : Result → Nat
  | .ok => 0 | .badArg => 1 | .badState => 2 | .busy => 3 | .sig => 4 | .hash => 5 | .noSpace => 6 | .notFound => 7
  | .planRej => 8 | .minimal => 9 | .layerOff => 10 | .peer => 11

/-- Completes a command with Success: its output payload becomes readable and vector 0 is raised (R76, R77). -/
def complete (s : State) (r : Result) (out : List Byte) : State :=
  raiseMsix (s.modFw fun f => { f with cxl := .success, out := leBytes 4 r.code ++ out }) 0

/-- Completes the background command (R78). -/
def endBackground (s : State) (r : Result) (out : List Byte) : State :=
  complete (s.modFw fun f => { f with background := none }) r out

/-! ## Rows -/

/-- POWER_UP: `test` says what the start finds. -/
def execPowerUp (s : State) : Host.Outcome State Fault Refusal := event (modify fun s => start s s.arg.test none) s

/-- The start that ends a RESET_MODULE (R83): its mailbox exchange is complete, and CLRCNT clears the counter. What the exchange
returned stays readable. -/
def resetStart (s : State) (clr : Bool) (ovr : Option Nat) : State :=
  let s := endBackground s .ok []
  (start (s.modFw fun f => { f with attempts := if clr then 0 else f.attempts }) s.arg.test ovr).modFw fun f =>
    { f with cxl := s.fw.cxl, out := s.fw.out }

/-- STAGE_OVERRUN: stage n of a start runs past its limit; stage 6 has none. The start is that of power-up, of a retry or of
RESET_MODULE. -/
def execStageOverrun (s : State) : Host.Outcome State Fault Refusal :=
  event (modify fun s =>
    if 5 < s.arg.n then s
    else match s.fw.background with
      | some (.reset clr) => resetStart s clr (some s.arg.n)
      | _ => if s.fw.st == .starting then start s s.arg.test (some s.arg.n) else s) s

/-- START_RETRY_RESET: 100 ms after a fatal failure. -/
def execStartRetryReset (s : State) : Host.Outcome State Fault Refusal :=
  event (modify fun s => if s.fw.retryReset then start s s.arg.test none else s) s

/-- INPUT_POWER_REMOVED: the attempt counter reads 0 (R86), and the module is as before POWER_UP. The cause records stay (DESIGN
CHOICE, notes/assumptions/27.md): of always-on memory only the counter is said to be lost. -/
def execInputPowerRemoved (s : State) : Host.Outcome State Fault Refusal :=
  event (modify fun s => (resetModule s).modFw fun f => { f with attempts := 0, started := false }) s

/-- MODULE_RESET after a RESET_MODULE exchange (R83). -/
def execModuleReset (s : State) : Host.Outcome State Fault Refusal :=
  event (modify fun s => match s.fw.background with
    | some (.reset clr) => resetStart s clr none
    | _ => s) s

end Sys2Proof.Machine
end

