-- ==== Sys2Proof/Machine/HostPort.lean ====
section
/-! DEFINITION. What the host does to the device-memory window: the slot table (R70 to R74), the event ring and EVHEAD (R75), mapped
memory (R68, R69), MSI-X (R76), and the I3C sideband (R93). -/

namespace Sys2Proof.Machine

/-! ## SUBMIT (R71, R72, R74) -/

/-- The instance's tensors are all loaded (R81). -/
def weightsLoaded (s : State) (i : Nat) : Bool :=
  match s.fw.plan with
  | some p => (p.tensors.filter (fun t => t.inst == i)).all fun t => s.fw.loaded.contains (t.inst, t.index)
  | none => false

/-- A sampling parameter out of range (R103). -/
def badTempr (v : BitVec 32) : Bool :=
  match f32 v with
  | .fin neg n _ => neg && n != 0
  | _ => true

def badTopp (v : BitVec 32) : Bool :=
  match f32 v with
  | .fin neg n d => neg || n == 0 || decide (n > d)
  | _ => true

/-- Cause 0x0031 over a slot's bytes and the STATE word written. -/
def badFields (b : List Byte) (word : Nat) : Bool :=
  word ≥ 16 || field b 9 1 ≥ 4 || field b 8 1 > 15 || field b 12 4 = 0 || field b 16 8 % 4 ≠ 0 || field b 24 4 = 0 ||
    field b 32 8 % 4 ≠ 0 || field b 40 4 % 4 ≠ 0 || field b 40 4 < 4 ||
    badTempr (BitVec.ofNat 32 (field b 56 4)) || badTopp (BitVec.ofNat 32 (field b 60 4)) ||
    !((slice b 10 2 ++ slice b 28 4 ++ slice b 44 4 ++ slice b 68 60).all (· == 0))

/-- The first cause of REJECTED that applies (R72). -/
def rejectCause (s : State) (b : List Byte) (word : Nat) : Option Nat :=
  if s.fw.st != .serving then some 0x0032
  else if badFields b word then some 0x0031
  else match planInst s (field b 8 1) with
    | none => some 0x0030
    | some i =>
      if !weightsLoaded s (field b 8 1) || s.fw.mediaInst.contains (field b 8 1) then some 0x0030
      else if field b 24 4 > i.ctxlim then some 0x0033
      else none

/-- The stream that an accepted slot becomes (R94). -/
def newStream (n : Nat) (id : BitVec 20) (b : List Byte) : StreamEnt :=
  { id := id, st := .queued, slot := n, inst := field b 8 1, prio := field b 9 1 % 4, plen := field b 24 4, toklim := field b 12 4,
    paddr := BitVec.ofNat 64 (field b 16 8), oaddr := BitVec.ofNat 64 (field b 32 8), olen := field b 40 4, seed := BitVec.ofNat 64 (field b 48 8),
    tempr := BitVec.ofNat 32 (field b 56 4), topp := BitVec.ofNat 32 (field b 60 4), topk := field b 64 4 }

/-- The device observes SUBMIT on slot n, STATE written as `word` (R72): a stream id is allocated, STREAM, NTOK and CAUSE are
written, then QUEUED, REJECTED or CANCELLED. -/
def submitSlot (s : State) (n word : Nat) : State :=
  let b := slotImage s n
  let gen := mapGet 0 s.fw.gens n
  let id : BitVec 20 := BitVec.ofNat 20 (gen.toNat * 65536 + n)
  let s := s.modFw fun f => { f with gens := mapSet f.gens n (gen + 1) }
  let s := slotWrite s n 128 (leBytes 4 id.toNat ++ List.replicate 6 0)
  match rejectCause s b word with
  | some c => terminal s n 7 c 0 id
  | none =>
    if field b 4 4 ≠ 0 then terminal s n 5 0x0010 0 id
    else
      let s := s.modFw fun f => { f with streams := mapSet f.streams n (newStream n id b), queue := f.queue ++ [n] }
      slotWrite s n 0 (leBytes 4 2)

/-- The slot's STATE may be written by the host: FREE or terminal. -/
def hostOwns (s : State) (n : Nat) : Bool := slotState s n == 0 || terminalSlot (slotState s n)

/-- A disallowed write of STATE is undone and counted (R71). The count wraps at 16 bits (DESIGN CHOICE, notes/assumptions/28.md). -/
def undoState (s : State) : State := s.modFw fun f => { f with sloterr := f.sloterr + 1 }

/-- A host write of STATE (R71). -/
def writeState (s : State) (n word : Nat) : State :=
  if word % 16 = 1 ∧ hostOwns s n then submitSlot s n word
  else if word = 0 ∧ terminalSlot (slotState s n) then slotWrite s n 0 (leBytes 4 0)
  else undoState s

/-- A host write of CANCEL (R74). -/
def writeCancel (s : State) (n v : Nat) : State :=
  let s := slotWrite s n 4 (leBytes 4 v)
  let st := slotState s n
  if v ≠ 0 ∧ (st = 2 ∨ st = 3) then cancelStream s (field (slotImage s n) 128 4 % 2 ^ 20) else s

/-- A store of the host into the window, which minimal mode does not take: CXL.mem is disabled (R69). -/
def hostStore (f : State → State) (s : State) : Host.Outcome State Fault Refusal :=
  event (modify fun s => if s.fw.st == .minimal then s else f s) s

/-- SUBMIT: a host write of STATE on slot n with code SUBMIT, its other bits those of `val`. -/
def execSubmit (s : State) : Host.Outcome State Fault Refusal :=
  hostStore (fun s => writeState s s.arg.n (s.arg.val.toNat % 2 ^ 32 / 16 * 16 + 1)) s

/-- SLOT_FREE: a host write of FREE on slot n. -/
def execSlotFree (s : State) : Host.Outcome State Fault Refusal := hostStore (fun s => writeState s s.arg.n 0) s

/-- SLOT_STATE_UNDO: a host write of STATE on slot n as `val` gives it, which R71 does not allow. -/
def execSlotStateUndo (s : State) : Host.Outcome State Fault Refusal :=
  hostStore (fun s =>
    let w := s.arg.val.toNat % 2 ^ 32
    let allowed : Bool := (w % 16 == 1 && hostOwns s s.arg.n) || (w == 0 && terminalSlot (slotState s s.arg.n))
    if allowed then s else undoState s) s

/-- CANCEL_WORD: a host write of `val` to CANCEL of slot n. -/
def execCancelWord (s : State) : Host.Outcome State Fault Refusal :=
  hostStore (fun s => writeCancel s s.arg.n (s.arg.val.toNat % 2 ^ 32)) s

/-! ## The event ring and MSI-X -/

def writeEvhead (s : State) (v : Nat) : State := ringFlush 4096 (s.modFw fun f => { f with evhead := BitVec.ofNat 12 v })

def execEvheadWrite (s : State) : Host.Outcome State Fault Refusal :=
  hostStore (fun s => writeEvhead s (s.arg.val.toNat % 4096)) s

/-- The host unmasks a vector: its pending message is sent (R76). -/
def unmask (f : Firmware) (n : Nat) : Firmware :=
  let g := if f.msixPend.getLsbD n then sendMsix f n else f
  { g with msixMask := f.msixMask &&& ~~~((1 : BitVec 5) <<< n), msixPend := f.msixPend &&& ~~~((1 : BitVec 5) <<< n) }

/-- MSIX_UNMASK of vector n (R76): the host writes the entry's address (`addr`) and data (`val`) and clears its mask, or sets the
mask with `flag`. -/
def execMsixUnmask (s : State) : Host.Outcome State Fault Refusal :=
  event (modify fun s =>
    let n := s.arg.n
    s.modFw fun f =>
      let f := { f with msixTable := mapSet f.msixTable n (s.arg.addr.zeroExtend 64, s.arg.val.truncate 32) }
      if s.arg.flag then { f with msixMask := f.msixMask ||| ((1 : BitVec 5) <<< n) } else unmask f n) s

/-! ## Window memory (R68, R69) -/

/-- Physical address of a mapped window offset. -/
def windowPhys (s : State) (o : Nat) : Option Nat :=
  if o < 0x4000000 ∨ o ≥ 0x1000000000 then none
  else (mapFind s.fw.window (o / 0x400000)).map fun base => base + o % 0x400000

/-- The line's data come marked poisoned: a poison mark, a cell that is not VALUE (Table 9-1). -/
def hostPoisoned (s : State) (pa : Nat) : Bool := s.poisoned pa || s.cellTag pa != 0

/-- The error completion of a host access of the window: a hole, a layer that is OFF (R20, R25); 0 for none. -/
def windowError (s : State) (o : Nat) : BitVec 8 :=
  match windowPhys s o with
  | some pa => match locate s pa with
    | .ok _ => 0
    | .error e => BitVec.ofNat 8 e.code
  | none => 0

/-- The clocks of the line's home have stopped, which answers nothing (R24). -/
def windowDead (s : State) (o : Nat) : Bool :=
  match windowPhys s o with
  | some pa => tripped s (homeSite pa)
  | none => false

/-- A byte that a host read of the window finds; none where the data comes marked poisoned. -/
def windowByte (s : State) (o : Nat) : Option Byte :=
  if o < 0x1000000 then some ((slotImage s (o / 256)).getD (o % 256) 0)
  else if o < 0x1010000 then some ((mapGet (List.replicate 16 0) s.fw.ring ((o - 0x1000000) / 16)).getD (o % 16) 0)
  else if o < 0x1010004 then some ((leBytes 4 s.fw.evhead.toNat).getD (o - 0x1010000) 0)
  else match windowPhys s o with
    | some pa => if hostPoisoned s pa then none else some (readPhys s pa)
    | none => none

/-- What a host read of `n` bytes of the window finds. -/
def readWindow (s : State) (o n : Nat) : State :=
  let s := match windowPhys s o with
    | some pa => wake s pa
    | none => s
  let bs := (List.range n).map fun i => windowByte s (o + i)
  let ok := bs.all (·.isSome)
  s.modFw fun f => { f with
    hostRead := if ok then bs.map (·.getD 0) else List.replicate n 0xFF, hostPoison := !ok, hostErr := 0 }

/-- HOST_MEM_READ of `size` bytes, at most 64 of one line, at window offset `addr`: in minimal mode the window is closed. -/
def execHostMemRead (s : State) : Host.Outcome State Fault Refusal :=
  event (modify fun s =>
    let o := s.arg.addr.toNat
    let n := min s.arg.size (64 - o % 64)
    if s.fw.st == .minimal then s.modFw fun f => { f with hostRead := List.replicate n 0xFF, hostPoison := true, hostErr := 0 }
    else if windowError s o != 0 || windowDead s o then
      s.modFw fun f => { f with hostRead := [], hostPoison := false, hostErr := windowError s o }
    else readWindow s o n) s

/-- Host bytes 8 to 127 of a slot; STATE and CANCEL are judged as words, device bytes stay (R70). -/
def writeSlot (s : State) (n o : Nat) (bs : List Byte) : State :=
  let at_ (k : Nat) : Option Byte := if o ≤ k then bs[k - o]? else none
  let s := (List.range 120).foldl (fun (s : State) i => match at_ (8 + i) with
    | some b => slotWrite s n (8 + i) [b]
    | none => s) s
  let word (k : Nat) : Option Nat :=
    if (List.range 4).any (fun i => (at_ (k + i)).isSome) then
      some (leNat ((List.range 4).map fun i => (at_ (k + i)).getD ((slotImage s n).getD (k + i) 0)))
    else none
  let s := match word 4 with
    | some v => writeCancel s n v
    | none => s
  match word 0 with
  | some v => writeState s n v
  | none => s

/-- A host write of mapped memory: a store at the home of each part of a line, which a cell that is not VALUE discards
(notes/assumptions/28.md). -/
def writeMapped (pa : Nat) (bs : List Byte) : H Unit := do
  let s ← get
  if s.cellTag pa != 0 then pure ()
  else
    set (wake s pa)
    let p : Piece := { pa := pa, len := bs.length, cls := 1, defer := false, va := BitVec.ofNat 64 pa, elem := 0, stash := false }
    writePiece [] 0 p bs

/-- HOST_MEM_WRITE of `data`, at most 64 bytes of one line, at window offset `addr`. EVHEAD is written as a whole: a write of a part
of it is discarded (DESIGN CHOICE, notes/assumptions/28.md). -/
def execHostMemWrite (s : State) : Host.Outcome State Fault Refusal :=
  event (do
    let s ← get
    let o := s.arg.addr.toNat
    let bs := s.arg.data.take (64 - o % 64)
    if s.fw.st == .minimal then pure ()
    else if windowError s o != 0 || windowDead s o then set (s.modFw fun f => { f with hostErr := windowError s o })
    else
    set (s.modFw fun f => { f with hostErr := 0 })
    let s ← get
    if o < 0x1000000 then set (writeSlot s (o / 256) (o % 256) bs)
    else if o = 0x1010000 && bs.length ≥ 4 then set (writeEvhead s (leNat (bs.take 4) % 4096))
    else match windowPhys s o with
      | some pa => writeMapped pa bs
      | none => pure ()) s

/-! ## The sideband (R93) -/

/-- Item i of the measurement chain as measurement block i (R93): index, DMTF measurement specification, size, then the item's kind,
and its digest with its size (PRESUMED from SPDM, notes/assumptions/11.md). -/
def measurementBlock (i : Nat) (item : Nat × List Byte) : List Byte :=
  [BitVec.ofNat 8 i, 1] ++ leBytes 2 67 ++ [BitVec.ofNat 8 item.1] ++ leBytes 2 64 ++ slice item.2 0 64

/-- The blocks of a response, from block i in chain order. -/
def measurementBlocks : Nat → List (Nat × List Byte) → List Byte
  | _, [] => []
  | i, m :: ms => measurementBlock i m ++ measurementBlocks (i + 1) ms

/-- The responder's answer to a request, signed by the key of a seed where a signature is asked for. -/
def spdmAnswer (f : Firmware) (request : List Byte) (signed : Bool) : List Byte :=
  let r := Config.spdmHead request f.items.length ++ measurementBlocks 1 f.items
  r ++ Config.spdmTail request r (if signed then f.seed else [])

/-- An address of the sensor words (R21). -/
def isSensor (pa : Nat) : Bool := 0xFF0010000000 ≤ pa && pa < 0xFF0010000000 + 68 * 0x1000

/-- SPDM_REQUEST `data`, which asks for a signature with `flag`. Without an identity key only requests for no signature are
answered (R87). A request of no bytes with the address of a sensor word stands for the sideband's read of it, at full
resolution (R23). -/
def execSpdmRequest (s : State) : Host.Outcome State Fault Refusal :=
  event (modify fun s =>
    let a := s.arg
    if !s.fw.started then s
    else if a.data.isEmpty && isSensor a.addr.toNat then
      s.modFw fun f => { f with spdm := leBytes 4 (ctlRead s true (a.addr.toNat / 4 * 4) 4) }
    else if a.flag && !s.fw.idOk then s.modFw fun f => { f with spdm := [] }
    else s.modFw fun f => { f with spdm := spdmAnswer f a.data a.flag }) s

end Sys2Proof.Machine
end

