-- ==== Sys2Proof/Machine/Mailbox.lean ====
section
/-! DEFINITION. The mailbox (R77 to R79) and its commands on identity, configuration, the window, address spaces, the slow tier,
streams, temperature and power. A command reads its input payload from `data`. -/

namespace Sys2Proof.Machine

/-! ## Running a command -/

/-- What a command's work ends in: a result with its output from byte 4, a background part that has begun (R78), or an exchange that
goes on: nothing is done yet, and the command is tried again. -/
inductive Reply where
  | done (r : Result) (out : List Byte)
  | background
  | goesOn
  deriving DecidableEq, Repr

/-- Opcodes of Table 4-8. -/
def commandCodes : List Nat :=
  [0x01, 0x02, 0x03, 0x04, 0x05, 0x10, 0x11, 0x12, 0x13, 0x14, 0x15, 0x16, 0x17, 0x20, 0x21, 0x22, 0x30, 0x31, 0x32, 0x40, 0x41,
    0x42, 0x43, 0x44, 0x50, 0x51, 0x52]

/-- The mailbox opcode that came in place of a row's own is no command of Table 4-8 (R77); 0 where the row's own came. -/
def unknownOpcode (k : Nat) : Bool := k != 0 && !(commandCodes.map (0xC000 + ·)).contains k

/-- A command's place in Table 4-8: the states that accept it, whether it runs beside a background command, its input length
and its reserved input. -/
structure Layout where
  allowed : ModSt → Bool
  beside : Bool := false
  len : Nat := 0
  reserved : List Byte → Bool := fun _ => true

def anyState (_ : ModSt) : Bool := true
def notMinimal (m : ModSt) : Bool := m != .minimal
def drainedOrServing (m : ModSt) : Bool := m == .drained || m == .serving

/-- Bytes `o` to `o + n - 1` of a payload are 0. -/
def zeros (b : List Byte) (o n : Nat) : Bool := (slice b o n).all (· == 0)

/-- Runs a command (R77 to R79): its opcode, a background command in progress, the module state, the payload (at most 64 KiB), then
the command's own work. The order of BUSY, BADSTATE or MINIMAL, and BADARG, and that vector 0 waits for the background part to
end, are DESIGN CHOICEs (notes/assumptions/28.md). -/
def command (l : Layout) (work : State → List Byte → State × Reply) (s : State) : Host.Outcome State Fault Refusal :=
  event (modify fun s =>
    let b := s.arg.data.take 0x10000
    if !s.fw.started then s
    else if unknownOpcode s.arg.k then raiseMsix (s.modFw fun f => { f with cxl := .unsupported, out := [] }) 0
    else if s.fw.background.isSome && !l.beside then complete s .busy []
    else if !l.allowed s.fw.st then complete s (if s.fw.st == .minimal then .minimal else .badState) []
    else if decide (b.length < l.len) || !l.reserved b then complete s .badArg []
    else match work s b with
      | (s, .done r out) => complete s r out
      | (s, .background) => s.modFw fun f => { f with cxl := .background, out := [] }
      | (s, .goesOn) => s) s

/-! ## Identity and state -/

/-- Usable grid sites, as a mask. -/
def usableMask (s : State) : Nat :=
  if s.fw.st == .minimal then 0 else (List.range 64).foldl (fun m n => m + b2n (s.die n).usable * 2 ^ n) 0

/-- Usable E-dies E, S and W. -/
def usableEdies (s : State) : Nat :=
  if s.fw.st == .minimal then 0 else b2n (s.die 65).usable + 2 * b2n (s.die 66).usable + 4 * b2n (s.die 67).usable

def execIdentify (s : State) : Host.Outcome State Fault Refusal :=
  command { allowed := anyState, beside := true } (fun s _ => (s, .done .ok (
    leBytes 2 0x0940 ++ leBytes 2 s.fw.modid.toNat ++ leBytes 8 Config.serial.toNat ++ leBytes 8 (usableMask s) ++
      (List.range 32).flatMap (fun k => leBytes 4 (s.die (dSite k)).stackCap) ++
      (List.range 32).map (fun k => (s.die (pSite k)).wbok) ++ leBytes 1 (usableEdies s)))) s

/-- Entries of the 64 fault queues. -/
def faultEntries (s : State) : Nat := (List.range 64).foldl (fun n k => n + (s.die k).fq.length) 0

def execStatus (s : State) : Host.Outcome State Fault Refusal :=
  command { allowed := anyState, beside := true } (fun s _ => (s, .done .ok (
    [BitVec.ofNat 8 s.fw.st.code, s.fw.attempts] ++ leBytes 2 s.fw.sloterr.toNat ++ leBytes 4 s.fw.streams.length ++
      leBytes 4 (faultEntries s) ++ leBytes 1 (b2n s.fw.ltwarn)))) s

/-- The report of Table 4-13 up to the public key. -/
def reportHead (f : Firmware) (nonce : List Byte) : List Byte :=
  leBytes 2 1 ++ leBytes 2 f.modid.toNat ++ leBytes 2 f.items.length ++ [0, 0] ++ nonce ++ f.chain ++
    f.items.flatMap fun i => leBytes 8 i.1 ++ slice i.2 0 64

def execAttest (s : State) : Host.Outcome State Fault Refusal :=
  command { allowed := fun m => m != .starting, beside := true, len := 64 } (fun s b =>
    if !s.fw.idOk then (s, .done .badState [])
    else
      let head := reportHead s.fw (slice b 0 64)
      (s, .done .ok (head ++ publicKey s.fw.seed ++ (List.range 4627).map (Config.signatureByte s.fw.seed head)))) s

def execBootlog (s : State) : Host.Outcome State Fault Refusal :=
  command { allowed := anyState, beside := true } (fun s _ =>
    (s, .done .ok (leBytes 4 s.fw.causes.length ++ s.fw.causes.flatten))) s

/-! ## The configuration record (R89) -/

/-- The first copy is the older one, which UPDATE_CONFIG overwrites. DEDUCED (notes/assumptions/30.md): a copy that does not verify is older
than one that does; of two that verify it is the one of lower SEQ, and for equal ones the one that is not in use. -/
def firstIsOlder (f : Firmware) : Bool :=
  if f.flash0.verifies != f.flash1.verifies then !f.flash0.verifies
  else f.inUse.isNone || decide (f.flash0.seq < f.flash1.seq) || (f.flash0.seq == f.flash1.seq && f.inUse == some 1)

/-- Takes a whole record: body, then signature. -/
def installRecord (s : State) (img : List Byte) : State × Reply :=
  let n := field img 8 4
  let c : Flash := { body := slice img 0 n, sig := slice img n 4627 }
  if n < 1152 ∨ img.length ≠ n + 4627 ∨ field img 0 4 ≠ 0x46434744 then (s, .done .badArg [])
  else if !c.verifies then (s, .done .sig [])
  else if s.fw.inUse.isSome && decide (c.seq ≤ s.fw.cfgSeq) then (s, .done .badArg [])
  else
    let first := firstIsOlder s.fw
    (s.modFw fun f => { f with attempts := 0, flash0 := if first then c else f.flash0, flash1 := if first then f.flash1 else c },
      .done .ok [])

/-- UPDATE_CONFIG: chunks come in order; offset 0 starts again (notes/assumptions/30.md). -/
def execUpdateConfig (s : State) : Host.Outcome State Fault Refusal :=
  command { allowed := fun m => m == .noPlan || m == .drained || m == .minimal, len := 8 } (fun s b =>
    let o := field b 0 4
    let total := field b 4 4
    let have' := if o = 0 then [] else s.fw.update
    let img := have' ++ b.drop 8
    if o ≠ have'.length ∨ total < img.length then (s, .done .badArg [])
    else if img.length < total then (s.modFw fun f => { f with update := img }, .done .ok [])
    else installRecord (s.modFw fun f => { f with update := [] }) img) s

/-! ## The window (R68) -/

/-- A range of the mappable part of the window, in granules of 4 MiB. -/
def windowRange (o len : Nat) : Bool :=
  o % 0x400000 == 0 && len % 0x400000 == 0 && 0 < len && 0x4000000 ≤ o && o + len ≤ 0x1000000000

def execMapRegion (s : State) : Host.Outcome State Fault Refusal :=
  command { allowed := drainedOrServing, len := 24 } (fun s b =>
    let o := field b 0 8
    let pa := field b 8 8
    let len := field b 16 8
    if !windowRange o len || pa % 0x400000 != 0 || !decide (pa + len ≤ 0x018000000000) then (s, .done .badArg [])
    else (s.modFw fun f => { f with window := (List.range (len / 0x400000)).foldl (fun w i =>
      mapSet w (o / 0x400000 + i) (pa + i * 0x400000)) f.window }, .done .ok [])) s

def execUnmap (s : State) : Host.Outcome State Fault Refusal :=
  command { allowed := drainedOrServing, len := 16 } (fun s b =>
    let o := field b 0 8
    let len := field b 8 8
    if !windowRange o len then (s, .done .badArg [])
    else
      let gs := (List.range (len / 0x400000)).map (o / 0x400000 + ·)
      if gs.any (fun g => (mapFind s.fw.window g).isNone) then (s, .done .notFound [])
      else (s.modFw fun f => { f with window := gs.foldl mapDel f.window }, .done .ok [])) s

/-! ## Address spaces (R82, R180) -/

/-- The ASID that OPEN_SPACE takes: the one wanted, or the lowest closed one from 1. -/
def pickAsid (s : State) (wanted : Nat) : Result × Nat :=
  if wanted ≠ 0 then if (mapFind s.fw.roots wanted).isSome then (.busy, 0) else (.ok, wanted)
  else match (List.range 4095).find? (fun i => (mapFind s.fw.roots (i + 1)).isNone) with
    | some i => (.ok, i + 1)
    | none => (.noSpace, 0)

def execOpenSpace (s : State) : Host.Outcome State Fault Refusal :=
  command { allowed := drainedOrServing, len := 16, reserved := fun b => field b 0 2 < 4096 && zeros b 2 6 } (fun s b =>
    let root := field b 8 8
    if root % 0x10000 ≠ 0 ∨ root ≥ 2 ^ 48 then (s, .done .badArg [])
    else match pickAsid s (field b 0 2) with
      | (.ok, a) => (s.modFw fun f => { f with roots := mapSet f.roots a root }, .done .ok (leBytes 2 a))
      | (r, _) => (s, .done r [])) s

/-- CLOSE_SPACE; like ASGEN it completes only when every access that the space has translated has performed (R183). -/
def execCloseSpace (s : State) : Host.Outcome State Fault Refusal :=
  command { allowed := drainedOrServing, len := 2, reserved := fun b => field b 0 2 < 4096 } (fun s b =>
    let a := field b 0 2
    if (mapFind s.fw.roots a).isNone then (s, .done .notFound [])
    else if s.fw.texts.any (fun t => t.asid == a) then (s, .done .busy [])
    else if accessPending s a then (s, .goesOn)
    else (asgen (s.modFw fun f => { f with roots := mapDel f.roots a }) a, .done .ok [])) s

def execSetTier (s : State) : Host.Outcome State Fault Refusal :=
  command { allowed := drainedOrServing, len := 24 } (fun s b =>
    let o := field b 0 8
    let base := field b 8 8
    let len := field b 16 8
    if o % 0x10000 ≠ 0 ∨ base % 0x10000 ≠ 0 ∨ len % 0x10000 ≠ 0 ∨ len = 0 ∨ o + len > 0x400000000000 then (s, .done .badArg [])
    else (s.modFw fun f => { f with tier := (List.range (len / 0x10000)).foldl (fun t i =>
      mapSet t (o / 0x10000 + i) (base + i * 0x10000)) f.tier }, .done .ok [])) s

/-! ## Streams (R82, R108) -/

/-- A stream id of 20 bits whose other input bits are 0. -/
def idField (b : List Byte) : Bool := field b 0 4 < 2 ^ 20

/-- The slot's last accepted stream has this id. -/
def lastOf (s : State) (id : Nat) : Bool :=
  (mapFind s.fw.gens (id % 65536)).isSome && field (slotImage s (id % 65536)) 128 4 % 2 ^ 20 == id

def execCancel (s : State) : Host.Outcome State Fault Refusal :=
  command { allowed := fun m => m == .serving || m == .draining, beside := true, len := 4, reserved := idField } (fun s b =>
    let id := field b 0 4
    let st := slotState s (id % 65536)
    if lastOf s id && (st == 2 || st == 3) then (cancelStream s id, .done .ok (leBytes 4 st)) else (s, .done .notFound [])) s

def execQueryStream (s : State) : Host.Outcome State Fault Refusal :=
  command { allowed := notMinimal, beside := true, len := 4, reserved := idField } (fun s b =>
    let id := field b 0 4
    if !lastOf s id then (s, .done .notFound [])
    else
      let n := id % 65536
      let committed := ((mapFind s.fw.streams n).map (fun (e : StreamEnt) => e.committed.length)).getD 0
      (s, .done .ok (leBytes 4 (slotState s n) ++ leBytes 2 n ++ [0, 0] ++ slice (slotImage s n) 132 4 ++ leBytes 8 committed))) s

def execDrain (s : State) : Host.Outcome State Fault Refusal :=
  command { allowed := fun m => m == .serving } (fun s _ =>
    (s.modFw fun f => { f with st := .draining, background := some (.drain f.streams.length) }, .background)) s

/-- DRAIN_COMPLETE: no stream is left, and the module is DRAINED with every logical time at 0 (R82, R208). -/
def execDrainComplete (s : State) : Host.Outcome State Fault Refusal :=
  event (modify fun s => match s.fw.background with
    | some (.drain n) =>
      if s.fw.streams.isEmpty then endBackground (resetTimes (s.modFw fun f => { f with st := .drained })) .ok (leBytes 4 n) else s
    | _ => s) s

/-! ## Reset, temperature, power (R83) -/

def execResetModule (s : State) : Host.Outcome State Fault Refusal :=
  command { allowed := anyState, len := 1, reserved := fun b => field b 0 1 < 2 } (fun s b =>
    (s.modFw fun f => { f with background := some (.reset (field b 0 1 == 1)) }, .background)) s

/-- THERMAL's output: the hottest sensor of each site; 0 where none is valid (DESIGN CHOICE, notes/assumptions/28.md). -/
def hottestOut (s : State) : List Byte :=
  (List.range 68).flatMap fun n => leBytes 2 (BitVec.ofInt 16 ((hottest (s.die n)).getD 0)).toNat

def execThermalRead (s : State) : Host.Outcome State Fault Refusal :=
  command { allowed := notMinimal, beside := true, len := 4, reserved := fun b => field b 0 1 == 0 } (fun s _ =>
    (s, .done .ok (hottestOut s))) s

def execThermalSet (s : State) : Host.Outcome State Fault Refusal :=
  command { allowed := notMinimal, len := 4, reserved := fun b => field b 0 1 == 1 } (fun s b =>
    if field b 1 1 ≥ 68 then (s, .done .badArg [])
    else
      let s := setTlim s (field b 1 1) (field b 2 1) (field b 3 1)
      (s, .done .ok (hottestOut s))) s

def execPowerCap (s : State) : Host.Outcome State Fault Refusal :=
  command { allowed := notMinimal, len := 4 } (fun s b =>
    let s := (List.range 16).foldl (fun (s : State) g =>
      if (field b 0 2).testBit g then writeRegion s g 0 (field b 2 2) else s) s
    (s, .done .ok ((List.range 16).flatMap fun g => leBytes 2 (s.region g).pcap.toNat))) s

end Sys2Proof.Machine
end

