-- ==== Sys2Proof/Machine/Plans.lean ====
section
/-! DEFINITION. Plans: the checks of SET_PLAN in the order of Table 5-4 (R45, R80, R96 to R98), what an accepted plan installs
(R80, R114, R148, R265), and loading text and weights (R81). The content of a plan's sections is what `Config.parsePlan` reads. -/

namespace Sys2Proof.Machine

/-- A check that fails: rule, section kind, entry. -/
abbrev Finding := Nat × Nat × Nat

/-- Entries that the directory lists for a kind of section (Table 5-2); 0 where it does not list the kind. -/
def listedEntries (img : List Byte) (k : Nat) : Nat :=
  ((List.range (field img 6 2)).map fun i => if field img (80 + 16 * i) 2 = k then field img (84 + 16 * i) 4 else 0).sum

/-- Entries of a kind of section that the plan's content holds. A template entry is a task, a ring, a mask or an image pool. -/
def heldEntries (p : Plan) (k : Nat) : Nat :=
  match k with
  | 1 => p.insts.length
  | 2 => p.placement.length
  | 3 => p.schedule.length
  | 4 => p.rotation.length
  | 5 => p.pools.length
  | 6 => p.routes.length
  | 7 => p.groups.length
  | 8 => p.templates.length + p.rings.length + p.masks.length + p.imagePools.length
  | 9 => p.tensors.length
  | 10 => p.layers.length
  | _ => 0

/-- The content does not agree with the directory's count: fewer or more entries. -/
def miscounted (img : List Byte) (p : Plan) (k : Nat) : Bool := listedEntries img k != heldEntries p k

/-- A finding where a check fails. -/
def ifBad (bad : Bool) (f : Finding) : List Finding := if bad then [f] else []

/-- One finding for each entry that fails, with its index. -/
def badEntries {α : Type} (rule kind : Nat) (es : List α) (bad : α → Bool) : List Finding :=
  ((List.range es.length).zip es).filterMap fun x => if bad x.2 then some (rule, kind, x.1) else none

/-! ## Rules 0x0001 and 0x0002 -/

/-- Kinds of the directory's entries. -/
def planKinds (img : List Byte) : List Nat := (List.range (field img 6 2)).map fun i => field img (80 + 16 * i) 2

/-- Rules 0x0001 and 0x0002. That a conversion id other than 1 or 2, and content that does not agree with the directory's counts, break
rule 0x0001 is a DESIGN CHOICE, and so is the item that PLANREJ reports where a failure belongs to no section or to two: the header's is
kind 0, entry 0; the directory's is kind 0 and its entry (notes/assumptions/10.md). -/
def formFindings (img : List Byte) (len : Nat) (p : Plan) : List Finding :=
  let n := field img 6 2
  let ks := planKinds img
  let entry (i : Nat) : List Byte := slice img (80 + 16 * i) 16
  ifBad (field img 0 4 != 0x4E414C50 || field img 4 2 != 1 || field img 8 4 != len || decide (len < 80 + 16 * n)) (1, 0, 0) ++
    badEntries 1 0 (List.range n) (fun i => decide (field (entry i) 8 8 < 80 + 16 * n ∨ len < field (entry i) 8 8)) ++
    badEntries 1 0 (List.range n) (fun i => (ks.take i).contains (ks.getD i 0)) ++
    [1, 2, 4, 5, 8].flatMap (fun k => ifBad (!ks.contains k) (1, k, 0)) ++
    [1, 2, 3, 4, 5, 6, 7, 8, 9, 10].flatMap (fun k => ifBad (miscounted img p k) (1, k, 0)) ++
    ifBad (decide (16 < p.insts.length)) (1, 1, 16) ++
    badEntries 1 1 p.insts (fun i => i.2.conv != 1 && i.2.conv != 2) ++
    ifBad (!ks.contains 9 && p.insts.any (fun i => i.2.tensors != 0)) (1, 9, 0) ++
    badEntries 1 1 p.insts (fun i => (p.tensors.filter (fun t => t.inst == i.1)).length != i.2.tensors) ++
    ifBad (!zeros img 12 68) (2, 0, 0) ++
    badEntries 2 0 (List.range n) (fun i => !zeros (entry i) 2 2 || ks.getD i 0 == 0 || decide (10 < ks.getD i 0))

/-! ## Rules 0x0003 and 0x0004 -/

/-- A die that can take no work of this module: not usable, or lent. -/
def barred (s : State) (n : Nat) : Bool := !(s.die n).usable || (s.die n).pool != 0

/-- A range of bytes of one stack, below its capacity. -/
def inStack (s : State) (pa len : Nat) : Bool :=
  let k := pa / 0x000C00000000
  isDram pa && decide (pa % 0x000C00000000 + len ≤ (s.die (dSite k)).stackCap * 0x400000)

/-- Addresses of a tensor's destination, one in each bank pair and stack that it touches. -/
def tensorPoints (t : Tensor) : List Nat :=
  t.dest :: (List.range (t.len / 0x1000000 + 1)).filterMap fun i =>
    let a := (t.dest / 0x1000000 + 1 + i) * 0x1000000
    if a < t.dest + t.len then some a else none

/-- Weights on a die that takes no work, or on a bank pair whose WBOK bit is clear (R80). -/
def badWeights (s : State) (t : Tensor) : Bool :=
  (tensorPoints t).any fun a => match spaceOf a with
    | .dram k => barred s (dSite k)
    | .weight j off => barred s (pSite j) || !(s.die (pSite j)).wbok.getLsbD (off % 0x20000000 / 0x03000000)
    | _ => false

def placeFindings (s : State) (p : Plan) : List Finding :=
  badEntries 3 2 p.placement (fun e => e.dies.any (barred s) ||
      e.assign.any fun x => barred s x.2.1 || !(s.die x.2.1).wbok.getLsbD x.2.2) ++
    badEntries 3 3 p.schedule (fun e => barred s e.site || !(s.die e.site).wbok.getLsbD e.pair) ++
    badEntries 3 4 p.rotation (fun e => e.2.any fun d => d.any fun x => barred s x.1) ++
    badEntries 3 5 p.pools (fun e => barred s e.1) ++
    badEntries 3 8 p.templates (fun t => t.peer.isNone && barred s t.site) ++
    badEntries 3 9 p.tensors (badWeights s) ++
    badEntries 4 5 p.pools (fun e => decide (e.2.1 * 0x10000 / 0x000C00000000 ≠ e.1 / 2) || !isD e.1 ||
      !inStack s (e.2.1 * 0x10000) (e.2.2 * 0x10000)) ++
    badEntries 4 8 p.imagePools (fun e => e.2.2 != 0 && (e.2.1 % 64 != 0 || !inStack s e.2.1 (e.2.2 * 20480))) ++
    badEntries 4 9 p.tensors (fun t => isDram t.dest && !inStack s t.dest t.len)

/-! ## Rule 0x0005 (R45) -/

/-- Links that wait for each other: consecutive links of a path. -/
def pathDeps (path : List (Nat × Nat)) : List ((Nat × Nat) × (Nat × Nat)) := path.zip (path.drop 1)

/-- Takes away the dependencies on links that depend on nothing; those of a cycle stay. -/
def peelDeps : Nat → List ((Nat × Nat) × (Nat × Nat)) → List ((Nat × Nat) × (Nat × Nat))
  | 0, ds => ds
  | n + 1, ds =>
    let froms := (ds.map (·.1)).eraseDups
    let kept := ds.filter fun d => froms.contains d.2
    if kept.length = ds.length then ds else peelDeps n kept

/-- The paths of a plan's routes and alternates. -/
def plannedPaths (p : Plan) : List (List (Nat × Nat)) :=
  p.routes.flatMap fun r => pathOf 20 r.1 r.2.1 r.2.2.1 :: (r.2.2.2.toList.map fun a => pathOf 20 r.1 r.2.1 a)

/-- The dimension-ordered paths between all sites. -/
def orderedPaths : List (List (Nat × Nat)) :=
  (List.range 68).flatMap fun a => (List.range 68).map fun b => pathOf 20 a b 0

def cyclicRoutes (p : Plan) : Bool :=
  let ds := ((plannedPaths p ++ orderedPaths).flatMap pathDeps).eraseDups
  !(peelDeps ds.length ds).isEmpty

/-- More than 10 planned hops, or an E-die on the way. -/
def badRoute (src dst : Nat) (r : BitVec 24) : Bool :=
  decide (10 < r.toNat % 16) || (pathOf 20 src dst r).any fun l => l.1 != src && decide (64 ≤ l.1)

def routeFindings (p : Plan) : List Finding :=
  badEntries 5 6 p.routes (fun r => badRoute r.1 r.2.1 r.2.2.1 || (r.2.2.2.toList).any (badRoute r.1 r.2.1)) ++
    ifBad (!p.routes.isEmpty && cyclicRoutes p) (5, 6, 0)

/-! ## Rules 0x0006 to 0x0009 -/

/-- A template's text addresses, instance and site are in range. -/
def templateOk (p : Plan) (t : Template) : Bool :=
  let addrOk (v : Nat) : Bool := v % 2 == 0 && decide (v < 2 ^ 56)
  (mapFind p.insts t.inst).isSome && decide (t.site < 64) && t.bytes.length == 128 &&
    addrOk (recPro t.bytes) && addrOk (recKer t.bytes) && addrOk (recEpi t.bytes)

/-- A group's spans lie on dies, within their cores, and apart (R148). -/
def spansOk (sp : List Span) : Bool :=
  sp.all (fun x => decide (x.1 < 64 ∧ x.2.1 ≤ x.2.2 ∧ x.2.2 < coresOf x.1)) &&
    (groupMembers sp).eraseDups.length == (groupMembers sp).length

def sizeFindings (p : Plan) : List Finding :=
  badEntries 6 1 p.insts (fun i => decide (65536 < i.2.layers * ((i.2.ctxlim + 127) / 128))) ++
    badEntries 7 4 p.rotation (fun e => match mapFind p.insts e.1 with
      | none => false
      | some i => e.2.any fun d => (setNeed i (1 + i.ctxlim / 256) d).any fun x =>
          let pool := mapGet (0, 0) p.pools x.1
          decide (pool.2 - (pool.2 + 127) / 128 < x.2)) ++
    badEntries 8 7 p.groups (fun g => (groupMembers g.2).any fun c => decide (4 < (groupsOf p.groups c).length)) ++
    badEntries 9 4 p.rotation (fun e => (mapFind p.insts e.1).isNone) ++
    badEntries 9 7 p.groups (fun g => decide (256 ≤ g.1) || !spansOk g.2) ++
    badEntries 9 8 p.templates (fun t => !templateOk p t) ++
    badEntries 9 8 p.rings (fun r => decide (64 ≤ r.1 ∨ 4096 ≤ r.2.1))

/-- The first check that fails, in the order of the rules (R98). -/
def firstFinding (fs : List Finding) : Option Finding :=
  fs.foldl (fun m f => match m with
    | none => some f
    | some x => if f.1 < x.1 then some f else some x) none

def planFinding (s : State) (img : List Byte) (len : Nat) (p : Plan) : Option Finding :=
  firstFinding (formFindings img len p ++ p.reject.toList ++ placeFindings s p ++ routeFindings p ++ sizeFindings p)

/-! ## Installing a plan -/

/-- Frame numbers of a pool's free list (R114). -/
def poolFrames (n : Nat) : List Nat := List.range (n - (n + 127) / 128)

def installPools (s : State) (p : Plan) : State :=
  p.pools.foldl (fun (s : State) e =>
    if lostSite s e.1 then s
    else s.modDie e.1 fun d => { d with freeFrames := poolFrames e.2.2, frameRefs := [], attached := [] }) s

def installMasks (s : State) (p : Plan) : State :=
  p.masks.foldl (fun (s : State) m => s.modDie m.1 fun d =>
    if m.2.1 = 0 then { d with mask0 := some m.2.2 } else { d with masks := mapSet d.masks m.2.1 m.2.2 }) s

def installRings (s : State) (p : Plan) : State :=
  p.rings.foldl (fun (s : State) r =>
    [16, 8, 0].foldr (fun o (s : State) => writeRing s r.1 r.2.1 o (field r.2.2 o 8) 8) s) s

def installGroups (s : State) (p : Plan) : State :=
  setGroups s p.groups [] ((s.fw.groups.flatMap (fun g => groupMembers g.2) ++ p.groups.flatMap fun g => groupMembers g.2).eraseDups)

def installImagePools (s : State) (p : Plan) : State :=
  p.imagePools.foldl (fun (s : State) e => s.modDie e.1 fun d =>
    { d with pbase := BitVec.ofNat 48 e.2.1, pslots := BitVec.ofNat 16 e.2.2 }) s

/-- The measurement chain after an accepted plan (R91). -/
def measurePlan (f : Firmware) (digest : List Byte) : Firmware :=
  let f := { f with items := f.items.filter (fun i => i.1 ≤ 2), chain := f.chainCfg }
  let f := if f.dbgItem then measure f 5 (sha3 []) else f
  measure f 3 digest

/-- An accepted plan (R80, R86, R88, R91, R114). -/
def installPlan (s : State) (p : Plan) (digest : List Byte) : State :=
  let s := s.modFw fun f => { measurePlan f digest with
    plan := some p, planDigest := digest, texts := [], loaded := [], mediaInst := [], pointers := [], newDown := [], st := .serving }
  let s := installRings (installImagePools (installGroups (installMasks (installPools s p) p) p) p) p
  let s := p.layers.foldl (fun (s : State) l => setLpwr s l.1 l.2.1 l.2.2) s
  (appendCause s 6 0 0xFF).modFw fun f => { f with attempts := 0 }

/-- SET_PLAN. -/
def execSetPlan (s : State) : Host.Outcome State Fault Refusal :=
  command { allowed := fun m => m == .noPlan || m == .drained, len := 12 } (fun s b =>
    let len := field b 8 4
    let img := hostRead s (field b 0 8) len
    let p := Config.parsePlan img
    match planFinding s img len p with
    | some f => (s, .done .planRej (leBytes 4 f.1 ++ leBytes 4 f.2.1 ++ leBytes 4 f.2.2))
    | none =>
      let digest := sha3 img
      (installPlan s p digest, .done .ok digest)) s

/-! ## Text and weights (R81) -/

def execLoadText (s : State) : Host.Outcome State Fault Refusal :=
  command { allowed := drainedOrServing, len := 28,
            reserved := fun b => zeros b 1 1 && field b 2 2 < 4096 && zeros b 4 4 } (fun s b =>
    let i := field b 0 1
    let asid := field b 2 2
    let va := field b 8 8
    let len := field b 24 4
    if len = 0 ∨ va + len > 2 ^ 56 then (s, .done .badArg [])
    else if (planInst s i).isNone || (mapFind s.fw.roots asid).isNone then (s, .done .notFound [])
    else if s.fw.items.length ≥ 256 then (s, .done .noSpace [])
    else match rangeParts s 0 asid aFetch va len with
      | none => (s, .done .notFound [])
      | some ps =>
        let text := hostRead s (field b 16 8) len
        let s := (writeParts s ps text).modFw fun f => { measure f 4 (sha3 text) with
          texts := f.texts ++ [{ inst := i, asid := asid, va := BitVec.ofNat 64 va, len := len }] }
        (s, .done .ok [])) s

/-- A tensor of the plan (R97). -/
def findTensor (s : State) (inst index : Nat) : Option Tensor :=
  match s.fw.plan with
  | some p => p.tensors.find? fun t => t.inst == inst && t.index == index
  | none => none

def execLoadWeights (s : State) : Host.Outcome State Fault Refusal :=
  command { allowed := drainedOrServing, len := 24, reserved := fun b => zeros b 1 1 && zeros b 4 4 } (fun s b =>
    let i := field b 0 1
    let t := field b 2 2
    if (findTensor s i t).isNone then (s, .done .notFound [])
    else (s.modFw fun f => { f with
      background := some (.loadWeights i t (BitVec.ofNat 64 (field b 8 8)) (field b 16 8)) }, .background)) s

/-- LOAD_WEIGHTS_DONE: the tensor has streamed to its destination, and its length and digest are judged. -/
def execLoadWeightsDone (s : State) : Host.Outcome State Fault Refusal :=
  event (modify fun s => match s.fw.background with
    | some (.loadWeights i k host len) =>
      let s := s.modFw fun f => { f with loaded := f.loaded.filter (· != (i, k)) }
      match findTensor s i k with
      | none => endBackground s .notFound []
      | some t =>
        if len ≠ t.len then endBackground s .badArg []
        else
          let bs := hostRead s host.toNat len
          let s := writeParts s (pageParts (len / 0x10000 + 2) t.dest len) bs
          if sha3 bs == t.digest then endBackground (s.modFw fun f => { f with loaded := f.loaded ++ [(i, k)] }) .ok []
          else endBackground s .hash []
    | _ => s) s

end Sys2Proof.Machine
end

