-- ==== Sys2Proof/Machine/Image.lean ====
section
/-! DEFINITION. Context images (R251, R265, R266, Table 12-5). The manual gives the blocks and their sizes; the places inside
the engine, stack and recipe blocks are notes/assumptions/14.md. -/

namespace Sys2Proof.Machine

/-! ## Writing an image -/

def fillCode : Fill → Nat
  | .full => 0
  | .empty => 1
  | .dropped => 2

def fillOf : Nat → Fill
  | 0 => .full
  | 1 => .empty
  | _ => .dropped

/-- Two-bit codes, four to a byte. -/
def packFills : List Fill → List Byte
  | a :: b :: c :: d :: r =>
    BitVec.ofNat 8 (fillCode a + 4 * fillCode b + 16 * fillCode c + 64 * fillCode d) :: packFills r
  | [] => []
  | l => [BitVec.ofNat 8 ((l.zip [1, 4, 16]).foldl (fun n e => n + fillCode e.1 * e.2) 0)]

def padTo (n : Nat) (bs : List Byte) : List Byte := slice bs 0 n

/-- A context as a spill records it: recipe targets are DROPPED and their values are not saved (R251). -/
def dropTargets (c : Ctx) : Ctx :=
  c.recipes.foldl (fun (c : Ctx) e =>
    let r := e.2.target
    match e.2.kind with
    | .x => if (c.regX r).fill == .empty then c else { c with x := mapSet c.x r { val := 0, fill := .dropped } }
    | .v => if (c.regV r).fill == .empty then c else { c with v := mapSet c.v r { val := 0, fill := .dropped } }
    | .p => if (c.regP r).fill == .empty then c else { c with p := mapSet c.p r { val := 0, fill := .dropped } }) c

def phaseCode : Phase → Nat
  | .prologue => 0
  | .kernel => 1
  | .epilogue => 2

def phaseOf : Nat → Phase
  | 0 => .prologue
  | 1 => .kernel
  | _ => .epilogue

def rotWord (c : Ctx) : Nat := c.vsize + c.psize * 256 + c.vrrb * 65536 + c.prrb * 2 ^ 24

/-- The CSR block: sixteen words (R266). -/
def csrBlock (c : Ctx) : List Byte :=
  ([c.flags.toNat, c.trapen.toNat, c.rmode.toNat, c.srseed.toNat, c.srctr.toNat, rotWord c, c.vallot, c.slipw, c.displ.toNat,
    c.remain.toNat + phaseCode c.phase * 2 ^ 32, c.taskid.toNat, c.streamid.toNat, c.evalid.toNat, c.asid.toNat,
    c.serial.toNat, 0]).flatMap (leBytes 8)

/-- The A-count that the others are counted from. -/
def baseCount (c : Ctx) : Nat := min c.t.acount (min c.m.acount c.c.acount)

/-- Program counters, A-counts, A-log, BREGs: 160 bytes. -/
def engineBlock (c : Ctx) : List Byte :=
  let pc (g : EngCtx) : List Byte :=
    leBytes 7 g.pc.toNat ++ [BitVec.ofNat 8 (b2n g.halted + 2 * (g.acount - baseCount c))]
  let log := c.alog.take 9
  let code (a : ALog) : Nat := match a.outcome with
    | none => 1
    | some (t, n) => 3 + 4 * b2n t + 8 * b2n (n != 0)
  let counts := log.filterMap fun a => match a.outcome with
    | some (_, n) => if n == 0 then none else some n
    | none => none
  let codes := (log.zip (List.range 9)).foldl (fun n e => n + code e.1 * 16 ^ e.2) 0
  let breg (g : EngCtx) : List Byte := leBytes 6 (g.breg.getD 0)
  pc c.t ++ pc c.m ++ pc c.c ++ leBytes 8 (baseCount c) ++ padTo 63 (log.flatMap fun a => leBytes 7 a.addr.toNat) ++
    leBytes 5 codes ++ padTo 48 (counts.flatMap fun n => leBytes 8 n.toNat) ++ breg c.m ++ breg c.c

/-- Loop and return stacks: 128 bytes an engine, the depths in the top bytes of the first entries. -/
def stackBlock (g : EngCtx) : List Byte :=
  let loops := (List.range 4).flatMap fun i =>
    let e := g.loops.getD i ⟨0, 0⟩
    leBytes 8 e.left.toNat ++ leBytes 7 e.body.toNat ++ [if i = 0 then BitVec.ofNat 8 g.loops.length else 0]
  let rets := (List.range 8).flatMap fun i =>
    leBytes 7 (g.rets.getD i 0).toNat ++ [if i = 0 then BitVec.ofNat 8 g.rets.length else 0]
  loops ++ rets

/-- M and C parameter stacks, then depths, literal runs and skips. -/
def paramBlock (c : Ctx) : List Byte :=
  let words (g : EngCtx) : List Byte := padTo 64 (g.params.flatMap fun w => leBytes 8 w.toNat)
  words c.m ++ words c.c ++ ([c.m.params.length, c.c.params.length, c.m.litRun, c.c.litRun, c.m.skip, c.c.skip, 0, 0]).map
    (BitVec.ofNat 8)

/-- The state of a port: the descriptor's bytes with the position where they must be 0 (R318, R424). -/
def streamBlock (q : Option Stream) : List Byte :=
  match q with
  | none => List.replicate 48 0
  | some q =>
    leBytes 8 q.base.toNat ++ [BitVec.ofNat 8 q.es, BitVec.ofNat 8 (b2n q.write)] ++ leBytes 6 q.pos ++ leBytes 4 q.c0 ++
      leBytes 4 q.c1 ++ leBytes 4 q.c2 ++ leBytes 4 (q.pos / 2 ^ 48) ++ leBytes 4 q.s0.toNat ++ leBytes 4 q.s1.toNat ++
      leBytes 4 q.s2.toNat ++ leBytes 4 (q.pos / 2 ^ 80)

/-- A recipe slot: count of words with 0x80, kind, target, pins, rotation, words (R246). -/
def recipeBlock (r : Option Recipe) : List Byte :=
  match r with
  | none => List.replicate 64 0
  | some r =>
    [BitVec.ofNat 8 (0x80 + r.body.length), BitVec.ofNat 8 r.kind.code, BitVec.ofNat 8 r.target, BitVec.ofNat 8 r.pins.length] ++
      padTo 16 (r.pins.flatMap fun p => [BitVec.ofNat 8 p.1.code, BitVec.ofNat 8 p.2]) ++ leBytes 4 r.rot.toNat ++
      List.replicate 8 0 ++ padTo 32 (r.body.flatMap fun i => padTo 8 ((encodeBytes i).getD []))

def imageLen (vallot : Nat) : Nat := 0x1380 + 64 * vallot

/-- The image of a context (Table 12-5). -/
def encodeImage (c0 : Ctx) : List Byte :=
  let c := dropTargets c0
  let xs := (List.range 63).map fun i => c.regX (i + 1)
  let ps := (List.range 127).map fun i => c.regP (i + 1)
  let vs := (List.range c.vallot).map c.regV
  padTo 64 ([1, 0, BitVec.ofNat 8 (c.vallot / 16), 0] ++ leBytes 4 (imageLen c.vallot)) ++ csrBlock c ++
    padTo 520 (xs.flatMap (fun r => leBytes 8 r.val.toNat) ++ packFills (xs.map (·.fill))) ++
    padTo 1048 (ps.flatMap (fun r => leBytes 8 r.val.toNat) ++ packFills (ps.map (·.fill))) ++
    engineBlock c ++ stackBlock c.t ++ stackBlock c.m ++ stackBlock c.c ++ paramBlock c ++
    (List.range 8).flatMap (fun i => streamBlock (mapFind c.streams i)) ++
    (List.range 32).flatMap (fun i => recipeBlock (mapFind c.recipes i)) ++
    padTo 120 (packFills (vs.map (·.fill))) ++ vs.flatMap (fun r => vecBytes r.val)

/-! ## Reading one -/

/-- Fill state `i` of packed codes. -/
def fillAt (bs : List Byte) (i : Nat) : Fill := fillOf (bits (bs.getD (i / 4) 0).toNat (2 * (i % 4) + 1) (2 * (i % 4)))

/-- Registers from `lo` up, the unlisted ones left out. -/
def readRegs {α : Type} (mk : Nat → Reg α) (plain : Reg α → Bool) (lo n : Nat) : Map (Reg α) :=
  ((List.range n).map fun i => (lo + i, mk i)).filter fun e => !plain e.2

def readEng (b st : List Byte) (o pcAt : Nat) (breg : Nat) (params : List Byte) (depth lit skip : Nat) : EngCtx :=
  let s := slice st o 128
  let tail := field b (pcAt + 7) 1
  { pc := BitVec.ofNat 56 (field b pcAt 7), halted := tail % 2 == 1, acount := field b 24 8 + tail / 2,
    loops := (List.range (field s 15 1)).map fun i => ⟨BitVec.ofNat 64 (field s (16 * i) 8), BitVec.ofNat 56 (field s (16 * i + 8) 7)⟩,
    rets := (List.range (field s 71 1)).map fun i => BitVec.ofNat 56 (field s (64 + 8 * i) 7),
    params := (List.range depth).map fun i => BitVec.ofNat 64 (field params (8 * i) 8),
    litRun := lit, skip := skip, breg := if breg = 0 then none else some breg }

/-- The least A-count of the engines that run. -/
def leastCount (c : Ctx) : Option Nat :=
  ([c.t, c.m, c.c].filter (fun g => !g.halted)).foldl (fun m g => match m with
    | none => some g.acount
    | some k => some (min k g.acount)) none

/-- A-log entries from the engine block. -/
def readLog (b : List Byte) : Nat → Nat → Nat → Nat → List ALog
  | 0, _, _, _ => []
  | n + 1, i, pos, k =>
    let code := field b 95 5 / 16 ^ i % 16
    if code % 2 = 0 then []
    else
      let addr := BitVec.ofNat 56 (field b (32 + 7 * i) 7)
      let has := code / 8 % 2 == 1
      let out : Option (Bool × Word) :=
        if code / 2 % 2 = 1 then some (code / 4 % 2 == 1, if has then BitVec.ofNat 64 (field b (100 + 8 * k) 8) else 0) else none
      ⟨pos, addr, out⟩ :: readLog b n (i + 1) (pos + 1) (k + b2n has)

def readStream (b : List Byte) : Option Stream :=
  if field b 8 1 = 0 then none
  else
    let st (o : Nat) : Word := (BitVec.ofNat 32 (field b o 4)).signExtend 64
    some { base := BitVec.ofNat 64 (field b 0 8), es := field b 8 1, write := field b 9 1 == 1, c0 := field b 16 4,
           c1 := field b 20 4, c2 := field b 24 4, s0 := st 32, s1 := st 36, s2 := st 40,
           pos := field b 10 6 + field b 28 4 * 2 ^ 48 + field b 44 4 * 2 ^ 80 }

def kindAt : Nat → Kind
  | 0 => .x
  | 1 => .v
  | _ => .p

def readRecipe (b : List Byte) : Option Recipe :=
  if field b 0 1 < 0x80 then none
  else
    some { body := (List.range (field b 0 1 - 0x80)).filterMap fun i => match decodeBytes (slice b (32 + 8 * i) 8) with
             | .ok (w, _) => some w
             | .error _ => none
           kind := kindAt (field b 1 1), target := field b 2 1,
           pins := (List.range (field b 3 1)).map fun i => (kindAt (field b (4 + 2 * i) 1), field b (5 + 2 * i) 1),
           rot := BitVec.ofNat 32 (field b 20 4) }

/-- Slots in use, by number. -/
def readSlots {α : Type} (f : Nat → Option α) (n : Nat) : Map α :=
  (List.range n).filterMap fun i => (f i).map fun v => (i, v)

/-- The bits of the CSR block that hold no field are 0; `csr` gives its words in order. -/
def csrSpare (csr : Nat → Nat) : Bool :=
  [(0, 7), (1, 7), (2, 3), (5, 32), (7, 4), (9, 34), (10, 19), (11, 20), (12, 16), (13, 12), (14, 16)].all fun e => csr e.1 < 2 ^ e.2

/-- A context from its image; none for a bad format, a bad VALLOT or a non-zero reserved byte (R266). KER and EPI follow from
the record. -/
def decodeImage (b : List Byte) : Option Ctx :=
  let zero (o n : Nat) : Bool := (slice b o n).all (· == 0)
  let va := field b 2 1 * 16
  let csr (i : Nat) : Nat := field b (0x40 + 8 * i) 8
  if field b 0 2 ≠ 1 || va < 16 || va > 240 || !zero 3 1 || field b 4 4 ≠ imageLen va || !zero 8 56 || !zero 0xB8 8 ||
      csr 6 ≠ va || !zero 0x1344 60 || !csrSpare csr then none
  else
    let xs := slice b 0xC0 520
    let ps := slice b 0x2C8 1048
    let eb := slice b 0x6E0 160
    let st := slice b 0x780 384
    let pb := slice b 0x900 136
    let dep (i : Nat) : Nat := field pb (128 + i) 1
    let rot := csr 5
    let c : Ctx := {
      x := readRegs (fun i => { val := BitVec.ofNat 64 (field xs (8 * i) 8), fill := fillAt (slice xs 504 16) i })
        (fun r => decide (r = { val := 0 })) 1 63
      p := readRegs (fun i => { val := BitVec.ofNat 64 (field ps (8 * i) 8), fill := fillAt (slice ps 1016 32) i })
        (fun r => decide (r = { val := 0 })) 1 127
      v := readRegs (fun i => { val := vecOf (slice b (0x1380 + 64 * i) 64), fill := fillAt (slice b 0x1308 60) i })
        (fun r => decide (r = { val := 0 })) 0 va
      vallot := va
      recipes := readSlots (fun i => readRecipe (slice b (0xB08 + 64 * i) 64)) 32
      streams := readSlots (fun i => readStream (slice b (0x988 + 48 * i) 48)) 8
      t := readEng eb st 0 0 0 [] 0 0 0
      m := readEng eb st 128 8 (field eb 148 6) (slice pb 0 64) (dep 0) (dep 2) (dep 4)
      c := readEng eb st 256 16 (field eb 154 6) (slice pb 64 64) (dep 1) (dep 3) (dep 5)
      flags := BitVec.ofNat 7 (csr 0), trapen := BitVec.ofNat 7 (csr 1), rmode := BitVec.ofNat 3 (csr 2)
      srseed := BitVec.ofNat 64 (csr 3), srctr := BitVec.ofNat 64 (csr 4)
      vsize := bits rot 7 0, psize := bits rot 15 8, vrrb := bits rot 23 16, prrb := bits rot 31 24
      slipw := csr 7, displ := BitVec.ofNat 64 (csr 8)
      remain := BitVec.ofNat 32 (csr 9), phase := phaseOf (bits (csr 9) 33 32)
      taskid := BitVec.ofNat 19 (csr 10), streamid := BitVec.ofNat 20 (csr 11), evalid := BitVec.ofNat 16 (csr 12)
      asid := BitVec.ofNat 12 (csr 13), serial := BitVec.ofNat 16 (csr 14) }
    some { c with alog := readLog eb 9 0 ((leastCount c).getD 0 + 1) 0 }

/-- The context that an image at a physical address holds, with KER and EPI of its record. -/
def loadImage (s : State) (addr : Nat) : Option Ctx :=
  match decodeImage (readBytes s addr slotBytesLen) with
  | none => none
  | some c =>
    let b := (s.record (c.taskid.toNat / 4096) (c.taskid.toNat % 4096)).bytes
    some { c with ker := BitVec.ofNat 56 (recKer b), epi := BitVec.ofNat 56 (recEpi b) }

/-! ## The image pool -/

/-- Addresses of the free slots of a die's pool, in order (R265). -/
def freeSlots (d : Die) : List Nat :=
  ((List.range d.pslots.toNat).filter (fun i => !d.pused.contains i))

/-- Takes a slot of the pool for a core: which one is the device's choice (R265, notes/assumptions/12.md). A request that finds
none waits, and PFULL counts it once (R264). -/
def takeSlot (core : Nat) : H (Option Nat) := do
  let site := siteOf core
  let s ← get
  let d := s.die site
  let free := freeSlots d
  match free with
  | [] =>
    modify fun s => s.modDie site fun d =>
      if d.pwait.contains core then d else { d with pfull := d.pfull + 1, pwait := d.pwait ++ [core] }
    pure none
  | f :: _ =>
    let n ← drawFresh
    let i := free.getD (Config.slotChoice n % free.length) f
    modify fun s => s.modDie site fun d => { d with pused := d.pused ++ [i], pwait := d.pwait.filter (· != core) }
    pure (some (d.pbase.toNat + i * slotBytesLen))

/-- An image slot is accessed: the layers that hold it wake (R25). -/
def wakeImage (s : State) (addr : Nat) : State := wake (wake s addr) (addr + slotBytesLen - 1)

/-- Writes a context to an image. DESIGN CHOICE (notes/assumptions/12.md): where the slot lies in a layer that is OFF the bytes are
dropped with no error, for the spec names none for a spill or a PARK. -/
def writeImage (s : State) (addr : Nat) (c : Ctx) : State := writeBytes (wakeImage s addr) addr (encodeImage (clearPending c))

end Sys2Proof.Machine
end

