-- ==== Sys2Proof/Machine/Dispatcher.lean ====
section
/-! DEFINITION. The dispatcher: selection (R138 to R140), pre-emption (R141, R142), dispatch and resumption (R136, R231), the
exchange of banks (R263, R264) and parking (R144, R260, R262). -/

namespace Sys2Proof.Machine

/-! ## Parking -/

/-- The context of a trapped core as PARK writes it: program counters from the TPC CSRs, halted bits kept (R262). -/
def trappedCtx (c : Core) : Ctx :=
  let x := clearPending c.ctx
  { x with t := { x.t with pc := c.tpct, halted := c.thalted.getLsbD 0 },
           m := { x.m with pc := c.tpcm, halted := c.thalted.getLsbD 1 },
           c := { x.c with pc := c.tpcc, halted := c.thalted.getLsbD 2 } }

/-- The core turns idle: it serves no task and no request (R142, R144). -/
def idleCore (s : State) (core : Nat) : State :=
  let s := (withdraw s core).modCore core fun c => { c with
    running := false, sup := false, intrap := false, parkPending := none, subst := none, inHalt := false }
  s.modDie (siteOf core) fun d => { d with requests := d.requests.filter (fun q => q.core != core) }

/-- The record of a parked task is FAULTED, and its entry names the image (R144, R146); it completes no more until the core has been resumed
and has halted (R135). -/
def parkRecord (s : State) (core : Nat) (x : Ctx) (cause : Nat) (addr info : Word) (image : Nat) : State :=
  let site := siteOf core
  let s := s.modRec site (taskIndex x.taskid) fun r => { r with
    st := if r.st == .free then .free else .faulted, cores := r.cores.filter (· != numOf core),
    parked := r.parked ++ [numOf core] }
  let s := appendFault s site (taskFault s x.taskid core 0 cause addr info image x.streamid x.evalid)
  runHeld s site (taskIndex x.taskid)

/-- PARK of a core (R262): false while the fault queue is full or the pool has no free slot. -/
def parkCore (core cause : Nat) (addr info : Word) : H Bool := do
  let s ← get
  if fqBlocked (s.die (siteOf core)) then
    modify fun s => s.modDie (siteOf core) fun d => { d with fqfull := true }
    pure false
  else
    match ← takeSlot core with
    | none => pure false
    | some a =>
      modify fun s =>
        let x := trappedCtx (s.core core)
        let s := idleCore (writeImage s a x) core
        parkRecord s core x cause addr info a
      pure true

/-! ## Contexts at dispatch -/

/-- An engine at an address, as dispatch starts it. -/
def freshEng (pc : Nat) : EngCtx := { pc := BitVec.ofNat 56 pc, halted := false }

/-- The registers that a dispatch fills (R136, R193). -/
def freshRegs (s : State) (site i : Nat) (rank : Nat) (idx : List Word) : Map (Reg Word) :=
  let r := s.record site i
  let b := r.bytes
  let put (m : Map (Reg Word)) (e : Nat × Word) : Map (Reg Word) := if e.2 = 0 then m else mapSet m e.1 { val := e.2 }
  let eval : List (Nat × Word) :=
    if !r.eval then []
    else match getEval s (recEval b) with
      | some e => [(9, BitVec.ofNat 64 e.cell), (10, BitVec.ofNat 64 (field (readLine s e.cell) 4 4))]
      | none => []
  (((List.range 8).map fun k => (k + 1, idx.getD k 0)) ++ eval ++
    [(56, BitVec.ofNat 64 (recordAddr site i)), (57, BitVec.ofNat 64 (recStream b)), (58, BitVec.ofNat 64 rank),
     (59, BitVec.ofNat 64 (recWidth b)), (60, BitVec.ofNat 64 (recArgp b))]).foldl put []

/-- A fresh context of a record's task (R136, R231). -/
def freshCtx (s : State) (site i rank : Nat) (idx : List Word) (serial : BitVec 16) : Ctx :=
  let b := (s.record site i).bytes
  { x := freshRegs s site i rank idx, t := freshEng (recPro b), m := freshEng (recPro b), c := freshEng (recPro b),
    remain := BitVec.ofNat 32 (recTrip b), ker := BitVec.ofNat 56 (recKer b), epi := BitVec.ofNat 56 (recEpi b),
    taskid := BitVec.ofNat 19 (site * 4096 + i), streamid := BitVec.ofNat 20 (recStream b),
    evalid := BitVec.ofNat 16 (recEval b), asid := BitVec.ofNat 12 (recAsid b), serial := serial }

/-- What a dispatch of a new task changes in the core itself: the stash goes (R165), the next serial number (Table 11-5), a
die-scope acquire (R136). -/
def dispatchCore (s : State) (core : Nat) (x : Ctx) : State :=
  let s := if (s.core core).stashn = 0 then s else (stashConfig s core false 0).getD s
  let s := s.modCore core fun c => { c with
    ctx := x, running := true, sup := false, intrap := false, parkPending := none, nextSerial := c.nextSerial + 1 }
  acquire s core

/-- Dispatches an ELIGIBLE record on cores of its die, in ascending order (R136, R138, R139). -/
def dispatchOn (s : State) (site i : Nat) (cs : List Nat) : State :=
  let (idx, s) := takeRings s site (s.record site i).bytes
  let s := (cs.zip (List.range cs.length)).foldl (fun (s : State) e =>
    let n := site * 1024 + e.1
    dispatchCore s n (freshCtx s site i e.2 idx (s.core n).nextSerial)) s
  let s := s.modRec site i fun r => { r with st := .running, cores := cs, used := cs }
  s.modDie site fun d => { d with dispatched := d.dispatched + 1,
                                           requests := d.requests.filter (fun q => q.record != i),
                                           reserved := match d.reserved with
                                             | some (h, l) => if h = i then none else some (h, l)
                                             | none => none }

/-! ## The shadow bank (R264) -/

/-- The image slot that the dispatcher keeps for the context in a core's shadow bank (R265). -/
def shadowSlot (s : State) (core : Nat) (x : Ctx) : Nat :=
  (((s.record (taskSite x.taskid) (taskIndex x.taskid)).images.find? (fun e => e.1 == core)).map (·.2)).getD bankOnly

/-- Completes the spill of the context in a core's shadow bank: its registers return to the pool, its record keeps the slot.
False while a context without a slot finds none free. A context whose task is gone has nothing to spill. -/
def clearShadow (core : Nat) : H Bool := do
  let s ← get
  match (s.core core).shadow with
  | none => pure true
  | some x =>
    let site := taskSite x.taskid
    let i := taskIndex x.taskid
    let spill (a : Nat) (s : State) : State :=
      let s := (writeImage s a x).modCore core fun c => { c with shadow := none }
      s.modRec site i fun r => { r with images := r.images.filter (fun e => e.1 != core) ++ [(core, a)] }
    if (s.record site i).st == .free then
      modify fun s => s.modCore core fun c => { c with shadow := none }
      pure true
    else if shadowSlot s core x ≠ bankOnly then
      modify (spill (shadowSlot s core x))
      pure true
    else
      match ← takeSlot core with
      | none => pure false
      | some a =>
        modify (spill a)
        pure true

/-- The record of a context that leaves its core unfinished: SUSPENDED, its image slot noted. -/
def suspendRec (s : State) (core : Nat) (x : Ctx) (slot : Nat) : State :=
  s.modRec (taskSite x.taskid) (taskIndex x.taskid) fun r => { r with
    st := if r.st == .running then .suspended else r.st, images := r.images ++ [(core, slot)],
    cores := r.cores.filter (· != numOf core) }

/-- A context that runs again on a core: its slot is free (R265), and its task RUNNING once no core of it is still out. -/
def resumeRec (s : State) (core : Nat) (x : Ctx) : State :=
  let a := shadowSlot s core x
  let s := if a = bankOnly then s else freeImage s (siteOf core) a
  s.modRec (taskSite x.taskid) (taskIndex x.taskid) fun r =>
    let left := r.images.filter (fun e => e.1 != core)
    { r with images := left, cores := r.cores ++ [numOf core],
             st := if r.st == .suspended && left.isEmpty then .running else r.st }

/-- Engines as they are at a swap point: nothing is half done. -/
def settledCtx (c : Ctx) : Ctx :=
  let x := clearPending c
  { x with t := { x.t with atMeet := false }, m := { x.m with atMeet := false }, c := { x.c with atMeet := false } }

/-- Resumes a suspended core of a record from its image (R145, R264); a bad image parks the task (R266). -/
def resumeOn (site i core slot : Nat) : H Unit := do
  let ready ← clearShadow core
  if ready then do
    let s ← get
    let a := (((s.record site i).images.find? (fun e => e.1 == core)).map (·.2)).getD slot
    modify (wakeImage · a)
    match loadImage s a with
    | some x =>
      modify fun s =>
        let s := s.modCore core fun c => { c with
          ctx := x, running := true, sup := false, intrap := false, parkPending := none }
        let s := resumeRec s core x
        s.modDie site fun d => { d with dispatched := d.dispatched + 1 }
    | none =>
      modify fun s =>
        let id := BitVec.ofNat 19 (site * 4096 + i)
        let b := (s.record site i).bytes
        let s := s.modRec site i fun r => { r with
          st := .faulted, images := r.images.filter (fun e => e.1 != core), parked := r.parked ++ [numOf core] }
        appendFault s site (taskFault s id core 0 0x40 0 0 a (BitVec.ofNat 20 (recStream b)) (BitVec.ofNat 16 (recEval b)))

/-! ## Swaps (R263, R264) -/

/-- What a core waits for can be withdrawn, and its word executed again (R195, R263): a local access; a remote load whose home has said that
it waits there; none while a word is half done. -/
def mayWithdraw (s : State) (core : Nat) : Bool :=
  !s.requests.any (fun r => r.core == core && r.op.isNone && !(r.pended && r.acc.act == .load)) &&
    [Eng.t, .m, .c].all fun e => !midWord s core e && !s.arrived.any fun r => r.1 == wordKey core e && r.2.2.isEmpty

/-- The core of a request is at a swap point: no window, no trap, no armed substitution, no access of its engines on its way. -/
def swapPoint (s : State) (core : Nat) : Bool :=
  let c := s.core core
  c.running && c.ctx.window.isEmpty && !c.intrap && c.subst.isNone && mayWithdraw s core

/-- Exchanges the banks for the head that a request serves: the outgoing context stays in the shadow bank until its spill to the
slot taken for it, or is spilled at once where the pool lacks room. False while the request waits for an image slot. -/
def swapFor (q : PreReq) : H Bool := do
  let core := q.core
  let site := siteOf core
  if !(← clearShadow core) then pure false
  else
    match ← takeSlot core with
    | none => pure false
    | some a =>
      modify fun s =>
        let s := withdraw s core
        let out := settledCtx (s.core core).ctx
        let room := decide (64 ≤ 384 - out.vallot)
        let s := (if room then s else writeImage s a out).modCore core fun c => { c with
          prepared := false, shadow := if room then some out else none, bank := c.bank + 1 }
        let s := suspendRec s core out a
        let s := dispatchOn s site q.record [numOf core]
        s.modDie site fun d =>
          if q.urgent then { d with urgents := d.urgents + 1 } else { d with preempts := d.preempts + 1 }
      pure true

/-- A request whose head has left ELIGIBLE is withdrawn (R141, R142). -/
def staleReq (s : State) (site : Nat) (q : PreReq) : Bool :=
  recState s site (s.record site q.record) != .eligible || !(s.core q.core).running

def dropStale (s : State) (site : Nat) : State :=
  s.modDie site fun d => { d with requests := d.requests.filter (fun q => !staleReq s site q) }

/-- A non-urgent request is taken where NEXT commits (R141). -/
def swapAtNext (core : Nat) : H Unit := do
  modify fun s => dropStale s (siteOf core)
  let s ← get
  match (s.die (siteOf core)).requests.find? (fun q => q.core == core && !q.urgent) with
  | some q => if swapPoint s core then let _ ← swapFor q
  | none => pure ()

/-- CONTEXT_SWAP: the urgent request of core n is taken at its swap point. -/
def execContextSwap (s : State) : Host.Outcome State Fault Refusal :=
  event (do
    let core := (← get).arg.n
    modify fun s => dropStale s (siteOf core)
    let s ← get
    match (s.die (siteOf core)).requests.find? (fun q => q.core == core && q.urgent) with
    | some q => if swapPoint s core then let _ ← swapFor q
    | none => pure ()) s

/-- BACKGROUND_SPILL_DONE: the shadow bank of core n is written to an image. -/
def execBackgroundSpillDone (s : State) : Host.Outcome State Fault Refusal :=
  event (do let _ ← clearShadow (← get).arg.n) s

/-- DEBUG_HALT_TAKE: a pending halt of core n traps at its swap point (R270). -/
def execDebugHaltTake (s : State) : Host.Outcome State Fault Refusal :=
  event (modify fun s =>
    let core := s.arg.n
    if (s.core core).haltReq && swapPoint s core then
      (takeTrap s core 0 0x32 0 0).modCore core fun c => { c with haltReq := false }
    else s) s

/-! ## Selection (R139 to R141) -/

/-- A core is idle when its active context holds no task. -/
def idle (s : State) (site c : Nat) : Bool := (s.die site).usable && !(s.core (site * 1024 + c)).running

def idleCores (s : State) (site i : Nat) : List Nat := (recCores s site (s.record site i).bytes).filter (idle s site)

/-- A goes before B: higher class, then lower sequence number. -/
def before (a b : Nat × Record) : Bool :=
  a.2.eclass > b.2.eclass || (a.2.eclass == b.2.eclass && a.2.seq.toNat < b.2.seq.toNat)

def best (rs : List (Nat × Record)) : Option (Nat × Record) :=
  rs.foldl (fun m r => match m with
    | none => some r
    | some b => if before r b then some r else some b) none

/-- A die runs the records of its own module, or while it is lent only the borrower's (R65). -/
def mayRun (s : State) (site : Nat) (r : Record) : Bool := (s.die site).pool == 0 || r.foreign

def eligibleRecs (s : State) (site : Nat) : List (Nat × Record) :=
  (s.die site).records.filter fun e => recState s site e.2 == .eligible && mayRun s site e.2

/-- The head, and the cores it reserves (R140): every idle core of its mask, once they have been too few, until it is dispatched or another
task becomes head. -/
def reservation (s : State) (site : Nat) : Option (Nat × List Nat) :=
  match best (eligibleRecs s site) with
  | none => none
  | some (i, r) =>
    let w := recWidth r.bytes
    let cs := idleCores s site i
    let holds : Bool := match (s.die site).reserved with
      | some (h, _) => h == i
      | none => false
    if w > 1 && (cs.length < w || holds) then some (i, cs) else none

/-- Cores that a record may take now. -/
def openCores (s : State) (site i : Nat) : List Nat :=
  let held := match (s.die site).reserved with
    | some (h, cs) => if h = i then [] else cs
    | none => []
  (idleCores s site i).filter (fun c => !held.contains c)

/-- The shadow bank is clear or can be cleared now (R264). -/
def canClear (s : State) (core : Nat) : Bool :=
  match (s.core core).shadow with
  | none => true
  | some x => shadowSlot s core x ≠ bankOnly || !(freeSlots (s.die (siteOf core))).isEmpty

/-- The place of a suspended core's context still holds it: its image, or the shadow bank. -/
def stillThere (s : State) (site i : Nat) (e : Nat × Nat) : Bool :=
  e.2 ≠ bankOnly || match (s.core e.1).shadow with
    | some x => x.taskid == BitVec.ofNat 19 (site * 4096 + i)
    | none => false

/-- A suspended record's core that can take it back, with its slot. -/
def ownCore (s : State) (site i : Nat) (r : Record) : Option (Nat × Nat) :=
  let held := match (s.die site).reserved with
    | some (_, cs) => cs
    | none => []
  r.images.find? fun e => idle s site (numOf e.1) && !held.contains (numOf e.1) && stillThere s site i e && canClear s e.1

/-- Candidates (R139). -/
def candidates (s : State) (site : Nat) : List (Nat × Record) :=
  ((s.die site).records.filter fun e => mayRun s site e.2).filter fun e =>
    match recState s site e.2 with
    | .eligible => let n := (openCores s site e.1).length; decide (recWidth e.2.bytes ≤ n && n ≠ 0)
    | .suspended => (ownCore s site e.1 e.2).isSome
    | _ => false

/-- A candidate that is passed over ages (R139). -/
def ageRec (s : State) (site i : Nat) : State :=
  let r := s.record site i
  if r.pass + 1 < 64 then s.modRec site i fun r => { r with pass := r.pass + 1 }
  else
    let up := decide (r.eclass < 3)
    let s := s.modRec site i fun r => { r with pass := 0, eclass := if up then r.eclass + 1 else r.eclass }
    if up then s.modDie site fun d => { d with aged := d.aged + 1 } else s

/-- One selection of R139. -/
def selectOne (site : Nat) : H Unit := do
  let s ← get
  let cand := candidates s site
  match best cand with
  | none => pure ()
  | some (i, r) =>
    match recState s site r with
    | .eligible => modify fun s => dispatchOn s site i ((openCores s site i).take (recWidth r.bytes))
    | _ =>
      match ownCore s site i r with
      | some (core, slot) => resumeOn site i core slot
      | none => pure ()
    cand.forM fun e => if e.1 = i then pure () else modify (ageRec · site e.1)

/-- The task that a core runs, as its record. -/
def runsRec (s : State) (core : Nat) : Record := s.record (siteOf core) (taskIndex (s.core core).ctx.taskid)

/-- The victim of a head (R141): lowest class, then latest post, then highest core number; each core and each task has one
request at most. -/
def victim (s : State) (site i : Nat) : Option Nat :=
  let head := s.record site i
  let busy (n : Nat) : Bool := (s.die site).requests.any (fun q => q.core == n)
  ((recCores s site head.bytes).map (site * 1024 + ·)).foldl (fun (m : Option Nat) n =>
    let r := runsRec s n
    if !(s.core n).running || busy n || r.eclass ≥ head.eclass then m
    else match m with
      | none => some n
      | some v =>
        let b := runsRec s v
        if r.eclass < b.eclass || (r.eclass == b.eclass && r.seq.toNat ≥ b.seq.toNat) then some n else some v) none

/-- Requests the pre-emption that the head needs (R141). -/
def requestVictim (s : State) (site : Nat) : State :=
  match best (eligibleRecs s site) with
  | none => s
  | some (i, r) =>
    if recWidth r.bytes ≠ 1 || !(idleCores s site i).isEmpty || (s.die site).requests.any (fun q => q.record == i) then s
    else match victim s site i with
      | none => s
      | some n => s.modDie site fun d => { d with requests := d.requests ++ [⟨n, i, recClass r.bytes == 4⟩] }

/-- Steps 1 and 2 of R264 where a request is made: the shadow bank is cleared, and prepared where the pool covers a fresh context. What
cannot be done yet is done at the swap. -/
def prepareShadow (core : Nat) : H Unit := do
  if ← clearShadow core then
    modify fun s => if 64 ≤ (s.core core).poolFree then s.modCore core fun c => { c with prepared := true } else s

/-- A shadow bank prepared for a request that is no more is free again (R142). -/
def dropPrepared (s : State) : State :=
  if s.cores.any (·.2.prepared) then
    { s with cores := s.cores.map fun c =>
        (c.1, { c.2 with prepared := c.2.prepared && (s.die (siteOf c.1)).requests.any (·.core == c.1) }) }
  else s

/-- A record that drains and has nothing left to wait for. -/
def mayEnd (s : State) (site i : Nat) (r : Record) : Bool :=
  r.st == .draining && r.async = 0 && (r.errmark || !taskPinned s site i)

/-- DISPATCH_SELECT: one opportunity of the dispatcher of site n. Completions that had to wait for their release come first (R143). -/
def execDispatchSelect (s : State) : Host.Outcome State Fault Refusal :=
  event (do
    let site := (← get).arg.n
    modify fun s => (s.die site).records.foldl (fun (s : State) r =>
      if mayEnd s site r.1 r.2 then runHeld (settleRec s site r.1) site r.1 else s) s
    modify fun s => dropStale s site
    modify fun s => let r := reservation s site; s.modDie site fun d => { d with reserved := r }
    selectOne site
    modify fun s => let r := reservation s site; s.modDie site fun d => { d with reserved := r }
    let before' := ((← get).die site).requests
    modify fun s => requestVictim s site
    ((← get).die site).requests.forM fun q => if before'.contains q then pure () else prepareShadow q.core) s

end Sys2Proof.Machine
end

