-- ==== Sys2Proof/Machine/Fetch.lean ====
section
/-! DEFINITION. Fetching text (R221, R222): translation and the faults of a fetch, the words an engine meets, the displaced word
of an armed substitution (R269), and the walk to a matching ENDL (R451). -/

namespace Sys2Proof.Machine

/-- Bytes behind a remote window that reads of the engine of the turn have brought. -/
def broughtBytes (s : State) (pa n : Nat) : Option (List Byte) :=
  ((List.range n).mapM fun i => (s.arrived.find? fun r =>
      r.1 == wordKey s.turn s.eng && r.2.1 ≤ pa + i && pa + i < r.2.1 + r.2.2.length).map
    fun r => r.2.2.getD (pa + i - r.2.1) 0)

/-- Bytes of text at their home, or why they cannot be fetched (Table 8-1, R24, R48, R49, R176); behind a remote window, what reads of the engine
have brought (R59). -/
def homeText (s : State) (pa n : Nat) : Except MemErr (List Byte) :=
  match locate s pa with
  | .error e =>
    match spaceOf pa, broughtBytes s pa n with
    | .remote _ _, some bs => .ok bs
    | _, _ => .error e
  | .ok _ => match wayHere s pa with
    | .error e => .error e
    | .ok _ => if s.poisoned pa then .error ⟨0x41, 0, 5⟩ else .ok (readBytes s pa n)

/-- Start of the 64-byte block of text (R220). -/
def blockOf (pa : Nat) : Nat := pa / 64 * 64

/-- What the engine of the turn sees at a physical address of text, `n` bytes of one block (R220): its fetch buffer; else a block of
the instruction cache, as long as memory still holds it or the cache happens to keep it (notes/assumptions/38.md); else memory. -/
def textAt (s : State) (pa n : Nat) : Except MemErr (List Byte) :=
  let k := s.core s.turn
  match (mapFind k.bufs (engCode s.eng)).filter (·.1 == blockOf pa) with
  | some b => .ok (slice b.2 (pa % 64) n)
  | none =>
    match mapFind k.text (blockOf pa) with
    | none => homeText s pa n
    | some b =>
      let same : Bool := match homeText s (blockOf pa) 64 with
        | .ok m => m == b
        | .error _ => false
      if same || Config.oldText s.turn s.cycle.toNat then .ok (slice b (pa % 64) n) else homeText s pa n

/-- The parcel at a physical address of text. -/
def fetchPhys (s : State) (pa : Nat) : Except MemErr Parcel :=
  match textAt s pa 2 with
  | .error e => .error e
  | .ok bs => .ok (BitVec.ofNat 16 (leNat bs))

/-- The parcel at a text address, for the context of the turn; the supervisor fetches by physical address (R260). -/
def fetchParcel (s : State) (va : Word) : Except MemErr Parcel :=
  if va.toNat % 2 = 1 then .error ⟨0x12, 0, 1⟩
  else if (s.core s.turn).intrap then fetchPhys s va.toNat
  else
    match translateHere s va aFetch with
    | .error e => .error e
    | .ok l => fetchPhys s l.pa

/-- The parcels from a text address, the first `n`. -/
def fetchParcels (s : State) (va : Word) : Nat → Except (MemErr × Word) (List Parcel)
  | 0 => .ok []
  | n + 1 =>
    match fetchParcel s va with
    | .error e => .error (e, va)
    | .ok p =>
      match fetchParcels s (va + 2) n with
      | .ok ps => .ok (p :: ps)
      | .error e => .error e

/-- TINFO of a fetch fault (Table 8-2). -/
def fetchInfo (e : MemErr) : Word := BitVec.ofNat 64 (aFetch + e.info)

/-- The engine whose words carry a tag; an A-word is every engine's. -/
def tagFits (g : Tag) (e : Eng) : Bool :=
  match g, e with
  | .t, .t | .m, .m | .c, .c | .a, _ => true
  | _, _ => false

/-- The word that stands for the one at an engine's address while a substitution is armed (R269). -/
def displacedAt (c : Core) (e : Eng) : Option (List Parcel) :=
  match c.subst with
  | some z => if z.engs.contains e && (c.ctx.eng e).pc == z.addr then some z.word else none
  | none => none

/-- What an engine finds at its address. -/
inductive Found where
  /-- a fetch fault: its address -/
  | fault (e : MemErr) (va : Word)
  /-- a word of another tag, or one it skips (R427): its parcels -/
  | pass (parcels : Nat)
  | word (ps : List Parcel)
  deriving DecidableEq, Repr

/-- What the engine `e` of the core of the turn finds at its address. -/
def found (s : State) (e : Eng) : Found :=
  let c := s.core s.turn
  let g := c.ctx.eng e
  let va : Word := g.pc.zeroExtend 64
  match displacedAt c e with
  | some ps => .word ps
  | none =>
    match fetchParcel s va with
    | .error x => .fault x va
    | .ok p =>
      let n := parcelsOf p
      if !tagFits (tagOf p) e || (g.skip ≠ 0 && tagOf p != .a) then .pass n
      else
        match fetchParcels s va n with
        | .ok ps => .word ps
        | .error (x, a) => .fault x a

/-- The word at an address is an ISYNC (R348). -/
def isIsync (s : State) (va : Word) : Bool :=
  match fetchParcels s va 2 with
  | .ok ps => match decode ps with
    | .ok .isync => true
    | _ => false
  | .error _ => false

/-- Puts a block into an instruction cache of 32 KiB (R222): the 513th drives another out, whose choice is the model's
(notes/assumptions/38.md). -/
def keepText (t : Map (List Byte)) (b : Nat) (bs : List Byte) : Map (List Byte) :=
  let t := mapSet t b bs
  if t.length ≤ 512 then t
  else match t.find? (·.1 != b) with
    | some x => mapDel t x.1
    | none => t

/-- The block of text that holds an address stands in the instruction cache of the turn's core and in the engine's fetch buffer; text
that is fetched is awake (R25, R220). What the buffer has held already does not go back into the cache. -/
def noteText (s : State) (e : Eng) (va : Word) : State :=
  let place (pa : Nat) (s : State) : State :=
    let b := blockOf pa
    if (mapFind (s.core s.turn).bufs (engCode s.eng)).any (·.1 == b) then s
    else
      let s := wake s pa
      match textAt s b 64 with
      | .error _ => s
      | .ok bs => s.modCore s.turn fun c => { c with text := keepText c.text b bs, bufs := mapSet c.bufs (engCode e) (b, bs) }
  if (s.core s.turn).intrap then place va.toNat s
  else match translateHere s va aFetch with
    | .ok l => place l.pa (noteLeaf s va l)
    | .error _ => s

/-- The text of a word of `n` parcels at an engine's address has been fetched: the block it begins in, and the one it ends in. -/
def fetched (s : State) (e : Eng) (n : Nat) : State :=
  let va : Word := (s.ctx.eng e).pc.zeroExtend 64
  let last := va + BitVec.ofNat 64 (2 * n - 2)
  let s := noteText s e va
  if last.toNat / 64 = va.toNat / 64 then s else noteText s e last

/-- An engine passes over a word; one of its own tag counts toward its skip (R427), and at an ISYNC it discards what it has fetched
(R348). -/
def passOver (s : State) (e : Eng) (n : Nat) : State :=
  let c := s.ctx
  let g := c.eng e
  let own : Bool := match fetchParcel s (g.pc.zeroExtend 64) with
    | .ok p => tagFits (tagOf p) e
    | .error _ => false
  let s' := fetched s e n
  let s' := if isIsync s (g.pc.zeroExtend 64) then dropFetched s' e else s'
  (s'.setCtx (s'.ctx.setEng e { g with
    pc := g.pc + BitVec.ofNat 56 (2 * n), skip := if own then g.skip - 1 else g.skip })).goOn

/-- A trap of the word that an engine meets, before it executes. -/
def fetchTrap (s : State) (e : Eng) (eng cause : Nat) (addr info : Word) : Host.Outcome State Fault Refusal :=
  runWord e eng 0 (trap cause addr info) s

/-- A fetch through a valid remote window reads its 64-byte block first, and the word is met again once that is here (R59). -/
def askText (s : State) (e : Eng) (x : MemErr) (va : Word) : M Unit :=
  let pa : Nat := if (s.core s.turn).intrap then va.toNat else match translateHere s va aFetch with
    | .ok l => l.pa
    | .error _ => 0
  if x == errRemote 0 then do
    let p : Piece := { pa := blockOf pa, len := 64, cls := 1, defer := false, va := va, elem := 0, stash := false, nc := true }
    let _ ← remoteAccess e 0 { act := .load, pieces := [p], arg := BitVec.ofNat 64 aFetch } .again
  else pure ()

/-- A fetch fault that a word meets: a trap, but for what a remote window has still to bring and for a way that is held. -/
def meetFault {α : Type} (s : State) (e : Eng) (x : MemErr) (va : Word) : M α := do
  askEntry va x
  askText s e x va
  trap x.cause va (fetchInfo x)

/-- A fetch fault: a trap, but for what a remote window has still to bring. -/
def fetchFault (s : State) (e : Eng) (x : MemErr) (va : Word) : Host.Outcome State Fault Refusal :=
  runWord e (engCode e) 0 (meetFault s e x va) s

/-- No text is mapped at an address, or none that may be executed, as its page tables say (R181). -/
def MemErr.unmapped (e : MemErr) : Bool := (e.cause == 0x10 || e.cause == 0x11 || e.cause == 0x12) && e.entryAt.isNone

/-- The address after the ENDL that closes the loop in which a walk starts (R451); none where HALT or the end of mapped text comes
first; the fault of text that is mapped and cannot be read. -/
def matchEndl (s : State) : Nat → Nat → Nat → Except (MemErr × Word) (Option Nat)
  | 0, _, _ => .ok none
  | n + 1, depth, va =>
    match fetchParcel s (BitVec.ofNat 64 va) with
    | .error x => if x.unmapped then .ok none else .error (x, BitVec.ofNat 64 va)
    | .ok p =>
      let next := va + 2 * parcelsOf p
      if tagOf p != .a then matchEndl s n depth next
      else
        match (p.extractLsb' 8 6).toNat with
        | 0x09 => .ok none
        | 0x01 => matchEndl s n (depth + 1) next
        | 0x02 => if depth = 0 then .ok (some next) else matchEndl s n (depth - 1) next
        | _ => matchEndl s n depth next

/-- No text lies beyond 56 bits of address, so the walk takes fewer steps than this. -/
def walkLimit : Nat := 2 ^ 55

end Sys2Proof.Machine
end

