-- ==== Sys2Proof/Machine/System.lean ====
section
/-! DEFINITION. Supervisor words (R260 to R262, R269, R355 to R357), the supervisor's actions (Table 12-3), illegal encodings
(R312), and the dispatcher's register steps (R134, R135, R137, R145). -/

namespace Sys2Proof.Machine

/-! ## Words that leave a trap -/

/-- A T word that sets every engine's address itself; the callers that are words close every open window first (R244). -/
def leaveWord (body : M Unit) (s : State) : Host.Outcome State Fault Refusal :=
  match body s with
  | .ok _ s' => .next (dropArrived s').goOn.settled
  | .error (.trap cause addr info) _ => runWord .t 0 2 (trap cause addr info) s
  | .error _ _ => .next (noteStall s)

def execSret (s : State) : Host.Outcome State Fault Refusal :=
  leaveWord (do
    needSup true
    modify fun s => returnTrap s s.turn) (closeWindow s)

/-- The parcels of DISPL0 to DISPL3, parcel 0 first. -/
def displParcels (c : Ctx) : List Parcel := (List.range 4).map fun i => BitVec.ofNat 16 (displ c i)

/-- A word's tag fits an engine number of TSTAT.ENG: its own engine's, or an A-word's for all. -/
def fitsEng (g : Tag) (n : Nat) : Bool :=
  match g, n with
  | .t, 0 | .m, 1 | .c, 2 | .a, 3 => true
  | _, _ => false

/-- XDISP's effect (R269): the substitution is armed for the engines of TSTAT.ENG that run, and the trap is left. -/
def xdisp : M Unit := do
  let k ← curCore
  let ps := displParcels k.ctx
  let p := ps.headD 0
  if !fitsEng (tagOf p) k.teng.toNat then illegal
  let engs := (trapEngs k.teng.toNat).filter fun e => !(k.thalted.getLsbD (engCode e))
  modify fun s =>
    let s := s.modCore s.turn fun c => { c with
      subst := some { addr := k.taddr.truncate 56, word := ps.take (parcelsOf p), engs := engs } }
    returnTrap s s.turn

def execXdisp (s : State) : Host.Outcome State Fault Refusal :=
  leaveWord (do
    needSup true
    xdisp) (closeWindow s)

/-- SWCTX (R355): an SRET into the shadow context; the trapped one stays in the shadow bank. -/
def execSwctx (s : State) : Host.Outcome State Fault Refusal :=
  leaveWord (do
    needSup true
    let k ← curCore
    match k.shadow with
    | none => badValue 3
    | some x =>
      modify fun s =>
        let n := s.turn
        let out := trappedCtx k
        let s := (withdraw s n).setCore n { k with
          ctx := x, shadow := some out, bank := k.bank + 1, sup := false, intrap := false, subst := none }
        resumeRec (suspendRec s n out bankOnly) n x) (closeWindow s)

/-- A core that parks its task, or waits for room (R262, R356). -/
def parkStep (core cause : Nat) (addr info : Word) (s : State) : Host.Outcome State Fault Refusal :=
  match (parkCore core cause addr info).run s with
  | (true, s') => .next s'.goOn.settled
  | (false, s') => .next (noteStall s')

def execPark (s : State) : Host.Outcome State Fault Refusal :=
  let s := closeWindow s
  match needSup true s with
  | .ok _ _ => let k := s.core s.turn; parkStep s.turn k.tcause.toNat k.taddr k.tinfo s
  | .error _ _ => leaveWord (needSup true) s

/-! ## Context images by hand (R357) -/

/-- The image address of CTXSV and CTXLD: 64-byte aligned, in DRAM below the capacity of its stack. -/
def imageAddr (a : Word) (acc : Nat) : M Nat := do
  let s ← get
  let p : Piece := { pa := a.toNat, len := 64, cls := 0, defer := false, va := a, elem := 0, stash := false }
  if a.toNat % 64 ≠ 0 then trap 0x12 a (BitVec.ofNat 64 acc)
  if !isDram a.toNat then trap 0x11 a (faultInfo acc fPerm p)
  match locate s a.toNat with
  | .error e => if e.info = errLayerOff.info then trap e.cause a (faultInfo acc e p) else trap 0x11 a (faultInfo acc fPerm p)
  | .ok _ => pure a.toNat

/-- The slot kept for a context that the supervisor takes from the shadow bank is free again. -/
def forgetSlot (s : State) (core : Nat) (x : Ctx) : State :=
  let a := shadowSlot s core x
  if a = bankOnly then s
  else (freeImage s (siteOf core) a).modRec (taskSite x.taskid) (taskIndex x.taskid) fun r => { r with
    images := r.images.map fun (e : Nat × Nat) => if e.1 = core then (core, bankOnly) else e }

def execCtxsv (f : AForm) (s : State) : Host.Outcome State Fault Refusal :=
  tWordClosing 2 (do
    needSup false
    let a ← rdS.x f.xa.toNat (f.ba == 1)
    match (← curCore).shadow with
    | none => badValue 3
    | some x =>
      let pa ← imageAddr a aStore
      modify fun s => (writeImage (forgetSlot s s.turn x) pa x).modCore s.turn fun c => { c with
        shadow := none, saved := (x.serial, pa) :: c.saved.filter fun e => e.1 != x.serial }) s

def execCtxld (f : AForm) (s : State) : Host.Outcome State Fault Refusal :=
  tWordClosing 2 (do
    needSup false
    let a ← rdS.x f.xa.toNat (f.ba == 1)
    if (← curCore).shadow.isSome then badValue 4
    let pa ← imageAddr a aLoad
    modify (wakeImage · pa)
    match loadImage (← get) pa with
    | none => trap 0x40 a 0
    | some x =>
      if (← curCore).poolFree < x.vallot then stall
      modCur fun c => { c with shadow := some x, saved := c.saved.filter fun e => e.1 != x.serial }) s

/-! ## What the supervisor's code does (Table 12-3, R268, R270) -/

/-- The breakpoint table's entry for an address and an address space. -/
def findBreak (s : State) (va : Nat) (asid : BitVec 12) : Option (Nat × Break) :=
  s.fw.breaks.find? fun e => e.2.va.toNat == va && e.2.asid == asid

/-- Counts a hit of a breakpoint (R268). -/
def countHit (s : State) (i core : Nat) (b : Break) : State :=
  s.modFw fun f => { f with breaks := mapSet f.breaks i { b with
    hits := if b.hits == 0xFFFF then b.hits else b.hits + 1, lastCore := BitVec.ofNat 10 (numOf core),
    lastSite := BitVec.ofNat 7 (siteOf core) } }

/-- A trap 0x10 stands at a leaf entry that is not present, and the rest of the entry names a DEFER page or a slow-tier frame. -/
def absentPage (s : State) (k : Core) : Bool :=
  k.tinfo.toNat / 16 % 16 == 0 && match mapFind s.fw.roots k.ctx.asid.toNat with
    | none => false
    | some root => match (walkPath s k.taddr.toNat 3 root).getLast? with
      | none => false
      | some a => match read64 s a with
        | .error _ => false
        | .ok e => !e.testBit 0 && (e.testBit 6 || match spaceOf (bits e 47 16 * 65536) with
          | .slow _ => true
          | _ => false)

/-- The report of an absent page to the firmware (Table 12-3); what the firmware does with it the manual does not say. -/
def reportAbsent (s : State) (n : Nat) : State :=
  let k := s.core n
  if absentPage s k && !s.fw.absent.contains (n, k.taddr) then s.modFw fun f => { f with absent := f.absent ++ [(n, k.taddr)] } else s

/-- The supervisor of the core of the turn at its entry (notes/assumptions/9.md). A core in debug halt waits. -/
def supervisorAction (s : State) : Host.Outcome State Fault Refusal :=
  let n := s.turn
  let k := s.core n
  let park := parkStep n k.tcause.toNat k.taddr k.tinfo s
  let halt (s : State) : Host.Outcome State Fault Refusal :=
    .next (s.modCore n fun c => { c with inHalt := true }).goOn
  if k.inHalt then .next (noteStall s)
  else match k.tcause.toNat with
    | 0x31 => leaveWord (modify fun s => returnTrap (s.modCore n fun c => { c with tpct := c.tpct + 4 }) n) s
    | 0x30 =>
      match findBreak s k.taddr.toNat k.ctx.asid with
      | some (i, b) => halt (countHit s i n b)
      | none => park
    | 0x32 => halt s
    | 0x10 => parkStep n k.tcause.toNat k.taddr k.tinfo (reportAbsent s n)
    | _ => park

/-- DEBUG_RESUME lets the supervisor of core `n` go on: past a breakpoint by XDISP, else by SRET. -/
def releaseHalt (s : State) (n : Nat) : State :=
  let s := s.modCore n fun c => { c with inHalt := false }
  let k := s.core n
  match (if k.tcause == 0x30 then findBreak s k.taddr.toNat k.ctx.asid else none) with
  | some (_, b) =>
    let s := s.modCore n fun c => { c with ctx := { c.ctx with displ := b.word } }
    match xdisp { s with turn := n } with
    | .ok _ s' => { s' with turn := s.turn }
    | .error _ _ => takeTrap s n 0 0x01 0 0
  | none => returnTrap s n

/-! ## Illegal encodings (R312) -/

/-- The engine number that an illegal word at an engine is reported for. -/
def illegalEng (s : State) (e : Eng) : Nat :=
  match found s e with
  | .word (p :: _) => if tagOf p == .a then 3 else engCode e
  | _ => engCode e

/-- The engine of the turn meets a word that is none: trap 0x01, or an illegal word of an epilogue program. -/
def execIllegalEncoding (s : State) : Host.Outcome State Fault Refusal :=
  if s.epi.at_.isSome then .next { s with epi := { s.epi with bad := true, at_ := none } }
  else runWord s.eng (illegalEng s s.eng) 0 illegal s

/-! ## Dispatcher registers -/

/-- TKPOST of task k on site n. -/
def execTkpost (s : State) : Host.Outcome State Fault Refusal := event (modify fun s => postRecord s s.arg.n s.arg.k) s

/-- A decrement of task k on site n. -/
def execPredDecrement (s : State) : Host.Outcome State Fault Refusal :=
  event (modify fun s => predDec s s.arg.n s.arg.k) s

/-- A write of `size` bytes at offset c of ring k on site n. -/
def execRingDescriptorWrite (s : State) : Host.Outcome State Fault Refusal :=
  event (modify fun s => writeRing s s.arg.n s.arg.k s.arg.c s.arg.val.toNat s.arg.size) s

def execFqcmdResume (s : State) : Host.Outcome State Fault Refusal := event (modify fun s => fqCommand s s.arg.n s.arg.k 0) s
def execFqcmdKill (s : State) : Host.Outcome State Fault Refusal := event (modify fun s => fqCommand s s.arg.n s.arg.k 1) s
def execFqcmdComplete (s : State) : Host.Outcome State Fault Refusal := event (modify fun s => fqCommand s s.arg.n s.arg.k 2) s

/-- Entry k of the fault queue of site n has stood for 1 ms (R144). -/
def execFaultQueueTimeout (s : State) : Host.Outcome State Fault Refusal :=
  event (modify fun s => if (mapFind (s.die s.arg.n).fq s.arg.k).isSome then raiseMsix s 2 else s) s

/-- A write of STASHB (`flag`) or STASHN by core n (R165). -/
def execStashConfigWrite (s : State) : Host.Outcome State Fault Refusal :=
  event (modify fun s => (stashConfig s s.arg.n s.arg.flag s.arg.val.toNat).getD (takeTrap s s.arg.n 0 0x19 0 0)) s

/-- A write of STMAPD by core n (R165). -/
def execStmapdWrite (s : State) : Host.Outcome State Fault Refusal :=
  event (modify fun s => (stmapWrite s s.arg.n s.arg.val.toNat).getD (takeTrap s s.arg.n 0 0x19 0 0)) s

end Sys2Proof.Machine
end

