-- ==== Sys2Proof/Machine/Debug.lean ====
section
/-! DEFINITION. The debug commands (R84, R267, R268, R270, R271). -/

namespace Sys2Proof.Machine

/-- The states that accept a debug command, with the configuration record's DEBUG bit (R84). DESIGN CHOICE
(notes/assumptions/28.md): the payload is checked before the DEBUG bit, so a malformed command with the bit 0 answers BADARG. -/
def debugCommand (l : Layout) (work : State → List Byte → State × Reply) (s : State) : Host.Outcome State Fault Refusal :=
  command { l with allowed := notMinimal } (fun s b => if s.fw.dbg then work s b else (s, .done .badState [])) s

/-- Site and core of a payload. -/
def debugSite (b : List Byte) : Nat := field b 0 1
def debugCore (b : List Byte) : Nat := field b 0 1 * 1024 + field b 2 2
def debugCoreOk (b : List Byte) : Bool := decide (debugSite b < 64 ∧ field b 2 2 < coresOf (debugSite b))

def execDebugHalt (s : State) : Host.Outcome State Fault Refusal :=
  debugCommand { allowed := notMinimal, len := 4, reserved := fun b => zeros b 1 1 } (fun s b =>
    if !debugCoreOk b then (s, .done .badArg [])
    else (s.modCore (debugCore b) fun c => { c with haltReq := true }, .done .ok [])) s

def execDebugResume (s : State) : Host.Outcome State Fault Refusal :=
  debugCommand { allowed := notMinimal, len := 4, reserved := fun b => zeros b 1 1 } (fun s b =>
    if !debugCoreOk b then (s, .done .badArg [])
    else if !(s.core (debugCore b)).inHalt then (s, .done .badState [])
    else (releaseHalt s (debugCore b), .done .ok [])) s

/-! ## Memory (R270, R271) -/

/-- A layer that is OFF, for the address of a DRAM byte. -/
def layerOff (s : State) (pa : Nat) : Bool :=
  match locate s pa with
  | .error e => e.info == errLayerOff.info
  | .ok _ => false

/-- The layer of an address becomes ON (R271). -/
def powerUp (s : State) (pa : Nat) : State :=
  match spaceOf pa with
  | .dram k =>
    let n := dSite k
    let l := (s.die n).layerOf (pa % 0x000C00000000 / 0x400000)
    let over' (s : State) : State := if (mapGet {} (s.die n).lpwr l).busy then endLayer s n l else s
    wake (setLpwr (over' (over' s)) n l 0) pa
  | _ => s

/-! ### Through a remote window (R59): the exchange goes on until the bytes are here -/

/-- What stands for an operation's id in the requests of a debug access. -/
def debugId : Nat := 2 ^ 32

/-- The end of a debug access that has asked through a window: what that brought is of no more use. -/
def debugDone (s : State) (r : Result) (out : List Byte) : State × Reply :=
  ({ s with arrived := s.arrived.filter (fun e => e.1 != opKey debugId) }, .done r out)

/-- Asks for, or writes, parts behind a window unless an answer is still due. -/
def debugAsk (s : State) (core : Nat) (gs : List Seg) (data : Option (List Byte)) : State × Reply :=
  if s.requests.any (fun r => r.op == some debugId) then (s, .goesOn)
  else (((askFar core .t debugId gs (data.map fun d => (false, d.map fun b => (b, 0)))).run s).2, .goesOn)

/-- An answer from a window was an error. -/
def debugFailed (s : State) : Bool := s.arrived.any fun e => e.1 == opKey debugId && decide (2 ^ 48 ≤ e.2.1)

/-- A byte that a window has brought. -/
def debugByte (s : State) (pa : Nat) : Option Byte :=
  (s.arrived.find? fun e => e.1 == opKey debugId && decide (e.2.1 ≤ pa ∧ pa < e.2.1 + e.2.2.length)).map fun e => e.2.2.getD (pa - e.2.1) 0

/-- An address that a debug access reaches: control space, a valid window, or what storage answers for. -/
def debugReach (s : State) (pa : Nat) : Bool :=
  match spaceOf pa with
  | .control _ => true
  | .remote w _ => (mapGet {} s.fw.fwin w).valid
  | _ => (locate s pa).toOption.isSome

/-- The parts of a debug access that lie behind a window. -/
def farParts (ps : List (Nat × Nat)) : List Seg :=
  (ps.map fun p => (⟨p.1, p.2, 1, false⟩ : Seg)).filter segRemote

/-- Physical parts of a debug access, every layer of which serves it; else what it answers. What no access reaches, or a window answers
with an error, is NOTFOUND (DESIGN CHOICE, notes/assumptions/28.md). -/
def debugParts (s : State) (core acc va len : Nat) (wakes : Bool) : Except (State × Reply) (State × List (Nat × Nat)) :=
  let asid := (s.core core).ctx.asid
  match (pageParts 2 va len).mapM (fun p => (translate { s with turn := opKey debugId } core asid false (BitVec.ofNat 64 p.1) acc).map
      fun l => (l.pa, p.2)) with
  | .error e =>
    match e.entryAt, debugFailed s with
    | some pa, false => .error (debugAsk s core [⟨pa, 8, 1, false⟩] none)
    | _, _ => .error (debugDone s .notFound [])
  | .ok ps =>
    if ps.any (fun p => layerOff s p.1) && !wakes then .error (s, .done .layerOff [])
    else
      let s := ps.foldl (fun (s : State) p => if layerOff s p.1 then powerUp s p.1 else wake s p.1) s
      if debugFailed s || ps.any (fun p => !debugReach s p.1 || !debugReach s (p.1 + p.2 - 1)) then .error (debugDone s .notFound [])
      else .ok (s, ps)

/-- Bytes of control space, word by word. -/
def controlBytes (s : State) (pa len : Nat) : List Byte :=
  (List.range len).map fun i => BitVec.ofNat 8 (ctlRead s true ((pa + i) / 4 * 4) 4 / 256 ^ ((pa + i) % 4))

/-- Writes whole words of control space. -/
def controlWrite (s : State) (pa : Nat) (bs : List Byte) : State :=
  (List.range (bs.length / 4)).foldl (fun (s : State) i => ctlWrite s (pa + 4 * i) 4 (field bs (4 * i) 4)) s

/-- Bytes of a part that a debug access has reached. -/
def debugBytes (s : State) (p : Nat × Nat) : List Byte :=
  match spaceOf p.1 with
  | .control _ => controlBytes s p.1 p.2
  | .remote _ _ => (List.range p.2).map fun i => (debugByte s (p.1 + i)).getD 0
  | _ => readBytes s p.1 p.2

/-- Writes bytes over the parts that lie in this module. -/
def debugWriteParts (s : State) : List (Nat × Nat) → List Byte → State
  | [], _ => s
  | p :: ps, bs =>
    let d := slice bs 0 p.2
    debugWriteParts (match spaceOf p.1 with
      | .control _ => controlWrite s p.1 d
      | .remote _ _ => s
      | _ => writeBytes (wake s p.1) p.1 d) ps (bs.drop p.2)

/-- The bytes that go to parts behind a window. -/
def farBytes : List (Nat × Nat) → List Byte → List Byte
  | [], _ => []
  | p :: ps, bs => (if segRemote ⟨p.1, p.2, 1, false⟩ then slice bs 0 p.2 else []) ++ farBytes ps (bs.drop p.2)

/-- Site, WAKE, core, address and length of DEBUG_READ and DEBUG_WRITE. -/
def debugRange (b : List Byte) : Bool :=
  field b 1 1 < 2 && zeros b 4 4 && zeros b 18 6

/-- An E-die site names a physical control-space address; another names a core in debug halt (R268, R270). -/
def debugTarget (s : State) (b : List Byte) : Except Result Bool :=
  if 4096 < field b 16 2 ∨ field b 16 2 = 0 ∨ 68 ≤ debugSite b then .error .badArg
  else if 64 ≤ debugSite b then
    if isControl (field b 8 8) && decide (field b 8 8 + field b 16 2 ≤ 2 ^ 48) then .ok true else .error .badArg
  else if !debugCoreOk b then .error .badArg
  else if !(s.core (debugCore b)).inHalt then .error .badState
  else .ok false

/-- The first DEBUG_WRITE or DEBUG_BREAK since the start is measured (R84). DESIGN CHOICE (notes/assumptions/30.md): also where the chain
holds 256 items already, a bound that Table 4-13 gives and no rule enforces here. -/
def measureDebug (s : State) : State :=
  if s.fw.dbgItem then s else s.modFw fun f => { measure f 5 (sha3 []) with dbgItem := true }

def execDebugRead (s : State) : Host.Outcome State Fault Refusal :=
  debugCommand { allowed := notMinimal, len := 18, reserved := fun b => field b 1 1 < 2 && zeros b 4 4 } (fun s b =>
    let va := field b 8 8
    let len := field b 16 2
    match debugTarget s b with
    | .error r => (s, .done r [])
    | .ok true => (s, .done .ok (leBytes 4 0 ++ controlBytes s va len))
    | .ok false =>
      match debugParts s (debugCore b) aLoad va len (field b 1 1 == 1) with
      | .error r => r
      | .ok (s, ps) =>
        let far := farParts ps
        if far.all fun g => (List.range g.len).all fun i => (debugByte s (g.pa + i)).isSome then
          debugDone s .ok (leBytes 4 0 ++ ps.flatMap (debugBytes s))
        else debugAsk s (debugCore b) far none) s

def execDebugWrite (s : State) : Host.Outcome State Fault Refusal :=
  debugCommand { allowed := notMinimal, len := 24, reserved := debugRange } (fun s b =>
    let va := field b 8 8
    let len := field b 16 2
    let bs := slice b 24 len
    if b.length < 24 + len then (s, .done .badArg [])
    else match debugTarget s b with
      | .error r => (s, .done r [])
      | .ok true =>
        if va % 4 ≠ 0 ∨ len % 4 ≠ 0 then (s, .done .badArg []) else (controlWrite (measureDebug s) va bs, .done .ok [])
      | .ok false =>
        match debugParts s (debugCore b) aStore va len (field b 1 1 == 1) with
        | .error r => r
        | .ok (s, ps) =>
          let far := farParts ps
          if ps.any (fun p => isControl p.1 && (p.1 % 4 != 0 || p.2 % 4 != 0)) then debugDone s .badArg []
          else if far.isEmpty || s.arrived.any (fun e => e.1 == opKey debugId && e.2.1 == 2 ^ 48 - 1) then
            debugDone (debugWriteParts (measureDebug s) ps bs) .ok []
          else debugAsk s (debugCore b) far (some (farBytes ps bs))) s

/-! ## Breakpoints (R267, R268) -/

/-- The breakpoint that stands for a word (Table 12-7), as parcels. -/
def patchOf (p : Parcel) : List Parcel :=
  match tagOf p, parcelsOf p with
  | .t, 2 => [0x0E00, 0]
  | .t, _ => [0x2A10, 0, 0, 0]
  | .m, _ => [0x5100]
  | .c, _ => [0x9800]
  | .a, 1 => [0xCB00]
  | .a, _ => [0xCB00, 0xCB00]

def textBytes (ps : List Parcel) : List Byte := ps.flatMap fun p => leBytes 2 p.toNat

/-- Parcels of a displaced word, parcel 0 in [63:48]. -/
def wordParcels (w : Word) (n : Nat) : List Parcel := (List.range n).map fun i => BitVec.ofNat 16 (w.toNat / 2 ^ (48 - 16 * i))
def packParcels (ps : List Parcel) : Word :=
  BitVec.ofNat 64 ((List.range 4).foldl (fun v i => v + (ps.getD i 0).toNat * 2 ^ (48 - 16 * i)) 0)

/-- Where a text address lies for a core's context; none where no text is mapped. -/
def debugText (s : State) (core : Nat) (asid : BitVec 12) (va : Nat) : Option Nat :=
  match translate s core asid false (BitVec.ofNat 64 va) aFetch with
  | .ok l => some l.pa
  | .error _ => none

/-- The word at a physical address is a patch of the firmware. -/
def patched (s : State) (core pa : Nat) : Bool :=
  s.fw.breaks.any fun e => debugText s core e.2.asid e.2.va.toNat == some pa

/-- Sets a breakpoint: one aligned write of the patch, and an ICINV of module scope (R267). -/
def setBreak (s : State) (core va len pa : Nat) : State × Reply :=
  let p := BitVec.ofNat 16 (leNat (readBytes s pa 2))
  let n := parcelsOf p
  if len ≠ 2 * n ∨ pa % 64 + len > 64 ∨ va % 2 = 1 ∨ patched s core pa then (s, .done .badArg [])
  else match (List.range 64).find? (fun i => (mapFind s.fw.breaks i).isNone) with
    | none => (s, .done .noSpace [])
    | some i =>
      let word := (List.range n).map fun j => BitVec.ofNat 16 (leNat (readBytes s (pa + 2 * j) 2))
      let e : Break := { va := BitVec.ofNat 64 va, asid := (s.core core).ctx.asid, parcels := n, hits := 0, lastCore := 0,
                         lastSite := 0, word := packParcels word }
      (dropText (writeBytes ((measureDebug s).modFw fun f => { f with breaks := mapSet f.breaks i e }) pa (textBytes (patchOf p))) 3,
        .done .ok [])

/-- Clears a breakpoint: the displaced word is restored, and the instruction caches of the module lose their text again. -/
def clearBreak (s : State) (core va len pa : Nat) : State × Reply :=
  match findBreak s va (s.core core).ctx.asid with
  | none => (s, .done .notFound [])
  | some (i, e) =>
    if len ≠ 2 * e.parcels then (s, .done .badArg [])
    else (dropText (writeBytes ((measureDebug s).modFw fun f => { f with breaks := mapDel f.breaks i }) pa
      (textBytes (wordParcels e.word e.parcels))) 3, .done .ok [])

def execDebugBreak (s : State) : Host.Outcome State Fault Refusal :=
  debugCommand { allowed := notMinimal, len := 17,
                 reserved := fun b => zeros b 1 1 && field b 4 1 < 2 && zeros b 5 3 } (fun s b =>
    let va := field b 8 8
    let len := field b 16 1
    if !debugCoreOk b || !(len == 2 || len == 4 || len == 8) then (s, .done .badArg [])
    else match debugText s (debugCore b) (s.core (debugCore b)).ctx.asid va with
      | none => (s, .done .notFound [])
      | some pa =>
        if layerOff s pa then (s, .done .layerOff [])
        else if (locate s pa).toOption.isNone then (s, .done .notFound [])
        else
          let s := wake s pa
          if field b 4 1 == 1 then setBreak s (debugCore b) va len pa else clearBreak s (debugCore b) va len pa) s

end Sys2Proof.Machine
end

