-- ==== Sys2Proof/Machine/Flow.lean ====
section
/-! DEFINITION. A-words (R222 to R227, R240 to R242, R450, R451): slip, the A-log, decision words, loops and calls, rendezvous, and
the phases of a loop record (R136). -/

namespace Sys2Proof.Machine

/-! ## Slip and the A-log -/

def activeEngs (c : Ctx) : List Eng := [.t, .m, .c].filter (fun e => !(c.eng e).halted)

def logAt (c : Ctx) (k : Nat) : Option ALog := c.alog.find? (fun a => a.pos == k)

/-- Records an entry at its position. -/
def logPut (c : Ctx) (a : ALog) : Ctx := { c with alog := c.alog.filter (fun x => x.pos != a.pos) ++ [a] }

/-- Entries that the last active engine has passed retire (R223). -/
def trimLog (c : Ctx) : Ctx :=
  match leastCount c with
  | none => { c with alog := [] }
  | some m => { c with alog := c.alog.filter (fun a => m < a.pos) }

/-- An engine may not run further ahead (R226). -/
def slipHolds (c : Ctx) (e : Eng) : Bool :=
  match leastCount c with
  | some m => decide ((c.eng e).acount + 1 > m + c.slipw)
  | none => false

/-- TINFO of a divergence: the engine that found it (Table 12-9). -/
def divergeInfo (e : Eng) : Word := BitVec.ofNat 64 (engCode e * 2 ^ 48)

/-- What precedes the effect of an A-word (R223 to R226): the slip wait, the comparison with the log, the record, and for a
decision word T's outcome. -/
def enterA (e : Eng) (decide' : Option (M (Bool × Word))) : M (Bool × Word) := do
  modEng e fun g => { g with litRun := 0, skip := 0 }
  let c ← curCtx
  let g := c.eng e
  if slipHolds c e then stall
  let k := g.acount + 1
  let old := logAt c k
  match old with
  | some a => if a.addr != g.pc then trap 0x06 (a.addr.zeroExtend 64) (divergeInfo e)
  | none => pure ()
  match decide' with
  | none =>
    if old.isNone then modCtx fun c => logPut c ⟨k, g.pc, none⟩
    pure (true, 0)
  | some d =>
    match old.bind (·.outcome), e with
    | some o, _ => pure o
    | none, .t => do
      let o ← d
      modCtx fun c => logPut c ⟨k, g.pc, some o⟩
      pure o
    | none, _ => stall

/-- What follows it: the A-count. -/
def leaveA (e : Eng) : M Unit := do
  modEng e fun g => { g with acount := g.acount + 1 }
  modCtx trimLog

/-- An A-word that is no rendezvous: T's windows close (R244), its faults have ENG 3. -/
def aWord (parcels : Nat) (dec : Option (M (Bool × Word))) (body : Eng → Bool × Word → M (Option Word)) (s : State) :
    Host.Outcome State Fault Refusal :=
  let e := s.eng
  runWord e 3 parcels (do
    let o ← enterA e dec
    let t ← body e o
    leaveA e
    return t) (if e == .t then closeWindow s else s)

/-- The condition of LEAVE and ABR (Table 14-6). -/
def condOf (cond : BitVec 2) (r : BitVec 6) : Option (M (Bool × Word)) :=
  match cond.toNat with
  | 0 => none
  | 1 => some (do let v ← readX replay r.toNat false; return (v == 0, 0))
  | 2 => some (do let v ← readX replay r.toNat false; return (v != 0, 0))
  | _ => some (do let p ← readP replay r.toNat false; return (p != 0, 0))

def pcOf (e : Eng) : M Word := do return ((← curCtx).eng e).pc.zeroExtend 64

/-- The address after the matching ENDL (R451). Text on the way to it that is behind a window is asked for (R59); text that is mapped and
cannot be read is a fetch fault. -/
def afterEndl (e : Eng) : M Word := do
  let pc ← pcOf e
  let s ← get
  match matchEndl s walkLimit 0 (pc.toNat + 2) with
  | .ok (some a) => pure (BitVec.ofNat 64 a)
  | .ok none => illegal
  | .error (x, va) => meetFault s e x va

/-! ## Loops and calls -/

def execAnop (s : State) : Host.Outcome State Fault Refusal := aWord 1 none (fun _ _ => pure none) s

/-- LOOP with its count. -/
def loopWord (e : Eng) (n : Word) : M (Option Word) := do
  if n == 0 then return some (← afterEndl e)
  else
    let g := (← curCtx).eng e
    if g.loops.length ≥ 4 then trap 0x04 0 0
    modEng e fun g => { g with loops := ⟨n, g.pc + 2⟩ :: g.loops }
    return none

def execLoop (c : BitVec 7) (s : State) : Host.Outcome State Fault Refusal :=
  aWord 1 none (fun e _ => loopWord e (c.zeroExtend 64)) s

def execLoopX (x : BitVec 6) (s : State) : Host.Outcome State Fault Refusal :=
  aWord 1 (some (do let v ← readX replay x.toNat false; return (true, v))) (fun e o => loopWord e o.2) s

/-- The rotation of R240: each base goes down by one modulo its region's size. -/
def rotate (c : Ctx) : Ctx :=
  let dec (b n : Nat) : Nat := if n = 0 then 0 else (b + n - 1) % n
  { c with vrrb := dec c.vrrb c.vsize, prrb := dec c.prrb c.psize }

def execEndl (rot : BitVec 1) (s : State) : Host.Outcome State Fault Refusal :=
  aWord 1 none (fun e _ => do
    let g := (← curCtx).eng e
    match g.loops with
    | [] => trap 0x05 0 0
    | l :: ls =>
      if rot == 1 && e == .t then modCtx rotate
      if l.left - 1 == 0 then
        modEng e fun g => { g with loops := ls }
        return none
      else
        modEng e fun g => { g with loops := { l with left := l.left - 1 } :: ls }
        return some (l.body.zeroExtend 64)) s

def execLeave (cond : BitVec 2) (r : BitVec 6) (s : State) : Host.Outcome State Fault Refusal :=
  aWord 1 (condOf cond r) (fun e o => do
    if !o.1 then return none
    let g := (← curCtx).eng e
    if g.loops.isEmpty then trap 0x05 0 0
    let t ← afterEndl e
    modEng e fun g => { g with loops := g.loops.tail }
    return some t) s

def execAbr (cond : BitVec 2) (r : BitVec 6) (off : BitVec 16) (s : State) : Host.Outcome State Fault Refusal :=
  aWord 2 (condOf cond r) (fun e o => do
    if o.1 then return some (offsetBy (← pcOf e) off.toInt) else return none) s

def execAcall (off : BitVec 16) (s : State) : Host.Outcome State Fault Refusal :=
  aWord 2 none (fun e _ => do
    let g := (← curCtx).eng e
    if g.rets.length ≥ 8 then trap 0x04 0 0
    modEng e fun g => { g with rets := (g.pc + 4) :: g.rets }
    return some (offsetBy (← pcOf e) off.toInt)) s

def execAret (s : State) : Host.Outcome State Fault Refusal :=
  aWord 1 none (fun e _ => do
    let g := (← curCtx).eng e
    match g.rets with
    | [] => trap 0x05 0 0
    | r :: rs =>
      modEng e fun g => { g with rets := rs }
      return some (r.zeroExtend 64)) s

/-- SLIP commits with the first engine that executes its position: that engine's next A-word has the new bound
(notes/assumptions/22.md). -/
def execSlip (n : BitVec 4) (s : State) : Host.Outcome State Fault Refusal :=
  let first := (logAt s.ctx ((s.ctx.eng s.eng).acount + 1)).isNone
  aWord 1 none (fun _ _ => do
    if first then modCtx fun c => { c with slipw := n.toNat }
    return none) s

/-! ## HALT -/

/-- The engine stops at its HALT; with the third the core leaves its task (R136, R227). -/
def execHalt (s : State) : Host.Outcome State Fault Refusal :=
  match aWord 1 none (fun e _ => do
      let pc ← pcOf e
      modEng e fun g => { g with halted := true }
      return some pc) s with
  | .next s' =>
    if (activeEngs s'.ctx).isEmpty && !(s'.core s'.turn).intrap then .next (leaveTask s' s'.turn) else .next s'
  | r => r

/-! ## Rendezvous words (R227) -/

/-- Every active engine waits at the rendezvous. -/
def allMet (c : Ctx) : Bool := (activeEngs c).all fun e => (c.eng e).atMeet

/-- All active engines pass a rendezvous word together: the A-count, and where each goes on. -/
def passMeet (c : Ctx) (f : EngCtx → EngCtx) : Ctx :=
  trimLog ((activeEngs c).foldl (fun (c : Ctx) e =>
    let g := c.eng e
    c.setEng e (f { g with acount := g.acount + 1, atMeet := false, pc := g.pc + 2 })) c)

/-- A rendezvous word: the engine reaches it, and with the last active engine it takes effect. -/
def meet (commit : State → State) (s : State) : Host.Outcome State Fault Refusal :=
  let e := s.eng
  let s0 := if e == .t then closeWindow s else s
  let c := s0.ctx
  let g := c.eng e
  let k := g.acount + 1
  if slipHolds c e then .next (noteStall s)
  else
    let old := logAt c k
    match old with
    | some a =>
      if a.addr != g.pc then runWord e 3 1 (trap 0x06 (a.addr.zeroExtend 64) (divergeInfo e)) s0
      else go e s0 c
    | none => go e s0 (logPut c ⟨k, g.pc, none⟩)
where
  go (e : Eng) (s : State) (c : Ctx) : Host.Outcome State Fault Refusal :=
    let c := c.setEng e { c.eng e with atMeet := true, litRun := 0, skip := 0 }
    let s' := s.setCtx c
    if allMet c then
      let s' := (activeEngs c).foldl (fun (s : State) e => s.modCore s.turn fun k => k.disarm e (c.eng e).pc) s'
      .next (commit s').goOn.settled
    else .next (noteStall s')

/-- SYNC: every access before it has performed, since each performs before its engine goes on; a TOUCH that has not, T waits for (R203). -/
def execSync (s : State) : Host.Outcome State Fault Refusal :=
  if s.eng == .t && touchOut s s.turn then .next (noteStall s) else meet (fun s => s.setCtx (passMeet s.ctx id)) s

/-- on_next (R136), with the rotation (R240) and the stacks empty (Table 18-7). -/
def nextCtx (c : Ctx) : Ctx :=
  let c := rotate c
  let clear (g : EngCtx) : EngCtx := { g with loops := [], rets := [] }
  match c.phase with
  | .epilogue => passMeet c clear
  | _ =>
    if c.remain != 0 then
      passMeet { c with remain := c.remain - 1, phase := .kernel } fun g => { clear g with pc := c.ker }
    else passMeet { c with phase := .epilogue } fun g => { clear g with pc := c.epi }

/-- NEXT commits once for the core and is a pre-emption point (R136, R141). -/
def execNext (s : State) : Host.Outcome State Fault Refusal :=
  meet (fun s => ((swapAtNext s.turn).run (s.setCtx (nextCtx s.ctx))).2) s

/-- ABRK: the breakpoint is raised when every active engine has reached it (R267). -/
def execAbrk (s : State) : Host.Outcome State Fault Refusal :=
  meet (fun s =>
    let c := s.ctx
    let pc := match activeEngs c with
      | e :: _ => (c.eng e).pc
      | [] => 0
    takeTrap s s.turn 3 0x30 (pc.zeroExtend 64) 0) s

end Sys2Proof.Machine
end

