-- ==== Sys2Proof/Machine/Integer.lean ====
section
/-! DEFINITION. The S-form integer words and LIX as the T engine executes them (R322, R324 to R332). -/

namespace Sys2Proof.Machine

/-- ADD (R324). -/
def execAdd (f : AForm) (s : State) : Host.Outcome State Fault Refusal := tWord 2 (addCore rdS f) s

/-- SUB (R324). -/
def execSub (f : AForm) (s : State) : Host.Outcome State Fault Refusal := tWord 2 (subCore rdS f) s

/-- AND (R325). -/
def execAnd (f : AForm) (s : State) : Host.Outcome State Fault Refusal := tWord 2 (andCore rdS f) s

/-- OR (R325). -/
def execOr (f : AForm) (s : State) : Host.Outcome State Fault Refusal := tWord 2 (orCore rdS f) s

/-- XOR (R325). -/
def execXor (f : AForm) (s : State) : Host.Outcome State Fault Refusal := tWord 2 (xorCore rdS f) s

/-- SHL (R325). -/
def execShl (f : AForm) (s : State) : Host.Outcome State Fault Refusal := tWord 2 (shlCore rdS f) s

/-- SHR (R325). -/
def execShr (f : AForm) (s : State) : Host.Outcome State Fault Refusal := tWord 2 (shrCore rdS f) s

/-- MUL (R326). -/
def execMul (f : AForm) (s : State) : Host.Outcome State Fault Refusal := tWord 2 (mulCore rdS f) s

/-- DIV (R327). -/
def execDiv (f : AForm) (s : State) : Host.Outcome State Fault Refusal := tWord 2 (divCore rdS f) s

/-- REM (R327). -/
def execRem (f : AForm) (s : State) : Host.Outcome State Fault Refusal := tWord 2 (remCore rdS f) s

/-- MIN (R328). -/
def execMin (f : AForm) (s : State) : Host.Outcome State Fault Refusal := tWord 2 (minCore rdS f) s

/-- MAX (R328). -/
def execMax (f : AForm) (s : State) : Host.Outcome State Fault Refusal := tWord 2 (maxCore rdS f) s

/-- CSET (R328). -/
def execCset (f : AForm) (s : State) : Host.Outcome State Fault Refusal := tWord 2 (csetCore rdS f) s

/-- BITS (R328). -/
def execBits (f : AForm) (s : State) : Host.Outcome State Fault Refusal := tWord 2 (bitsCore rdS f) s

/-- FIELD (R329). -/
def execField (f : AForm) (s : State) : Host.Outcome State Fault Refusal := tWord 2 (fieldCore rdS f) s

/-- SEL (R330). -/
def execSel (f : AForm) (s : State) : Host.Outcome State Fault Refusal := tWord 2 (selCore rdS f) s

/-- ADDI (R331). -/
def execAddi (f : BForm) (s : State) : Host.Outcome State Fault Refusal := tWord 2 (addiCore rdS f) s

/-- ANDI (R331). -/
def execAndi (f : BForm) (s : State) : Host.Outcome State Fault Refusal := tWord 2 (andiCore rdS f) s

/-- ORI (R331). -/
def execOri (f : BForm) (s : State) : Host.Outcome State Fault Refusal := tWord 2 (oriCore rdS f) s

/-- XORI (R331). -/
def execXori (f : BForm) (s : State) : Host.Outcome State Fault Refusal := tWord 2 (xoriCore rdS f) s

/-- SHLI (R331). -/
def execShli (f : BForm) (s : State) : Host.Outcome State Fault Refusal := tWord 2 (shliCore rdS f) s

/-- SHRI (R331). -/
def execShri (f : BForm) (s : State) : Host.Outcome State Fault Refusal := tWord 2 (shriCore rdS f) s

/-- SHAI (R331). -/
def execShai (f : BForm) (s : State) : Host.Outcome State Fault Refusal := tWord 2 (shaiCore rdS f) s

/-- CSETI (R331). -/
def execCseti (f : BForm) (s : State) : Host.Outcome State Fault Refusal := tWord 2 (csetiCore rdS f) s

/-- LIX (R332): xd is read for the upper half alone. It is no window-safe word (R244). -/
def execLix (f : IForm) (s : State) : Host.Outcome State Fault Refusal :=
  tWordClosing 4 (do
    let d ← if f.h == 1 then rdV.x f.xd.toNat false else pure 0
    rdV.xw f.xd.toNat (lixOp (f.h == 1) f.imm d)) s

end Sys2Proof.Machine
end

