-- ==== Sys2Proof/Machine/Pool.lean ====
section
/-! DEFINITION. Lending and borrowing dies (R59, R64, R65): what the host commands, and what a pool peer asks. What the manual leaves
open of the exchange stands in notes/assumptions/29.md. -/

namespace Sys2Proof.Machine

/-- Sites of a mask. -/
def maskSites (m : BitVec 64) : List Nat := (List.range 64).filter fun n => m.getLsbD n

/-- The mask of the sites of a mask that a test picks. -/
def pickSites (m : BitVec 64) (f : Nat → Bool) : BitVec 64 :=
  BitVec.ofNat 64 ((maskSites m).foldl (fun v n => if f n then v + 2 ^ n else v) 0)

/-- A die that a placement of the plan in force uses (R64). -/
def holdsPlacement (s : State) (n : Nat) : Bool :=
  match s.fw.plan with
  | none => false
  | some p => p.placement.any (fun e => e.dies.contains n || e.assign.any fun x => x.2.1 == n) ||
      p.rotation.any (fun e => e.2.any fun d => d.any fun x => x.1 == n) || p.pools.any (fun e => e.1 == n) ||
      p.templates.any (fun t => t.peer.isNone && t.site == n)

def setPool (s : State) (m : BitVec 64) (st : BitVec 2) (peer : BitVec 12) : State :=
  (maskSites m).foldl (fun (s : State) n => s.modDie n fun d => { d with pool := st, peer := peer }) s

/-- Vector 4, where a transition happened (Table 4-6). -/
def notePool (s : State) (m : BitVec 64) : State := if m == 0 then s else raiseMsix s 4

/-- Peer and site mask of a payload. -/
def peerField (b : List Byte) : BitVec 12 := BitVec.ofNat 12 (field b 0 2)
def maskField (b : List Byte) : BitVec 64 := BitVec.ofNat 64 (field b 8 8)
def peerOk (b : List Byte) : Bool := field b 0 2 < 4096 && zeros b 2 6

/-- Nothing of this module's is left on a die: no record but FREE ones, no hand-off entry. A lent die runs the borrower's records alone
(R65). -/
def cleared (s : State) (n : Nat) : Bool :=
  (s.die n).records.all (fun r => r.2.st == .free) && (s.die n).entries.isEmpty

/-- LEND; `flag` says that the peer agrees. Dies of the mask that are usable, HOME, hold no placement and have no work left are lent. -/
def execLend (s : State) : Host.Outcome State Fault Refusal :=
  command { allowed := drainedOrServing, len := 16, reserved := peerOk } (fun s b =>
    if !s.arg.flag then (s, .done .peer [])
    else
      let m := pickSites (maskField b) fun n => (s.die n).usable && (s.die n).pool == 0 && !holdsPlacement s n && cleared s n
      (notePool (setPool s m 1 (peerField b)) m, .done .ok (leBytes 8 m.toNat))) s

/-- BORROW; `flag` says that the peer agrees, `k` and `c` are the port and the alternate port (no alternate from 72 up). -/
def execBorrow (s : State) : Host.Outcome State Fault Refusal :=
  command { allowed := drainedOrServing, len := 16, reserved := peerOk } (fun s b =>
    let a := s.arg
    let peer := peerField b
    let w (i : Nat) : Fwin := mapGet {} s.fw.fwin i
    let free := ((List.range 16).find? fun i => (w i).valid && (w i).rmod == peer).orElse fun _ =>
      (List.range 16).find? fun i => !(w i).valid
    if !a.flag then (s, .done .peer [])
    else match free with
      | none => (s, .done .noSpace [])
      | some i =>
        let f : Fwin := { rmod := peer, valid := true, port := BitVec.ofNat 7 (a.k % 72), altv := decide (a.c < 72),
                          altport := if a.c < 72 then BitVec.ofNat 7 a.c else 0,
                          sites := (if (w i).valid then (w i).sites else 0) ||| maskField b }
        (s.modFw fun x => { x with fwin := mapSet x.fwin i f }, .done .ok [BitVec.ofNat 8 i])) s

/-- RECLAIM: dies lent to the peer become RECLAIMING, and the grace time begins. -/
def execReclaim (s : State) : Host.Outcome State Fault Refusal :=
  command { allowed := drainedOrServing, len := 20, reserved := peerOk } (fun s b =>
    let peer := peerField b
    let m := pickSites (maskField b) fun n => (s.die n).pool == 1 && (s.die n).peer == peer
    if m == 0 then (s, .done .notFound [])
    else (notePool ((setPool s m 2 peer).modFw fun f => { f with background := some (.reclaim peer m) }) m, .background)) s

/-- Every scratchpad byte and every byte and mark of the stack of a die becomes 0 (R65). -/
def scrub (s : State) (n : Nat) : State :=
  let s := zeroRange s (padAddr (n * 1024) 0) (padAddr ((n + 1) * 1024) 0)
  if isD n then zeroRange s (n / 2 * 0x000C00000000) ((n / 2 + 1) * 0x000C00000000) else s

/-- The records and the hand-off entries that the borrower sent to a die are freed. -/
def dropForeign (s : State) (n : Nat) : State :=
  let s := (s.die n).records.foldl (fun (s : State) r => if r.2.foreign then killRec (stopTask s n r.1) n r.1 else s) s
  s.modDie n fun d => { d with entries := [], dsts := [] }

/-- The end of a reclaim at the lender: the dies are scrubbed and HOME. -/
def endReclaim (s : State) (m : BitVec 64) (r : Result) : State :=
  let s := (maskSites m).foldl (fun s n => scrub (dropForeign s n) n) s
  endBackground (notePool (setPool s m 0 0) m) r (leBytes 8 m.toNat)

def execReclaimAnswer (s : State) : Host.Outcome State Fault Refusal :=
  event (modify fun s => match s.fw.background with
    | some (.reclaim _ m) => endReclaim s m .ok
    | _ => s) s

/-- An address lies behind a window of a module. -/
def behind (s : State) (peer : BitVec 12) (pa : Nat) : Bool :=
  match spaceOf pa with
  | .remote w _ => (mapGet {} s.fw.fwin w).rmod == peer
  | _ => false

/-- A stream holds work at a module: records there, blocks on their way there, operations on its memory, or accesses of its tasks that it
has not answered. -/
def worksAt (s : State) (peer : BitVec 12) (e : StreamEnt) : Bool :=
  e.far.any (fun t => t.1 == peer) ||
    (s.dies.any fun d => d.2.pool == 0 && d.2.srcs.any fun b => b.stream == e.id && decide (128 ≤ b.dst) && (winOf s b.dst).rmod == peer) ||
    (s.ops.any fun o => o.stream == e.id && (o.src ++ o.dst).any fun g => behind s peer g.pa) ||
    s.requests.any fun r => r.op.isNone && (s.core r.core).ctx.streamid == e.id && r.acc.pieces.any fun p => behind s peer p.pa

/-- The borrower's answer: RESULT code and sites. -/
def answerPeer (s : State) (r : Result) (m : BitVec 64) : State :=
  s.modFw fun f => { f with peerAnswer := leBytes 4 r.code ++ leBytes 8 m.toNat }

/-- The borrower gives dies back: a window that leads to none that is borrowed is invalidated (R59). -/
def returnDies (s : State) (peer : BitVec 12) (m : BitVec 64) : State :=
  let give (w : Fwin) : Fwin :=
    if w.valid && w.rmod == peer then { w with sites := w.sites &&& ~~~m, valid := (w.sites &&& ~~~m) != 0 } else w
  let t := s.modFw fun f => { f with fwin := f.fwin.map fun w => (w.1, give w.2) }
  answerPeer (if s.fw.fwin.any (fun w => w.2.valid && !(give w.2).valid) then raiseMsix t 4 else t) .ok m

/-- A task record that the borrower's sequencer sends to a die it has borrowed (R65). -/
def postForeign (s : State) (peer : BitVec 12) (site i : Nat) (b : List Byte) : State :=
  if !((s.die site).pool == 1 && (s.die site).peer == peer) || (s.record site i).st != .free then answerPeer s .peer 0
  else
    let s := postRecord (s.modRec site i fun r => { r with bytes := slice b 0 128 }) site i
    answerPeer (s.modRec site i fun r => { r with foreign := r.st != .free }) .ok 0

/-- The borrower answers a reclaim once no stream works at the module; its windows stay until then, so that what the streams have on its
dies can be cancelled. -/
def settleReclaim (s : State) (r : Reclaim) : State :=
  if s.fw.streams.any (fun e => worksAt s r.peer e.2) then s
  else returnDies (s.modFw fun f => { f with reclaims := f.reclaims.filter (fun x => x.peer != r.peer) }) r.peer r.sites

/-- RECLAIM_GRACE_EXPIRE: at the borrower of module n (`flag`), streams that still have work there when the grace time ends fail, and it
answers as soon as none has; at the lender, the dies return without an answer. -/
def execReclaimGraceExpire (s : State) : Host.Outcome State Fault Refusal :=
  event (modify fun s =>
    if s.arg.flag then
      let peer := BitVec.ofNat 12 s.arg.n
      match s.fw.reclaims.find? (fun r => r.peer == peer) with
      | none => s
      | some r =>
        let s := s.modFw fun f => { f with reclaims := f.reclaims.map fun x => if x.peer == peer then { x with expired := true } else x }
        settleReclaim (if r.expired then s else failStreams s (worksAt s peer) 0x0021) r
    else match s.fw.background with
      | some (.reclaim _ m) => endReclaim s m .peer
      | _ => s) s

/-- A die is lent to a module. -/
def lentNow (s : State) (peer : BitVec 12) (n : Nat) : Bool := (s.die n).pool != 0 && (s.die n).peer == peer

/-- The borrower takes a record of a lent die back. -/
def killForeign (s : State) (peer : BitVec 12) (site i : Nat) : State :=
  if lentNow s peer site && (s.record site i).foreign then endRec (stopTask s site i) site i false else s

/-- A borrower's hand-off entry on a lent die (R66, R110). -/
def installForeign (s : State) (peer : BitVec 12) (site : Nat) (b : List Byte) : State :=
  if !lentNow s peer site then s
  else
    let h := entryOfBytes b
    modEntry s site { h with bitmapAt := bitmapOf s site (h.stream.toNat % 65536) ((h.layers * h.ntb + 63) / 64 * 8) }

/-- A record of a stream on a borrowed die is gone. -/
def farGone (s : State) (peer : BitVec 12) (site i : Nat) : State :=
  (s.fw.streams.filter fun e => e.2.far.any fun t => t.1 == peer && t.2.1 == site && t.2.2.1 == i).foldl (fun (s : State) e =>
    advanceStream (setStream s { e.2 with far := e.2.far.filter fun t => !(t.1 == peer && t.2.1 == site && t.2.2.1 == i) }) e.2.id.toNat) s

/-- What a hand-off engine of a borrowed die reports: as that of the module's own would be, but that a source has a name of its own. -/
def farReport (s : State) (peer : BitVec 12) (site : Nat) (m : Slot) : State :=
  let m := { m with src := farSite peer site, dst := 64 }
  if m.op == 0 then arriveMsg s .tiermissEvent m [] none
  else match rowOf m with
    | some r => arriveMsg s r m [] none
    | none => s

/-- POOL_PEER_REQUEST: module n asks about the sites `val`, or sends what `PeerReq` lists about record c of site k. -/
def execPoolPeerRequest (s : State) : Host.Outcome State Fault Refusal :=
  event (modify fun s =>
    let peer := BitVec.ofNat 12 s.arg.n
    if !s.fw.started || s.fw.st == .minimal then s
    else match s.arg.peer with
      | .lend => answerPeer s .ok s.arg.val
      | .borrow =>
        let m := pickSites s.arg.val fun n => (s.die n).pool == 1 && (s.die n).peer == peer
        answerPeer s (if m == 0 then .peer else .ok) m
      | .reclaim =>
        if s.fw.streams.any (fun e => worksAt s peer e.2) then
          s.modFw fun f => { f with
            reclaims := f.reclaims ++ [{ peer := peer, sites := s.arg.val }], peerAnswer := [] }
        else returnDies s peer s.arg.val
      | .post => postForeign s peer s.arg.k s.arg.c s.arg.data
      | .kill => killForeign s peer s.arg.k s.arg.c
      | .entry => installForeign s peer s.arg.k s.arg.data
      | .cancel => if lentNow s peer s.arg.k then postSlot s (hoSlot 64 s.arg.k 0x62 (BitVec.ofNat 20 (field s.arg.data 0 4)) []) else s
      | .release => if lentNow s peer s.arg.k then dropEntry s s.arg.k (BitVec.ofNat 20 (field s.arg.data 0 4)) else s
      | .done => farGone s peer s.arg.k s.arg.c
      | .fault => failTask s (field s.arg.data 0 4) 0x0024
      | .report => farReport s peer s.arg.k s.arg.msg) s

end Sys2Proof.Machine
end

