-- ==== Sys2Proof/Machine/Vector.lean ====
section
/-! DEFINITION. The vector, conversion and predicate words as the T engine executes them (R364), in or out of a transient
window (R244); VRAND closes one. -/

namespace Sys2Proof.Machine

/-- VADD (R367). -/
def execVadd (f : VForm) (s : State) : Host.Outcome State Fault Refusal := tWord 4 (vaddCore rdV f) s

/-- VSUB (R367). -/
def execVsub (f : VForm) (s : State) : Host.Outcome State Fault Refusal := tWord 4 (vsubCore rdV f) s

/-- VMUL (R367). -/
def execVmul (f : VForm) (s : State) : Host.Outcome State Fault Refusal := tWord 4 (vmulCore rdV f) s

/-- VFMA (R367). -/
def execVfma (f : VForm) (s : State) : Host.Outcome State Fault Refusal := tWord 4 (vfmaCore rdV f) s

/-- VFMS (R367). -/
def execVfms (f : VForm) (s : State) : Host.Outcome State Fault Refusal := tWord 4 (vfmsCore rdV f) s

/-- VMIN (R369). -/
def execVmin (f : VForm) (s : State) : Host.Outcome State Fault Refusal := tWord 4 (vminCore rdV f) s

/-- VMAX (R369). -/
def execVmax (f : VForm) (s : State) : Host.Outcome State Fault Refusal := tWord 4 (vmaxCore rdV f) s

/-- VABS (R369). -/
def execVabs (f : VForm) (s : State) : Host.Outcome State Fault Refusal := tWord 4 (vabsCore rdV f) s

/-- VNEG (R369). -/
def execVneg (f : VForm) (s : State) : Host.Outcome State Fault Refusal := tWord 4 (vnegCore rdV f) s

/-- VDIV (R367). -/
def execVdiv (f : VForm) (s : State) : Host.Outcome State Fault Refusal := tWord 4 (vdivCore rdV f) s

/-- VSQRT (R367). -/
def execVsqrt (f : VForm) (s : State) : Host.Outcome State Fault Refusal := tWord 4 (vsqrtCore rdV f) s

/-- VRCP (R367). -/
def execVrcp (f : VForm) (s : State) : Host.Outcome State Fault Refusal := tWord 4 (vrcpCore rdV f) s

/-- VRSQ (R367). -/
def execVrsq (f : VForm) (s : State) : Host.Outcome State Fault Refusal := tWord 4 (vrsqCore rdV f) s

/-- VEXP2 (R367). -/
def execVexp2 (f : VForm) (s : State) : Host.Outcome State Fault Refusal := tWord 4 (vexp2Core rdV f) s

/-- VLOG2 (R367). -/
def execVlog2 (f : VForm) (s : State) : Host.Outcome State Fault Refusal := tWord 4 (vlog2Core rdV f) s

/-- VSCL (R369). -/
def execVscl (f : VForm) (s : State) : Host.Outcome State Fault Refusal := tWord 4 (vsclCore rdV f) s

/-- VCMP (R370). -/
def execVcmp (f : VForm) (s : State) : Host.Outcome State Fault Refusal := tWord 4 (vcmpCore rdV f) s

/-- VSEL (R371). -/
def execVsel (f : VForm) (s : State) : Host.Outcome State Fault Refusal := tWord 4 (vselCore rdV f) s

/-- VAND (R372). -/
def execVand (f : VForm) (s : State) : Host.Outcome State Fault Refusal := tWord 4 (vandCore rdV f) s

/-- VOR (R372). -/
def execVor (f : VForm) (s : State) : Host.Outcome State Fault Refusal := tWord 4 (vorCore rdV f) s

/-- VXOR (R372). -/
def execVxor (f : VForm) (s : State) : Host.Outcome State Fault Refusal := tWord 4 (vxorCore rdV f) s

/-- VNOT (R372). -/
def execVnot (f : VForm) (s : State) : Host.Outcome State Fault Refusal := tWord 4 (vnotCore rdV f) s

/-- VSHL (R373). -/
def execVshl (f : VForm) (s : State) : Host.Outcome State Fault Refusal := tWord 4 (vshlCore rdV f) s

/-- VSHR (R373). -/
def execVshr (f : VForm) (s : State) : Host.Outcome State Fault Refusal := tWord 4 (vshrCore rdV f) s

/-- VCVT (R382). -/
def execVcvt (f : VForm) (s : State) : Host.Outcome State Fault Refusal := tWord 4 (vcvtCore rdV f) s

/-- VQMX (R385). -/
def execVqmx (f : VForm) (s : State) : Host.Outcome State Fault Refusal := tWord 4 (vqmxCore rdV f) s

/-- VDQMX (R386). -/
def execVdqmx (f : VForm) (s : State) : Host.Outcome State Fault Refusal := tWord 4 (vdqmxCore rdV f) s

/-- VQNB (R387). -/
def execVqnb (f : VForm) (s : State) : Host.Outcome State Fault Refusal := tWord 4 (vqnbCore rdV f) s

/-- VDQNB (R388). -/
def execVdqnb (f : VForm) (s : State) : Host.Outcome State Fault Refusal := tWord 4 (vdqnbCore rdV f) s

/-- VRAND (R389, R244). -/
def execVrand (f : VForm) (s : State) : Host.Outcome State Fault Refusal := tWordClosing 4 (vrandCore rdV f) s

/-- VBDOT (R390). -/
def execVbdot (f : VForm) (s : State) : Host.Outcome State Fault Refusal := tWord 4 (vbdotCore rdV f) s

/-- VPACK (R383). -/
def execVpack (f : VForm) (s : State) : Host.Outcome State Fault Refusal := tWord 4 (vpackCore rdV f) s

/-- VRED (R374). -/
def execVred (f : VForm) (s : State) : Host.Outcome State Fault Refusal := tWord 4 (vredCore rdV f) s

/-- VSCAN (R375). -/
def execVscan (f : VForm) (s : State) : Host.Outcome State Fault Refusal := tWord 4 (vscanCore rdV f) s

/-- VPERM (R376). -/
def execVperm (f : VForm) (s : State) : Host.Outcome State Fault Refusal := tWord 4 (vpermCore rdV f) s

/-- VBCAST (R377). -/
def execVbcast (f : VForm) (s : State) : Host.Outcome State Fault Refusal := tWord 4 (vbcastCore rdV f) s

/-- VEXTR (R377). -/
def execVextr (f : VForm) (s : State) : Host.Outcome State Fault Refusal := tWord 4 (vextrCore rdV f) s

/-- VINS (R377). -/
def execVins (f : VForm) (s : State) : Host.Outcome State Fault Refusal := tWord 4 (vinsCore rdV f) s

/-- VSLIDE (R378). -/
def execVslide (f : VForm) (s : State) : Host.Outcome State Fault Refusal := tWord 4 (vslideCore rdV f) s

/-- VZIP (R378). -/
def execVzip (f : VForm) (s : State) : Host.Outcome State Fault Refusal := tWord 4 (vzipCore rdV f) s

/-- VUNZIP (R378). -/
def execVunzip (f : VForm) (s : State) : Host.Outcome State Fault Refusal := tWord 4 (vunzipCore rdV f) s

/-- VMOV (R379). -/
def execVmov (f : VForm) (s : State) : Host.Outcome State Fault Refusal := tWord 4 (vmovCore rdV f) s

/-- VIOTA (R379). -/
def execViota (f : VForm) (s : State) : Host.Outcome State Fault Refusal := tWord 4 (viotaCore rdV f) s

/-- PAND (R380). -/
def execPand (f : VForm) (s : State) : Host.Outcome State Fault Refusal := tWord 4 (pandCore rdV f) s

/-- POR (R380). -/
def execPor (f : VForm) (s : State) : Host.Outcome State Fault Refusal := tWord 4 (porCore rdV f) s

/-- PXOR (R380). -/
def execPxor (f : VForm) (s : State) : Host.Outcome State Fault Refusal := tWord 4 (pxorCore rdV f) s

/-- PNOT (R380). -/
def execPnot (f : VForm) (s : State) : Host.Outcome State Fault Refusal := tWord 4 (pnotCore rdV f) s

/-- PWHILE (R381). -/
def execPwhile (f : VForm) (s : State) : Host.Outcome State Fault Refusal := tWord 4 (pwhileCore rdV f) s

/-- PCNT (R381). -/
def execPcnt (f : VForm) (s : State) : Host.Outcome State Fault Refusal := tWord 4 (pcntCore rdV f) s

/-- PFIRST (R381). -/
def execPfirst (f : VForm) (s : State) : Host.Outcome State Fault Refusal := tWord 4 (pfirstCore rdV f) s

end Sys2Proof.Machine
end

