-- ==== Sys2Proof/Machine/Dispatch.lean ====
section
/-! DEFINITION. The meaning of every constructor of `Instr`. -/

namespace Sys2Proof.Machine

def exec (i : Instr) (s : State) : Host.Outcome State Fault Refusal :=
  match i with
  | .add f => Sys2Proof.Machine.execAdd f s
  | .sub f => Sys2Proof.Machine.execSub f s
  | .and f => Sys2Proof.Machine.execAnd f s
  | .or f => Sys2Proof.Machine.execOr f s
  | .xor f => Sys2Proof.Machine.execXor f s
  | .shl f => Sys2Proof.Machine.execShl f s
  | .shr f => Sys2Proof.Machine.execShr f s
  | .mul f => Sys2Proof.Machine.execMul f s
  | .div f => Sys2Proof.Machine.execDiv f s
  | .rem f => Sys2Proof.Machine.execRem f s
  | .min f => Sys2Proof.Machine.execMin f s
  | .max f => Sys2Proof.Machine.execMax f s
  | .cset f => Sys2Proof.Machine.execCset f s
  | .bits f => Sys2Proof.Machine.execBits f s
  | .field f => Sys2Proof.Machine.execField f s
  | .sel f => Sys2Proof.Machine.execSel f s
  | .addi f => Sys2Proof.Machine.execAddi f s
  | .andi f => Sys2Proof.Machine.execAndi f s
  | .ori f => Sys2Proof.Machine.execOri f s
  | .xori f => Sys2Proof.Machine.execXori f s
  | .shli f => Sys2Proof.Machine.execShli f s
  | .shri f => Sys2Proof.Machine.execShri f s
  | .shai f => Sys2Proof.Machine.execShai f s
  | .cseti f => Sys2Proof.Machine.execCseti f s
  | .xput f => Sys2Proof.Machine.execXput f s
  | .xtake f => Sys2Proof.Machine.execXtake f s
  | .b f => Sys2Proof.Machine.execB f s
  | .call f => Sys2Proof.Machine.execCall f s
  | .jr f => Sys2Proof.Machine.execJr f s
  | .beq f => Sys2Proof.Machine.execBeq f s
  | .bne f => Sys2Proof.Machine.execBne f s
  | .blt f => Sys2Proof.Machine.execBlt f s
  | .bge f => Sys2Proof.Machine.execBge f s
  | .bltu f => Sys2Proof.Machine.execBltu f s
  | .bgeu f => Sys2Proof.Machine.execBgeu f s
  | .bp f => Sys2Proof.Machine.execBp f s
  | .csrr f => Sys2Proof.Machine.execCsrr f s
  | .csrw f => Sys2Proof.Machine.execCsrw f s
  | .csrs f => Sys2Proof.Machine.execCsrs f s
  | .csrc f => Sys2Proof.Machine.execCsrc f s
  | .fence kind scope slot => Sys2Proof.Machine.execFence kind scope slot s
  | .svc n => Sys2Proof.Machine.execSvc n s
  | .icinv f => Sys2Proof.Machine.execIcinv f s
  | .getid f => Sys2Proof.Machine.execGetid f s
  | .ldb f => Sys2Proof.Machine.execLdb f s
  | .ldh f => Sys2Proof.Machine.execLdh f s
  | .ldw f => Sys2Proof.Machine.execLdw f s
  | .ldd f => Sys2Proof.Machine.execLdd f s
  | .ldbs f => Sys2Proof.Machine.execLdbs f s
  | .ldhs f => Sys2Proof.Machine.execLdhs f s
  | .ldws f => Sys2Proof.Machine.execLdws f s
  | .stb f => Sys2Proof.Machine.execStb f s
  | .sth f => Sys2Proof.Machine.execSth f s
  | .stw f => Sys2Proof.Machine.execStw f s
  | .std f => Sys2Proof.Machine.execStd f s
  | .ldf f => Sys2Proof.Machine.execLdf f s
  | .ldc f => Sys2Proof.Machine.execLdc f s
  | .ste f => Sys2Proof.Machine.execSte f s
  | .sts f => Sys2Proof.Machine.execSts f s
  | .stn f => Sys2Proof.Machine.execStn f s
  | .allot f => Sys2Proof.Machine.execAllot f s
  | .rotcfg f => Sys2Proof.Machine.execRotcfg f s
  | .rotset f => Sys2Proof.Machine.execRotset f s
  | .ctxsv f => Sys2Proof.Machine.execCtxsv f s
  | .ctxld f => Sys2Proof.Machine.execCtxld f s
  | .grpset f => Sys2Proof.Machine.execGrpset f s
  | .asgen f => Sys2Proof.Machine.execAsgen f s
  | .cohset f => Sys2Proof.Machine.execCohset f s
  | .probe f => Sys2Proof.Machine.execProbe f s
  | .lix f => Sys2Proof.Machine.execLix f s
  | .vadd f => Sys2Proof.Machine.execVadd f s
  | .vsub f => Sys2Proof.Machine.execVsub f s
  | .vmul f => Sys2Proof.Machine.execVmul f s
  | .vfma f => Sys2Proof.Machine.execVfma f s
  | .vfms f => Sys2Proof.Machine.execVfms f s
  | .vmin f => Sys2Proof.Machine.execVmin f s
  | .vmax f => Sys2Proof.Machine.execVmax f s
  | .vabs f => Sys2Proof.Machine.execVabs f s
  | .vneg f => Sys2Proof.Machine.execVneg f s
  | .vdiv f => Sys2Proof.Machine.execVdiv f s
  | .vsqrt f => Sys2Proof.Machine.execVsqrt f s
  | .vrcp f => Sys2Proof.Machine.execVrcp f s
  | .vrsq f => Sys2Proof.Machine.execVrsq f s
  | .vexp2 f => Sys2Proof.Machine.execVexp2 f s
  | .vlog2 f => Sys2Proof.Machine.execVlog2 f s
  | .vscl f => Sys2Proof.Machine.execVscl f s
  | .vcmp f => Sys2Proof.Machine.execVcmp f s
  | .vsel f => Sys2Proof.Machine.execVsel f s
  | .vand f => Sys2Proof.Machine.execVand f s
  | .vor f => Sys2Proof.Machine.execVor f s
  | .vxor f => Sys2Proof.Machine.execVxor f s
  | .vnot f => Sys2Proof.Machine.execVnot f s
  | .vshl f => Sys2Proof.Machine.execVshl f s
  | .vshr f => Sys2Proof.Machine.execVshr f s
  | .vcvt f => Sys2Proof.Machine.execVcvt f s
  | .vqmx f => Sys2Proof.Machine.execVqmx f s
  | .vdqmx f => Sys2Proof.Machine.execVdqmx f s
  | .vqnb f => Sys2Proof.Machine.execVqnb f s
  | .vdqnb f => Sys2Proof.Machine.execVdqnb f s
  | .vrand f => Sys2Proof.Machine.execVrand f s
  | .vbdot f => Sys2Proof.Machine.execVbdot f s
  | .vpack f => Sys2Proof.Machine.execVpack f s
  | .vred f => Sys2Proof.Machine.execVred f s
  | .vscan f => Sys2Proof.Machine.execVscan f s
  | .vperm f => Sys2Proof.Machine.execVperm f s
  | .vbcast f => Sys2Proof.Machine.execVbcast f s
  | .vextr f => Sys2Proof.Machine.execVextr f s
  | .vins f => Sys2Proof.Machine.execVins f s
  | .vslide f => Sys2Proof.Machine.execVslide f s
  | .vzip f => Sys2Proof.Machine.execVzip f s
  | .vunzip f => Sys2Proof.Machine.execVunzip f s
  | .vmov f => Sys2Proof.Machine.execVmov f s
  | .viota f => Sys2Proof.Machine.execViota f s
  | .pand f => Sys2Proof.Machine.execPand f s
  | .por f => Sys2Proof.Machine.execPor f s
  | .pxor f => Sys2Proof.Machine.execPxor f s
  | .pnot f => Sys2Proof.Machine.execPnot f s
  | .pwhile f => Sys2Proof.Machine.execPwhile f s
  | .pcnt f => Sys2Proof.Machine.execPcnt f s
  | .pfirst f => Sys2Proof.Machine.execPfirst f s
  | .vld f => Sys2Proof.Machine.execVld f s
  | .vst f => Sys2Proof.Machine.execVst f s
  | .vldx f => Sys2Proof.Machine.execVldx f s
  | .vstx f => Sys2Proof.Machine.execVstx f s
  | .vldf f => Sys2Proof.Machine.execVldf f s
  | .vste f => Sys2Proof.Machine.execVste f s
  | .vgath f => Sys2Proof.Machine.execVgath f s
  | .vscat f => Sys2Proof.Machine.execVscat f s
  | .touch f => Sys2Proof.Machine.execTouch f s
  | .cstat f => Sys2Proof.Machine.execCstat f s
  | .waitc f => Sys2Proof.Machine.execWaitc f s
  | .defer f => Sys2Proof.Machine.execDefer f s
  | .resolve f => Sys2Proof.Machine.execResolve f s
  | .poison f => Sys2Proof.Machine.execPoison f s
  | .rcpdef f => Sys2Proof.Machine.execRcpdef f s
  | .rcpdrop f => Sys2Proof.Machine.execRcpdrop f s
  | .rcpkill f => Sys2Proof.Machine.execRcpkill f s
  | .rempty f => Sys2Proof.Machine.execRempty f s
  | .rstate f => Sys2Proof.Machine.execRstate f s
  | .amoadd f => Sys2Proof.Machine.execAmoadd f s
  | .amomin f => Sys2Proof.Machine.execAmomin f s
  | .amomax f => Sys2Proof.Machine.execAmomax f s
  | .amoand f => Sys2Proof.Machine.execAmoand f s
  | .amoor f => Sys2Proof.Machine.execAmoor f s
  | .amoxor f => Sys2Proof.Machine.execAmoxor f s
  | .amoswp f => Sys2Proof.Machine.execAmoswp f s
  | .amocas f => Sys2Proof.Machine.execAmocas f s
  | .amofadd f => Sys2Proof.Machine.execAmofadd f s
  | .vamoadd f => Sys2Proof.Machine.execVamoadd f s
  | .fadd f => Sys2Proof.Machine.execFadd f s
  | .fset f => Sys2Proof.Machine.execFset f s
  | .farm f => Sys2Proof.Machine.execFarm f s
  | .binit f => Sys2Proof.Machine.execBinit f s
  | .bexp f => Sys2Proof.Machine.execBexp f s
  | .bwait f => Sys2Proof.Machine.execBwait f s
  | .btest f => Sys2Proof.Machine.execBtest f s
  | .binv f => Sys2Proof.Machine.execBinv f s
  | .rginit f => Sys2Proof.Machine.execRginit f s
  | .rgtake f => Sys2Proof.Machine.execRgtake f s
  | .sbind f => Sys2Proof.Machine.execSbind f s
  | .sunbind f => Sys2Proof.Machine.execSunbind f s
  | .sstat f => Sys2Proof.Machine.execSstat f s
  | .mpushx take trap x => Sys2Proof.Machine.execMpushx take trap x s
  | .mpopx x => Sys2Proof.Machine.execMpopx x s
  | .mshl n => Sys2Proof.Machine.execMshl n s
  | .mmma slot emptyA markC acc => Sys2Proof.Machine.execMmma slot emptyA markC acc s
  | .mmva slot emptyA markC acc => Sys2Proof.Machine.execMmva slot emptyA markC acc s
  | .mepi slot => Sys2Proof.Machine.execMepi slot s
  | .mwait ph => Sys2Proof.Machine.execMwait ph s
  | .mskipz n => Sys2Proof.Machine.execMskipz n s
  | .mconst c slot => Sys2Proof.Machine.execMconst c slot s
  | .mlit p => Sys2Proof.Machine.execMlit p s
  | .cpushx take trap x => Sys2Proof.Machine.execCpushx take trap x s
  | .cpopx x => Sys2Proof.Machine.execCpopx x s
  | .cshl n => Sys2Proof.Machine.execCshl n s
  | .ccopy resolve => Sys2Proof.Machine.execCcopy resolve s
  | .ccopy2 resolve => Sys2Proof.Machine.execCcopy2 resolve s
  | .cgath resolve => Sys2Proof.Machine.execCgath resolve s
  | .cscat resolve => Sys2Proof.Machine.execCscat resolve s
  | .cfill resolve => Sys2Proof.Machine.execCfill resolve s
  | .cpage resolve => Sys2Proof.Machine.execCpage resolve s
  | .ccoll ty op => Sys2Proof.Machine.execCcoll ty op s
  | .cwait ph => Sys2Proof.Machine.execCwait ph s
  | .cskipz n => Sys2Proof.Machine.execCskipz n s
  | .clit p => Sys2Proof.Machine.execClit p s
  | .loop c => Sys2Proof.Machine.execLoop c s
  | .loopX x => Sys2Proof.Machine.execLoopX x s
  | .endl rot => Sys2Proof.Machine.execEndl rot s
  | .leave cond r => Sys2Proof.Machine.execLeave cond r s
  | .abr cond r off => Sys2Proof.Machine.execAbr cond r off s
  | .acall off => Sys2Proof.Machine.execAcall off s
  | .slip n => Sys2Proof.Machine.execSlip n s
  | .elda d => Sys2Proof.Machine.execElda d s
  | .eadd d src => Sys2Proof.Machine.execEadd d src s
  | .emul d src => Sys2Proof.Machine.execEmul d src s
  | .efma d src => Sys2Proof.Machine.execEfma d src s
  | .emax d src => Sys2Proof.Machine.execEmax d src s
  | .econ d c => Sys2Proof.Machine.execEcon d c s
  | .erow d src => Sys2Proof.Machine.execErow d src s
  | .eact d src f => Sys2Proof.Machine.execEact d src f s
  | .ecvt d src sat ty => Sys2Proof.Machine.execEcvt d src sat ty s
  | .estat d src => Sys2Proof.Machine.execEstat d src s
  | .eqkv d src ty => Sys2Proof.Machine.execEqkv d src ty s
  | .eres d => Sys2Proof.Machine.execEres d s
  | .est src ty => Sys2Proof.Machine.execEst src ty s
  | .esel d src c => Sys2Proof.Machine.execEsel d src c s
  | .emov d src => Sys2Proof.Machine.execEmov d src s
  | .trapf => Sys2Proof.Machine.execTrapf s
  | .sret => Sys2Proof.Machine.execSret s
  | .brk => Sys2Proof.Machine.execBrk s
  | .xdisp => Sys2Proof.Machine.execXdisp s
  | .isync => Sys2Proof.Machine.execIsync s
  | .pause => Sys2Proof.Machine.execPause s
  | .swctx => Sys2Proof.Machine.execSwctx s
  | .park => Sys2Proof.Machine.execPark s
  | .brkl => Sys2Proof.Machine.execBrkl s
  | .mnop => Sys2Proof.Machine.execMnop s
  | .mdup => Sys2Proof.Machine.execMdup s
  | .mdrop => Sys2Proof.Machine.execMdrop s
  | .mswap => Sys2Proof.Machine.execMswap s
  | .mover => Sys2Proof.Machine.execMover s
  | .madd => Sys2Proof.Machine.execMadd s
  | .mor => Sys2Proof.Machine.execMor s
  | .mswpw => Sys2Proof.Machine.execMswpw s
  | .mbar => Sys2Proof.Machine.execMbar s
  | .mbrk => Sys2Proof.Machine.execMbrk s
  | .cnop => Sys2Proof.Machine.execCnop s
  | .cdup => Sys2Proof.Machine.execCdup s
  | .cdrop => Sys2Proof.Machine.execCdrop s
  | .cswap => Sys2Proof.Machine.execCswap s
  | .cover => Sys2Proof.Machine.execCover s
  | .cadd => Sys2Proof.Machine.execCadd s
  | .cor => Sys2Proof.Machine.execCor s
  | .cdecomp => Sys2Proof.Machine.execCdecomp s
  | .cpref => Sys2Proof.Machine.execCpref s
  | .choff => Sys2Proof.Machine.execChoff s
  | .cflush => Sys2Proof.Machine.execCflush s
  | .cbar => Sys2Proof.Machine.execCbar s
  | .cbrk => Sys2Proof.Machine.execCbrk s
  | .anop => Sys2Proof.Machine.execAnop s
  | .aret => Sys2Proof.Machine.execAret s
  | .sync => Sys2Proof.Machine.execSync s
  | .next => Sys2Proof.Machine.execNext s
  | .halt => Sys2Proof.Machine.execHalt s
  | .abrk => Sys2Proof.Machine.execAbrk s
  | .eend => Sys2Proof.Machine.execEend s
  | .powerUp => Sys2Proof.Machine.execPowerUp s
  | .stageOverrun => Sys2Proof.Machine.execStageOverrun s
  | .startRetryReset => Sys2Proof.Machine.execStartRetryReset s
  | .inputPowerRemoved => Sys2Proof.Machine.execInputPowerRemoved s
  | .sensorSample => Sys2Proof.Machine.execSensorSample s
  | .thstatWarnClear => Sys2Proof.Machine.execThstatWarnClear s
  | .tlimWrite => Sys2Proof.Machine.execTlimWrite s
  | .lpwrWrite => Sys2Proof.Machine.execLpwrWrite s
  | .layerTransitionDone => Sys2Proof.Machine.execLayerTransitionDone s
  | .capTick => Sys2Proof.Machine.execCapTick s
  | .droopAlarm => Sys2Proof.Machine.execDroopAlarm s
  | .droopHoldEnd => Sys2Proof.Machine.execDroopHoldEnd s
  | .heldStartAdmit => Sys2Proof.Machine.execHeldStartAdmit s
  | .staggeredRegionStart => Sys2Proof.Machine.execStaggeredRegionStart s
  | .registerWrite => Sys2Proof.Machine.execRegisterWrite s
  | .flitReceive => Sys2Proof.Machine.execFlitReceive s
  | .nakReceive => Sys2Proof.Machine.execNakReceive s
  | .nullFlitSend => Sys2Proof.Machine.execNullFlitSend s
  | .retrainStart => Sys2Proof.Machine.execRetrainStart s
  | .linkForceRetrain => Sys2Proof.Machine.execLinkForceRetrain s
  | .retrainAttemptEnd => Sys2Proof.Machine.execRetrainAttemptEnd s
  | .retrainAttemptTimeout => Sys2Proof.Machine.execRetrainAttemptTimeout s
  | .fabricFlitReceive => Sys2Proof.Machine.execFabricFlitReceive s
  | .fabricNakReceive => Sys2Proof.Machine.execFabricNakReceive s
  | .portRetrainStart => Sys2Proof.Machine.execPortRetrainStart s
  | .portRetrainAttemptEnd => Sys2Proof.Machine.execPortRetrainAttemptEnd s
  | .portRetrainAttemptTimeout => Sys2Proof.Machine.execPortRetrainAttemptTimeout s
  | .rdline => Sys2Proof.Machine.execRdline s
  | .rdpart => Sys2Proof.Machine.execRdpart s
  | .wrmask => Sys2Proof.Machine.execWrmask s
  | .tagst => Sys2Proof.Machine.execTagst s
  | .tagld => Sys2Proof.Machine.execTagld s
  | .slotAmoadd => Sys2Proof.Machine.execSlotAmoadd s
  | .slotAmomin => Sys2Proof.Machine.execSlotAmomin s
  | .slotAmomax => Sys2Proof.Machine.execSlotAmomax s
  | .slotAmoand => Sys2Proof.Machine.execSlotAmoand s
  | .slotAmoor => Sys2Proof.Machine.execSlotAmoor s
  | .slotAmoxor => Sys2Proof.Machine.execSlotAmoxor s
  | .slotAmoswp => Sys2Proof.Machine.execSlotAmoswp s
  | .slotAmocas => Sys2Proof.Machine.execSlotAmocas s
  | .slotAmofadd => Sys2Proof.Machine.execSlotAmofadd s
  | .slotVamoadd => Sys2Proof.Machine.execSlotVamoadd s
  | .slotFadd => Sys2Proof.Machine.execSlotFadd s
  | .slotFset => Sys2Proof.Machine.execSlotFset s
  | .slotFarm => Sys2Proof.Machine.execSlotFarm s
  | .cellopTouch => Sys2Proof.Machine.execCellopTouch s
  | .cellopCstat => Sys2Proof.Machine.execCellopCstat s
  | .cellopDefer => Sys2Proof.Machine.execCellopDefer s
  | .cellopResolve => Sys2Proof.Machine.execCellopResolve s
  | .cellopPoison => Sys2Proof.Machine.execCellopPoison s
  | .cellopWaitc => Sys2Proof.Machine.execCellopWaitc s
  | .cellopHeadQuery => Sys2Proof.Machine.execCellopHeadQuery s
  | .bopen => Sys2Proof.Machine.execBopen s
  | .bulkFlit => Sys2Proof.Machine.execBulkFlit s
  | .ldata => Sys2Proof.Machine.execLdata s
  | .lwrite => Sys2Proof.Machine.execLwrite s
  | .lwritev => Sys2Proof.Machine.execLwritev s
  | .rdata => Sys2Proof.Machine.execRdata s
  | .done => Sys2Proof.Machine.execDone s
  | .err => Sys2Proof.Machine.execErr s
  | .pend => Sys2Proof.Machine.execPend s
  | .pendTimer => Sys2Proof.Machine.execPendTimer s
  | .responseTimeout => Sys2Proof.Machine.execResponseTimeout s
  | .hostMemRead => Sys2Proof.Machine.execHostMemRead s
  | .hostMemWrite => Sys2Proof.Machine.execHostMemWrite s
  | .submit => Sys2Proof.Machine.execSubmit s
  | .slotFree => Sys2Proof.Machine.execSlotFree s
  | .slotStateUndo => Sys2Proof.Machine.execSlotStateUndo s
  | .cancelWord => Sys2Proof.Machine.execCancelWord s
  | .evheadWrite => Sys2Proof.Machine.execEvheadWrite s
  | .msixUnmask => Sys2Proof.Machine.execMsixUnmask s
  | .identify => Sys2Proof.Machine.execIdentify s
  | .status => Sys2Proof.Machine.execStatus s
  | .attest => Sys2Proof.Machine.execAttest s
  | .bootlog => Sys2Proof.Machine.execBootlog s
  | .updateConfig => Sys2Proof.Machine.execUpdateConfig s
  | .setPlan => Sys2Proof.Machine.execSetPlan s
  | .loadText => Sys2Proof.Machine.execLoadText s
  | .loadWeights => Sys2Proof.Machine.execLoadWeights s
  | .loadWeightsDone => Sys2Proof.Machine.execLoadWeightsDone s
  | .mapRegion => Sys2Proof.Machine.execMapRegion s
  | .unmap => Sys2Proof.Machine.execUnmap s
  | .openSpace => Sys2Proof.Machine.execOpenSpace s
  | .closeSpace => Sys2Proof.Machine.execCloseSpace s
  | .setTier => Sys2Proof.Machine.execSetTier s
  | .cancel => Sys2Proof.Machine.execCancel s
  | .drain => Sys2Proof.Machine.execDrain s
  | .drainComplete => Sys2Proof.Machine.execDrainComplete s
  | .queryStream => Sys2Proof.Machine.execQueryStream s
  | .lend => Sys2Proof.Machine.execLend s
  | .borrow => Sys2Proof.Machine.execBorrow s
  | .reclaim => Sys2Proof.Machine.execReclaim s
  | .reclaimAnswer => Sys2Proof.Machine.execReclaimAnswer s
  | .reclaimGraceExpire => Sys2Proof.Machine.execReclaimGraceExpire s
  | .debugHalt => Sys2Proof.Machine.execDebugHalt s
  | .debugResume => Sys2Proof.Machine.execDebugResume s
  | .debugRead => Sys2Proof.Machine.execDebugRead s
  | .debugWrite => Sys2Proof.Machine.execDebugWrite s
  | .debugBreak => Sys2Proof.Machine.execDebugBreak s
  | .resetModule => Sys2Proof.Machine.execResetModule s
  | .moduleReset => Sys2Proof.Machine.execModuleReset s
  | .thermalRead => Sys2Proof.Machine.execThermalRead s
  | .thermalSet => Sys2Proof.Machine.execThermalSet s
  | .powerCap => Sys2Proof.Machine.execPowerCap s
  | .spdmRequest => Sys2Proof.Machine.execSpdmRequest s
  | .admission => Sys2Proof.Machine.execAdmission s
  | .streamEnd => Sys2Proof.Machine.execStreamEnd s
  | .retirement => Sys2Proof.Machine.execRetirement s
  | .tiermissEvent => Sys2Proof.Machine.execTiermissEvent s
  | .ltimeWarn => Sys2Proof.Machine.execLtimeWarn s
  | .ltimeSelfDrain => Sys2Proof.Machine.execLtimeSelfDrain s
  | .ltimeLimit => Sys2Proof.Machine.execLtimeLimit s
  | .logicalTimeTick => Sys2Proof.Machine.execLogicalTimeTick s
  | .handoffSend => Sys2Proof.Machine.execHandoffSend s
  | .hblkSent => Sys2Proof.Machine.execHblkSent s
  | .handoffTimerExpire => Sys2Proof.Machine.execHandoffTimerExpire s
  | .hblk => Sys2Proof.Machine.execHblk s
  | .blockLanded => Sys2Proof.Machine.execBlockLanded s
  | .cack => Sys2Proof.Machine.execCack s
  | .hcancel => Sys2Proof.Machine.execHcancel s
  | .cmark => Sys2Proof.Machine.execCmark s
  | .cxack => Sys2Proof.Machine.execCxack s
  | .cxackSequencer => Sys2Proof.Machine.execCxackSequencer s
  | .srcdone => Sys2Proof.Machine.execSrcdone s
  | .cnote => Sys2Proof.Machine.execCnote s
  | .hfail => Sys2Proof.Machine.execHfail s
  | .hrej => Sys2Proof.Machine.execHrej s
  | .frefopAttach => Sys2Proof.Machine.execFrefopAttach s
  | .frefopRead => Sys2Proof.Machine.execFrefopRead s
  | .tkpost => Sys2Proof.Machine.execTkpost s
  | .predDecrement => Sys2Proof.Machine.execPredDecrement s
  | .ringDescriptorWrite => Sys2Proof.Machine.execRingDescriptorWrite s
  | .dispatchSelect => Sys2Proof.Machine.execDispatchSelect s
  | .contextSwap => Sys2Proof.Machine.execContextSwap s
  | .backgroundSpillDone => Sys2Proof.Machine.execBackgroundSpillDone s
  | .debugHaltTake => Sys2Proof.Machine.execDebugHaltTake s
  | .asyncRetire => Sys2Proof.Machine.execAsyncRetire s
  | .fqcmdResume => Sys2Proof.Machine.execFqcmdResume s
  | .fqcmdKill => Sys2Proof.Machine.execFqcmdKill s
  | .fqcmdComplete => Sys2Proof.Machine.execFqcmdComplete s
  | .faultQueueTimeout => Sys2Proof.Machine.execFaultQueueTimeout s
  | .tileTaskIssue => Sys2Proof.Machine.execTileTaskIssue s
  | .tileTaskComplete => Sys2Proof.Machine.execTileTaskComplete s
  | .bankPairSwap => Sys2Proof.Machine.execBankPairSwap s
  | .evalTableRetry => Sys2Proof.Machine.execEvalTableRetry s
  | .evalPostRetry => Sys2Proof.Machine.execEvalPostRetry s
  | .waiterTableRetry => Sys2Proof.Machine.execWaiterTableRetry s
  | .tagwaitRetry => Sys2Proof.Machine.execTagwaitRetry s
  | .engineEvalEnd => Sys2Proof.Machine.execEngineEvalEnd s
  | .stashConfigWrite => Sys2Proof.Machine.execStashConfigWrite s
  | .stmapdWrite => Sys2Proof.Machine.execStmapdWrite s
  | .illegalEncoding => Sys2Proof.Machine.execIllegalEncoding s
  | .poolPeerRequest => Sys2Proof.Machine.execPoolPeerRequest s

end Sys2Proof.Machine
end

