-- ==== Sys2Proof/Machine/Turn.lean ====
section
/-! DEFINITION. What a step of the module is: a step that the outside world or the module's timing brings (the agenda), a message that
has arrived, a step of the module's own, or the next word of an engine (R221, R254, R255). The order is the model's
(notes/assumptions/1.md); what each does is `exec`. -/

namespace Sys2Proof.Machine

/-- What a step comes to: an instruction to execute at a state, or an outcome that no instruction gives. -/
inductive Move where
  | row (i : Instr) (s : State)
  | ends (o : Host.Outcome State Fault Refusal)

/-- A word of text or of an epilogue program, which only an engine or an epilogue processor executes. -/
def isWord (i : Instr) : Bool := (encode i).isSome || (eCode i).isSome || i == .illegalEncoding

/-! ## Messages -/

/-- What the row of an arrived message reads. -/
def msgArgs (m : Msg) : Args :=
  let a : Args := { noArgs with msg := m.slot, n := m.slot.dst, k := m.slot.arg.toNat % 4096, data := m.data,
                                line := m.line.getD noLine }
  match m.row with
  | .bulkFlit => { a with k := m.slot.src, c := m.slot.arg.toNat, size := m.slot.len }
  | _ => a

/-- The site at which a message arrives. -/
def msgSite (m : Msg) : Nat :=
  match m.line with
  | some l => l.dst
  | none => m.slot.dst

/-! ## The module's own steps -/

/-- A step of the module with its arguments. -/
abbrev Own := Instr × Args

def ownOf (b : Bool) (i : Instr) (a : Args) : List Own := if b then [(i, a)] else []

/-- Homes of a range: they change at most every 64 KiB. -/
def segSites (g : Seg) : List Nat := (List.range ((g.len + 65535) / 65536 + 1)).map fun i => homeSite (g.pa + min (65536 * i) (g.len - 1))

/-- An operation is held up while its own die has tripped, or the way to a home of its ranges is held (R24, R48). -/
def opHeld (s : State) (o : Op) : Bool :=
  let n := siteOf o.core
  tripped s n || (o.src ++ o.dst).any fun g => (segSites g).any fun h =>
    tripped s h || (h != n && (pathRetrains s n h || pathRetrains s h n))

/-- Operations that can go on. -/
def opSteps (s : State) : List Own :=
  (s.ops.filter fun o => !opHeld s o).filterMap fun (o : Op) => match o.kind with
    | .copy | .gather | .fill | .decomp | .flush | .coll => some (.asyncRetire, { noArgs with n := o.id })
    | .eval => some (.engineEvalEnd, { noArgs with n := o.nums.getD 0 0, k := o.nums.getD 1 0 })
    | .tile | .handoff => none

/-- Tile queues, dispatcher, hand-off engine and layers of one die. -/
def dieSteps (s : State) (n : Nat) (d : Die) : List Own :=
  let at_ (i : Instr) : Own := (i, { noArgs with n := n })
  let tile (e : Nat × TileTask) : List Own :=
    let q := if isP n then 0 else e.1 / 16
    let c := if isP n then e.1 else e.1 % 16
    if e.2.kind = 2 then ownOf e.2.due .bankPairSwap { noArgs with n := n, k := tilePair e.2 }
    else if e.2.st = 1 then [(.tileTaskIssue, { noArgs with n := n, k := q })]
    else [(.tileTaskComplete, { noArgs with n := n, k := q, c := c })]
  let src (b : SrcBlock) : List Own :=
    let a : Args := { noArgs with n := n, c := b.bsn, val := b.stream.zeroExtend 64 }
    if b.st == .sending then [(.hblkSent, a)]
    else ownOf ((findEntry s n b.stream).isNone || ((b.st == .queued || b.due) && !sendingNow s n b.stream)) .handoffSend a
  let ready (e : Nat × Record) : Bool :=
    let st := recState s n e.2
    ((st == .eligible || st == .suspended) && mayRun s n e.2) || mayEnd s n e.1 e.2
  d.tiles.flatMap tile ++ d.srcs.flatMap src ++ (if d.records.any ready then [at_ .dispatchSelect] else []) ++
    (d.lpwr.filter (fun l => l.2.busy)).map (fun l => (.layerTransitionDone, { noArgs with n := n, k := l.1 })) ++
    (d.requests.filter (fun q => q.urgent && swapPoint s q.core)).map (fun q => (.contextSwap, { noArgs with n := q.core }))

/-- Hand-off images that are whole and have not landed. -/
def landSteps (s : State) : List Own :=
  s.bulks.filterMap fun (b : Bulk) => match b.block with
    | some (stream, bsn) =>
      if b.discard || b.data.length < b.count then none
      else some (.blockLanded, { noArgs with n := b.dst, k := bsn, val := stream.zeroExtend 64 })
    | none => none

/-- Steps of the cores: a requested debug halt, a background spill (R264). -/
def coreSteps (s : State) : List Own :=
  let spilling (c : Nat × Core) : Bool := match c.2.shadow with
    | some x => shadowSlot s c.1 x ≠ bankOnly
    | none => false
  (s.cores.filter spilling).map (fun c => (.backgroundSpillDone, { noArgs with n := c.1 })) ++
  (s.cores.filter (fun c => c.2.haltReq && swapPoint s c.1)).map fun c => (.debugHaltTake, { noArgs with n := c.1 })

def regionSteps (s : State) : List Own :=
  s.regions.flatMap fun r => ownOf (!r.2.held.isEmpty) .heldStartAdmit { noArgs with n := r.1 } ++
    ownOf (!r.2.staggered.isEmpty) .staggeredRegionStart { noArgs with n := r.1 }

/-- Accesses that found a table full try again. -/
def retrySteps (s : State) : List Own :=
  (s.waiters.filter (·.retry)).map fun (w : Waiter) => match w.on with
    | .tag a => (.tagwaitRetry, { noArgs with n := padCore a })
    | .flag a => match spaceOf a with
      | .pad c _ => (.tagwaitRetry, { noArgs with n := c })
      | _ => (.waiterTableRetry, { noArgs with n := homeSite a })
    | .cell l => (if waitsPost s (homeSite l) w then .evalPostRetry else .evalTableRetry, { noArgs with n := homeSite l })
    | .path a => (.waiterTableRetry, { noArgs with n := homeSite a })
    | .barrier a => (.waiterTableRetry, { noArgs with n := homeSite a })
    | .pin a => (.waiterTableRetry, { noArgs with n := homeSite a })
where
  padCore (a : Nat) : Nat := (a - padBase) / 0x8000

/-- Firmware and sequencer. -/
def fwSteps (s : State) : List Own :=
  let f := s.fw
  (match f.background with
    | some (.loadWeights _ _ _ _) => [(.loadWeightsDone, noArgs)]
    | some (.drain _) => ownOf f.streams.isEmpty .drainComplete noArgs
    | _ => []) ++
  ownOf (!f.queue.isEmpty && f.st != .minimal) .admission noArgs ++
  (f.reclaims.filter fun r => !f.streams.any fun e => worksAt s r.peer e.2).map
    (fun r => (.reclaimGraceExpire, { noArgs with n := r.peer.toNat, flag := true })) ++
  (f.streams.filter (fun e => e.2.st == .retiring && jobGone s e.2 true)).map
    (fun e => (.retirement, { noArgs with n := e.1 })) ++
  ownOf (timePast s (2 ^ 47) && !f.ltwarn) .ltimeWarn noArgs ++
  ownOf (timePast s (3 * 2 ^ 46) && f.st == .serving) .ltimeSelfDrain noArgs ++
  ownOf (timePast s (2 ^ 48 - 2 ^ 44) && !f.streams.isEmpty) .ltimeLimit noArgs

/-- A link owes credits, or an acknowledgement of what the other end still keeps. -/
def owes (s : State) (n e : Nat) (l : Link) : Bool :=
  (creditOut s n e).2 != 0 || match otherEnd n e with
    | some o => !(s.link o.1 o.2).buffer.isEmpty
    | none => l.owed.any (· != 0) && !proxiesFull s n

/-- Links that have reached a limit of their retry, and links that owe something and have nothing to send it with (R37, R46, R47). -/
def linkSteps (s : State) : List Own :=
  s.dies.flatMap fun d => d.2.links.flatMap fun l =>
    let a : Args := { noArgs with n := d.1, k := l.1 }
    if limitMet s d.1 l.1 then
      [if isPort l.1 then (.portRetrainStart, { noArgs with n := portOfEdge d.1 l.1 }) else (.retrainStart, a)]
    else ownOf (l.2.state == 2 && owes s d.1 l.1 l.2) .nullFlitSend a

/-- A step that a die takes: none where its clocks have stopped (R24). -/
def clocked (s : State) (e : Own) : Bool := !tripped s e.2.n

/-- Everything the module could do by itself now. -/
def ownSteps (s : State) : List Own :=
  opSteps s ++ s.dies.flatMap (fun d => if tripped s d.1 then [] else dieSteps s d.1 d.2) ++ (landSteps s).filter (clocked s) ++
    (coreSteps s).filter (fun e => !tripped s (siteOf e.2.n)) ++
    (regionSteps s).filter (fun e => !s.dies.any fun d => d.2.thTrip && d.1 < 64 && regionOf d.1 == e.2.n) ++ retrySteps s ++
    (if tripped s 64 then [] else fwSteps s) ++
    (linkSteps s).filter (fun e => e.1 == .portRetrainStart || clocked s e)

/-- The module's own step that comes next: a flit that arrives, else one of those it could do, in rotation. -/
def ownMove (s : State) : Option Move :=
  match s.wires.find? (fun w => w.site < outside && !tripped s w.site) with
  | some w =>
    some (.row .flitReceive { s with wires := s.wires.erase w, arg := { noArgs with n := w.site, k := w.edge, data := w.bytes } })
  | none =>
    let es := ownSteps s
    match es[s.beat % es.length]? with
    | some e => some (.row e.1 { s with arg := e.2, beat := s.beat + 1 })
    | none => none

/-! ## Engines -/

/-- A core past the last: the turn after the module's own step. -/
def noCore : Nat := 69632

/-- T may go on behind an access that is not answered: 64 words at most are issued and not committed (R254). -/
def mayGoOn (k : Core) (e : Eng) : Bool :=
  match e, k.ahead with
  | .t, some a => !a.due && decide (a.words < 63)
  | _, _ => false

/-- The engine may have a turn: its core runs, and it is neither halted nor waiting; in a trap only T goes on (R259, R260). -/
def engineReady (s : State) (n : Nat) (k : Core) (e : Eng) : Bool :=
  k.running && (if k.parkPending.isSome then e == .t
    else !(k.ctx.eng e).halted && (!k.intrap || e == .t) && !k.inHalt && (!engineWaits s n e || mayGoOn k e))

/-- A T word whose effect lies in the core's context alone, so that T may execute it behind an access that is not answered
(notes/assumptions/18.md); of accesses it makes plain loads at most. -/
def aheadWord (i : Instr) : Bool :=
  (foot i).isSome || match i with
    | .lix _ | .pand _ | .por _ | .pxor _ | .pnot _ | .pwhile _ | .pcnt _ | .pfirst _ | .rstate _ | .rempty _ | .sstat _ | .getid _
    | .csrr _ | .rotcfg _ | .rotset _ | .b _ | .call _ | .jr _ | .beq _ | .bne _ | .blt _ | .bge _ | .bltu _ | .bgeu _ | .bp _ => true
    | _ => false

/-- T is behind an unanswered access, and a word is not one that it may execute there. -/
def heldBack (s : State) (i : Instr) : Bool := s.eng == .t && (s.core s.turn).ahead.isSome && !aheadWord i

/-- Engines that may have a turn, in order; the clocks of a tripped region are stopped (R24). -/
def readyEngines (s : State) : List (Nat × Eng) :=
  s.cores.flatMap fun c => [Eng.t, .m, .c].filterMap fun e =>
    if engineReady s c.1 c.2 e && !tripped s (siteOf c.1) then some (c.1, e) else none

/-- Comes after the last turn. -/
def turnAfter (s : State) (x : Nat × Eng) : Bool :=
  decide (s.turn < x.1) || (x.1 == s.turn && decide (engCode s.eng < engCode x.2))

/-- The state in which an engine executes a word of `n` parcels at its address: its text has been fetched, but for a displaced word
(R269). -/
def wordFetched (s : State) (e : Eng) (n : Nat) : State :=
  if (displacedAt (s.core s.turn) e).isSome then s else fetched s e n

/-- The turn of an engine: the engine and the core stand in `eng` and `turn`. -/
def engineMove (s : State) : Move :=
  let e := s.eng
  let k := s.core s.turn
  match k.parkPending with
  | some c => .ends (parkStep s.turn 0x40 k.taddr (c.zeroExtend 64) s)
  | none =>
    if k.intrap && e == .t && k.ctx.t.pc.toNat == tvec (siteOf s.turn) then .ends (supervisorAction s)
    else match found s e with
      | .fault x va => .ends (fetchFault s e x va)
      | .pass n => .ends (.next (passOver s e n))
      | .word ps =>
        match decode ps with
        | .ok i => if heldBack s i then .ends (.next (noteStall s)) else .row i (wordFetched s e ps.length)
        | .error _ => .row .illegalEncoding (wordFetched s e ps.length)

/-- An engine's turn, or the module's own step when every engine has had one. -/
def moduleMove (s : State) : Move :=
  let es := readyEngines s
  let run (x : Nat × Eng) : Move := engineMove { s with turn := x.1, eng := x.2 }
  let own (s : State) : Option Move := ownMove { s with turn := noCore, eng := .t }
  match es.find? (turnAfter s) with
  | some x => run x
  | none =>
    match (if s.turn = noCore && !es.isEmpty then none else own s), es.head? with
    | some m, _ => m
    | none, some x => run x
    | none, none => .ends (.next (noteStall s))

/-- An E-op of the epilogue run in progress (R440, R441). -/
def epiMove (s : State) (at_ : Nat) : Move :=
  match s.epi.prog[at_]? with
  | some p =>
    match decodeEop p with
    | .ok i => .row i s
    | .error _ => .row .illegalEncoding s
  | none => .row .illegalEncoding s

/-- The reset that RESET_MODULE has begun: nothing else happens before it (R83). The outside decides what its start finds, and
whether a stage overruns. -/
def resetMove (s : State) : Move :=
  match s.agenda with
  | (.moduleReset, a) :: r => .row .moduleReset { s with agenda := r, arg := a }
  | (.stageOverrun, a) :: r => .row .stageOverrun { s with agenda := r, arg := a }
  | (.inputPowerRemoved, a) :: r => .row .inputPowerRemoved { s with agenda := r, arg := a }
  | _ => .row .moduleReset s

/-- A reset waits to happen. -/
def resetPending (s : State) : Bool :=
  match s.fw.background with
  | some (.reset _) => true
  | _ => false

/-- Rows that the firmware or the host port serves, both on E-die N: the host window, the mailbox, the sideband, the pool's peers. -/
def isHostRow (i : Instr) : Bool :=
  match i with
  | .hostMemRead | .hostMemWrite | .submit | .slotFree | .slotStateUndo | .cancelWord | .evheadWrite | .msixUnmask
  | .identify | .status | .attest | .bootlog | .updateConfig | .setPlan | .loadText | .loadWeights | .mapRegion | .unmap
  | .openSpace | .closeSpace | .setTier | .cancel | .drain | .queryStream | .lend | .borrow | .reclaim | .reclaimAnswer
  | .reclaimGraceExpire | .debugHalt | .debugResume | .debugRead | .debugWrite | .debugBreak | .resetModule | .thermalRead
  | .thermalSet | .powerCap | .spdmRequest | .poolPeerRequest => true
  | _ => false

/-- What a step comes to. E-die N serves nobody while its clocks have stopped (R24). -/
def nextMove (s : State) : Move :=
  if resetPending s then resetMove s else
  match s.agenda, s.msgs with
  | (i, a) :: r, _ =>
    let s := { s with agenda := r }
    if !argsOk i a || isWord i then .ends (.fault .noSuchPlace)
    else if isHostRow i && tripped s 64 then .ends (.next (mediaErrors s a.flaws))
    else .row i (mediaErrors { s with arg := a } a.flaws)
  | [], m :: r =>
    let s := { s with msgs := r }
    if tripped s (msgSite m) then .ends (.next s) else .row m.row { s with arg := msgArgs m }
  | [], [] =>
    if !s.fw.started then .row .powerUp s
    else if s.fw.retryReset then .row .startRetryReset s
    else match s.epi.at_ with
      | some k => epiMove s k
      | none => moduleMove s

/-- Every core's logical time goes on by a tick (R207). -/
def tickAll (s : State) : State :=
  { s with idleTick := s.idleTick + 1, cores := s.cores.map fun c => (c.1, { c.2 with tick := c.2.tick + 1 }) }

/-- Requests whose head has left ELIGIBLE, or whose victim has turned idle, are withdrawn (R141, R142). -/
def dropRequests (s : State) : State :=
  dropPrepared (if s.dies.any (fun d => !d.2.requests.isEmpty) then s.dies.foldl (fun s d => dropStale s d.1) s else s)

/-- Every step takes one clock edge (notes/assumptions/15.md), every 64th brings a tick (R207). -/
def tickCycle (s : State) : State :=
  let s := dropRequests { s with cycle := s.cycle + 1 }
  if s.cycle.toNat % 64 = 0 then tickAll s else s

/-! ## Placing an instruction -/

/-- Physical addresses of the page tables and the text that `placeWord` lays out. -/
def placeRoot : Nat := 0x10000

def placeText : Nat := 0x50000

/-- Virtual address of the placed word: near the end of its page, so that a search of the text behind it is short. -/
def placeAt : Nat := 0xFFE0

/-- Stores bytes as they stand in DRAM, whatever sleeps there. -/
def placeBytes (s : State) (a : Nat) (bs : List Byte) : State :=
  { s with mem := (bs.zip (List.range bs.length)).foldl (fun m x => cellSet 0 m (a + x.2) x.1) s.mem,
           poison := cellSet false s.poison (lineOf a) false }

/-- The engine that executes a word of a tag: T for an A-word, which no other engine then meets. -/
def engOfTag (g : Tag) : Eng :=
  match g with
  | .m => .m
  | .c => .c
  | _ => .t

/-- The machine with a program of one word placed from outside: a space with one page of text, and core 0 running at it on the
engine of the word's tag (notes/assumptions/2.md). -/
def placeWord (s : State) (ps : List Parcel) : State :=
  let asid := (s.core 0).ctx.asid.toNat
  let s := { s with agenda := [], msgs := [], turn := noCore, epi := { s.epi with at_ := none },
                    waiters := s.waiters.filter (fun w => !(w.who == .core 0 .t || w.who == .core 0 .m || w.who == .core 0 .c)),
                    requests := s.requests.filter (fun r => r.core != 0),
                    fw := { s.fw with started := true, retryReset := false, roots := mapSet s.fw.roots asid placeRoot,
                                      background := match s.fw.background with
                                        | some (.reset _) => none
                                        | b => b } }
  let s := placeBytes s placeRoot (leBytes 8 0x20001)
  let s := placeBytes s 0x20000 (leBytes 8 0x30001)
  let s := placeBytes s 0x30000 (leBytes 8 0x40001)
  let s := placeBytes s 0x40000 (leBytes 8 (placeText + 0x1B))
  let s := placeBytes s (placeText + placeAt) (ps.flatMap parcelBytes)
  let s := s.modDie 0 fun d => { d with tlb := [] }
  let e := engOfTag (tagOf (ps.headD 0))
  s.modCore 0 fun k =>
    let x := k.ctx
    let stop (g : EngCtx) : EngCtx := { g with halted := true, atMeet := false }
    let x := { x with t := stop x.t, m := stop x.m, c := stop x.c }
    { k with running := true, ahead := none, tlb := [], text := [], bufs := [], intrap := false, inHalt := false, parkPending := none, subst := none,
             ctx := x.setEng e { x.eng e with pc := BitVec.ofNat 56 placeAt, halted := false, skip := 0 } }

/-- The machine with an epilogue program of one E-op in progress. -/
def placeEop (s : State) (p : Parcel) : State :=
  { s with agenda := [], msgs := [], epi := { s.epi with at_ := some 0, prog := [p] },
           fw := { s.fw with started := true, retryReset := false, background := match s.fw.background with
             | some (.reset _) => none
             | b => b } }

end Sys2Proof.Machine
end

