-- ==== Sys2Proof/Machine/Step.lean ====
section
/-! DEFINITION. One step of the module, and the module with an instruction placed where its next step fetches. -/

namespace Sys2Proof.Machine

/-- One step: what `nextMove` comes to, one clock edge later. -/
def step (s : State) : Host.Outcome State Fault Refusal :=
  match nextMove (tickCycle s) with
  | .row i s => exec i s
  | .ends o => o

/-- The state with the instruction of a table word stored where the next step fetches. -/
def State.withFetchWord (s : State) (nbits w : Nat) : State :=
  if tableIsEop nbits w then placeEop s (BitVec.ofNat 16 w) else placeWord s (tableParcels nbits w)

end Sys2Proof.Machine
end

