-- ==== Sys2Proof/Safety.lean ====
section
/-! DEFINITION. The terms in which statements are made: what a safe run is, a state whose waiting accesses have been served, a word
that has retired, and operands that are ready (R234, R235, R254). -/

namespace Sys2Proof.Machine

/-! ## Safe runs -/

/-- Every step that the outside world brings names a place that exists, and none is a word of text. -/
def State.agendaOk (s : State) : Bool := s.agenda.all fun e => argsOk e.1 e.2 && !isWord e.1

/-- A step answers a next state: the machine has neither faulted nor refused. -/
def Safe (s : State) : Prop := ∃ t, step s = .next t

/-! ## Memory -/

/-- Every list of bytes, tags and marks is in its canonical form: numbers strictly rising, no entry equal to what an unlisted number
reads as. -/
def Memory.wf (s : State) : Bool :=
  cellsWf 0 s.mem && cellsWf 0 s.hostMem && cellsWf 1 s.tags && cellsWf 0 s.cellTags && cellsWf false s.poison

/-! ## Words that end -/

/-- The state after a branch of engine `e` to a target: as after any word, with the engine at the target. -/
def State.branched (s : State) (e : Eng) (parcels : Nat) (target : TextAddr) : State :=
  let t := s.retired e parcels
  t.setCtx (t.ctx.setEng e { t.ctx.eng e with pc := target })

/-! ## Operands -/

/-- A scalar register that a reader gets at once (R234). -/
def Ctx.xReady (c : Ctx) (n : Nat) : Bool := (c.regX n).fill == .full

/-- A register that a writer may write at once: no producer is pending, and no DROPPED target's slot pins it (R235, R250). -/
def Ctx.writable (c : Ctx) (k : Kind) (r : Nat) : Bool :=
  !c.pending k r && !c.recipes.any (fun e => e.2.pins.contains (k, r) && c.fill e.2.kind e.2.target == .dropped)

/-- A scalar destination that may be written at once; x0 discards what is written (Table 11-6). -/
def Ctx.xWritable (c : Ctx) (n : Nat) : Bool := n == 0 || c.writable .x n

/-- A predicate that a reader gets at once: a live transient's, or the file's (R234, R243). -/
def Ctx.pReady (c : Ctx) (n : Nat) : Bool := (c.liveAt .p (rotP c n)).isSome || (c.regP (rotP c n)).fill == .full

/-- Its value. -/
def Ctx.pVal (c : Ctx) (n : Nat) : Pred :=
  match c.liveAt .p (rotP c n) with
  | some t => t.val.truncate 64
  | none => (c.regP (rotP c n)).val

/-- A width group named by registers that a reader gets at once: every member is allotted, and live or FULL. -/
def Ctx.vReady (c : Ctx) (n g : Nat) : Bool :=
  decide (n < 240) && (members c n g).all fun r => decide (r < c.vallot) && ((c.liveAt .v r).isSome || (c.regV r).fill == .full)

/-- Its bytes as a number, little-endian. -/
def Ctx.vVal (c : Ctx) (n g : Nat) : Nat := leNat (c.liveGroup (members c n g))

/-- A width group named by registers, all of them allotted. -/
def Ctx.vAllotted (c : Ctx) (n g : Nat) : Bool := decide (n < 240) && (members c n g).all fun r => decide (r < c.vallot)

/-- A vector destination that may be written at once: a transient, or registers none of which waits for a producer or is pinned by a
DROPPED target's slot. No member is DROPPED itself, so that its old bytes are at hand. -/
def Ctx.vWritable (c : Ctx) (n g : Nat) (dt : Bool) : Bool :=
  c.vAllotted n g && (members c n g).all fun r => (c.regV r).fill != .dropped && (dt || c.writable .v r)

/-- A predicate destination that may be written at once; p0 discards what is written. -/
def Ctx.pWritable (c : Ctx) (n : Nat) (dt : Bool) : Bool := rotP c n == 0 || dt || c.writable .p (rotP c n)

/-- The context with a flag result ORed into FLAGS (R322). -/
def Ctx.raise (c : Ctx) (f : BitVec 7) : Ctx := { c with flags := c.flags ||| f }

/-- The state after a T word of `parcels` parcels that leaves the context `c`, once waiting accesses have been served. -/
def State.wordDone (s : State) (parcels : Nat) (c : Ctx) : State := ((s.setCtx c).retired .t parcels).settled

/-- The state after an S-form word has written a result with flags (R322). -/
def State.aluDone (s : State) (d : BitVec 6) (r : Alu) : State := s.wordDone 2 ((s.ctx.putX d.toNat r.1).raise r.2)

/-- The context with every transient window closed (R244). -/
def Ctx.closed (c : Ctx) : Ctx := { c with window := [] }

/-- The state after a T branch of `parcels` parcels that leaves the context `c` and goes to `t` (R338). -/
def State.jumpDone (s : State) (parcels : Nat) (c : Ctx) (t : Word) : State :=
  ((s.setCtx c).branched .t parcels (t.truncate 56)).settled

/-- The context with a transient noted; it replaces an earlier one of the same register (R243). -/
def Ctx.note (c : Ctx) (k : Kind) (r : Nat) (v : Vec) : Ctx :=
  { c with window := c.window.map (fun t => if t.kind == k && t.reg == r then { t with live := false } else t) ++
      [{ kind := k, reg := r, val := v, left := 4, pc := c.t.pc, srctr := c.srctr }] }

/-- The context after a vector word has written a result to its destination group: the bits that it does not write keep their old
values (R363, R364); a transient where `dt`. -/
def Ctx.putRes (c : Ctx) (n g : Nat) (dt : Bool) (r : VRes) : Ctx :=
  let o := c.vVal n g
  let bs := leBytes (64 * g) (if r.mask = allBits g then r.val else Nat.lor (o - Nat.land o r.mask) r.val)
  (if dt then c.note .v (rotV c n) (vecOf bs) else c.putGroup (members c n g) bs).raise r.flags

/-- The context after a predicate word has written its result. -/
def Ctx.putPred (c : Ctx) (n : Nat) (dt : Bool) (v : Pred) : Ctx :=
  let r := rotP c n
  if r = 0 then c else if dt then c.note .p r (v.zeroExtend 512) else c.putP r v

/-! ## Accesses -/

/-- What a part of a word gives where it neither traps nor waits: its value and the state after it. -/
def got {α : Type} (m : M α) (s : State) : Option (α × State) :=
  match m s with
  | .ok a t => some (a, t)
  | .error _ _ => none

/-- An aligned access of `n` bytes at an address: placing it, then making it (R392). -/
def reach (parcels : Nat) (va : Word) (n code : Nat) (mk : Piece → Access) (d : Dest) : M (List Byte) := do
  let p ← placeAligned va n n code
  tAccess parcels (mk p) d

/-- The number that the low `n` bytes of a result stand for in a scalar register (Table 17-3). -/
def wordOf (n : Nat) (signed : Bool) (bs : List Byte) : Word :=
  if signed then BitVec.ofInt 64 (sext (8 * n) (leNat bs)) else BitVec.ofNat 64 (leNat bs)

/-! ## Rounding -/

/-- The rounding mode code that a word runs under: DYN takes RMODE (R279). -/
def Ctx.modeOf (c : Ctx) (f : VForm) : Nat := if f.mode = 6 then c.rmode.toNat else f.mode.toNat

/-- The rounding of a word (R279, R281). -/
def Ctx.roundingOf (c : Ctx) (f : VForm) : Rounding := ⟨c.modeOf f, f.sat, c.srseed, c.srctr⟩

/-- The generator after a word of `n` positions that rounded under mode `m` (R282). -/
def Ctx.drew (c : Ctx) (m n : Nat) : Ctx := if m = 5 then { c with srctr := c.srctr + BitVec.ofNat 64 n } else c

/-! ## Vector words -/

/-- The operands of a vector word are at hand: a, b and d where it reads them, its governing predicate, its destination (R364). -/
def Ctx.vecReady (c : Ctx) (f : VForm) (useA useB useD : Bool) : Bool :=
  (!useA || c.vReady f.a.toNat (width f.aw)) && (!useB || c.vReady f.b.toNat (width f.bw)) &&
    (!useD || c.vReady f.d.toNat (width f.dw)) && c.pReady f.pg.toNat && c.vWritable f.d.toNat (width f.dw) (f.dt == 1)

/-- The values of a, b, d and of the governing predicate. -/
def Ctx.opA (c : Ctx) (f : VForm) : Nat := c.vVal f.a.toNat (width f.aw)
def Ctx.opB (c : Ctx) (f : VForm) : Nat := c.vVal f.b.toNat (width f.bw)
def Ctx.opD (c : Ctx) (f : VForm) : Nat := c.vVal f.d.toNat (width f.dw)
def Ctx.opPg (c : Ctx) (f : VForm) : Pred := c.pVal f.pg.toNat

/-- The state after a vector word that rounds nothing. -/
def State.vecMoved (s : State) (f : VForm) (r : VRes) : State :=
  s.wordDone 4 (s.ctx.putRes f.d.toNat (width f.dw) (f.dt == 1) r)

/-- The state after a vector word of `n` positions that rounds (R282). -/
def State.vecDone (s : State) (f : VForm) (r : VRes) (n : Nat) : State :=
  s.wordDone 4 ((s.ctx.putRes f.d.toNat (width f.dw) (f.dt == 1) r).drew (s.ctx.modeOf f) n)

/-- The state after a word that writes a predicate. -/
def State.predDone (s : State) (f : VForm) (v : Pred) : State := s.wordDone 4 (s.ctx.putPred f.d.toNat (f.dt == 1) v)

/-! ## Engine words -/

/-- The context of an M or C word that ends a literal run (R308). -/
def Ctx.noLit (c : Ctx) (e : Eng) : Ctx := c.setEng e { c.eng e with litRun := 0 }

/-- The state after a word of engine `e` of one parcel that leaves the engine's part `g` of the context. -/
def State.engDone (s : State) (e : Eng) (g : EngCtx) : State := ((s.setCtx (s.ctx.setEng e g)).retired e 1).settled

/-- A state whose engine `e` has used up `n` parameters. -/
def State.used (s : State) (e : Eng) (n : Nat) : State :=
  s.setCtx (s.ctx.setEng e { s.ctx.eng e with params := (s.ctx.eng e).params.drop n })

/-! ## A-words -/

/-- An engine may execute its next A-word: within the slip bound, and with the address that another engine logged (R225, R226). -/
def Ctx.mayA (c : Ctx) (e : Eng) : Bool :=
  !slipHolds c e && match logAt c ((c.eng e).acount + 1) with
    | some a => a.addr == (c.eng e).pc
    | none => true

/-- The outcome that T has logged for an engine's next A-word, if it has. -/
def Ctx.logged (c : Ctx) (e : Eng) : Option (Bool × Word) := (logAt c ((c.eng e).acount + 1)).bind (·.outcome)

/-- The context as an A-word finds it: T's windows closed, the literal run and the skip ended. -/
def Ctx.atA (c : Ctx) (e : Eng) : Ctx :=
  let c := if e == .t then c.closed else c
  c.setEng e { c.eng e with litRun := 0, skip := 0 }

/-- The context with an A-word's position in the log, and with its outcome where it decides (R223, R224). -/
def Ctx.entered (c : Ctx) (e : Eng) (o : Option (Bool × Word)) : Ctx :=
  let c := c.atA e
  let g := c.eng e
  match o with
  | none => if (logAt c (g.acount + 1)).isNone then logPut c ⟨g.acount + 1, g.pc, none⟩ else c
  | some o => if (c.logged e).isNone then logPut c ⟨g.acount + 1, g.pc, some o⟩ else c

/-- The context after an A-word: the engine's A-count, and the log without what every active engine has passed. -/
def Ctx.left (c : Ctx) (e : Eng) : Ctx := trimLog (c.setEng e { c.eng e with acount := (c.eng e).acount + 1 })

/-- The state after an A-word of engine `s.eng` that leaves the context `c`, and goes on or to a target. -/
def State.aDone (s : State) (parcels : Nat) (c : Ctx) : State := ((s.setCtx (c.left s.eng)).retired s.eng parcels).settled
def State.aJump (s : State) (parcels : Nat) (c : Ctx) (t : Word) : State :=
  ((s.setCtx (c.left s.eng)).branched s.eng parcels (t.truncate 56)).settled

/-- Substitutions disarm for every active engine of the core (R269). -/
def State.disarmed (s : State) (c : Ctx) : State :=
  (activeEngs c).foldl (fun (s : State) e => s.modCore s.turn fun k => k.disarm e (c.eng e).pc) s

end Sys2Proof.Machine
end

