-- ==== Sys2Proof/Certificates/Slice0/Obligations.lean ====
section
/-! DEFINITION. The statements about the model. Each says which rules of spec/ it formalises; where one rests on a choice of the
model, its docstring names the log entry. -/

open Sys2Proof Sys2Proof.Machine

/-- R322: sources are read, the result is written to xd and the flags are ORed into FLAGS when the word commits. `aluDone` is the
state after a retired word whose context has the result (`putX` discards a write to x0); what the values are is
`IntegerResultsFollowTheTables`. -/
def Obligations.IntegerWordsWriteTheirResult : Prop :=
  ∀ (f : AForm) (s : State), s.ctx.xReady f.xa.toNat = true → s.ctx.xWritable f.xd.toNat = true →
    let a := (s.ctx.regX f.xa.toNat).val
    let b := (s.ctx.regX f.xb.toNat).val
    let d := (s.ctx.regX f.xd.toNat).val
    exec (.bits f) s = .next (s.aluDone f.xd (bitsOp f.fn a)) ∧
    (s.ctx.xReady f.xb.toNat = true →
      exec (.add f) s = .next (s.aluDone f.xd (addOp f.fn a b)) ∧
      exec (.sub f) s = .next (s.aluDone f.xd (subOp f.fn a b)) ∧
      exec (.and f) s = .next (s.aluDone f.xd (if f.fn = 1 then a &&& ~~~b else a &&& b, 0)) ∧
      exec (.or f) s = .next (s.aluDone f.xd (if f.fn = 1 then a ||| ~~~b else a ||| b, 0)) ∧
      exec (.xor f) s = .next (s.aluDone f.xd (if f.fn = 1 then a ^^^ ~~~b else a ^^^ b, 0)) ∧
      exec (.shl f) s = .next (s.aluDone f.xd (a <<< (b.toNat % 64), 0)) ∧
      exec (.shr f) s = .next (s.aluDone f.xd (shrOp f.fn a b)) ∧
      exec (.mul f) s = .next (s.aluDone f.xd (mulOp f.fn a b)) ∧
      exec (.div f) s = .next (s.aluDone f.xd (divOp f.fn a b)) ∧
      exec (.rem f) s = .next (s.aluDone f.xd (remOp f.fn a b)) ∧
      exec (.min f) s = .next (s.aluDone f.xd (minOp f.fn a b)) ∧
      exec (.max f) s = .next (s.aluDone f.xd (maxOp f.fn a b)) ∧
      exec (.cset f) s = .next (s.aluDone f.xd (csetOp f.fn a b)) ∧
      (f.fn ≠ 2 ∨ s.ctx.xReady f.xd.toNat = true →
        exec (.field f) s = .next (s.aluDone f.xd (fieldOp f.fn a b (if f.fn = 2 then d else 0)))) ∧
      (s.ctx.xReady f.xd.toNat = true → exec (.sel f) s = .next (s.aluDone f.xd (if d ≠ 0 then a else b, 0))))

/-- R331, R332, and CSETI of R328. -/
def Obligations.ImmediateWordsWriteTheirResult : Prop :=
  (∀ (f : BForm) (s : State), s.ctx.xReady f.xa.toNat = true → s.ctx.xWritable f.xd.toNat = true →
    let a := (s.ctx.regX f.xa.toNat).val
    let i : Word := f.imm.signExtend 64
    exec (.addi f) s = .next (s.aluDone f.xd (a + i, if a.saddOverflow i then fIOV else 0)) ∧
    exec (.andi f) s = .next (s.aluDone f.xd (a &&& i, 0)) ∧
    exec (.ori f) s = .next (s.aluDone f.xd (a ||| i, 0)) ∧
    exec (.xori f) s = .next (s.aluDone f.xd (a ^^^ i, 0)) ∧
    exec (.shli f) s = .next (s.aluDone f.xd (a <<< f.imm.toNat, 0)) ∧
    exec (.shri f) s = .next (s.aluDone f.xd (a >>> f.imm.toNat, 0)) ∧
    exec (.shai f) s = .next (s.aluDone f.xd (a.sshiftRight f.imm.toNat, 0)) ∧
    exec (.cseti f) s = .next (s.aluDone f.xd (if a.slt i then 1 else 0, 0)) ∧
    ((Instr.shli f).wf = true → f.imm.toNat < 64) ∧ ((Instr.shri f).wf = true → f.imm.toNat < 64) ∧
    ((Instr.shai f).wf = true → f.imm.toNat < 64)) ∧
  (∀ (f : IForm) (s : State), s.ctx.xWritable f.xd.toNat = true → (f.h = 0 ∨ s.ctx.xReady f.xd.toNat = true) →
    exec (.lix f) s = .next (s.wordDone 4 (s.ctx.closed.putX f.xd.toNat
      (if f.h = 1 then f.imm ++ (s.ctx.regX f.xd.toNat).val.extractLsb' 0 32 else f.imm.signExtend 64))))

/-- The tables of R324 to R329, each result in terms of bit vectors and integers. -/
def Obligations.IntegerResultsFollowTheTables : Prop :=
  ∀ a b d : Word,
    -- ADD and SUB (R324)
    addOp 0 a b = (a + b, if a.saddOverflow b then fIOV else 0) ∧
    (addOp 1 a b).1.toInt = max (-(2 ^ 63)) (min (2 ^ 63 - 1) (a.toInt + b.toInt)) ∧
    (addOp 1 a b).2 = (if a.saddOverflow b then fSAT else 0) ∧
    (addOp 2 a b).1.toNat = min (2 ^ 64 - 1) (a.toNat + b.toNat) ∧
    (addOp 2 a b).2 = (if 2 ^ 64 ≤ a.toNat + b.toNat then fSAT else 0) ∧
    subOp 0 a b = (a - b, if a.ssubOverflow b then fIOV else 0) ∧
    (subOp 1 a b).1.toInt = max (-(2 ^ 63)) (min (2 ^ 63 - 1) (a.toInt - b.toInt)) ∧
    (subOp 1 a b).2 = (if a.ssubOverflow b then fSAT else 0) ∧
    (subOp 2 a b).1.toNat = a.toNat - b.toNat ∧
    (subOp 2 a b).2 = (if a.toNat < b.toNat then fSAT else 0) ∧
    -- SHR (R325)
    shrOp 0 a b = (a >>> (b.toNat % 64), 0) ∧ shrOp 1 a b = (a.sshiftRight (b.toNat % 64), 0) ∧
    shrOp 2 a b = (a.rotateRight (b.toNat % 64), 0) ∧
    -- MUL (R326)
    (mulOp 0 a b).1 = a * b ∧
    (mulOp 0 a b).2 = (if a.toInt * b.toInt < -(2 ^ 63) ∨ 2 ^ 63 - 1 < a.toInt * b.toInt then fIOV else 0) ∧
    mulOp 1 a b = (BitVec.ofInt 64 (a.toInt * b.toInt / 2 ^ 64), 0) ∧
    mulOp 2 a b = (BitVec.ofNat 64 (a.toNat * b.toNat / 2 ^ 64), 0) ∧
    mulOp 3 a b = (BitVec.ofInt 64 (a.toInt * (b.toNat : Int) / 2 ^ 64), 0) ∧
    -- DIV and REM (R327)
    (∀ fn, divOp fn a 0 = (0xFFFFFFFFFFFFFFFF, fDZ) ∧ remOp fn a 0 = (a, fDZ)) ∧
    divOp 0 0x8000000000000000 (-1) = (0x8000000000000000, fIOV) ∧ remOp 0 0x8000000000000000 (-1) = (0, 0) ∧
    (b ≠ 0 → ¬(a = 0x8000000000000000 ∧ b = -1) →
      (divOp 0 a b).1.toInt = a.toInt.tdiv b.toInt ∧ (divOp 0 a b).2 = 0 ∧
      (remOp 0 a b).1.toInt = a.toInt - b.toInt * a.toInt.tdiv b.toInt ∧ (remOp 0 a b).2 = 0) ∧
    (b ≠ 0 → divOp 1 a b = (a / b, 0) ∧ remOp 1 a b = (a % b, 0)) ∧
    -- MIN, MAX, CSET, BITS (R328)
    (minOp 0 a b).1.toInt = min a.toInt b.toInt ∧ (maxOp 0 a b).1.toInt = max a.toInt b.toInt ∧
    (minOp 1 a b).1.toNat = min a.toNat b.toNat ∧ (maxOp 1 a b).1.toNat = max a.toNat b.toNat ∧
    (∀ fn, (minOp fn a b).2 = 0 ∧ (maxOp fn a b).2 = 0) ∧
    csetOp 0 a b = (if a.slt b then 1 else 0, 0) ∧ csetOp 1 a b = (if a.ult b then 1 else 0, 0) ∧
    csetOp 2 a b = (if a = b then 1 else 0, 0) ∧ csetOp 3 a b = (if a ≠ b then 1 else 0, 0) ∧
    bitsOp 0 0 = (64, 0) ∧ bitsOp 1 0 = (64, 0) ∧
    (a ≠ 0 → 2 ^ (63 - (bitsOp 0 a).1.toNat) ≤ a.toNat ∧ a.toNat < 2 ^ (64 - (bitsOp 0 a).1.toNat)) ∧
    (a ≠ 0 → a.toNat % 2 ^ (bitsOp 1 a).1.toNat = 0 ∧ a.toNat / 2 ^ (bitsOp 1 a).1.toNat % 2 = 1) ∧
    (bitsOp 2 a).1.toNat = ((List.range 64).filter (a.getLsbD ·)).length ∧
    (∀ i, i < 8 → (bitsOp 3 a).1.extractLsb' (8 * i) 8 = a.extractLsb' (56 - 8 * i) 8) ∧
    -- FIELD (R329)
    (let pos := b.toNat % 64
     let len := min (b.toNat / 256 % 128) (64 - pos)
     (fieldOp 0 a b d).1.toNat = a.toNat / 2 ^ pos % 2 ^ len ∧
     (∀ i, i < 64 → (fieldOp 1 a b d).1.getLsbD i = (decide (0 < len) && a.getLsbD (pos + min i (len - 1)))) ∧
     (∀ i, i < 64 → (fieldOp 2 a b d).1.getLsbD i = if pos ≤ i ∧ i < pos + len then a.getLsbD (i - pos) else d.getLsbD i) ∧
     (∀ fn, (fieldOp fn a b d).2 = 0))

/-- R234: an EMPTY source traps with cause 0x07 where the field's trap bit is set, and blocks where it is not; an UNALLOTTED one is an
illegal register (R229). -/
def Obligations.EmptyOperandTrapsOrWaits : Prop :=
  (∀ (f : AForm) (s : State),
    let pc : Word := s.ctx.t.pc.zeroExtend 64
    let s0 := s.setCtx s.ctx.closed
    let two := [Instr.add f, .sub f, .and f, .or f, .xor f, .shl f, .shr f, .mul f, .div f, .rem f, .min f, .max f, .cset f, .field f,
      .sel f]
    ((s.ctx.regX f.xa.toNat).fill = .empty →
      let info := BitVec.ofNat 64 (f.xa.toNat * 2 ^ 48)
      (f.ba = 1 → s.awaits .t = false →
        (∀ i ∈ Instr.bits f :: two, exec i s = .next (s.trapped s 0 0x07 pc info).settled) ∧
        (∀ i ∈ [Instr.xput f, .xtake f], exec i s = .next (s0.trapped s0 0 0x07 pc info).settled)) ∧
      (f.ba = 0 → (∀ i ∈ Instr.bits f :: two, exec i s = .next { s with stalls := s.stalls + 1 }) ∧
        (∀ i ∈ [Instr.xput f, .xtake f], exec i s = .next { s0 with stalls := s.stalls + 1 }))) ∧
    (s.ctx.xReady f.xa.toNat = true → (s.ctx.regX f.xb.toNat).fill = .empty → ∀ i ∈ two,
      (f.bb = 1 → s.awaits .t = false →
        exec i s = .next (s.trapped s 0 0x07 pc (BitVec.ofNat 64 (f.xb.toNat * 2 ^ 48))).settled) ∧
      (f.bb = 0 → exec i s = .next { s with stalls := s.stalls + 1 }))) ∧
  (∀ (f : BForm) (s : State), (s.ctx.regX f.xa.toNat).fill = .empty →
    let pc : Word := s.ctx.t.pc.zeroExtend 64
    let s0 := s.setCtx s.ctx.closed
    let info := BitVec.ofNat 64 (f.xa.toNat * 2 ^ 48)
    let imms := [Instr.addi f, .andi f, .ori f, .xori f, .shli f, .shri f, .shai f, .cseti f]
    (f.ba = 1 → s.awaits .t = false → (∀ i ∈ imms, exec i s = .next (s.trapped s 0 0x07 pc info).settled) ∧
      exec (.jr f) s = .next (s0.trapped s0 0 0x07 pc info).settled) ∧
    (f.ba = 0 → (∀ i ∈ imms, exec i s = .next { s with stalls := s.stalls + 1 }) ∧
      exec (.jr f) s = .next { s0 with stalls := s.stalls + 1 })) ∧
  (∀ (f : DForm) (s : State), (s.ctx.regX f.xa.toNat).fill = .empty ∨
      (s.ctx.xReady f.xa.toNat = true ∧ (s.ctx.regX f.xb.toNat).fill = .empty) →
    ∀ i ∈ [Instr.beq f, .bne f, .blt f, .bge f, .bltu f, .bgeu f],
      exec i s = .next { s.setCtx s.ctx.closed with stalls := s.stalls + 1 }) ∧
  (∀ (f : VForm) (s : State),
    let c := s.ctx
    let pc : Word := c.t.pc.zeroExtend 64
    let waits (i : Instr) : Prop := exec i s = .next { s with stalls := s.stalls + 1 }
    let group (n g : Nat) (bit : Bool) (is : List Instr) : Prop := ∀ pre r post, n < 240 → members c n g = pre ++ r :: post →
      (∀ q ∈ pre, q < c.vallot ∧ ((c.liveAt .v q).isSome = true ∨ (c.regV q).fill = .full)) → ∀ i ∈ is,
      (c.vallot ≤ r → s.awaits .t = false → exec i s = .next (s.trapped s 0 0x02 0 (BitVec.ofNat 64 (n * 2 ^ 48))).settled) ∧
      (r < c.vallot → c.liveAt .v r = none → (c.regV r).fill = .empty →
        (bit = true → s.awaits .t = false →
          exec i s = .next (s.trapped s 0 0x07 pc (BitVec.ofNat 64 (n * 2 ^ 48 + 2 ^ 58))).settled) ∧
        (bit = false → waits i))
    let ab := [Instr.vadd f, .vsub f, .vmul f, .vmin f, .vmax f, .vdiv f, .vscl f, .vcmp f, .vsel f, .vand f, .vor f, .vxor f, .vpack f,
      .vperm f, .vzip f, .vunzip f]
    let abd := [Instr.vfma f, .vfms f, .vbdot f]
    let a := [Instr.vabs f, .vneg f, .vsqrt f, .vrcp f, .vrsq f, .vexp2 f, .vlog2 f, .vnot f, .vcvt f, .vqmx f, .vdqmx f, .vqnb f, .vdqnb f,
      .vred f, .vscan f, .vslide f, .vmov f]
    let noP := (c.liveAt .p (rotP c f.pg.toNat)).isNone = true ∧ (c.regP (rotP c f.pg.toNat)).fill = .empty
    group f.a.toNat (width f.aw) (f.ab == 1) (.vshl f :: .vshr f :: .vextr f :: (a ++ ab ++ abd)) ∧
    (c.vReady f.a.toNat (width f.aw) = true →
      group f.b.toNat (width f.bw) (f.bb == 1) (ab ++ abd) ∧
      (noP → ∀ i ∈ a, waits i) ∧
      (c.vReady f.b.toNat (width f.bw) = true →
        (noP → ∀ i ∈ ab, waits i) ∧ group f.d.toNat (width f.dw) false abd ∧
        (c.vReady f.d.toNat (width f.dw) = true → noP → ∀ i ∈ abd, waits i))) ∧
    (∀ i ∈ [Instr.pand f, .por f, .pxor f, .pnot f, .pcnt f, .pfirst f],
      (c.liveAt .p (rotP c f.a.toNat)).isNone = true → (c.regP (rotP c f.a.toNat)).fill = .empty →
      (f.ab = 1 → s.awaits .t = false →
        exec i s = .next (s.trapped s 0 0x07 pc (BitVec.ofNat 64 (f.a.toNat * 2 ^ 48 + 2 * 2 ^ 58))).settled) ∧
      (f.ab = 0 → waits i)))

/-- Table 11-7, rows XPUT and XTAKE; R250 where a register that a slot targets or pins is written or emptied. That XPUT to x0, which is
always FULL, waits is the model's reading (notes/assumptions/32.md). -/
def Obligations.HandshakeWordsMoveThroughFillStates : Prop :=
  ∀ (f : AForm) (s : State), s.ctx.xReady f.xa.toNat = true →
    let a := (s.ctx.regX f.xa.toNat).val
    let c := s.ctx.closed
    ((s.ctx.regX f.xd.toNat).fill = .empty → f.xd ≠ 0 → s.ctx.xWritable f.xd.toNat = true →
      exec (.xput f) s = .next (s.wordDone 2 (c.putX f.xd.toNat a))) ∧
    ((s.ctx.regX f.xd.toNat).fill ≠ .empty ∨ (s.ctx.regX f.xd.toNat).pend ≠ none →
      exec (.xput f) s = .next { s.setCtx c with stalls := s.stalls + 1 }) ∧
    (s.ctx.xWritable f.xd.toNat = true → (f.xa = f.xd ∨ f.xa = 0 ∨ s.ctx.writable .x f.xa.toNat = true) →
      exec (.xtake f) s = .next (s.wordDone 2
        ((if f.xa = f.xd ∨ f.xa = 0 then c else (unbind c .x f.xa.toNat).setFill .x f.xa.toNat .empty).putX f.xd.toNat a)))

/-- R334 to R337; a target past the 56-bit space is a fetch fault there (R338), which the last clause states for B. -/
def Obligations.BranchesGoToTheirTargets : Prop :=
  (∀ (f : CForm) (s : State), let pc : Word := s.ctx.t.pc.zeroExtend 64
    let t := pc + 2 * f.off.signExtend 64
    let c := s.ctx.closed
    sCode (.b f) = some (0x20, f.off) ∧ sCode (.call f) = some (0x21, f.off) ∧
    (t.toNat < 2 ^ 56 → exec (.b f) s = .next (s.jumpDone 2 c t)) ∧
    (t.toNat < 2 ^ 56 → s.ctx.xWritable 63 = true → exec (.call f) s = .next (s.jumpDone 2 (c.putX 63 (pc + 4)) t)) ∧
    (2 ^ 56 ≤ t.toNat → s.awaits .t = false → exec (.b f) s = .next
      (takeTrap ((s.setCtx c).branched .t 2 (t.truncate 56)) s.turn 0 0x10 t 130).settled)) ∧
  (∀ (f : BForm) (s : State), s.ctx.xReady f.xa.toNat = true → let pc : Word := s.ctx.t.pc.zeroExtend 64
    let t := (s.ctx.regX f.xa.toNat).val + 2 * f.imm.signExtend 64
    let c := s.ctx.closed
    (t.getLsbD 0 = false → t.toNat < 2 ^ 56 → s.ctx.xWritable f.xd.toNat = true →
      exec (.jr f) s = .next (s.jumpDone 2 (c.putX f.xd.toNat (pc + 4)) t)) ∧
    (t.getLsbD 0 = true → s.awaits .t = false →
      exec (.jr f) s = .next ((s.setCtx c).trapped (s.setCtx c) 0 0x12 t 2).settled)) ∧
  (∀ (f : DForm) (s : State), s.ctx.xReady f.xa.toNat = true → s.ctx.xReady f.xb.toNat = true →
    let pc : Word := s.ctx.t.pc.zeroExtend 64
    let t := pc + 2 * f.off.signExtend 64
    let a := (s.ctx.regX f.xa.toNat).val
    let b := (s.ctx.regX f.xb.toNat).val
    let go (p : Bool) : State := if p then s.jumpDone 2 s.ctx.closed t else s.wordDone 2 s.ctx.closed
    t.toNat < 2 ^ 56 →
      exec (.beq f) s = .next (go (a == b)) ∧ exec (.bne f) s = .next (go (a != b)) ∧
      exec (.blt f) s = .next (go (a.slt b)) ∧ exec (.bge f) s = .next (go (b.sle a)) ∧
      exec (.bltu f) s = .next (go (a.ult b)) ∧ exec (.bgeu f) s = .next (go (b.ule a)) ∧
      [Instr.beq f, .bne f, .blt f, .bge f, .bltu f, .bgeu f].map sCode =
        [0x23, 0x24, 0x25, 0x26, 0x27, 0x28].map fun o => some (o, dBits f)) ∧
  (∀ (f : FForm) (s : State), s.ctx.closed.pReady f.p.toNat = true →
    let pc : Word := s.ctx.t.pc.zeroExtend 64
    let t := pc + 2 * f.off.signExtend 64
    let v := s.ctx.closed.pVal f.p.toNat
    t.toNat < 2 ^ 56 → sCode (.bp f) = some (0x29, fBits f) ∧
      exec (.bp f) s = .next (if (f.mode = 0 ∧ v ≠ 0) ∨ (f.mode = 1 ∧ v = 0) ∨ (f.mode = 2 ∧ v = BitVec.allOnes 64) ∨
          (f.mode = 3 ∧ v ≠ BitVec.allOnes 64) then s.jumpDone 2 s.ctx.closed t else s.wordDone 2 s.ctx.closed))

/-- R339, R340. What a write does to each register is `CsrWritesKeepTheirFields`. -/
def Obligations.CsrWordsReadThenWrite : Prop :=
  ∀ (f : EForm) (s : State),
    let n := f.csr.toNat
    let s0 := s.setCtx s.ctx.closed
    let allowed := !csrSup n || (s.core s.turn).sup
    let a := (s.ctx.regX f.xa.toNat).val
    let old : Word := BitVec.ofNat 64 (csrRead s0 s.turn n)
    let write (i : Instr) (v : Word) : Prop :=
      match csrWrite s0 s.turn n v with
      | some t => t.ctx.xWritable f.xd.toNat = true → exec i s = .next (t.wordDone 2 (t.ctx.putX f.xd.toNat old))
      | none => s.awaits .t = false → exec i s = .next (s0.trapped s0 0 0x19 0 0).settled
    (allowed = true → s.ctx.xWritable f.xd.toNat = true → exec (.csrr f) s = .next (s.wordDone 2 (s.ctx.closed.putX f.xd.toNat old))) ∧
    (allowed = true → s.ctx.xReady f.xa.toNat = true →
      write (.csrw f) a ∧ write (.csrs f) (old ||| a) ∧ write (.csrc f) (old &&& ~~~a)) ∧
    (allowed = false → s.awaits .t = false →
      ∀ i ∈ [Instr.csrr f, .csrw f, .csrs f, .csrc f], exec i s = .next (s0.trapped s0 0 0x03 0 1).settled)

/-- Table 15-3 and the stored-value rules of Tables 11-2 and 13-3. -/
def Obligations.CsrWritesKeepTheirFields : Prop :=
  ∀ (s : State) (core : Nat) (v : Word),
    let after (n : Nat) : Option Nat := (csrWrite s core n v).map fun t => csrRead t core n
    let other (n m : Nat) : Prop := ∀ t, csrWrite s core n v = some t → csrRead t core m = csrRead s core m
    after 0x010 = some (v.toNat % 2 ^ 7) ∧ after 0x011 = some (v.toNat % 2 ^ 7) ∧
    after 0x012 = some (if v.toNat % 8 < 6 then v.toNat % 8 else 0) ∧
    after 0x013 = some v.toNat ∧ after 0x014 = some v.toNat ∧
    after 0x022 = some (max 1 (min 8 (v.toNat % 16))) ∧ after 0x032 = some (v.toNat % 64) ∧
    after 0x051 = some (v.toNat % 2 ^ 8) ∧ after 0x052 = some (v.toNat % 2 ^ 56) ∧ after 0x053 = some (v.toNat % 2 ^ 56) ∧
    after 0x054 = some (v.toNat % 2 ^ 56) ∧ after 0x055 = some v.toNat ∧ after 0x056 = some v.toNat ∧
    after 0x057 = some (v.toNat % 8 + csrRead s core 0x057 / 8 * 8) ∧
    after 0x058 = some (v.toNat % 2 ^ 16) ∧ after 0x059 = some (v.toNat % 2 ^ 16) ∧ after 0x05A = some (v.toNat % 2 ^ 16) ∧
    after 0x05B = some (v.toNat % 2 ^ 16) ∧
    (∀ n ∈ [0x058, 0x059, 0x05A, 0x05B], ∀ m ∈ [0x058, 0x059, 0x05A, 0x05B], n ≠ m → other n m) ∧
    (∀ n ∈ [0x000, 0x001, 0x002, 0x003, 0x004, 0x020, 0x021, 0x023, 0x040, 0x041, 0x042, 0x043, 0x050, 0x05C, 0x060, 0x061,
        0x062, 0x063], csrWrite s core n v = some s)

/-- Table 10-3, R344, R348 to R350. Time is not counted, so PAUSE only goes on. That a release waits at a pinned line is R153. -/
def Obligations.FencesIdsAndFetchControlComplete : Prop :=
  (∀ (s : State) (k : BitVec 3) (sc : BitVec 2) (slot : BitVec 4),
    let s0 := s.setCtx s.ctx.closed
    let e := effScope s0 s.turn sc.toNat slot.toNat
    let acq (u : State) : State := if e = 2 then acquire u s.turn else if e = 3 then acquireModule u s.turn else u
    let rel : State := if e = 2 then cleanLines s0 s.turn false fun _ => true
      else if e = 3 then cleanNear (cleanLines s0 s.turn true fun _ => true) (siteOf s.turn) else s0
    let t : State := if k = 0 then acq rel else if k = 1 then acq s0 else if k = 3 then s0 else rel
    (k = 1 ∨ k = 3 ∨ (releaseWaits s0 e = false ∧ (k = 0 → touchOut s0 s.turn = false) ∧ (k.toNat < 4 ∨ launchedHere s0 = []))) →
      exec (.fence k sc slot) s = .next (t.retired .t 2).settled) ∧
  (∀ s : State, let s0 := s.setCtx s.ctx.closed
    (s.ctx.flags &&& s.ctx.trapen = 0 → exec .trapf s = .next (s.wordDone 2 s.ctx.closed)) ∧
    (s.ctx.flags &&& s.ctx.trapen ≠ 0 → s.awaits .t = false →
      exec .trapf s = .next (s0.trapped s0 0 0x20 0 ((s.ctx.flags &&& s.ctx.trapen).zeroExtend 64)).settled) ∧
    exec .isync s = .next ((dropFetched s0 .t).retired .t 2).settled ∧ exec .pause s = .next (s.wordDone 2 s.ctx.closed)) ∧
  (∀ (f : AForm) (s : State), let c := s.ctx.closed
    let a := (s.ctx.regX f.xa.toNat).val
    let b := (s.ctx.regX f.xb.toNat).val
    let s0 := s.setCtx c
    (s.ctx.xReady f.xa.toNat = true → s.ctx.xReady f.xb.toNat = true →
      (b = 0 → exec (.icinv f) s = .next (s.wordDone 2 c)) ∧
      (∀ l, a.toNat % 65536 + b.toNat ≤ 65536 → 0 < b.toNat → translateHere s0 a aLoad = .ok l →
        let t := noteLeaf s0 a l
        let dirty := (linesHeld (t.core s.turn)).filter fun x => x.dirty != 0 && rangeLine t a.toNat b.toNat x.addr
        dirty.any (fun x => t.pinned x.addr) = false →
        exec (.icinv f) s = .next ((dropText (cleanLines t s.turn true fun x => dirty.any (·.addr == x))
          (effScope t s.turn f.fn.toNat (f.xd.toNat % 4))).retired .t 2).settled) ∧
      (∀ e, 0 < b.toNat → translateHere s0 a aLoad = .error e → e.entryAt = none → s.awaits .t = false →
        exec (.icinv f) s = .next (s0.trapped (wakeTables s0 a) 0 e.cause a (BitVec.ofNat 64 e.info)).settled)) ∧
    (s.ctx.xWritable f.xd.toNat = true → exec (.getid f) s = .next (s.wordDone 2 (c.putX f.xd.toNat
      (BitVec.ofNat 64 (if f.fn = 0 then s.turn else if f.fn = 1 then s.turn / 1024 else s.turn % 1024))))))

/-- R345, R346, R267 (MBRK, CBRK), R312. `trapped` is taking a trap with the core as it was before the word; the second part says
for the T words what Table 12-2 makes of it. -/
def Obligations.TrappingWordsTakeTheirTrap : Prop :=
  (∀ s : State, let s0 := s.setCtx s.ctx.closed
    (s.awaits .t = false →
      (∀ n : BitVec 8, exec (.svc n) s = .next (s0.trapped s0 0 0x31 0 (n.zeroExtend 64)).settled) ∧
      exec .brk s = .next (s.trapped s 0 0x30 (s.ctx.t.pc.zeroExtend 64) 0).settled ∧
      exec .brkl s = .next (s.trapped s 0 0x30 (s.ctx.t.pc.zeroExtend 64) 0).settled) ∧
    (s.awaits .m = false → exec .mbrk s = .next (s.trapped s 1 0x30 (s.ctx.m.pc.zeroExtend 64) 0).settled) ∧
    (s.awaits .c = false → exec .cbrk s = .next (s.trapped s 2 0x30 (s.ctx.c.pc.zeroExtend 64) 0).settled) ∧
    (s.epi.at_ = none → s.awaits s.eng = false →
      exec .illegalEncoding s = .next (s.trapped s (illegalEng s s.eng) 0x01 0 0).settled)) ∧
  (∀ (s : State) (cause : Nat) (addr info : Word), cause < 256 → (s.core s.turn).intrap = false →
    let u := (s.core s.turn).unwind.ctx
    u.window = [] →
    let k := (s.trapped s 0 cause addr info).core s.turn
    k.tcause.toNat = cause ∧ k.tpct = u.t.pc ∧ k.taddr = addr ∧ k.tinfo.extractLsb' 0 63 = info.extractLsb' 0 63 ∧
      k.intrap = true ∧ k.sup = true ∧ k.ppriv = (s.core s.turn).sup ∧ k.teng = 0)

/-- R351 to R353, with the shrink of R230 where nothing has to be replayed. -/
def Obligations.AllotAndRotationWordsChangeTheContext : Prop :=
  (∀ (f : BForm) (s : State),
    let c := s.ctx.closed
    let s0 := s.setCtx c
    let n := f.imm.toNat
    let free := (s.core s.turn).poolFree
    let g := min n (c.vallot + free)
    (c.vallot ≤ n → s.ctx.xWritable f.xd.toNat = true → exec (.allot f) s = .next (s.wordDone 2
      ({ c with v := c.v.filter (fun e => decide (e.1 < c.vallot) || decide (e.1 ≥ g)), vallot := g }.putX f.xd.toNat
        (BitVec.ofNat 64 g)))) ∧
    (n < c.vallot → 16 + c.vsize ≤ n → s.ctx.xWritable f.xd.toNat = true →
      (∀ e ∈ c.recipes, c.fill e.2.kind e.2.target ≠ .dropped) →
      let gone (r : Nat) : Bool := decide (n ≤ r) && decide (r < c.vallot)
      exec (.allot f) s = .next (s.wordDone 2 ({ c with
        recipes := c.recipes.filter (fun (e : Nat × Recipe) => !((e.2.kind == Kind.v && gone e.2.target) || e.2.pins.any (fun p => p.1 == Kind.v && gone p.2))),
        v := c.v.filter (fun e => decide (e.1 < n)), vallot := n }.putX f.xd.toNat (BitVec.ofNat 64 n)))) ∧
    (n < c.vallot → n < 16 + c.vsize → s.awaits .t = false →
      exec (.allot f) s = .next (s0.trapped s0 0 0x02 0 0).settled) ∧
    (let v := 8 * (f.imm.toNat / 16)
     let p := 8 * (f.imm.toNat % 16)
     (v ≤ 128 ∧ p ≤ 64 ∧ 16 + v ≤ c.vallot →
       exec (.rotcfg f) s = .next (s.wordDone 2 { c with vsize := v, psize := p, vrrb := 0, prrb := 0 })) ∧
     (128 < v ∨ 64 < p ∨ c.vallot < 16 + v → s.awaits .t = false →
       exec (.rotcfg f) s = .next (s0.trapped s0 0 0x02 0 0).settled))) ∧
  (∀ (f : AForm) (s : State), s.ctx.xReady f.xa.toNat = true →
    let c := s.ctx.closed
    let s0 := s.setCtx c
    let a := (s.ctx.regX f.xa.toNat).val.toNat
    let v := a % 256
    let p := a / 256 % 256
    let fits := a < 65536 ∧ (if 0 < c.vsize then v < c.vsize else v = 0) ∧ (if 0 < c.psize then p < c.psize else p = 0)
    (fits → exec (.rotset f) s = .next (s.wordDone 2 { c with vrrb := v, prrb := p })) ∧
    (¬fits → s.awaits .t = false → exec (.rotset f) s = .next (s0.trapped s0 0 0x02 0 0).settled))

/-- R259 and Table 12-2; the double trap of R260. `unwind` takes back what T has executed behind an access that is not answered
(notes/assumptions/18.md). -/
def Obligations.TakingATrapSavesTheCore : Prop :=
  ∀ (s : State) (core eng cause : Nat) (addr info : Word),
    let k := (s.core core).unwind
    let t := takeTrap s core eng cause addr info
    let k' := t.core core
    (k.intrap = false →
      k'.tcause = BitVec.ofNat 8 cause ∧ k'.taddr = addr ∧
      k'.tinfo = ((info ||| (if k.ctx.window ≠ [] ∧ eng = 0 then 1 <<< 62 else 0)) |||
        (if byDisplaced { k with ctx := clearPending k.ctx } eng = true then 1 <<< 63 else 0)) ∧
      k'.tpct = (match k.ctx.window with
        | [] => k.ctx.t.pc
        | w :: _ => w.pc) ∧
      k'.tpcm = k.ctx.m.pc ∧ k'.tpcc = k.ctx.c.pc ∧ k'.teng = BitVec.ofNat 2 eng ∧ k'.ppriv = k.sup ∧
      k'.thalted = BitVec.ofNat 3 (b2n k.ctx.t.halted + 2 * b2n k.ctx.m.halted + 4 * b2n k.ctx.c.halted) ∧
      k'.intrap = true ∧ k'.sup = true ∧
      k'.ctx.t.pc = BitVec.ofNat 56 (0xFF0030000000 + core / 1024 * 0x10000) ∧ k'.ctx.t.halted = false ∧ k'.ctx.window = [] ∧
      (∀ r, (k'.ctx.regX r).val = (k.ctx.regX r).val ∧ (k'.ctx.regV r).val = (k.ctx.regV r).val ∧ k'.ctx.regP r = k.ctx.regP r) ∧
      k'.ctx.flags = k.ctx.flags ∧ k'.ctx.vallot = k.ctx.vallot ∧ k'.ctx.recipes = k.ctx.recipes) ∧
    (k.intrap = true → k'.parkPending = some (BitVec.ofNat 8 cause) ∧ k'.ctx = k.ctx ∧ k'.tcause = k.tcause) ∧
    (∀ m, m ≠ core → t.core m = s.core m) ∧ t.fw = s.fw ∧ t.regions = s.regions ∧
    (s.waiters = [] → t.mem = s.mem ∧ t.hostMem = s.hostMem ∧ t.tags = s.tags ∧ t.waiters = [])

/-- R261, R269, R347, R354 to R356, R262, with R244 for the windows. Which free slot PARK takes is the model's free value
(notes/assumptions/12.md). -/
def Obligations.SupervisorWordsLeaveTheTrap : Prop :=
  ∀ s : State,
    let s0 := s.setCtx s.ctx.closed
    let k := s0.core s.turn
    (k.sup = true → k.intrap = true →
      let back (k : Core) : Core := { k with sup := k.ppriv, intrap := false, ctx := { k.ctx with
        t := { k.ctx.t with pc := k.tpct, halted := k.thalted.getLsbD 0 },
        m := { k.ctx.m with pc := k.tpcm, halted := k.thalted.getLsbD 1 },
        c := { k.ctx.c with pc := k.tpcc, halted := k.thalted.getLsbD 2 } } }
      let ps := displParcels k.ctx
      let w := ps.headD 0
      let d := s.die (siteOf s.turn)
      exec .sret s = .next (dropArrived (s0.setCore s.turn (back k))).goOn.settled ∧
      (fitsEng (tagOf w) k.teng.toNat = true →
        exec .xdisp s = .next (dropArrived (s0.setCore s.turn (back { k with
          subst := some { addr := k.taddr.truncate 56, word := ps.take (parcelsOf w),
                          engs := (trapEngs k.teng.toNat).filter fun e => !(k.thalted.getLsbD (engCode e)) } }))).goOn.settled) ∧
      (∀ x, k.shadow = some x →
        let t := (withdraw s0 s.turn).setCore s.turn { k with
          ctx := x, shadow := some (trappedCtx k), bank := k.bank + 1, sup := false, intrap := false, subst := none }
        exec .swctx s =
          .next (dropArrived (resumeRec (suspendRec t s.turn (trappedCtx k) bankOnly) s.turn x)).goOn.settled) ∧
      (k.shadow = none → s.awaits .t = false → exec .swctx s = .next (s0.trapped s0 0 0x03 0 3).settled) ∧
      (∀ j js, fqBlocked d = false → freeSlots d = j :: js →
        let i := (j :: js).getD (Config.slotChoice s.fresh % (j :: js).length) j
        let a := d.pbase.toNat + i * 20480
        let t := { s0 with fresh := s.fresh + 1 }.modDie (siteOf s.turn) fun d => { d with
          pused := d.pused ++ [i], pwait := d.pwait.filter (· != s.turn) }
        exec .park s = .next (parkRecord (idleCore (writeImage t a (trappedCtx k)) s.turn) s.turn (trappedCtx k)
          k.tcause.toNat k.taddr k.tinfo a).goOn.settled)) ∧
    (s.awaits .t = false → ∀ i ∈ [Instr.sret, .xdisp, .swctx, .park],
      (k.sup = false → exec i s = .next (s0.trapped s0 0 0x03 0 1).settled) ∧
      (k.sup = true → k.intrap = false → exec i s = .next (s0.trapped s0 0 0x03 0 2).settled))

/-- R354, R357 to R361. -/
def Obligations.SupervisorDataWordsActOrTrap : Prop :=
  ∀ (f : AForm) (s : State),
    let c := s.ctx.closed
    let s0 := s.setCtx c
    let k := s.core s.turn
    let a := (s.ctx.regX f.xa.toNat).val
    let b := (s.ctx.regX f.xb.toNat).val
    (k.sup = false → s.awaits .t = false → ∀ i ∈ [Instr.ctxsv f, .ctxld f, .grpset f, .asgen f, .cohset f, .probe f],
      exec i s = .next (s0.trapped s0 0 0x03 0 1).settled) ∧
    (k.sup = true → s.ctx.xReady f.xa.toNat = true →
      (a.toNat < 4096 → accessPending s0 a.toNat = false → exec (.asgen f) s = .next ((asgen s0 a.toNat).retired .t 2).settled) ∧
      (a.toNat < 4096 → accessPending s0 a.toNat = true → exec (.asgen f) s = .next { s0 with stalls := s.stalls + 1 }) ∧
      (4096 ≤ a.toNat → s.awaits .t = false → exec (.asgen f) s = .next (s0.trapped s0 0 0x03 0 5).settled) ∧
      (s.ctx.xWritable f.xd.toNat = true →
        let w := probeWord (translateHere s0 a f.fn.toNat) f.fn.toNat
        (∀ l, translateHere s0 a f.fn.toNat = .ok l →
          exec (.probe f) s = .next ((noteLeaf s0 a l).wordDone 2 (c.putX f.xd.toNat w))) ∧
        (∀ e, translateHere s0 a f.fn.toNat = .error e → e.entryAt = none →
          exec (.probe f) s = .next ((wakeTables s0 a).wordDone 2 (c.putX f.xd.toNat w)))) ∧
      -- CTXSV, CTXLD: the shadow bank, then the image's address
      (s.awaits .t = false →
        let trap (i : Instr) (cause : Nat) (addr : Word) (info : Nat) : Prop :=
          exec i s = .next (s0.trapped s0 0 cause addr (BitVec.ofNat 64 info)).settled
        (k.shadow = none → trap (.ctxsv f) 0x03 0 3) ∧ (k.shadow ≠ none → trap (.ctxld f) 0x03 0 4) ∧
        ∀ i acc, (i = Instr.ctxsv f ∧ acc = 1 ∧ k.shadow ≠ none) ∨ (i = Instr.ctxld f ∧ acc = 0 ∧ k.shadow = none) →
          (a.toNat % 64 ≠ 0 → trap i 0x12 a acc) ∧
          (a.toNat % 64 = 0 →
            (isDram a.toNat = false → trap i 0x11 a acc) ∧
            (isDram a.toNat = true → ∀ e, locate s0 a.toNat = .error e →
              if e.info = 0x300 then trap i e.cause a (acc + 0x300) else trap i 0x11 a acc))) ∧
      (∀ x p, k.shadow = some x → a.toNat % 64 = 0 → isDram a.toNat = true → locate s0 a.toNat = .ok p →
        exec (.ctxsv f) s = .next (((writeImage (forgetSlot s0 s.turn x) a.toNat x).modCore s.turn fun q => { q with
          shadow := none, saved := (x.serial, a.toNat) :: q.saved.filter fun e => e.1 != x.serial }).retired .t 2).settled) ∧
      (∀ x p, k.shadow = none → a.toNat % 64 = 0 → isDram a.toNat = true → locate s0 a.toNat = .ok p →
        let t := wakeImage s0 a.toNat
        loadImage t a.toNat = some x → x.vallot ≤ (t.core s.turn).poolFree →
        exec (.ctxld f) s = .next ((t.modCore s.turn fun q => { q with
          shadow := some x, saved := q.saved.filter fun e => e.1 != x.serial }).retired .t 2).settled) ∧
      (∀ p, k.shadow = none → a.toNat % 64 = 0 → isDram a.toNat = true → locate s0 a.toNat = .ok p →
        let t := wakeImage s0 a.toNat
        (loadImage t a.toNat = none → s.awaits .t = false → exec (.ctxld f) s = .next (s0.trapped t 0 0x40 a 0).settled) ∧
        (∀ x, loadImage t a.toNat = some x → (t.core s.turn).poolFree < x.vallot →
          exec (.ctxld f) s = .next { s0 with stalls := s.stalls + 1 })) ∧
      (s.ctx.xReady f.xb.toNat = true →
        (s.awaits .t = false →
          (256 ≤ a.toNat → exec (.grpset f) s = .next (s0.trapped s0 0 0x03 0 5).settled) ∧
          (a.toNat < 256 → 2 ^ 56 ≤ b.toNat → exec (.grpset f) s = .next (s0.trapped s0 0 0x10 b 128).settled) ∧
          (a.toNat < 256 → b.toNat < 2 ^ 56 → b.toNat % 128 ≠ 0 → exec (.grpset f) s = .next (s0.trapped s0 0 0x12 b 0).settled) ∧
          (∀ (sp : List Byte) (s1 : State), a.toNat < 256 → b.toNat < 2 ^ 56 → b.toNat % 128 = 0 → loadRange b 128 s0 = .ok sp s1 →
            (decodeGroup sp).2 = false ∨ membershipOk (mapSet s1.fw.groups a.toNat (decodeGroup sp).1) = false →
            exec (.grpset f) s = .next (s0.trapped s1 0 0x03 0 5).settled) ∧
          (∀ e, translateHere s0 a aLoad = .error e → e.entryAt = none →
            exec (.cohset f) s = .next (s0.trapped (wakeTables s0 a) 0 e.cause a (BitVec.ofNat 64 e.info)).settled) ∧
          (∀ l, translateHere s0 a aLoad = .ok l →
            b.toNat % 4 ≠ l.cls.toNat ∨ b.toNat % 4 = 3 ∨ 4 ≤ b.toNat % 65536 ∨ 2 ^ 32 ≤ b.toNat ∨
              (if b.toNat % 4 = 0 then coreOk (b.toNat / 65536) = false else b.toNat / 65536 ≠ 0) →
            exec (.cohset f) s = .next (s0.trapped (noteLeaf s0 a l) 0 0x03 0 5).settled)) ∧
        (∀ (sp : List Byte) (s1 : State), a.toNat < 256 → b.toNat < 2 ^ 56 → b.toNat % 128 = 0 →
          loadRange b 128 s0 = .ok sp s1 → (decodeGroup sp).2 = true →
          membershipOk (mapSet s1.fw.groups a.toNat (decodeGroup sp).1) = true →
          exec (.grpset f) s = .next ((setGroups s1 (mapSet s1.fw.groups a.toNat (decodeGroup sp).1)
            (mapSet s1.fw.groupRaw a.toNat sp) (groupMembers (mapGet [] s1.fw.groups a.toNat) ++ groupMembers (decodeGroup sp).1).eraseDups).retired .t 2).settled) ∧
        (∀ l, translateHere s0 a aLoad = .ok l → b.toNat % 4 = l.cls.toNat → l.cls ≠ 3 → b.toNat % 65536 < 4 → b.toNat < 2 ^ 32 →
          (if l.cls = 0 then coreOk (b.toNat / 65536) = true else b.toNat / 65536 = 0) →
          let frames := if l.big then (List.range 64).map (· + l.pa / 0x400000 * 64) else [l.pa / 65536]
          accessPending s0 s.ctx.asid.toNat = false →
          exec (.cohset f) s = .next ((asgen (frames.foldl (fun (t : State) fr =>
            { t with classes := mapSet t.classes fr l.cls,
                     owners := mapSet t.owners fr (if l.cls = 0 then some (b.toNat / 65536) else none) }) (dropFrames (noteLeaf s0 a l) frames))
            s.ctx.asid.toNat).retired .t 2).settled)))

/-- R392 steps 3 to 5. -/
def Obligations.AlignedAccessesArePlacedByTheirPage : Prop :=
  ∀ (s : State) (va : Word) (n code : Nat),
    let at_ (l : Leaf) (stash : Bool) : Piece :=
      { pa := l.pa, len := n, cls := l.cls, defer := l.defer, va := va, elem := 0, stash := stash, nc := l.nc }
    (2 ^ 56 ≤ va.toNat → placeAligned va n n code s = .error (.trap 0x10 va (BitVec.ofNat 64 (128 + code))) s) ∧
    (va.toNat < 2 ^ 56 → va.toNat % n ≠ 0 → placeAligned va n n code s = .error (.trap 0x12 va (BitVec.ofNat 64 code)) s) ∧
    (va.toNat < 2 ^ 56 → va.toNat % n = 0 →
      (∀ e, translateHere s va code = .error e → e.entryAt = none →
        placeAligned va n n code s = .error (.trap e.cause va (BitVec.ofNat 64 (code + e.info))) (wakeTables s va)) ∧
      (∀ l, translateHere s va code = .ok l →
        let t := noteLeaf s va l
        (t.ctx = s.ctx ∧ t.mem = s.mem ∧ t.tags = s.tags) ∧
        ((s.core s.turn).stashn = 0 ∨ stashEntry s va = none ∨ 1 < code → placeAligned va n n code s = .ok (at_ l false) t) ∧
        (code ≤ 1 → isDram l.pa = true → ∀ j e, stashEntry s va = some (j, e) →
          (l.nc = true ∨ l.defer = true → placeAligned va n n code s = .error (.trap 0x11 va (BitVec.ofNat 64 (code + 8))) t) ∧
          (l.nc = false → l.defer = false → placeAligned va n n code s = .ok (at_ l true) t))))

/-- R180, with the TINFO of Table 8-2: the level in bits 5 and 4, MALF in bit 6, NONCAN in bit 7. -/
def Obligations.TranslationWalksFourLevels : Prop :=
  (∀ (s : State) (core acc root : Nat) (asid : BitVec 12) (user : Bool) (va : Word), va.toNat < 2 ^ 56 →
    mapFind s.fw.roots asid.toNat = some root →
    let v := va.toNat
    let tr := translate s core asid user va acc
    let table (e : Nat) : Nat := e / 2 ^ 16 % 2 ^ 32 * 65536
    let next (e : Nat) : Prop := e % 2 = 1 ∧ e / 2 % 2 ^ 15 = 0
    let level (t at_ : Nat) (more : Nat → Prop) : Prop :=
      (∀ x, read64 s (t + 8 * at_) = .error x → tr = .error x) ∧ ∀ e, read64 s (t + 8 * at_) = .ok e → more e
    level root (v / 2 ^ 46) fun e3 =>
      (e3 % 2 = 0 → tr = .error ⟨0x10, 0x30, 1⟩) ∧
      (e3 % 2 = 1 → e3 / 2 % 2 ^ 15 ≠ 0 → tr = .error ⟨0x10, 0x70, 1⟩) ∧
      (next e3 → level (table e3) (v / 2 ^ 36 % 1024) fun e2 =>
        (e2 % 2 = 0 → tr = .error ⟨0x10, 0x20, 1⟩) ∧
        (e2 % 2 = 1 → e2 / 2 % 2 ^ 15 ≠ 0 → tr = .error ⟨0x10, 0x60, 1⟩) ∧
        (next e2 → level (table e2) (v / 2 ^ 26 % 1024) fun e1 =>
          (e1 % 2 = 0 → tr = .error ⟨0x10, 0x10, 1⟩) ∧
          (next e1 → level (table e1) (v / 2 ^ 16 % 1024) fun e0 =>
            (e0 % 2 = 0 → tr = .error ⟨0x10, 0, 1⟩) ∧
            (e0 % 2 = 1 → tr = leafOf core acc user e0 (table e0 + v % 65536) false)) ∧
          (e1 % 2 = 1 → e1 / 2 % 2 ^ 9 = 0 → e1.testBit 10 = true → level (table e1) (v / 2 ^ 22 % 16) fun big =>
            (big % 2 = 0 → tr = .error ⟨0x10, 0, 1⟩) ∧
            (big % 2 = 1 → big / 2 ^ 16 % 2 ^ 6 = 0 → checkLeaf big acc user = .ok () →
              tr = leafOf core acc user big (big / 2 ^ 22 % 2 ^ 26 * 4194304 + v % 4194304) true))))) ∧
  (∀ (e acc : Nat) (user : Bool), checkLeaf e acc user = .ok () →
    (e.testBit 1 = true ∨ e.testBit 2 = true ∨ e.testBit 3 = true) ∧ e / 16 % 4 ≠ 3 ∧ (e.testBit 11 = true → user = false) ∧
    (acc = 0 ∨ acc = 4 ∨ acc = 6 → e.testBit 1 = true) ∧ (acc = 1 ∨ acc = 3 ∨ acc = 5 ∨ acc = 7 → e.testBit 2 = true ∧ e.testBit 7 = false) ∧
    (acc = 2 → e.testBit 3 = true ∧ e.testBit 6 = false))

/-- R397, R213, R176, R179, R171. -/
def Obligations.PlainAccessesReadAndWriteTheirBytes : Prop :=
  (∀ (s : State) (who : Who) (p : Piece) (mask : List Bool) (data : List Byte), 0 < p.len →
    (∀ i < p.len, isDram (p.pa + i) = true ∧ ∃ q, locate s (p.pa + i) = .ok q) → p.defer = false → p.nc = true → p.stash = false →
    cutOff s who p.pa = false → answerLost s who p.pa = false → heldAway s who p = false → wake s p.pa = s →
    (mapGet none s.owners (p.pa / 0x10000) = none ∨ (p.cls = 0 ∧ mapGet none s.owners (p.pa / 0x10000) = coreOf s who)) →
    let load := perform who { act := .load, pieces := [p], mask := mask } s
    let store := perform who { act := .store, pieces := [p], mask := mask, data := data } s
    let picked := (List.range p.len).any fun i => (nibSel mask i).1 || (nibSel mask i).2
    ((s.poisoned p.pa && picked) = false → load.1 = .done (readBytes s p.pa p.len) ∧ ∀ a, readPhys load.2 a = readPhys s a) ∧
    ((s.poisoned p.pa && picked) = true → load.1 = .fault ⟨0x41, 0, 5⟩ p) ∧
    (s.pinned p.pa = false → store.1 = .done [] ∧
      (∀ i < p.len, readPhys store.2 (p.pa + i) = mergeByte (readPhys s (p.pa + i)) (data.getD i 0) (nibSel mask i)) ∧
      (∀ a, isDram a = true → a < p.pa ∨ p.pa + p.len ≤ a → readPhys store.2 a = readPhys s a))) ∧
  (∀ (s : State) (n : Nat) (e : Eng) (p : Piece) (mask : List Bool) (data : List Byte) (l : Line), copyHit s n p = some l →
    ownerLets s n p = true →
    let load := perform (.core n e) { act := .load, pieces := [p], mask := mask } s
    let store := perform (.core n e) { act := .store, pieces := [p], mask := mask, data := data } s
    let into (i : Nat) : Bool := p.pa % 128 ≤ i && i < p.pa % 128 + p.len && (nibSel mask (i - p.pa % 128)).1
    load.1 = .done (slice l.data (p.pa % 128) p.len) ∧
    (mayWrite s mask 0 p = true → store.1 = .done [] ∧
      (∃ m, copyFind store.2 n p = some m ∧ m.addr = l.addr ∧
        ∀ i < 128, m.data.getD i 0 = if into i then data.getD (i - p.pa % 128) 0 else l.data.getD i 0) ∧
      (((s.core n).l1.filter fun x => l1Set x.addr == l1Set l.addr).length ≤ 4 →
        ∀ a, isDram a = true → readPhys store.2 a = readPhys s a)))

/-- R392 step 7 and R254: what happens at a home stays there until the word completes. -/
def Obligations.AccessesLeaveContextsAlone : Prop :=
  ∀ (who : Who) (a : Access) (s : State) (n : Nat), ((perform who a s).2.core n).ctx = (s.core n).ctx

/-- R396, R401. What placing and making an access give is `AlignedAccessesArePlacedByTheirPage` and
`PlainAccessesReadAndWriteTheirBytes`; that it leaves contexts alone, `AccessesLeaveContextsAlone`. -/
def Obligations.LoadsDeliverTheirBytes : Prop :=
  (∀ (f : BForm) (s : State), s.ctx.xReady f.xa.toNat = true → s.ctx.xWritable f.xd.toNat = true →
    let ld (i : Instr) (n : Nat) (signed : Bool) : Prop := ∀ bs t,
      got (reach 2 ((s.ctx.regX f.xa.toNat).val + f.imm.signExtend 64 * BitVec.ofNat 64 n) n aLoad
        (fun p => { act := .load, pieces := [p], scalar := true }) (.x f.xd.toNat n signed)) s = some (bs, t) → t.ctx = s.ctx →
      exec i s = .next (t.wordDone 2 (t.ctx.putX f.xd.toNat (wordOf n signed bs)))
    ld (.ldb f) 1 false ∧ ld (.ldh f) 2 false ∧ ld (.ldw f) 4 false ∧ ld (.ldd f) 8 false ∧
    ld (.ldbs f) 1 true ∧ ld (.ldhs f) 2 true ∧ ld (.ldws f) 4 true) ∧
  (∀ (f : VForm) (s : State), s.ctx.xReady f.a.toNat = true → s.ctx.pReady f.pg.toNat = true → f.d.toNat < 240 →
    let g := width f.dw
    let pg := s.ctx.pVal f.pg.toNat
    let a := (s.ctx.regX f.a.toNat).val
    s.ctx.vWritable f.d.toNat g (f.dt == 1) = true →
    let vld (i : Instr) (ea : Word) : Prop :=
      (pg = 0 → exec i s = .next (s.wordDone 4 (s.ctx.putRes f.d.toNat g (f.dt == 1) {}))) ∧
      (pg ≠ 0 → ∀ ps bs t0 t, got (groupPieces ea g aLoad) s = some (ps, t0) →
        (f.dt = 0 ∨ ∀ p ∈ ps, ownPad s.turn p ≠ none) →
        got (tAccess 4 { act := .load, pieces := ps, mask := nibMask pg g } (.v (members s.ctx f.d.toNat g) (nibPlaces pg g))) t0 =
          some (bs, t) → t.ctx = s.ctx →
        let m := byteMask pg g
        exec i s = .next (t.wordDone 4 (t.ctx.putRes f.d.toNat g (f.dt == 1) { val := Nat.land (leNat bs) m, mask := m })))
    vld (.vld f) (a + BitVec.ofInt 64 (64 * f.imm.toInt)) ∧
    (s.ctx.xReady f.b.toNat = true → vld (.vldx f) (a + (s.ctx.regX f.b.toNat).val * 64)))

/-- R396, R400 to R403. -/
def Obligations.StoresWriteTheirOperand : Prop :=
  (∀ (f : BForm) (s : State), s.ctx.xReady f.xa.toNat = true → s.ctx.xReady f.xd.toNat = true →
    let s0 := s.setCtx s.ctx.closed
    let a := (s.ctx.regX f.xa.toNat).val
    let d := (s.ctx.regX f.xd.toNat).val
    let st (i : Instr) (n : Nat) : Prop := ∀ bs t,
      got (reach 2 (a + f.imm.signExtend 64 * BitVec.ofNat 64 n) n aStore
        (fun p => { act := .store, pieces := [p], data := leBytes n d.toNat, scalar := true }) .none) s0 = some (bs, t) →
      exec i s = .next (t.retired .t 2).settled
    st (.stb f) 1 ∧ st (.sth f) 2 ∧ st (.stw f) 4 ∧ st (.std f) 8 ∧
    (∀ bs t, let nib : Int := 2 * a.toNat + f.imm.toInt
      let acc (p : Piece) : Access :=
        { act := .store, pieces := [p], data := [BitVec.ofNat 8 (d.toNat % 16 * 17)], mask := [nib % 2 == 0, nib % 2 == 1],
          scalar := true }
      got (reach 2 (BitVec.ofInt 64 (nib / 2)) 1 aStore acc .none) s0 = some (bs, t) →
      exec (.stn f) s = .next (t.retired .t 2).settled)) ∧
  (∀ (f : VForm) (s : State), s.ctx.xReady f.a.toNat = true →
    let c := s.ctx.closed
    let s0 := s.setCtx c
    let a := (s.ctx.regX f.a.toNat).val
    let g := width f.dw
    c.pReady f.pg.toNat = true →
    let pg := c.pVal f.pg.toNat
    let vst (i : Instr) (ea : Word) : Prop := c.vReady f.d.toNat g = true →
      (pg = 0 → exec i s = .next (s0.retired .t 4).settled) ∧
      (pg ≠ 0 → ∀ ps bs t0 t, got (groupPieces ea g aStore) s0 = some (ps, t0) →
        got (tAccess 4 { act := .store, pieces := ps, data := leBytes (64 * g) (c.vVal f.d.toNat g), mask := nibMask pg g } .none) t0 =
          some (bs, t) →
        exec i s = .next (t.retired .t 4).settled)
    vst (.vst f) (a + BitVec.ofInt 64 (64 * f.imm.toInt)) ∧
    (s.ctx.xReady f.b.toNat = true → vst (.vstx f) (a + (s.ctx.regX f.b.toNat).val * 64)) ∧
    (c.vReady f.d.toNat 1 = true → ∀ ps bs t0 t,
      got (taggedGroup (a + BitVec.ofInt 64 (64 * f.imm.toInt)) aTagStore) s0 = some (ps, t0) →
      got (tAccess 4 { act := .tagStore 0, pieces := ps, data := leBytes 64 (c.vVal f.d.toNat 1), mask := nibMask pg 1 } .none) t0 =
        some (bs, t) →
      exec (.vste f) s = .next (t.retired .t 4).settled) ∧
    (let ty := f.ty
     let w := tyBits ty
     let is := (List.range (lanesD f ty)).filter (active pg ty)
     let offs := c.vVal f.b.toNat (width f.bw)
     c.vReady f.b.toNat (width f.bw) = true → c.vReady f.d.toNat g = true → (8 ≤ w → a.toNat % (w / 8) = 0) →
      (is = [] → exec (.vscat f) s = .next (s0.retired .t 4).settled) ∧
      (is ≠ [] → ∀ ps bs t0 t, got (placeElems ty a offs aStore .store is []) s0 = some (ps, t0) →
        let e (i : Nat) : Nat := elemOf ty (c.vVal f.d.toNat g) i
        let data := is.flatMap fun i => if w = 4 then [BitVec.ofNat 8 (17 * e i)] else leBytes (w / 8) (e i)
        got (tAccess 4 { act := .store, pieces := ps, data := data, mask := elemMask ty a offs is } .none) t0 = some (bs, t) →
        exec (.vscat f) s = .next (t.retired .t 4).settled)))

/-- R398, R402, R403. -/
def Obligations.TaggedWordsMoveWordsByTheirTags : Prop :=
  (∀ (f : BForm) (s : State), s.ctx.xReady f.xa.toNat = true →
    let s0 := s.setCtx s.ctx.closed
    let ea := (s.ctx.regX f.xa.toNat).val + f.imm.signExtend 64 * 4
    let ld (i : Instr) (clear : Bool) : Prop := s.ctx.xWritable f.xd.toNat = true → ∀ bs t,
      got (reach 2 ea 4 aTagLoad (fun p => { act := .tagLoad clear, pieces := [p] }) (.x f.xd.toNat 4 false)) s0 = some (bs, t) →
      t.ctx = s0.ctx → exec i s = .next (t.wordDone 2 (t.ctx.putX f.xd.toNat (wordOf 4 false bs)))
    ld (.ldf f) false ∧ ld (.ldc f) true ∧
    (s.ctx.xReady f.xd.toNat = true → ∀ bs t,
      got (reach 2 ea 4 aTagStore (fun p => { act := .tagStore 0, pieces := [p], data := leBytes 4 (s.ctx.regX f.xd.toNat).val.toNat })
        .none) s0 = some (bs, t) →
      exec (.ste f) s = .next (t.retired .t 2).settled)) ∧
  (∀ (f : AForm) (s : State), s.ctx.xReady f.xa.toNat = true → s.ctx.xReady f.xd.toNat = true → ∀ bs t,
    let data := leBytes 4 (s.ctx.regX f.xd.toNat).val.toNat
    got (reach 2 (s.ctx.regX f.xa.toNat).val 4 aTagStore (fun p => { act := .tagStore (f.fn.toNat + 1), pieces := [p], data := data })
      .none) (s.setCtx s.ctx.closed) = some (bs, t) →
    exec (.sts f) s = .next (t.retired .t 2).settled) ∧
  (∀ (f : VForm) (s : State), s.ctx.xReady f.a.toNat = true → f.d.toNat < 240 →
    let c := s.ctx.closed
    let s0 := s.setCtx c
    let a := (s.ctx.regX f.a.toNat).val
    c.pReady f.pg.toNat = true →
    let pg := c.pVal f.pg.toNat
    (c.vWritable f.d.toNat 1 false = true → f.dt = 0 → f.dw = 0 → ∀ ps bs t0 t,
      got (taggedGroup (a + BitVec.ofInt 64 (64 * f.imm.toInt)) aTagLoad) s0 = some (ps, t0) →
      got (tAccess 4 { act := .tagLoad false, pieces := ps } (.v (members c f.d.toNat 1) (nibPlaces pg 1))) t0 = some (bs, t) →
      t.ctx = c → let m := byteMask pg 1
      exec (.vldf f) s = .next (t.wordDone 4 (c.putRes f.d.toNat 1 false { val := Nat.land (leNat bs) m, mask := m }))) ∧
    (let ty := f.ty
     let w := tyBits ty
     let g := width f.dw
     let is := (List.range (lanesD f ty)).filter (active pg ty)
     let offs := c.vVal f.b.toNat (width f.bw)
     let hi (i : Nat) : Bool := (elemAddr ty a offs i).2
     let nibs := is.flatMap fun i => if w = 4 then (if hi i then [nowhere, elemBit ty i / 4] else [elemBit ty i / 4, nowhere])
       else (List.range (w / 4)).map (· + elemBit ty i / 4)
     c.vReady f.b.toNat (width f.bw) = true → c.vWritable f.d.toNat g false = true → f.dt = 0 → (8 ≤ w → a.toNat % (w / 8) = 0) →
      (is = [] → exec (.vgath f) s = .next (s0.wordDone 4 (c.putRes f.d.toNat g false {}))) ∧
      (is ≠ [] → ∀ ps bs t0 t, got (placeElems ty a offs aLoad .load is []) s0 = some (ps, t0) →
        got (tAccess 4 { act := .load, pieces := ps, mask := elemMask ty a offs is } (.v (members c f.d.toNat g) nibs)) t0 = some (bs, t) →
        t.ctx = c →
        exec (.vgath f) s = .next (t.wordDone 4 (c.putRes f.d.toNat g false
          { val := leNat (ofNibbles (placeNibs (List.replicate (128 * g) 0) nibs (nibbles bs))),
            mask := (mapLanes ty (lanesD f ty) is.contains fun _ => (0, 0)).mask }))))) ∧
  (∀ (s : State) (who : Who) (core off : Nat) (data : List Byte), off < 0x6000 → off % 4 = 0 → coreOk core = true →
    data.length = 4 → let pa := padAddr core off
    let p : Piece := { pa := pa, len := 4, cls := 0, defer := false, va := 0, elem := 0, stash := false }
    let old := readBytes s pa 4
    let after (a : Access) (bs : List Byte) (now : List Byte) (tag : BitVec 2) : Prop :=
      (performNow who a s).1 = .done bs ∧ readBytes (performNow who a s).2 pa 4 = now ∧ (performNow who a s).2.tag pa = tag
    (s.tag pa = 1 → after { act := .tagLoad false, pieces := [p] } old old 1) ∧
    after { act := .tagLoad true, pieces := [p] } old old 0 ∧
    after { act := .tagStore 0, pieces := [p], data := data } [] data 1 ∧
    after { act := .tagStore 1, pieces := [p], data := data } [] data 1 ∧
    after { act := .tagStore 2, pieces := [p], data := data } [] data 0)

/-- R407 to R411; what the home does is `CellOperationsFollowTheTable`. -/
def Obligations.CellWordsActOnTheirCell : Prop :=
  ∀ (f : VForm) (s : State), s.ctx.xReady f.a.toNat = true →
    let c := s.ctx.closed
    let s0 := s.setCtx c
    let a := (s.ctx.regX f.a.toNat).val
    let ea := a + BitVec.ofInt 64 (64 * f.imm.toInt)
    let b := (s.ctx.regX f.b.toNat).val
    let rd (i : Instr) (op : Nat) : Prop := s.ctx.xWritable f.d.toNat = true → ∀ p bs t0 t,
      got (cellPlace ea aLoad) s0 = some (p, t0) →
      got (tAccess 4 { act := .cell op, pieces := [p] } (.x f.d.toNat 8 false)) t0 = some (bs, t) → t.ctx = s0.ctx →
      exec i s = .next (t.wordDone 4 (t.ctx.putX f.d.toNat (wordOf 8 false bs)))
    let wr (i : Instr) (op : Nat) : Prop := c.vReady f.d.toNat 2 = true → ∀ p bs t0 t,
      got (cellPlace ea aStore) s0 = some (p, t0) →
      got (tAccess 4 { act := .cell op, pieces := [p], data := leBytes 128 (c.vVal f.d.toNat 2) } .none) t0 = some (bs, t) →
      exec i s = .next (t.retired .t 4).settled
    rd (.cstat f) 1 ∧ rd (.waitc f) 5 ∧ wr (.defer f) 2 ∧ wr (.resolve f) 3 ∧
    (s.ctx.xReady f.b.toNat = true →
      (0x100 ≤ b.toNat → b.toNat ≤ 0xFFFF → ∀ p bs t0 t, got (cellPlace a aStore) s0 = some (p, t0) →
        got (tAccess 4 { act := .cell 4, pieces := [p], arg := b } .none) t0 = some (bs, t) →
        exec (.poison f) s = .next (t.retired .t 4).settled) ∧
      (b.toNat < 0x100 ∨ 0xFFFF < b.toNat → s.awaits .t = false →
        exec (.poison f) s = .next (s0.trapped s0 0 0x03 0 5).settled)) ∧
    (∀ p t0, got (cellPlace ea aLoad) s0 = some (p, t0) →
      let acc : Access := { act := .cell 0, pieces := [p] }
      let r := perform (.core t0.turn .t) acc t0
      let t : State := if p.isRemote then (newRequest t0.turn .t acc .none 0 (some 0) [] t0).2 else match r.1 with
        | .wait on | .full on => { r.2 with waiters := r.2.waiters ++ [⟨.slot (ownSlot r.2 p.pa), acc, .none, on, 0, true⟩] }
        | _ => r.2
      exec (.touch f) s = .next (t.retired .t 4).settled) ∧
    (∀ p t0 code, got (placeAligned ea 128 128 code) s0 = some (p, t0) →
      cellPlace ea code s0 = if p.defer then .ok p t0 else .error (.trap 0x11 ea (faultInfo code fPerm p)) t0)

/-- Table 9-3; the cell operations are numbered as Table 2-3 numbers CELLOP: 1 CSTAT, 2 DEFER, 3 RESOLVE, 4 POISON. -/
def Obligations.CellOperationsFollowTheTable : Prop :=
  ∀ (s : State) (who : Who) (line : Nat) (data : List Byte) (arg : Word) (p : Piece), line % 128 = 0 → data.length = 128 →
    (∀ i < 128, isDram (line + i) = true ∧ ∃ q, locate s (line + i) = .ok q) →
    let op (k : Nat) := cellOp k line who data arg p s
    let tag := s.cellTag line
    (tag = 0 ∨ tag = 3 → isFollow s line = false →
      (op 2).1 = .done (leBytes 8 1) ∧ (op 2).2.cellTag line = 1 ∧ readLine (op 2).2 line = data) ∧
    (tag = 1 ∨ tag = 2 → op 2 = (.done (leBytes 8 tag.toNat), s)) ∧
    (tag ≠ 3 → (op 3).1 = .done (leBytes 8 0) ∧ (op 3).2.cellTag line = 0 ∧ readLine (op 3).2 line = data ∧
      (op 3).2.poisoned line = false) ∧
    (tag = 3 → op 3 = (.fault ⟨0x15, leNat (readBytes s (line + 34) 2) * 65536, 1⟩ p, s) ∧ op 4 = (.done (leBytes 8 3), s)) ∧
    (tag ≠ 3 → (op 4).1 = .done (leBytes 8 3) ∧ (op 4).2.cellTag line = 3 ∧
      leNat (readBytes (op 4).2 (line + 34) 2) = arg.toNat % 65536) ∧
    op 1 = (.done (leBytes 8 (cellWord s line true)), s) ∧ cellWord s line true % 4 = tag.toNat ∧
    (∀ k a, a < line ∨ line + 128 ≤ a → isDram a = true → k = 2 ∨ k = 3 ∨ k = 4 → readPhys (op k).2 a = readPhys s a)

/-- R404, R406, R416, R417; Table 17-6, operations 0 to 7, where I32 and I64 are the types of class I with 32 and 64 bits. -/
def Obligations.AtomicAndFlagWordsReturnTheOldValue : Prop :=
  (∀ (f : VForm) (s : State), s.ctx.xReady f.a.toNat = true →
     let c := s.ctx.closed
     let s0 := s.setCtx c
     let a := (s.ctx.regX f.a.toNat).val
     let b := (s.ctx.regX f.b.toNat).val
     let d := (s.ctx.regX f.d.toNat).val
     let ty := f.ty
     let n := tyBits ty / 8
     let amo (i : Instr) (op : Nat) (uns : Bool) (cmp : Word) : Prop := ∀ bs t,
       got (reach 4 a n aAtomic (fun p => { act := .amo op uns ty, pieces := [p], data := leBytes n b.toNat, arg := cmp })
         (.x f.d.toNat n (ty == 8))) s0 = some (bs, t) → t.ctx = s0.ctx →
       exec i s = .next (t.wordDone 4 (t.ctx.putX f.d.toNat (if ty = 8 then wordOf 4 true bs else wordOf n false bs)))
     let flag (i : Instr) (op : Nat) : Prop := ∀ p bs t0 t,
       got (flagPlace a) s0 = some (p, t0) → (op ≠ 2 → releaseWaits t0 3 = false) →
       got (tAccess 4 { act := .flag op, pieces := [p], arg := b } (.x f.d.toNat 8 false))
         (if op = 2 then t0 else releaseScope t0 t0.turn 3) = some (bs, t) → t.ctx = s0.ctx →
       let t' := if op = 2 then acquireModule t t.turn else t
       exec i s = .next (t'.wordDone 4 (t.ctx.putX f.d.toNat (wordOf 8 false bs)))
     (s.ctx.xReady f.b.toNat = true → s.ctx.xWritable f.d.toNat = true →
       amo (.amoadd f) 0 false 0 ∧ amo (.amomin f) 1 (f.fn8.getLsbD 0) 0 ∧ amo (.amomax f) 2 (f.fn8.getLsbD 0) 0 ∧
       amo (.amoand f) 3 false 0 ∧ amo (.amoor f) 4 false 0 ∧ amo (.amoxor f) 5 false 0 ∧ amo (.amoswp f) 6 false 0 ∧
       (s.ctx.xReady f.d.toNat = true → amo (.amocas f) 7 false d) ∧ amo (.amofadd f) 8 false 0 ∧
       flag (.fadd f) 0 ∧ flag (.fset f) 1 ∧ flag (.farm f) 2) ∧
     (let g := width f.dw
      let pg := c.pVal f.pg.toNat
      let act (i : Nat) : Bool := active pg ty i
      let m := (mapLanes ty (lanesD f ty) act fun _ => (0, 0)).mask
      c.vReady f.d.toNat g = true → c.pReady f.pg.toNat = true →
       ((List.range (lanesD f ty)).any act = false →
         (a.toNat < 2 ^ 56 → a.toNat % 64 = 0 → exec (.vamoadd f) s = .next (s0.retired .t 4).settled) ∧
         (s.awaits .t = false →
           (2 ^ 56 ≤ a.toNat → exec (.vamoadd f) s = .next (s0.trapped s0 0 0x10 a 131).settled) ∧
           (a.toNat < 2 ^ 56 → a.toNat % 64 ≠ 0 → exec (.vamoadd f) s = .next (s0.trapped s0 0 0x12 a 3).settled))) ∧
       ((List.range (lanesD f ty)).any act = true → ∀ ps bs t0 t, got (groupPieces a g aAtomic) s0 = some (ps, t0) →
         got (tAccess 4 { act := .vamo ty, pieces := ps, data := leBytes (64 * g) (c.vVal f.d.toNat g),
                          mask := (List.range (128 * g)).map fun i => Nat.shiftRight m (4 * i) % 16 == 15 } .none) t0 = some (bs, t) →
         exec (.vamoadd f) s = .next (t.retired .t 4).settled))) ∧
  (∀ (w : Nat) (ty : BitVec 4) (m v k : BitVec w), tyBits ty = w → w = 32 ∨ w = 64 →
     let new (op : Nat) (uns : Bool) : Nat := amoNew op uns ty m.toNat v.toNat k.toNat
     new 0 false = (m + v).toNat ∧
     new 1 false = (if v.slt m then v else m).toNat ∧ new 1 true = (if v.ult m then v else m).toNat ∧
     new 2 false = (if m.slt v then v else m).toNat ∧ new 2 true = (if m.ult v then v else m).toNat ∧
     new 3 false = (m &&& v).toNat ∧ new 4 false = (m ||| v).toNat ∧ new 5 false = (m ^^^ v).toNat ∧
     new 6 false = v.toNat ∧ new 7 false = (if m = k then v else m).toNat)

/-- R418 to R421 and, for the last part, R216: words 0 to 3 are expected, arrived, phase with waiters, status. -/
def Obligations.BarrierWordsActOnTheirObject : Prop :=
  (∀ (f : VForm) (s : State), s.ctx.xReady f.a.toNat = true →
    let s0 := s.setCtx s.ctx.closed
    let a := (s.ctx.regX f.a.toNat).val
    let b := (s.ctx.regX f.b.toNat).val.toNat % 2 ^ 32
    (s.ctx.xReady f.b.toNat = true →
      (∀ p t, got (barrierPlace a aTagStore false) s0 = some (p, t) →
        exec (.binit f) s = .next ((binit t p.pa b).retired .t 4).settled) ∧
      (∀ p t, got (barrierPlace a aTagStore true) s0 = some (p, t) →
        exec (.bexp f) s = .next ((bexp t p.pa b).retired .t 4).settled)) ∧
    (∀ p t, got (barrierPlace a aTagStore true) s0 = some (p, t) →
      exec (.binv f) s = .next ((binv t p.pa).retired .t 4).settled) ∧
    (s.ctx.xWritable f.d.toNat = true → ∀ p t, got (barrierPlace a aTagLoad true) s0 = some (p, t) →
      exec (.btest f) s = .next (t.wordDone 4 (t.ctx.putX f.d.toNat (wordOf 8 false (readBytes t (p.pa + 8) 8)))) ∧
      (∀ bs t', got (tAccess 4 { act := .barWait (f.imm.getLsbD 0), pieces := [p] } (.x f.d.toNat 4 false)) t = some (bs, t') →
        t'.ctx = s0.ctx →
        exec (.bwait f) s =
          .next ((acquireAt t' t'.turn p.pa).wordDone 4 (t'.ctx.putX f.d.toNat (wordOf 4 false bs)))))) ∧
  (∀ (s : State) (core off n : Nat), off % 16 = 0 → off < 0x6000 → coreOk core = true → s.waiters = [] →
    let b := padAddr core off
    let e := barWord s b 0
    let sum := min (barWord s b 1 + n) (2 ^ 32 - 1)
    let r := arrive s b n false 0
    let words (t : State) : List Nat := (List.range 4).map (barWord t b)
    isBarrier s b = true → r.2 = true ∧ words r.1 =
      if 0 < e ∧ e ≤ sum then [e, sum - e, (if barWord s b 2 % 2 = 0 then barWord s b 2 + 1 else barWord s b 2 - 1),
        if e < sum then Nat.lor (barWord s b 3) 1 else barWord s b 3]
      else [e, sum, barWord s b 2, barWord s b 3]) ∧
  (∀ (s : State) (core off n : Nat), off % 16 = 0 → off < 0x6000 → coreOk core = true → s.waiters = [] →
    let b := padAddr core off
    isBarrier s b = false → arrive s b n false 0 = (s, false) ∧
      (n < 2 ^ 32 → isBarrier (binit s b n) b = true ∧ (List.range 4).map (barWord (binit s b n) b) = [n, 0, 0, 0]))

/-- R147, R422 to R425. -/
def Obligations.RangeAndStreamWordsUseTheirUnits : Prop :=
  ∀ (f : VForm) (s : State),
    let c := s.ctx.closed
    let s0 := s.setCtx c
    let site := siteOf s.turn
    let j := f.fn8.toNat
    let a := (s.ctx.regX f.a.toNat).val
    let b := (s.ctx.regX f.b.toNat).val
    let d := (s.ctx.regX f.d.toNat).val
    let set (u : RangeUnit) : State := s0.modDie site fun k => { k with ranges := mapSet k.ranges j u }
    (s.ctx.xReady f.a.toNat = true → s.ctx.xReady f.b.toNat = true → s.ctx.xReady f.d.toNat = true →
      (a.toNat < 2 ^ 48 ∧ b.toNat < 2 ^ 48 ∧ d.toNat < 2 ^ 28 → exec (.rginit f) s = .next ((set
        { next := a.truncate 48, remain := b.truncate 48,
          minc := if d.truncate 16 = (0 : BitVec 16) then 1 else d.truncate 16,
          pdiv := if d.extractLsb' 16 12 = 0 then 1 else d.extractLsb' 16 12, takes := 0 }).retired .t 4).settled) ∧
      (2 ^ 48 ≤ a.toNat ∨ 2 ^ 48 ≤ b.toNat ∨ 2 ^ 28 ≤ d.toNat → s.awaits .t = false →
        exec (.rginit f) s = .next (s0.trapped s0 0 0x03 0 5).settled)) ∧
    (s.ctx.xWritable f.d.toNat = true → s.ctx.xWritable (f.d.toNat + 1) = true →
      let u := mapGet {} (s.die site).ranges j
      let len := min (max u.minc.toNat ((u.remain.toNat + u.pdiv.toNat - 1) / u.pdiv.toNat)) u.remain.toNat
      let t := set { u with next := u.next + BitVec.ofNat 48 len, remain := u.remain - BitVec.ofNat 48 len, takes := u.takes + 1 }
      exec (.rgtake f) s = .next (t.wordDone 4
        ((c.putX f.d.toNat (u.next.zeroExtend 64)).putX (f.d.toNat + 1) (BitVec.ofNat 64 len)))) ∧
    exec (.sunbind f) s = .next (s.wordDone 4 { c with streams := mapDel c.streams j }) ∧
    (s.ctx.xWritable f.d.toNat = true → exec (.sstat f) s = .next (s.wordDone 4 (c.putX f.d.toNat
      (match mapFind c.streams j with
        | none => 0
        | some q => BitVec.ofNat 64 (1 + (if q.write then 2 else 0) + (if q.pos = q.c0 * q.c1 * q.c2 then 4 else 0) +
            256 * min q.pos (2 ^ 56 - 1)))))) ∧
    (s.ctx.xReady f.a.toNat = true → a.toNat < 2 ^ 56 → a.toNat % 16 = 0 → ∀ ps bs t0 t,
      got (descPieces a 3) s0 = some (ps, t0) → got (tAccess 4 { act := .load, pieces := ps } .again) t0 = some (bs, t) →
      t.ctx = c →
      (∀ q, streamOf bs = some q → exec (.sbind f) s = .next (t.wordDone 4 { c with streams := mapSet c.streams j q })) ∧
      (streamOf bs = none → s.awaits .t = false → exec (.sbind f) s = .next (s0.trapped t 0 0x03 0 5).settled))

/-- R246 to R250, R412 to R415. -/
def Obligations.RecipeWordsBindDropAndUnbind : Prop :=
  ∀ (f : VForm) (s : State),
    let c := s.ctx.closed
    let s0 := s.setCtx c
    let k := kindOfCode (f.fn8.extractLsb' 0 2)
    let r := namedReg c k f.d.toNat
    let slot := (f.fn8.extractLsb' 3 5).toNat
    let a := (s.ctx.regX f.a.toNat).val
    (s.ctx.xReady f.a.toNat = true → a.toNat < 2 ^ 56 → a.toNat % 2 = 0 → isZeroReg k r = false →
      (k = .v → f.d.toNat < 240 ∧ r < c.vallot) → ∀ body t, got (bodyWords a (f.imm.toNat % 4 + 1)) s0 = some (body, t) → t.ctx = c →
      (∀ pins, checkBody c (k, r) body false [] = some pins →
        (∀ old, mapFind c.recipes slot = some old → c.fill old.kind old.target ≠ .dropped) →
        let rest := (mapDel c.recipes slot).filter fun (e : Nat × Recipe) => !(e.2.kind == k && e.2.target == r)
        let rot := BitVec.ofNat 32 (c.vsize + c.psize * 256 + c.vrrb * 65536 + c.prrb * 2 ^ 24)
        exec (.rcpdef f) s = .next (t.wordDone 4 { c with recipes := mapSet rest slot ⟨body, k, r, pins, rot⟩ })) ∧
      (checkBody c (k, r) body false [] = none → s.awaits .t = false →
        exec (.rcpdef f) s = .next (s0.trapped t 0 0x09 0 0).settled)) ∧
    ((k = .v → f.d.toNat < 240) →
      (c.slotOf k r ≠ none → c.pending k r = false → exec (.rcpdrop f) s = .next (s.wordDone 4 (c.setFill k r .dropped))) ∧
      (c.slotOf k r = none → s.awaits .t = false → exec (.rcpdrop f) s = .next (s0.trapped s0 0 0x09 0 0).settled)) ∧
    (mapFind c.recipes slot = none → exec (.rcpkill f) s = .next (s.wordDone 4 c)) ∧
    (∀ old, mapFind c.recipes slot = some old → c.fill old.kind old.target ≠ .dropped →
      exec (.rcpkill f) s = .next (s.wordDone 4 { c with recipes := mapDel c.recipes slot })) ∧
    (isZeroReg k r = true → exec (.rempty f) s = .next (s.wordDone 4 c)) ∧
    (isZeroReg k r = false → (k = .v → r < c.vallot) → c.writable k r = true →
      exec (.rempty f) s = .next (s.wordDone 4 ((unbind c k r).setFill k r .empty))) ∧
    (k = .v → c.vallot ≤ r → s.awaits .t = false →
      exec (.rempty f) s = .next (s0.trapped s0 0 0x02 0 (BitVec.ofNat 64 (f.d.toNat * 2 ^ 48))).settled) ∧
    (s.ctx.xWritable f.d.toNat = true →
      exec (.rstate f) s = .next (s.wordDone 4 (c.putX f.d.toNat (BitVec.ofNat 64 (regState c k (namedReg c k f.a.toNat)))))) ∧
    -- a replay (R249): of a body of one word, of a body load, with a source that is EMPTY, at depth 3
    (∀ (j : Nat) (w : Recipe), mapFind s.ctx.recipes j = some w →
      ((∀ p ∈ w.pins, s.ctx.fill p.1 p.2 = .full) → ∀ b : BForm,
        let a := (s.ctx.regX b.xa.toNat).val
        (w.kind = .x → w.target = b.xd.toNat → w.target ≠ 0 →
          ∀ e ∈ [(Instr.addi b, addiOp b.imm a), (.andi b, andiOp b.imm a), (.ori b, oriOp b.imm a), (.xori b, xoriOp b.imm a),
            (.shli b, shliOp b.imm a), (.shri b, shriOp b.imm a), (.shai b, shaiOp b.imm a), (.cseti b, csetiOp b.imm a)],
          w.body = [e.1] → ∃ t, got (replay j) s = some ((), t) ∧ t.ctx.regX w.target = { val := e.2.1 } ∧
            (∀ n, n ≠ w.target → t.ctx.regX n = s.ctx.regX n) ∧ t.ctx.flags = s.ctx.flags ∧ t.ctx.recipes = s.ctx.recipes) ∧
        (∀ e ∈ [(Instr.ldb b, 1), (.ldh b, 2), (.ldw b, 4), (.ldd b, 8), (.ldbs b, 1), (.ldhs b, 2), (.ldws b, 4)],
          w.body = [e.1] → ∀ p t, got (placeAligned (a + b.imm.signExtend 64 * BitVec.ofNat 64 e.2) e.2 e.2 aLoad) s = some (p, t) →
            ∀ l, translateHere t p.va aLoad = .ok l → l.w = true ∨ l.defer = true →
            replay j s = .error (.trap 0x09 p.va (replayInfo j 0)) t)) ∧
      ((∃ p ∈ w.pins, s.ctx.fill p.1 p.2 = .empty) → (∀ p ∈ w.pins, s.ctx.fill p.1 p.2 ≠ .dropped) →
        replay j s = .error .stall s) ∧
      (∀ p j2 w2 w2', w.pins = [p] → s.ctx.fill p.1 p.2 = .dropped → s.ctx.slotOf p.1 p.2 = some (j2, w2') →
        mapFind s.ctx.recipes j2 = some w2 → ∀ q j3 w3, w2.pins = [q] → s.ctx.fill q.1 q.2 = .dropped →
        s.ctx.slotOf q.1 q.2 = some (j3, w3) → replay j s = .error (.trap 0x08 0 (replayInfo j3 0)) s)) ∧
    -- words that read a DROPPED register, or write one that a DROPPED register's slot pins (R249, R250)
    (∀ g : BForm,
      let words : List (Instr × (Word → Alu)) :=
        [(.addi g, addiOp g.imm), (.andi g, andiOp g.imm), (.ori g, oriOp g.imm), (.xori g, xoriOp g.imm), (.shli g, shliOp g.imm),
         (.shri g, shriOp g.imm), (.shai g, shaiOp g.imm), (.cseti g, csetiOp g.imm)]
      let xa := g.xa.toNat
      let xd := g.xd.toNat
      let fails (i : Instr) (j : Nat) : Prop :=
        (∀ u, replay j s = .error .stall u → exec i s = .next (noteStall s)) ∧
        (∀ cause addr info u, replay j s = .error (.trap cause addr info) u → s.awaits .t = false →
          exec i s = .next (s.trapped u 0 cause addr info).settled)
      (∀ j w, s.ctx.fill .x xa = .dropped → s.ctx.slotOf .x xa = some (j, w) → mapFind s.ctx.recipes j = some w →
        ∀ e ∈ words, fails e.1 j ∧ ∀ t, got (replay j) s = some ((), t) → t.ctx.xWritable xd = true →
          exec e.1 s = .next (t.aluDone g.xd (e.2 (t.ctx.regX xa).val))) ∧
      (∀ j w, s.ctx.xReady xa = true → xd ≠ 0 → s.ctx.pending .x xd = false →
        s.ctx.recipes.filter (fun r => r.2.pins.contains (.x, xd) && s.ctx.fill r.2.kind r.2.target == .dropped) = [(j, w)] →
        ∀ e ∈ words, fails e.1 j ∧ ∀ t, got (replay j) s = some ((), t) →
          exec e.1 s = .next (t.aluDone g.xd (e.2 (s.ctx.regX xa).val)) ∧
          ∀ v, ∀ r ∈ (t.ctx.putX xd v).recipes, (Kind.x, xd) ∉ r.2.pins ∧ ¬ (r.2.kind = .x ∧ r.2.target = xd)))

/-- R363, R364, R367, R369. What the operations give for elements is `VectorElementsFollowTheirType`. -/
def Obligations.VectorArithmeticWritesItsActiveElements : Prop :=
  ∀ (f : VForm) (s : State),
    let c := s.ctx
    let t := f.ty
    let n := lanesD f t
    let m := c.modeOf f
    let done (b d : Bool) (op : EOp) : State :=
      let r := mapLanes t n (active (c.opPg f) t) fun i => op t.toNat m f.sat (if m = 5 then draw c.srseed c.srctr i else 0)
        (elemOf t (c.opA f) i) (elemOf t (if b then c.opB f else 0) i) (elemOf t (if d then c.opD f else 0) i)
      if isF t then s.vecDone f r n else s.vecMoved f r
    (c.vecReady f true false false = true →
      exec (.vabs f) s = .next (done false false eAbs) ∧ exec (.vneg f) s = .next (done false false eNeg) ∧
      exec (.vsqrt f) s = .next (done false false (eUn sqrtVal)) ∧ exec (.vrcp f) s = .next (done false false (eUn rcpVal)) ∧
      exec (.vrsq f) s = .next (done false false (eUn rsqVal)) ∧ exec (.vexp2 f) s = .next (done false false (eUn exp2Val)) ∧
      exec (.vlog2 f) s = .next (done false false (eUn log2Val))) ∧
    (c.vecReady f true true false = true →
      exec (.vadd f) s = .next (done true false eAdd) ∧ exec (.vsub f) s = .next (done true false eSub) ∧
      exec (.vmul f) s = .next (done true false eMul) ∧ exec (.vmin f) s = .next (done true false eMin) ∧
      exec (.vmax f) s = .next (done true false eMax) ∧ exec (.vdiv f) s = .next (done true false eDiv) ∧
      exec (.vscl f) s = .next (done true false eScl)) ∧
    (c.vecReady f true true true = true →
      exec (.vfma f) s = .next (done true true eFma) ∧ exec (.vfms f) s = .next (done true true eFms))

/-- R371 to R373, R376 to R379. -/
def Obligations.VectorBitAndMoveWordsPlaceTheirElements : Prop :=
  ∀ (f : VForm) (s : State),
    let c := s.ctx
    let t := f.ty
    let w := tyBits t
    let n := lanesD f t
    let a (i : Nat) : Nat := elemOf t (c.opA f) i
    let b (i : Nat) : Nat := elemOf t (c.opB f) i
    let act := active (c.opPg f) t
    let put (e : Nat → Nat) : State := s.vecMoved f (mapLanes t n act fun i => (e i, 0))
    let shift (e : Nat → Nat) : State := s.vecMoved f (mapLanes t (min (width f.aw * tyLanes t) n) act fun i => (e i, 0))
    let x := (c.regX f.a.toNat).val.toNat
    (c.vecReady f true false false = true →
      exec (.vnot f) s = .next (put fun i => 2 ^ w - 1 - a i) ∧ exec (.vmov f) s = .next (put a) ∧
      exec (.vslide f) s = .next (put fun i =>
        let k : Int := i + f.imm.toInt
        if 0 ≤ k ∧ k < (width f.aw * tyLanes t : Nat) then a k.toNat else 0) ∧
      (f.fn.getLsbD 0 = true → exec (.vshl f) s = .next (shift fun i => shiftL w (a i) f.imm.toNat) ∧
        exec (.vshr f) s = .next (shift fun i => shiftR (f.fn.toNat / 2 % 4) w (a i) f.imm.toNat))) ∧
    (c.vecReady f true true false = true →
      exec (.vand f) s = .next (put fun i => Nat.land (a i) (b i)) ∧ exec (.vor f) s = .next (put fun i => Nat.lor (a i) (b i)) ∧
      exec (.vxor f) s = .next (put fun i => Nat.xor (a i) (b i)) ∧
      exec (.vsel f) s = .next (s.vecMoved f (mapLanes t n (fun _ => true) fun i => (if act i then a i else b i, 0))) ∧
      exec (.vperm f) s = .next (put fun i => if b i < n then a (b i) else 0) ∧
      (let h := if f.fn.getLsbD 0 then n else 0
       exec (.vzip f) s = .next (put fun i => if (i + h) % 2 = 0 then a ((i + h) / 2) else b ((i + h) / 2))) ∧
      (let o := if f.fn.getLsbD 0 then 1 else 0
       exec (.vunzip f) s = .next (put fun i => if 2 * i + o < n then a ((2 * i + o) % n) else b ((2 * i + o) % n))) ∧
      (f.fn.getLsbD 0 = false →
        let count (i : Nat) : Nat := if i < width f.bw * tyLanes t then b i else Config.missingCount (c.opA f) (c.opB f) i
        exec (.vshl f) s = .next (shift fun i => shiftL w (a i) (count i)) ∧
        exec (.vshr f) s = .next (shift fun i => shiftR (f.fn.toNat / 2 % 4) w (a i) (count i)))) ∧
    (c.xReady f.a.toNat = true →
      (c.vecReady f false false false = true →
        exec (.vbcast f) s = .next (put fun _ => x) ∧ exec (.viota f) s = .next (put fun i => x + i)) ∧
      (c.vecReady f false false true = true →
        let one := ({} : VRes).add t f.imm.toNat x 0
        exec (.vins f) s = .next (s.vecMoved f
          { val := Nat.lor (c.opD f - Nat.land (c.opD f) one.mask) one.val, mask := allBits (width f.dw) })))

/-- R374, R375, R382 to R390. -/
def Obligations.ConversionsQuantisersAndReductionsWriteTheirResult : Prop :=
  ∀ (f : VForm) (s : State),
    let c := s.ctx
    let t := f.ty
    let n := lanesD f t
    let q := c.roundingOf f
    let pg := c.opPg f
    let conv (src i x : Nat) : Nat × BitVec 7 := convert src t.toNat q.mode q.sat x (q.dr i)
    let quant (e : BitVec 4) (g : Nat → Bool → List Val → (Nat → Nat) → Nat × List (Nat × BitVec 7) × BitVec 7) : State :=
      let k := blockElems e
      let blocks := (List.range (k / 32)).map fun j => g q.mode q.sat
        ((List.range 32).map fun i => decodeFp f.ty2.toNat (elemOf f.ty2 (c.opA f) (32 * j + i))) (fun i => q.dr (32 * j + i))
      let codes := blocks.flatMap fun b => b.2.1
      let m := mapLanes e k (active pg e) fun i => codes.getD i (0, 0)
      s.vecDone f
        { val := Nat.lor m.val ((blocks.zip (List.range (k / 32))).foldl (fun v b => v + b.1.1 * 256 ^ b.2) 0 * 2 ^ 512),
          mask := Nat.lor (Nat.lor m.mask (if tyBits e = 6 then 2 ^ 512 - 2 ^ 384 else 0)) (2 ^ 1024 - 2 ^ 512),
          flags := m.flags ||| blocks.foldl (fun (g : BitVec 7) b => g ||| b.2.2) 0 } k
    let dequant (e : BitVec 4) (value : Nat → Nat → Val) : State :=
      s.vecDone f (mapLanes t (blockElems e) (active pg t) fun i => deliverFp t.toNat q.mode q.sat
        (value (c.opA f / 2 ^ (512 + 8 * (i / 32)) % 256) (elemOf e (c.opA f) i)) (q.dr i)) (blockElems e)
    (c.vecReady f true false false = true →
      (let k := min (width f.aw * tyLanes f.ty2) n
       exec (.vcvt f) s =
         .next (s.vecDone f ((mapLanes t k (active pg t) fun i =>
           conv f.ty2.toNat i (elemOf f.ty2 (c.opA f) i)).padSix t (width f.dw)) k)) ∧
      (let k := width f.aw * tyLanes t
       let e := reduceElems t f.b.toNat q (elems t (c.opA f) k pg)
       exec (.vred f) s = .next (s.vecDone f { val := e.1 % 2 ^ tyBits t, mask := allBits 1, flags := e.2 } k)) ∧
      (let z := scanElems t f.b.toNat q (elems t (c.opA f) n pg)
       let v := mapLanes t n (active pg t) fun i => z.1.getD i (0, 0)
       exec (.vscan f) s = .next (s.vecDone f { v with flags := v.flags ||| z.2 } n)) ∧
      exec (.vqmx f) s = .next (quant t (mxQuantise t.toNat)) ∧ exec (.vqnb f) s = .next (quant 14 (nbQuantise (f.b.toNat % 4))) ∧
      exec (.vdqmx f) s = .next (dequant f.ty2 (mxValue f.ty2.toNat)) ∧ exec (.vdqnb f) s = .next (dequant 14 nbValue)) ∧
    (c.vecReady f true true false = true →
      let src := packSource t
      let l := tyLanes src
      exec (.vpack f) s = .next (s.vecDone f (mapLanes t (2 * l) (active pg t) fun i =>
        conv src.toNat i (if i < l then elemOf src (c.opA f) i else elemOf src (c.opB f) (i - l))) (2 * l))) ∧
    (c.vecReady f true true true = true →
      exec (.vbdot f) s = .next (s.vecMoved f (mapLanes 0 (width f.aw * tyLanes t / 32) (active pg 0) fun k =>
        let r := blockDot 1 (BitVec.ofNat 32 (elemOf 0 (c.opD f) k), 0) ((List.range 32).map fun j =>
          (decodeAny t.toNat (elemOf t (c.opA f) (32 * k + j)), decodeAny t.toNat (elemOf t (c.opB f) (32 * k + j))))
        (r.1.toNat, r.2)))) ∧
    (let k := c.closed
     k.vecReady f false false false = true →
      exec (.vrand f) s = .next (s.wordDone 4 (let r := mapLanes t n (active (k.opPg f) t) fun j =>
          (randElem t (drawWord c.srseed c.srctr j), 0)
        { k.putRes f.d.toNat (width f.dw) (f.dt == 1) r with srctr := c.srctr + BitVec.ofNat 64 n })))

/-- R370, R377, R380, R381. An element's bits in a predicate are those of its bytes (R363). -/
def Obligations.PredicateWordsAndExtractionWriteTheirResult : Prop :=
  ∀ (f : VForm) (s : State),
    let c := s.ctx
    let t := f.ty
    let pa := c.pVal f.a.toNat
    let pb := c.pVal f.b.toNat
    let set := (List.range (tyLanes t)).filter fun k => pa.getLsbD (k * tyBits t / 8)
    (c.pWritable f.d.toNat (f.dt == 1) = true →
      (c.vReady f.a.toNat (width f.aw) = true → c.vReady f.b.toNat (width f.bw) = true → c.pReady f.pg.toNat = true →
        exec (.vcmp f) s = .next (s.predDone f (predOf t fun k =>
          active (c.opPg f) t k && cmpTrue f.fn.toNat (cmpElem t.toNat (elemOf t (c.opA f) k) (elemOf t (c.opB f) k))))) ∧
      (c.pReady f.a.toNat = true →
        exec (.pnot f) s = .next (s.predDone f (~~~pa)) ∧
        exec (.pfirst f) s = .next (s.predDone f (if set = [] then 0 else predOf t (· == set.headD 0))) ∧
        (c.pReady f.b.toNat = true →
          exec (.pand f) s = .next (s.predDone f (pa &&& pb)) ∧ exec (.por f) s = .next (s.predDone f (pa ||| pb)) ∧
          exec (.pxor f) s = .next (s.predDone f (pa ^^^ pb)))) ∧
      (c.xReady f.a.toNat = true → c.xReady f.b.toNat = true →
        exec (.pwhile f) s =
          .next (s.predDone f (predOf t fun k => (c.regX f.a.toNat).val.toInt + k < (c.regX f.b.toNat).val.toInt)))) ∧
    (c.xWritable f.d.toNat = true →
      (c.pReady f.a.toNat = true → exec (.pcnt f) s = .next (s.wordDone 4 (c.putX f.d.toNat (BitVec.ofNat 64 set.length)))) ∧
      (c.vReady f.a.toNat (width f.aw) = true →
        let e := elemOf t (c.opA f) f.imm.toNat
        exec (.vextr f) s = .next (s.wordDone 4 (c.putX f.d.toNat
          (if (isI t = true ∧ t ≠ 12) ∨ t = 11 then BitVec.ofInt 64 (BitVec.ofNat (tyBits t) e).toInt else BitVec.ofNat 64 e)))))

/-- R274, R368, R369, R373, for the type codes of the signed integers of 32, 16, 8 and 64 bits. -/
def Obligations.VectorElementsFollowTheirType : Prop :=
  (∀ (t m dr a b d : Nat), t = 8 ∨ t = 9 ∨ t = 10 ∨ t = 13 →
    let w := tyBits (BitVec.ofNat 4 t)
    let v (x : Nat) : Int := (BitVec.ofNat w x).toInt
    let lo : Int := -(2 ^ (w - 1))
    let hi : Int := 2 ^ (w - 1) - 1
    let out (op : EOp) (z : Int) : Prop :=
      op t m false dr a b d = ((BitVec.ofInt w z).toNat, if z < lo ∨ hi < z then fIOV else 0) ∧
      op t m true dr a b d = ((BitVec.ofInt w (max lo (min hi z))).toNat, if z < lo ∨ hi < z then fSAT else 0)
    a < 2 ^ w → b < 2 ^ w → d < 2 ^ w →
      out eAdd (v a + v b) ∧ out eSub (v a - v b) ∧ out eMul (v a * v b) ∧ out eFma (v a * v b + v d) ∧
      out eFms (v d - v a * v b) ∧ out eAbs (v a).natAbs ∧ out eNeg (-v a) ∧
      eMin t m false dr a b d = (if v b < v a then b else a, 0) ∧ eMax t m false dr a b d = (if v a < v b then b else a, 0) ∧
      cmpElem t a b = some (if v a < v b then .lt else if v a = v b then .eq else .gt)) ∧
  (∀ (w : Nat) (a : BitVec w) (c : Nat), 0 < w →
    shiftL w a.toNat c = (a <<< c).toNat ∧ shiftR 0 w a.toNat c = (a >>> c).toNat ∧
    shiftR 1 w a.toNat c = (a.sshiftRight c).toNat ∧ shiftR 2 w a.toNat c = (a.rotateRight (c % w)).toNat) ∧
  eAdd 0 0 false 0 0x3F800000 0x3F800000 0 = (0x40000000, 0) ∧ eMul 0 0 false 0 0x3FC00000 0xC0000000 0 = (0xC0400000, 0) ∧
  eDiv 0 0 false 0 0x3F800000 0 0 = (0x7F800000, fDZ) ∧ eDiv 0 0 false 0 0 0 0 = (0x7FC00000, fNV)

/-- R426. -/
def Obligations.EngineStackWordsTurnTheirTopEntries : Prop :=
  ∀ (s : State) (n : BitVec 6) (e : Eng) (nop dup drop swap ovr add or shl : Instr),
    (e, nop, dup, drop, swap, ovr, add, or, shl) ∈
      [(Eng.m, Instr.mnop, .mdup, .mdrop, .mswap, .mover, .madd, .mor, .mshl n),
       (Eng.c, Instr.cnop, .cdup, .cdrop, .cswap, .cover, .cadd, .cor, .cshl n)] →
    let g := s.ctx.eng e
    let with_ (st : List Word) : State := s.engDone e { g with params := st, litRun := 0 }
    let s' := s.setCtx (s.ctx.noLit e)
    exec nop s = .next (with_ g.params) ∧
    (∀ t r, g.params = t :: r →
      (r.length < 7 → exec dup s = .next (with_ (t :: t :: r))) ∧ (r.length < 9 → exec drop s = .next (with_ r)) ∧
      (r.length < 8 → exec shl s = .next (with_ (t <<< n.toNat :: r)))) ∧
    (∀ t u r, g.params = t :: u :: r → r.length < 7 →
      exec swap s = .next (with_ (u :: t :: r)) ∧ (r.length < 6 → exec ovr s = .next (with_ (u :: t :: u :: r))) ∧
      exec add s = .next (with_ ((u + t) :: r)) ∧ exec or s = .next (with_ ((u ||| t) :: r))) ∧
    (s.awaits e = false →
      (g.params = [] → ∀ i ∈ [dup, drop, shl], exec i s = .next (s.trapped s' (engCode e) 0x05 0 0).settled) ∧
      (g.params.length < 2 → ∀ i ∈ [swap, ovr, add, or], exec i s = .next (s.trapped s' (engCode e) 0x05 0 0).settled) ∧
      (g.params.length = 8 → ∀ i ∈ [dup, ovr], exec i s = .next (s.trapped s' (engCode e) 0x04 0 0).settled))

/-- R236, R308, R427, R429, R430, R439. That PUSHX and POPX find the registers without what T has executed behind an unanswered access is
notes/assumptions/18.md. -/
def Obligations.EngineHandshakesLiteralsSkipsAndWaits : Prop :=
  (∀ (s : State) (x : BitVec 6) (take trap ph : BitVec 1) (p : BitVec 13) (n : BitVec 8) (e : Eng)
      (pushx popx lit skipz bar wait : Instr),
    (e, pushx, popx, lit, skipz, bar, wait) ∈
      [(Eng.m, Instr.mpushx take trap x, .mpopx x, .mlit p, .mskipz n, .mbar, .mwait ph),
       (Eng.c, Instr.cpushx take trap x, .cpopx x, .clit p, .cskipz n, .cbar, .cwait ph)] →
    let g := s.ctx.eng e
    let g0 : EngCtx := { g with litRun := 0 }
    let s' := s.setCtx (s.ctx.noLit e)
    -- the register file as T has committed it
    let u := s'.modCore s.turn Core.unwind
    let c := u.ctx
    let r := c.regX x.toNat
    (r.fill = .full → g.params.length < 8 →
      let k := c.setEng e { g0 with params := r.val :: g.params }
      (take = 0 ∨ x = 0 → exec pushx s = .next ((u.setCtx k).retired e 1).settled) ∧
      (take = 1 → x ≠ 0 → c.writable .x x.toNat = true →
        exec pushx s = .next ((u.setCtx ((unbind k .x x.toNat).setFill .x x.toNat .empty)).retired e 1).settled)) ∧
    (∀ t st, g.params = t :: st →
      (r.fill = .empty → x ≠ 0 → c.writable .x x.toNat = true →
        let k := (c.setEng e g0).putX x.toNat t
        exec popx s = .next ((u.setCtx (k.setEng e { g0 with params := st })).retired e 1).settled) ∧
      (x = 0 → exec popx s = .next (u.engDone e { g0 with params := st })) ∧
      (0 < g.litRun → g.litRun < 5 →
        exec lit s = .next (s.engDone e { g with params := (t <<< 13 ||| p.zeroExtend 64) :: st, litRun := g.litRun + 1 })) ∧
      (let g1 : EngCtx := { g0 with params := st }
       exec skipz s = .next (s.engDone e (if t = 0 then { g1 with skip := n.toNat } else g1))) ∧
      (t = 0 → exec bar s = .next (s.engDone e { g0 with params := st, breg := none })) ∧
      (t ≠ 0 → ∀ b s1, got (barrierAddr t) s' = some (b, s1) →
        exec bar s = .next (s1.engDone e { s1.ctx.eng e with params := (s1.ctx.eng e).params.drop 1, breg := some b }))) ∧
    (g.litRun = 0 → g.params.length < 8 →
      exec lit s = .next (s.engDone e { g with params := p.signExtend 64 :: g.params, litRun := 1 })) ∧
    (5 ≤ g.litRun → s.awaits e = false → exec lit s = .next (s.trapped s (engCode e) 0x01 0 0).settled) ∧
    (g.breg = none → (launchedHere s').any (fun o => o.eng == e) = false → exec wait s = .next (s.engDone e g0)) ∧
    (∀ b, g.breg = some b →
      let q : Piece := { pa := b, len := 4, cls := 0, defer := false, va := BitVec.ofNat 64 b, elem := 0, stash := false }
      ownPad s.turn q ≠ none → isBarrier s b = true → ∀ bs t,
        got (access e 1 { act := .barWait (ph == 1), pieces := [q] } .none) s' = some (bs, t) →
        exec wait s = .next ((acquireAt t t.turn b).retired e 1).settled)) ∧
  (∀ (s : State) (slot c : BitVec 4) (t : Word) (st : List Word), s.ctx.m.params = t :: st →
    let s' := s.setCtx (s.ctx.noLit .m)
    let epis (s : State) (f : EpiSlot → EpiSlot) : State :=
      s.modCore s.turn fun k => { k with epis := mapSet k.epis slot.toNat (f (mapGet {} k.epis slot.toNat)) }
    exec (.mconst c slot) s =
      .next ((epis (s'.used .m 1) fun p => { p with consts := p.consts.set c.toNat (t.truncate 32) }).retired .m 1).settled ∧
    (t.toNat < 2 ^ 56 → t.getLsbD 0 = false → ∀ ps bs s0 s1, got (rangePieces t aLoad 3 66) s' = some (ps, s0) →
      (∀ p ∈ ps, isControl p.pa = false) → got (access .m 1 { act := .load, pieces := ps } .again) s0 = some (bs, s1) →
      exec (.mepi slot) s =
        .next ((epis (s1.used .m 1) fun p => { p with image := bs, filled := true }).retired .m 1).settled))

/-- R428: `launchOp` and `refuse` are its step 6 and its refusal. CHOFF is in `HandOffWordLaunchesABlock`. That CDECOMP of 0 bytes is refused
and that its table is read and judged at the launch word are the model's reading (notes/assumptions/33.md). -/
def Obligations.CopyWordsLaunchOrRefuseTheirOperation : Prop :=
  ∀ (s : State) (re : BitVec 1) (ty op : BitVec 4), let st := s.ctx.c.params
    let s' := s.setCtx (s.ctx.noLit .c)
    let a (i : Nat) : Word := st.getD i 0
    let k (i : Nat) : Nat := (a i).toNat
    let nothing (i : Instr) (n : Nat) : Prop := exec i s = .next (((s'.used .c n)).retired .c 1).settled
    let by_ (i : Instr) (n : Nat) (checks : M Verdict) : Prop := ∀ v t, got checks s' = some (v, t) → exec i s = .next ((match v with
      | .nothing => t.used .c n
      | .refused count code => refuse (t.used .c n) .c count code
      | .launch o => launchOp (t.used .c n) o).retired .c 1).settled
    let refused (i : Instr) (n count : Nat) : Prop := exec i s = .next ((refuse (s'.used .c n) .c count 1).retired .c 1).settled
    let row (base : Word) (stride j : Nat) : Word := base + BitVec.ofInt 64 (sext 32 stride * (j : Int))
    (3 ≤ st.length →
      (k 0 = 0 → nothing (.ccopy re) 3 ∧ nothing (.cpage re) 3 ∧ nothing (.cfill re) 3) ∧
      (2 ^ 32 ≤ k 0 → refused (.ccopy re) 3 (k 0) ∧ refused (.cpage re) 3 (k 0) ∧ refused (.cfill re) 3 (k 0)) ∧
      (0 < k 0 → k 0 < 2 ^ 32 →
        by_ (.ccopy re) 3 (copyLaunch .copy (k 0) (re == 1) [(a 1, a 2, k 0)] anySeg) ∧
        by_ (.cpage re) 3 (copyLaunch .copy (k 0) (re == 1) [(a 1, a 2, k 0)] slowSeg) ∧
        ((re = 0 ∨ (k 2 % 128 = 0 ∧ k 0 % 128 = 0)) → ∀ dst t, got (segsOf (a 2) (k 0) aDst) s' = some (dst, t) →
          dst.any (badDst t) = false → (re = 0 ∨ dst.all (·.defer) = true) → ∀ u t', got (takeScores [] dst) t = some (u, t') →
          let o : Op := { newOp t .fill .c (k 0) with dst := dst, resolve := re == 1, nums := [k 1] }
          exec (.cfill re) s = .next ((launchOp (t'.used .c 3) o).retired .c 1).settled)) ∧
      (∀ slot m, gmemSlot (s.core s.turn) (k 0 % 256) = some (slot, m) → k 0 / 256 % 256 = 0 → k 0 < 2 ^ 48 → 0 < k 0 / 65536 →
        let n := k 0 / 65536
        let w := tyBits ty / 8
        let ms := groupMembers (mapGet [] s.fw.groups (k 0 % 256))
        let out := collDstLen op.toNat n ms.length * w
        ∀ src t0, got (segsOf (a 1) (collSrcLen op.toNat n ms.length m.member.toNat * w) aSrc) s' = some (src, t0) →
          ∀ dst t, got (segsOf (a 2) out aDst) t0 = some (dst, t) → src.any (badSrc s') = false → dst.any (badDst s') = false →
          let t' := t.modCore t.turn fun c => { c with gmem := mapSet c.gmem slot { m with count := m.count + 1 } }
          let o : Op := { newOp s' .coll .c out with
            src := joinSegs src, dst := joinSegs dst,
            nums := [op.toNat, ty.toNat, n, k 0 % 256, m.count, m.member.toNat] ++ ms }
          exec (.ccoll ty op) s = .next ((launchOp (t'.used .c 3) o).retired .c 1).settled)) ∧
    (4 ≤ st.length →
      (let rows := k 0 % 2 ^ 20
       let n := k 0 / 2 ^ 20 % 2 ^ 20
       (rows = 0 ∨ n = 0 → nothing (.ccopy2 re) 4) ∧
       (0 < rows → 0 < n → 2 ^ 40 ≤ k 0 → refused (.ccopy2 re) 4 (rows * n)) ∧
       (0 < rows → 0 < n → k 0 < 2 ^ 40 → by_ (.ccopy2 re) 4 (copyLaunch .copy (rows * n) (re == 1)
          ((List.range rows).map fun j => (row (a 2) (k 1 % 2 ^ 32) j, row (a 3) (k 1 / 2 ^ 32) j, n)) anySeg))) ∧
      (let count := k 0 % 2 ^ 16
       let off := k 0 / 2 ^ 16 % 2 ^ 15
       let n := k 1
       let pa (i : Nat) : Nat := padAddr s.turn (off + 4 * i)
       let far (base : Word) (i : Nat) : Word := base + BitVec.ofNat 64 (i * n)
       (count = 0 ∨ n = 0 → nothing (.cgath re) 4 ∧ nothing (.cscat re) 4) ∧
       (0 < count → 0 < n → k 0 < 2 ^ 31 → n < 2 ^ 20 → off % 4 = 0 → off + 4 * count ≤ 0x6000 →
        (∀ i < count, inStash s' s.turn (off + 4 * i) = false ∧ s.tag (pa i) ≠ 3) →
        let idx := (List.range count).map fun i => leNat (readBytes s' (pa i) 4)
        by_ (.cgath re) 4 (copyLaunch .gather (count * n) (re == 1)
          ((idx.zip (List.range count)).map fun e => (far (a 2) e.1, far (a 3) e.2, n)) anySeg) ∧
        by_ (.cscat re) 4 (copyLaunch .gather (count * n) (re == 1)
          ((idx.zip (List.range count)).map fun e => (far (a 2) e.2, far (a 3) e.1, n)) anySeg))) ∧
      (let n := k 1
       (n = 0 ∨ 2 ^ 32 ≤ n → refused (.cdecomp) 4 n) ∧
       (0 < n → n < 2 ^ 32 → ∀ table t0, got (segsOf (a 0) 512 aSrc) s' = some (table, t0) →
        ∀ r t1, got (liftH (cellsReady (.core t0.turn .c) (linesOf table))) (dropRanges t0 t0.turn table) = some (r, t1) → r.1 = false →
        ∀ bytes t2, got (readHere (linesOf table)) t1 = some (bytes, t2) →
        let tab := bytes.map (·.1)
        ∀ src t3, got (match decompBound n tab with
          | some bound => segsOf (a 2) bound aSrc
          | none => pure []) t2 = some (src, t3) →
        ∀ dst t4, got (segsOf (a 3) n aDst) t3 = some (dst, t4) →
        let bad : Prop := r.2 ≠ none ∨ bytes.any (·.2 != 0) = true ∨ (table ++ src).any (badSrc t4) = true ∨ dst.any (badDst t4) = true
        (decompTable tab = none ∨ bad → exec .cdecomp s = .next ((refuse (t4.used .c 4) .c n 1).retired .c 1).settled) ∧
        (∀ size codes, decompTable tab = some (size, codes) → ¬bad → ∀ u t5, got (takeScores src dst) t4 = some (u, t5) →
          let o : Op := { newOp t4 .decomp .c n with src := src, dst := dst, nums := size :: bytes.map (·.1.toNat) }
          exec .cdecomp s = .next ((launchOp (t5.used .c 4) o).retired .c 1).settled)))) ∧
    (2 ≤ st.length →
      (k 0 = 0 → nothing .cpref 2 ∧ nothing .cflush 2) ∧
      (2 ^ 32 ≤ k 0 → refused .cpref 2 0 ∧ refused .cflush 2 (k 0)) ∧
      (0 < k 0 → k 0 < 2 ^ 32 → ∀ gs t, got (segsOf (a 1) (k 0) aSrc) s' = some (gs, t) →
        (∀ u t', got (prefetchGo (k 0 / 65536 + 2) (a 1) (k 0)) t = some (u, t') →
          exec .cpref s = .next ((t'.used .c 2).retired .c 1).settled) ∧
        let sel (l : Nat) : Bool := gs.any fun g => g.pa < l + 128 && l < g.pa + g.len
        (gs.any (segPrivate t t.turn) = true → exec .cflush s = .next ((refuse (t.used .c 2) .c (k 0) 1).retired .c 1).settled) ∧
        (gs.any (segPrivate t t.turn) = false →
          ((linesHeld (t.core t.turn)).any fun l => sel l.addr && l.dirty != 0 && t.pinned l.addr) = false →
        let t' := cleanLines t t.turn true sel
        exec .cflush s = .next ((launchOp (t'.used .c 2) (newOp t' .flush .c (k 0))).retired .c 1).settled)))

/-- R433, R436, R437; `matrixChecks` are the checks of R428 for them. The seed and the counter that a record takes are those that T has
committed: `unwind` takes back what it has executed behind an unanswered access (notes/assumptions/18.md). -/
def Obligations.MatrixWordsEnterTheirRecord : Prop :=
  (∀ (s : State) (slot : BitVec 4) (ea mc acc : BitVec 1) (i : Instr) (mmma : Bool),
    (i, mmma) ∈ [(Instr.mmma slot ea mc acc, true), (.mmva slot ea mc acc, false)] →
    let s' := (s.setCtx (s.ctx.noLit .m)).modCore s.turn Core.unwind
    let st := s.ctx.m.params
    let g := geoOf mmma (st.getD 0 0)
    (isP (siteOf s.turn) = mmma →
      (freeTile s' s.turn = none → exec i s = .next { s with stalls := s.stalls + 1 }) ∧
      (∀ key, freeTile s' s.turn = some key → 4 ≤ st.length → ∀ v t,
        got (matrixChecks mmma slot ea mc acc key (st.take 4)) s' = some (v, t) →
        exec i s = .next ((match v with
          | .refused code => refuse (t.used .m 4) .m g.count code
          | .launch o r sr =>
            let t' := enterTile (launchOp (t.used .m 4) o) t.turn key r
            if sr then t'.setCtx { t'.ctx with srctr := t'.ctx.srctr + BitVec.ofNat 64 (g.m * g.n) } else t').retired .m 1).settled)) ∧
    (isP (siteOf s.turn) ≠ mmma → s.awaits .m = false → exec i s = .next (s.trapped s' 1 0x01 0 0).settled)) ∧
  (∀ s : State, let s' := s.setCtx (s.ctx.noLit .m)
    let st := s.ctx.m.params
    let b := st.getD 0 0
    let p := st.getD 1 0
    (isP (siteOf s.turn) = true →
      (freeTile s' s.turn = none → exec .mswpw s = .next { s with stalls := s.stalls + 1 }) ∧
      (∀ key, freeTile s' s.turn = some key → 2 ≤ st.length →
        let mark (t : State) (bar : Option Nat) (phase : Bool) : State := enterTile (t.used .m 2) t.turn key
          { noTile with w := p, bar := bar, core := t.turn, task := BitVec.ofNat 12 (taskIndex t.ctx.taskid), kind := 2, phase := phase }
        (8 ≤ p.toNat ∨ (b ≠ 0 ∧ b.toNat < 2 ^ 56 ∧ b.toNat % 16 ≠ 0) →
          exec .mswpw s = .next ((refuse (s'.used .m 2) .m 0 1).retired .m 1).settled) ∧
        (p.toNat < 8 → b = 0 → exec .mswpw s = .next ((mark s' none false).retired .m 1).settled) ∧
        (p.toNat < 8 → b ≠ 0 → b.toNat < 2 ^ 56 → b.toNat % 16 = 0 → ∀ q t, got (placeOf b 16 aTagStore 0) s' = some (q, t) →
          (∀ c off, spaceOf q.pa = .pad c off → coreOk c = true → off < 0x6000 → inStash t c off = false →
            exec .mswpw s = .next ((mark t (some q.pa) (barWord t q.pa 2 % 2 == 1)).retired .m 1).settled) ∧
          ((∀ c off, spaceOf q.pa ≠ .pad c off) → exec .mswpw s = .next ((refuse (t.used .m 2) .m 0 1).retired .m 1).settled)))) ∧
    (isP (siteOf s.turn) = false → s.awaits .m = false → exec .mswpw s = .next (s.trapped s' 1 0x01 0 0).settled))

/-- R222 to R226, R240, R241, R450, R451. That SLIP sets the bound only where it is the first at its position is the model's reading
(notes/assumptions/22.md). HALT's effect is in `RendezvousWordsWaitForEveryEngine`. -/
def Obligations.AWordsKeepTheEnginesInStep : Prop :=
  ∀ s : State,
    let e := s.eng
    let s0 := if e = .t then s.setCtx s.ctx.closed else s
    let traps (i : Instr) (cause : Nat) : Prop := s.awaits e = false → exec i s = .next (s0.trapped s0 3 cause 0 0).settled
    let plain (i : Instr) : Prop := i = .anop ∨ (∃ n, i = .loop n) ∨ (∃ x, i = .loopX x) ∨ (∃ r, i = .endl r) ∨ (∃ k r, i = .leave k r) ∨
      (∃ k r o, i = .abr k r o) ∨ (∃ o, i = .acall o) ∨ i = .aret ∨ ∃ n, i = .slip n
    (slipHolds s.ctx e = true → ∀ i, plain i ∨ (i = .halt ∧ (s.ctx.eng e).halted = false) →
      exec i s = .next { s0 with stalls := s.stalls + 1 }) ∧
    (slipHolds s.ctx e = false → s.awaits e = false → ∀ a, logAt s.ctx ((s.ctx.eng e).acount + 1) = some a → a.addr ≠ (s.ctx.eng e).pc →
      let h := (s0.trapped s0 3 0x06 (a.addr.zeroExtend 64) (BitVec.ofNat 64 (engCode e * 2 ^ 48))).settled
      (∀ i, plain i → exec i s = .next h) ∧
      exec .halt s = .next (if activeEngs h.ctx = [] ∧ (h.core h.turn).intrap = false then leaveTask h h.turn else h)) ∧
    (s.ctx.mayA s.eng = true →
    let c := s.ctx.entered e none
    let g := c.eng e
    let with_ (c : Ctx) (g : EngCtx) : Ctx := c.setEng e g
    let pc : Word := g.pc.zeroExtend 64
    let decides (i : Instr) (look : Option (Bool × Word)) (p : (Bool × Word) → Ctx → Prop) : Prop :=
      (∀ o, s.ctx.logged e = some o → p o (s.ctx.entered e (some o))) ∧
      (s.ctx.logged e = none → e = .t → ∀ o, look = some o → p o (s.ctx.entered e (some o))) ∧
      (s.ctx.logged e = none → e ≠ .t → exec i s = .next { s with stalls := s.stalls + 1 })
    let looks (cond : BitVec 2) (r : BitVec 6) : Option (Bool × Word) :=
      let k := s.ctx.atA e
      let v := (k.regX r.toNat).val
      if cond = 3 then (if k.pReady r.toNat then some (k.pVal r.toNat != 0, 0) else none)
      else if k.xReady r.toNat then some (if cond = 1 then v == 0 else v != 0, 0) else none
    -- no matching ENDL, or text on the way to it that is mapped and cannot be read
    let lost (i : Instr) (c : Ctx) : Prop :=
      (matchEndl (s.setCtx c) walkLimit 0 (pc.toNat + 2) = .ok none → traps i 0x01) ∧
      (∀ x va, matchEndl (s.setCtx c) walkLimit 0 (pc.toNat + 2) = .error (x, va) → x.entryAt = none → x ≠ errRemote 0 →
        s.awaits e = false → exec i s =
          .next (s0.trapped (wakeTables (s.setCtx c) va) 3 x.cause va (BitVec.ofNat 64 (2 + x.info))).settled)
    let loops (i : Instr) (c : Ctx) (n : Word) : Prop := let g := c.eng e
      (n ≠ 0 → 4 ≤ g.loops.length → traps i 0x04) ∧ (n = 0 → lost i c) ∧
      (n ≠ 0 → g.loops.length < 4 → exec i s = .next (s.aDone 1 (with_ c { g with loops := ⟨n, g.pc + 2⟩ :: g.loops }))) ∧
      (n = 0 → ∀ a, matchEndl (s.setCtx c) walkLimit 0 (pc.toNat + 2) = .ok (some a) → a < 2 ^ 56 →
        exec i s = .next (s.aJump 1 c (BitVec.ofNat 64 a)))
    let leaves (i : Instr) (o : Bool × Word) (c : Ctx) : Prop := let g := c.eng e
      (o.1 = false → exec i s = .next (s.aDone 1 c)) ∧ (o.1 = true → g.loops = [] → traps i 0x05) ∧
      (o.1 = true → g.loops ≠ [] → lost i c) ∧
      (o.1 = true → g.loops ≠ [] → ∀ a, matchEndl (s.setCtx c) walkLimit 0 (pc.toNat + 2) = .ok (some a) → a < 2 ^ 56 →
        exec i s = .next (s.aJump 1 (with_ c { g with loops := g.loops.tail }) (BitVec.ofNat 64 a)))
    let branches (i : Instr) (off : BitVec 16) (o : Bool × Word) (c : Ctx) : Prop :=
      (o.1 = false → exec i s = .next (s.aDone 2 c)) ∧
      (o.1 = true → (offsetBy pc off.toInt).toNat < 2 ^ 56 → exec i s = .next (s.aJump 2 c (offsetBy pc off.toInt)))
    exec .anop s = .next (s.aDone 1 c) ∧
    (∀ n : BitVec 7, loops (.loop n) c (n.zeroExtend 64)) ∧
    (∀ x : BitVec 6, decides (.loopX x) (if s.ctx.xReady x.toNat then some (true, (s.ctx.regX x.toNat).val) else none)
      fun o c => loops (.loopX x) c o.2) ∧
    (g.loops = [] → ∀ rot, traps (.endl rot) 0x05) ∧ (8 ≤ g.rets.length → ∀ off, traps (.acall off) 0x04) ∧
    (g.rets = [] → traps .aret 0x05) ∧
    (∀ (rot : BitVec 1) (l : LoopEntry) (ls : List LoopEntry), g.loops = l :: ls →
      let c' := if rot = 1 ∧ e = .t then rotate c else c
      (l.left = 1 → exec (.endl rot) s = .next (s.aDone 1 (with_ c' { g with loops := ls }))) ∧
      (l.left ≠ 1 → exec (.endl rot) s =
        .next (s.aJump 1 (with_ c' { g with loops := { l with left := l.left - 1 } :: ls }) (l.body.zeroExtend 64)))) ∧
    (∀ (r : BitVec 6) (off : BitVec 16), leaves (.leave 0 r) (true, 0) c ∧ branches (.abr 0 r off) off (true, 0) c ∧
      (∀ cond : BitVec 2, cond ≠ 0 →
        decides (.leave cond r) (looks cond r) (leaves (.leave cond r)) ∧
        decides (.abr cond r off) (looks cond r) (branches (.abr cond r off) off))) ∧
    (∀ off : BitVec 16, g.rets.length < 8 → (offsetBy pc off.toInt).toNat < 2 ^ 56 →
      exec (.acall off) s = .next (s.aJump 2 (with_ c { g with rets := (g.pc + 4) :: g.rets }) (offsetBy pc off.toInt))) ∧
    (∀ r rs, g.rets = r :: rs → exec .aret s = .next (s.aJump 1 (with_ c { g with rets := rs }) (r.zeroExtend 64))) ∧
    (∀ n : BitVec 4, exec (.slip n) s =
      .next (s.aDone 1 (if logAt s.ctx ((s.ctx.eng e).acount + 1) = none then { c with slipw := n.toNat } else c))))

/-- R136, R141, R203, R225 to R227, R267, R450. That the 0x06 trap names engine 3 in TSTAT.ENG is the model's reading of R225 beside R450
(notes/assumptions/37.md). -/
def Obligations.RendezvousWordsWaitForEveryEngine : Prop :=
  ∀ s : State,
    let e := s.eng
    let c := s.ctx.entered e none
    let s0 := if s.eng = .t then s.setCtx s.ctx.closed else s
    let k := c.setEng e { c.eng e with atMeet := true }
    let t := (s0.setCtx k).disarmed k
    -- SYNC at T waits for a TOUCH of the core that is on its way (R203)
    let touch : Bool := s.eng == .t && touchOut s s.turn
    let all : List Instr := if touch then [.next, .abrk] else [.sync, .next, .abrk]
    (touch = true → exec .sync s = .next { s with stalls := s.stalls + 1 }) ∧
    (s.ctx.mayA e = true →
      (allMet k = false → ∀ i ∈ all,
        exec i s = .next { s0.setCtx k with stalls := s.stalls + 1 }) ∧
      (allMet k = true →
        (touch = false → exec .sync s = .next (t.setCtx (passMeet t.ctx id)).goOn.settled) ∧
        exec .next s = .next ((swapAtNext t.turn).run (t.setCtx (nextCtx t.ctx))).2.goOn.settled ∧
        exec .abrk s = .next (takeTrap t t.turn 3 0x30
          (match activeEngs t.ctx with
            | e :: _ => (t.ctx.eng e).pc.zeroExtend 64
            | [] => 0) 0).goOn.settled) ∧
      (let h := s.aJump 1 (c.setEng e { c.eng e with halted := true }) ((c.eng e).pc.zeroExtend 64)
       exec .halt s = .next (if activeEngs h.ctx = [] ∧ (h.core h.turn).intrap = false then leaveTask h h.turn else h))) ∧
    (slipHolds s.ctx e = true → ∀ i ∈ [Instr.sync, .next, .abrk], exec i s = .next { s with stalls := s.stalls + 1 }) ∧
    (slipHolds s.ctx e = false → s.awaits e = false → ∀ a, logAt s.ctx ((s.ctx.eng e).acount + 1) = some a →
      a.addr ≠ (s.ctx.eng e).pc → ∀ i ∈ all,
        exec i s = .next (s0.trapped s0 3 0x06 (a.addr.zeroExtend 64) (BitVec.ofNat 64 (engCode e * 2 ^ 48))).settled)

/-- Table 18-4. That EST, which converts its value, gives +0 for −0 is the model's reading of R276 (notes/assumptions/40.md). -/
def Obligations.EpilogueOperationsActOnTheElement : Prop :=
  ∀ (s : State) (d e c : BitVec 3) (k t : BitVec 4) (f : BitVec 5) (sat : BitVec 1),
    let r := s.epi
    let reg (i : BitVec 3) : BitVec 32 := r.regs.getD i.toNat 0
    let dr : Nat := if r.mode = 5 then draw r.srseed r.srctr r.j else 0
    let onto (r : EpiRun) : Host.Outcome State Fault Refusal := .next { s with epi := r }.settled
    let next (r : EpiRun) : EpiRun := { r with at_ := r.at_.map (· + 1) }
    let put (v : BitVec 32 × BitVec 7) : EpiRun := next { r with regs := r.regs.set d.toNat v.1, flags := r.flags ||| v.2 }
    let row (o : Nat) (n : Nat) (bs : List Byte) : Nat := leNat (slice bs o n)
    let zero : Bool := match f32 (reg c) with
      | .nan => true
      | .inf _ => false
      | .fin _ n _ => n == 0
    exec .eend s = onto { r with at_ := none } ∧ exec (.elda d) s = onto (put (r.s, 0)) ∧
    exec (.eadd d e) s = onto (put (add32 (reg d) (reg e))) ∧ exec (.emul d e) s = onto (put (mul32 (reg d) (reg e))) ∧
    exec (.efma d e) s = onto (put (fma32 (reg e) (reg 7) (reg d))) ∧
    exec (.emax d e) s = onto (put (BitVec.ofNat 32 (minMax true 0 (reg d).toNat (reg e).toNat), 0)) ∧
    exec (.econ d k) s = onto (put (r.consts.getD k.toNat 0, 0)) ∧
    exec (.erow d e) s = onto (put (mul32 (reg e) (BitVec.ofNat 32 (row (4 * (if r.mmma then r.group else r.pos)) 4 r.rows)))) ∧
    exec (.eact d e f) s = onto (put (act32 f.toNat (reg e))) ∧
    exec (.ecvt d e sat t) s =
      onto (put (cvt32 t.toNat r.mode.toNat (sat == 1) ((r.consts.getD 7 0).toNat % 4) dr (reg e))) ∧
    (let u := statStep (mapGet (0xFF800000, 0) r.stats r.group) (reg e)
     exec (.estat d e) s = onto { put (reg e, u.2) with stats := mapSet r.stats r.group u.1 }) ∧
    (let b := row (r.pos % 128) 1 r.scales
     let q := deliverFp t.toNat 0 true (scaleVal (f32 (reg e)) (127 - (b : Int))) 0
     exec (.eqkv d e t) s = onto (put (if b = 0xFF ∨ f32 (reg e) = .nan then (nan32, 0) else (exact32 (decodeFp t.toNat q.1), q.2)))) ∧
    (let b := tyBits r.cty / 8
     exec (.eres d) s = onto (put (exact32 (decodeFp r.cty.toNat
      (row (r.group * ((r.rowLen * b + 63) / 64 * 64) + r.pos * b) b r.resid)), 0))) ∧
    (let q := deliverFp t.toNat r.mode.toNat false (plainZero (f32 (reg e))) dr
     exec (.est e t) s = onto (next { r with out := some (BitVec.ofNat 32 q.1), flags := r.flags ||| q.2 })) ∧
    exec (.esel d e c) s = onto (put (if zero then reg d else reg e, 0)) ∧ exec (.emov d e) s = onto (put (reg e, 0))

/-- R237, R238: of VMOV with a port as its source, or as its destination. That a partly written result leaves the rest of memory as it
was is the model's reading of R363 (notes/assumptions/19.md). The elements are placed and reached by the operations that
`AlignedAccessesArePlacedByTheirPage` and `PlainAccessesReadAndWriteTheirBytes` describe. -/
def Obligations.StreamPortsMoveTheElementsOfTheirBinding : Prop :=
  ∀ (f : VForm) (j : Nat) (s : State), j < 8 →
    let c := s.ctx
    let port : BitVec 8 := BitVec.ofNat 8 (240 + j)
    let n := lanesD f f.ty
    let moved (a : Nat) : VRes := mapLanes f.ty n (active (c.opPg f) f.ty) fun i => (elemOf f.ty a i, 0)
    let past (q : Stream) : Ctx := { c with streams := mapSet c.streams j { q with pos := q.pos + min (64 / q.es) (q.total - q.pos) } }
    let out := moved (c.opA f)
    let stored (ps : List Piece) (v : Nat) : Access := { act := .store, pieces := ps, data := leBytes 64 v, mask := out.nibs }
    let usable (q : Stream) (write : Bool) : Bool := q.write == write && decide (q.pos < q.total)
    let trap02 : Host.Outcome State Fault Refusal :=
      .next (s.trapped s 0 0x02 0 (BitVec.ofNat 64 ((240 + j) * 2 ^ 48))).settled
    (c.pReady f.pg.toNat = true → c.vWritable f.d.toNat (width f.dw) (f.dt == 1) = true →
      ∀ q, mapFind c.streams j = some q → usable q false = true → ∀ ps bs t0 t,
        got (portPieces q aLoad (min (64 / q.es) (q.total - q.pos)) q.pos) s = some (ps, t0) →
        got (tAccess 0 { act := .load, pieces := ps } .again) t0 = some (bs, t) → t.ctx = c →
        exec (.vmov { f with a := port, aw := 0 }) s =
          .next (t.wordDone 4 ((past q).putRes f.d.toNat (width f.dw) (f.dt == 1) (moved (leNat (slice bs 0 64)))))) ∧
    (c.vReady f.a.toNat (width f.aw) = true → c.pReady f.pg.toNat = true → f.dw = 0 →
      ∀ q, mapFind c.streams j = some q → usable q true = true → ∀ ps bs t0 t,
        got (portPieces q aStore (min (64 / q.es) (q.total - q.pos)) q.pos) s = some (ps, t0) →
        out.keepsAt 240 0 = false → got (tAccess 0 (stored ps out.val) .again) t0 = some (bs, t) → t.ctx = c →
        exec (.vmov { f with d := port, dt := 0 }) s = .next (t.wordDone 4 (past q))) ∧
    (c.vReady f.a.toNat (width f.aw) = true → c.pReady f.pg.toNat = true → f.dw = 0 →
      ∀ q, mapFind c.streams j = some q → usable q true = true → ∀ ps bs t0 t1 os cs t2 t,
        let next := portPieces q aStore (min (64 / q.es) (q.total - q.pos)) q.pos
        let o := leNat (slice bs 0 64)
        got next s = some (ps, t0) → out.keepsAt 240 0 = true →
        got (tAccess 0 { act := .load, pieces := ps } .again) t0 = some (bs, t1) → t1.ctx = c →
        got next t1 = some (os, t2) →
        got (tAccess 0 (stored os (Nat.lor (o - Nat.land o out.mask) out.val)) .again) t2 = some (cs, t) → t.ctx = c →
        exec (.vmov { f with d := port, dt := 0 }) s = .next (t.wordDone 4 (past q))) ∧
    (s.awaits .t = false →
      ((mapFind c.streams j).any (usable · false) = false → exec (.vmov { f with a := port, aw := 0 }) s = trap02) ∧
      (c.vReady f.a.toNat (width f.aw) = true → c.pReady f.pg.toNat = true → f.dw = 0 →
        (mapFind c.streams j).any (usable · true) = false → exec (.vmov { f with d := port, dt := 0 }) s = trap02))

/-- R121, R447. A block of a stream whose HCANCEL has come is released at once (R127): `acceptBlock` of the model. -/
def Obligations.HandOffWordLaunchesABlock : Prop :=
  ∀ s : State, let st := s.ctx.c.params
    let s' := s.setCtx (s.ctx.noLit .c)
    let n := siteOf s.turn
    let k (i : Nat) : Nat := (st.getD i 0).toNat
    let bytes := k 2
    let cell := k 3
    let bsn := k 0 / 2 ^ 20 % 2 ^ 16
    let conv := k 0 / 2 ^ 36 % 2 ^ 8
    let gone (t : State) : Host.Outcome State Fault Refusal := .next (t.retired .c 1).settled
    let herr (f : HoRegs → HoRegs) : Host.Outcome State Fault Refusal :=
      gone (refuse ((s'.used .c 4).modDie n fun d => { d with ho := f d.ho }) .c bytes 1)
    let orderErr := herr fun h => { h with order := true }
    let convErr := herr fun h => { h with conv := true }
    4 ≤ st.length →
      (findEntry s n (BitVec.ofNat 20 (k 0)) = none → exec .choff s = herr fun h => { h with proto := true }) ∧
      ∀ h, findEntry s n (BitVec.ofNat 20 (k 0)) = some h →
        let size := if conv = 0 then 0 < bytes ∧ bytes ≤ 0x400000 ∧ cell % 128 = 0 ∧
            cell / 0x400000 = (cell + (bytes + 127) / 128 * 128 - 1) / 0x400000
          else bytes = 2 * blockTokens h bsn * h.heads * 256
        let later := ∀ l ∈ h.lastBsn, l < bsn
        let launched (t : State) (src : List Seg) : Host.Outcome State Fault Refusal :=
          let o : Op := { newOp t .handoff .c bytes with src := src, nums := [k 0, cell] }
          let dst := if 0x700000000000 ≤ cell ∧ cell < 0xB00000000000 then 128 + (cell - 0x700000000000) / 0x40000000000
            else (h.dests.getD (bsn / h.ntb) (0, false)).1
          let b : SrcBlock := { stream := h.stream, bsn := bsn, st := .queued, dst := dst, cell := cell, conv := conv, op := o.id }
          gone ((launchOp (t.used .c 4) o).modDie n fun d => { d with
            entries := mapSet d.entries (h.stream.toNat % 65536) { h with lastBsn := some bsn }, srcs := d.srcs ++ [b] })
        (2 ^ 44 ≤ k 0 → exec .choff s = convErr) ∧
        (k 0 < 2 ^ 44 → h.layers * h.ntb ≤ bsn → exec .choff s = orderErr) ∧
        (k 0 < 2 ^ 44 → bsn < h.layers * h.ntb →
          (conv ≠ 0 ∧ conv ≠ h.conv → exec .choff s = convErr) ∧
          (conv = 0 ∨ conv = h.conv →
            (¬ size → exec .choff s = convErr) ∧
            (size →
              (¬ later → exec .choff s = orderErr) ∧
              (later →
                (∀ src t, got (segsOf (st.getD 1 0) bytes aSrc) s' = some (src, t) →
                  (src.any (badSrc t) = true → exec .choff s = gone (refuse (t.used .c 4) .c bytes 1)) ∧
                  (src.any (badSrc t) = false → h.cancelled = false → exec .choff s = launched t (joinSegs src))) ∧
                (∀ l, translateHere s' (st.getD 1 0) aSrc = .ok l → 0 < bytes → k 1 % 65536 + bytes ≤ 65536 →
                  let src : Seg := { pa := l.pa, len := bytes, cls := l.cls, defer := l.defer }
                  badSrc s' src = false → h.cancelled = false →
                  exec .choff s = launched (noteLeaf s' (st.getD 1 0) l) [src])))))

/-- R83, R85, R86, R88. -/
def Obligations.StartsResetTheModuleAndCountTheAttempt : Prop :=
  ∀ s : State,
    let t := s.arg.test
    let started (u : State) (ovr : Option Nat) : Host.Outcome State Fault Refusal := .next (start u t ovr).settled
    let r := resetModule s
    exec .powerUp s = started s none ∧
    (s.fw.retryReset = true → exec .startRetryReset s = started s none) ∧
    (∀ clr, s.fw.background = some (.reset clr) →
      let u := endBackground s .ok []
      let again (ovr : Option Nat) : Host.Outcome State Fault Refusal :=
        .next ((start (u.modFw fun f => { f with attempts := if clr then 0 else f.attempts }) t ovr).modFw fun f => { f with
          cxl := u.fw.cxl, out := u.fw.out }).settled
      exec .moduleReset s = again none ∧ (s.arg.n ≤ 5 → exec .stageOverrun s = again (some s.arg.n))) ∧
    ((∀ clr, s.fw.background ≠ some (.reset clr)) → s.fw.st = .starting → s.arg.n ≤ 5 →
      exec .stageOverrun s = started s (some s.arg.n)) ∧
    exec .inputPowerRemoved s = .next (r.modFw fun f => { f with attempts := 0, started := false }).settled ∧
    (r.fw.flash0 = s.fw.flash0 ∧ r.fw.flash1 = s.fw.flash1 ∧ r.fw.attempts = s.fw.attempts ∧ r.fw.causes = s.fw.causes ∧
      r.hostMem = s.hostMem) ∧
    (r.cores = [] ∧ r.dies = [] ∧ r.regions = [] ∧ r.mem = [] ∧ r.tags = [] ∧ r.cellTags = [] ∧ r.poison = [] ∧ r.waiters = [] ∧
      r.ops = [] ∧ r.requests = [] ∧ r.msgs = [] ∧ r.times = [] ∧ r.cycle = 0 ∧ r.fw.st = .starting ∧ r.fw.plan = none ∧
      r.fw.streams = [] ∧ r.fw.items = [] ∧ r.fw.chain = List.replicate 64 0) ∧
    (Memory.wf State.reset = true ∧ State.reset.mem = [] ∧ State.reset.fw.attempts = 0 ∧ State.reset.fw.streams = [] ∧
      ∀ n g e k,
        let c := State.reset.core n
        let x := c.ctx
        let r := State.reset.region g
        let d := State.reset.die n
        let l := State.reset.link n e
        (x.vallot = 64 ∧ x.flags = 0 ∧ x.trapen = 0 ∧ x.rmode = 0 ∧ x.srseed = 0 ∧ x.srctr = 0 ∧ x.vsize = 0 ∧ x.psize = 0 ∧
          x.vrrb = 0 ∧ x.prrb = 0 ∧ x.slipw = 2 ∧ x.displ = 0 ∧ x.taskid = 0 ∧ x.streamid = 0 ∧ x.evalid = 0 ∧ x.asid = 0 ∧
          x.serial = 0) ∧
        (c.bank = 0 ∧ c.sup = false ∧ c.tcause = 0 ∧ c.tpct = 0 ∧ c.tpcm = 0 ∧ c.tpcc = 0 ∧ c.taddr = 0 ∧ c.tinfo = 0 ∧
          c.teng = 0 ∧ c.ppriv = false ∧ c.intrap = false ∧ c.thalted = 0 ∧ c.tick = 0 ∧ c.genl1 = 0 ∧ c.wlate = 0 ∧
          c.stashb = 0 ∧ c.stashn = 0) ∧
        (r.cstep = 256 ∧ r.pmon = 0 ∧ r.capReq = 16 ∧ r.alarm = false ∧ r.active = false ∧ r.dcount = 0 ∧ r.dhold = 2 ∧
          r.csheld = 0) ∧
        (l.state = 1 ∧ l.rtcount = 0 ∧ l.crcerr = 0 ∧ l.replay = 0 ∧ l.txflit = 0 ∧ l.rxflit = 0) ∧
        (d.ho.retrylim = 8 ∧ d.thWarn = false ∧ d.thThrot = false ∧ d.thTrip = false ∧ d.fq = [] ∧
          (State.reset.record n k).st = .free ∧ slotState State.reset k = 0))

/-- R85 to R91. The bounds of TRIP and PCAP, and copy 0 where the SEQs are equal, are the model's choice (notes/assumptions/30.md). What stages 2 and 3 find in dies and links is the functions `stage2` and `stage3` of the model. -/
def Obligations.StagesOfAStartFailOrGoOnInOrder : Prop :=
  (∀ (s : State) (t : SelfTest) (ovr : Option Nat),
    let a := s.fw.attempts.toNat
    let r := start s t ovr
    let u := (resetModule s).modFw fun f => { f with attempts := BitVec.ofNat 8 (min 255 (a + 1)) }
    let noted (x : State) (stage code site : Nat) : State := x.modFw fun f => { f with
      causes := ((([BitVec.ofNat 8 stage, f.attempts] ++ leBytes 2 code ++ [BitVec.ofNat 8 site, 0, 0, 0] ++
        leBytes 8 x.arg.addr.toNat ++ leBytes 8 x.arg.val.toNat ++ List.replicate 8 0) :: f.causes).take 16) }
    let failed (x : State) (stage code site : Nat) : State := (noted x stage code site).modFw fun f => { f with retryReset := true }
    let rom : List Byte := (List.range 64).map Config.romDigestByte
    let m := u.modFw fun f => { f with items := [(1, rom)], chain := sha3 (List.replicate 64 0 ++ [1] ++ rom) }
    let noCopy (x : State) : Prop := Config.recordSigOk x.fw.flash0.body x.fw.flash0.sig = false ∧
      Config.recordSigOk x.fw.flash1.body x.fw.flash1.sig = false
    let key (x : State) : List Byte := keySeed ((List.range 64).map (Config.pufByte (slice (bodyInUse x.fw) 128 1024)))
    let known (x : State) : State := x.modFw fun f => { f with idOk := true, seed := key x }
    let fits (x : State) : Prop := sha3 (publicKey (key x)) = x.fw.keyDigest
    (ovr = some 1 → r = failed u 1 0x01FF 0xFF) ∧
    (ovr ≠ some 1 → t.romOk = false → r = failed u 1 0x0101 0xFF) ∧
    (ovr ≠ some 1 → t.romOk = true → a < 3 →
      (ovr = some 2 → r = failed m 2 0x02FF 0xFF) ∧
      (ovr ≠ some 2 → 64 ∈ t.badSites → r = failed m 2 0x0201 64) ∧
      (ovr ≠ some 2 → ∀ s2, stage2 m t = .ok s2 →
        (ovr = some 3 → r = failed s2 3 0x03FF 0xFF) ∧
        (ovr ≠ some 3 → ∀ e, stage3 s2 t = .error e → r = failed s2 3 0x0301 e.site) ∧
        (ovr ≠ some 3 → ∀ s3, stage3 s2 t = .ok s3 →
          (ovr = some 4 → r = failed s3 4 0x04FF 0xFF) ∧
          (ovr ≠ some 4 → noCopy s3 → r = failed s3 4 0x0401 0xFF) ∧
          (ovr ≠ some 4 → ∀ s4, stage4 s3 = .ok s4 →
            (ovr = some 5 → r = failed s4 5 0x05FF 0xFF) ∧
            (ovr ≠ some 5 → t.pufOk = false → r = failed s4 5 0x0501 0xFF) ∧
            (ovr ≠ some 5 → t.pufOk = true → ¬ fits s4 → r = failed s4 5 0x0502 0xFF) ∧
            (ovr ≠ some 5 → t.pufOk = true → fits s4 → r = (known s4).modFw fun f => { f with st := .noPlan }))))) ∧
    (ovr = none → t.romOk = true → 3 ≤ a →
      let w := m.modFw fun f => { f with st := .minimal }
      (noCopy w → r = noted w 4 0x0401 0xFF) ∧
      ∀ s4, stage4 w = .ok s4 →
        (t.pufOk = false → r = noted s4 5 0x0501 0xFF) ∧ (t.pufOk = true → ¬ fits s4 → r = noted s4 5 0x0502 0xFF) ∧
        (t.pufOk = true → fits s4 → r = known s4))) ∧
  ∀ (x : State) (i : Nat) (c : Flash),
    let seq (f : Flash) : Nat := field f.body 4 4
    let ok (f : Flash) : Bool := Config.recordSigOk f.body f.sig
    let f0 := x.fw.flash0
    let f1 := x.fw.flash1
    (i = 0 ∧ c = f0 ∧ ok f0 = true ∧ (seq f1 ≤ seq f0 ∨ ok f1 = false)) ∨
      (i = 1 ∧ c = f1 ∧ ok f1 = true ∧ (seq f0 < seq f1 ∨ ok f0 = false)) →
    ∃ y, stage4 x = .ok y ∧ y.fw.inUse = some i ∧ y.fw.cfgSeq = seq c ∧ y.fw.modid = BitVec.ofNat 12 (field c.body 12 2) ∧
      y.fw.dbg = decide (field c.body 14 1 % 2 = 1) ∧ y.fw.keyDigest = slice c.body 64 64 ∧
      y.fw.items = x.fw.items ++ [(2, sha3 c.body)] ∧ y.fw.chain = sha3 (x.fw.chain ++ [2] ++ sha3 c.body) ∧
      (∀ n < 68, (y.die n).trip = min 115 (field c.body 15 1)) ∧
      ∀ g < 16, (y.region g).pcap = BitVec.ofNat 16 (min 660 (field c.body (16 + 2 * g) 2))

/-- R21 to R33. Which starts STAGGERED_REGION_START holds back is the model's choice for R33 (notes/assumptions/39.md). `endLayer` and `startLayer` say how a layer's transition ends and begins, `admitHeld` which held starts the gate
admits. -/
def Obligations.SensorsLayersAndRegionsFollowTheirRules : Prop :=
  ∀ s : State,
    let n := s.arg.n
    let was := s.die n
    let v := s.arg.val.toNat
    let taken := s.arg.temps.foldl (fun (m : Map Sensor) x => if sensorExists n x.1 then
      mapSet m x.1 { temp := x.2, seq := (mapGet {} m x.1).seq + 1, valid := true } else m) was.sensors
    let on (f : Die → Die) : Host.Outcome State Fault Refusal := .next (s.modDie n f).settled
    let region (f : Region → Region) : Host.Outcome State Fault Refusal := .next (s.modRegion n f).settled
    (∀ t, hottest { was with sensors := taken } = some t →
      let d : Die := { was with sensors := taken, thWarn := was.thWarn || decide (t > 8 * (was.warn : Int)),
                                thThrot := decide (t > 8 * (was.throt : Int)) || (was.thThrot && decide (t > 8 * (was.throt : Int) - 16)),
                                thTrip := was.thTrip || decide (t > 8 * (was.trip : Int)) }
      let tripped' := was.thTrip = false ∧ d.thTrip = true
      let rises := (was.thWarn = false ∧ d.thWarn = true) ∨ (was.thThrot = false ∧ d.thThrot = true) ∨ tripped'
      let a := s.setDie n d
      let b := if rises then raiseMsix a 3 else a
      exec .sensorSample s = .next (if tripped' then failStreams b (fun e => (tripSites n).any (hasWorkOn b e)) 0x0023 else b).settled) ∧
    (hottest { was with sensors := taken } = none → exec .sensorSample s = on fun d => { d with sensors := taken }) ∧
    (∀ t, hottest was = some t → 8 * (was.warn : Int) - 16 < t → exec .thstatWarnClear s = on fun d => d) ∧
    (∀ t, hottest was = some t → t ≤ 8 * (was.warn : Int) - 16 → exec .thstatWarnClear s = on fun d => { d with thWarn := false }) ∧
    (let w := min (v % 256) (was.trip - 2)
     exec .tlimWrite s = on fun d => { d with warn := w, throt := max (w + 1) (min (v / 256 % 256) (was.trip - 1)) }) ∧
    (isD n = true →
      let l := mapGet {} was.lpwr s.arg.k
      let onto : BitVec 2 := BitVec.ofNat 2 (v % 4)
      (l.busy = true → exec .lpwrWrite s = on fun d => { d with lpwr := mapSet d.lpwr s.arg.k { l with queued := some onto } }) ∧
      (l.busy = false → l.state ≠ 3 ∨ onto = 3 → exec .lpwrWrite s = on fun d => { d with
        lpwr := mapSet d.lpwr s.arg.k { l with target := onto, busy := l.state != onto, queued := none } }) ∧
      (l.busy = false → l.state = 3 → onto ≠ 3 → exec .lpwrWrite s = .next ((zeroLayer s n s.arg.k).modDie n fun d => { d with
        lpwr := mapSet d.lpwr s.arg.k { l with target := onto, busy := true, queued := none } }).settled) ∧
      (l.busy = true → l.queued = none → exec .layerTransitionDone s = on fun d => { d with
        lpwr := mapSet d.lpwr s.arg.k { l with state := l.target, busy := false, queued := none } }) ∧
      (l.busy = true → exec .layerTransitionDone s = .next (endLayer s n s.arg.k).settled)) ∧
    (exec .capTick s = region fun r => { r with
      pmon := BitVec.ofNat 16 v,
      capReq := if v % 65536 > 4 * r.pcap.toNat then max 8 (r.capReq - 1)
        else if 25 * (v % 65536) < 98 * r.pcap.toNat then min 16 (r.capReq + 1) else r.capReq }) ∧
    (exec .droopAlarm s = region fun r => { r with
      alarm := true, active := true, dcount := BitVec.ofNat 8 (min 255 (r.dcount.toNat + 1)) }) ∧
    (exec .droopHoldEnd s = region fun r => { r with active := false }) ∧
    (exec .heldStartAdmit s = .next (admitHeld n 4096 (s.modRegion n fun r => { r with recent := 0 })).2.settled) ∧
    (let stream (t : Nat × Nat) : Nat := recStream (s.record t.1 t.2).bytes
     let waits (t : Nat × Nat) : Bool := (List.range n).any fun g => (s.region g).staggered.any fun u => stream u == stream t
     exec .staggeredRegionStart s = region fun r => { r with staggered := r.staggered.filter waits })

/-- R35 to R37, R42, R46 to R49, R52, R54, R56, R60. `deliverFlit` and `ingress` say where an accepted flit goes, `resend` and `pump` what
a link sends, `trained` and `goDown` what a link that comes UP or goes DOWN changes. -/
def Obligations.LinksAndPortsReceiveReplayAndRetrain : Prop :=
  ∀ s : State,
    let a := s.arg
    let credited (h : Hop) (l : Link) : Link :=
      { applyAck l h.ack with credits := (applyAck l h.ack).credits.set h.crvc ((applyAck l h.ack).credits.getD h.crvc 0 + h.crcnt) }
    let taken (l : Link) : Link := { l with expect := l.expect + 1, dropping := false, rxflit := l.rxflit + 1 }
    let owes (vc : Nat) (l : Link) : Link := { l with owed := l.owed.set vc (l.owed.getD vc 0 + 1) }
    let failed (most : Nat) (h : Hop) (l : Link) : Link := { l with
      crcerr := l.crcerr + 1, failAt := (s.cycle.toNat :: l.failAt).take most, proto := l.proto || (h.crcOk && h.bad) }
    let ok (h : Hop) : Bool := h.crcOk && !h.bad && !h.null && !h.nak
    let begin' (l : Link) : Link := if l.state = 2 then
      { l with state := 3, attempts := 0, rtcount := if l.rtcount = 255 then 255 else l.rtcount + 1 } else l
    let nakked (ack : BitVec 12) (l : Link) : Link := { applyAck l ack with
      nakRun := if l.nakSeq = ack + 1 then l.nakRun + 1 else 1, nakSeq := ack + 1 }
    let met (most : Nat) (l : Link) : Prop := l.state = 2 ∧
      (8 ≤ l.nakRun ∨ most ≤ (l.failAt.filter fun t => s.cycle.toNat < t + 940000).length)
    let retrains (n e : Nat) : State := modEnds (modEnds s n e fun l => { l with replim := true, nakRun := 0, failAt := [] }) n e begin'
    let ack : BitVec 12 := BitVec.ofNat 12 a.val.toNat
    let nak (n e : Nat) : State :=
      let t := s.modLink n e (nakked ack)
      if (nakked ack (s.link n e)).nakRun < 8 then resend n e (nakked ack (s.link n e)).buffer t else t
    let fails (n e : Nat) (mods : BitVec 8) : State :=
      let t := modEnds s n e fun l => { l with timeout := true, attempts := l.attempts + 1, modok := mods }
      if (s.link n e).attempts < 2 then t else goDown t n e
    let mods : BitVec 8 := BitVec.ofNat 8 a.val.toNat
    (linkExists a.n a.k = true → isPort a.k = false →
      let n := a.n
      let e := a.k
      let l := s.link n e
      let h := hopOf a.data
      let flush (t : State) : State := if 64 ≤ n then flushPorts n t else t
      (tripped s n = true → exec .flitReceive s = .next s.settled) ∧
      (tripped s n = false →
        (l.state ≠ 2 → exec .flitReceive s = .next (flush s).settled) ∧
        (l.state = 2 → ok h = true → h.seq = l.expect →
          let r := deliverFlit ((s.modLink n e (credited h)).modLink n e taken) n e a.data
          exec .flitReceive s = .next (flush (pump (if r.2 then r.1.modLink n e (owes h.vc) else r.1) n e)).settled) ∧
        (l.state = 2 → h.crcOk = true → h.bad = false → h.null = false → h.seq ≠ l.expect → l.dropping = true →
          exec .flitReceive s = .next (flush s).settled) ∧
        (l.state = 2 → h.null = false → (h.crcOk = false ∨ h.bad = true ∨ (h.seq ≠ l.expect ∧ l.dropping = false)) →
          exec .flitReceive s = .next (flush (sendNull (((modEnds s n e fun l => { l with lcrc := true }).modLink n e
            (failed 64 h)).modLink n e fun l => { l with dropping := true }) n e true)).settled) ∧
        (l.state = 2 → h.crcOk = true → h.bad = false → h.null = true → h.nak = false →
          exec .flitReceive s = .next (flush (pump (s.modLink n e (credited h)) n e)).settled)) ∧
      (l.state = 2 → exec .nakReceive s = .next (nak n e).settled ∧ exec .nullFlitSend s = .next (sendNull s n e l.dropping).settled) ∧
      (met 64 l → exec .retrainStart s = .next (retrains n e).settled) ∧
      (¬ met 64 l → exec .retrainStart s = .next s.settled) ∧
      (l.state = 2 → exec .linkForceRetrain s = .next ((modEnds s n e begin').modLink n e fun l => { l with force := true }).settled) ∧
      (l.state = 3 →
        (4 ≤ popcount8 mods → exec .retrainAttemptEnd s = .next (trained s n e mods 0).settled) ∧
        (popcount8 mods < 4 → exec .retrainAttemptEnd s = .next (fails n e mods).settled) ∧
        exec .retrainAttemptTimeout s = .next (fails n e 0).settled)) ∧
    (let n := portSite a.n
     let e := portEdge a.n
     let l := s.link n e
     let h := fabricHop a.data
     let inner := slice a.data 16 256
     let smod := BitVec.ofNat 12 (field a.data 2 2)
     (tripped s n = true ∨ l.state ≠ 2 → exec .fabricFlitReceive s = .next s.settled) ∧
     (tripped s n = false → l.state = 2 → ok h = true → a.flag = false → h.seq = l.expect →
       let t := (s.modLink n e (credited h)).modLink n e taken
       let r := ingress t a.n smod inner
       let behind : Prop := (s.die n).portHeld.any (·.1 == a.n) = true ∧ flitVc inner % 2 = 0
       let waits : State := t.modDie n fun d => { d with portHeld := d.portHeld ++ [(a.n, a.data)] }
       (¬ behind → r.2 = .free → exec .fabricFlitReceive s = .next (pump (r.1.modLink n e (owes h.vc)) n e).settled) ∧
       (¬ behind → r.2 = .goesOn → exec .fabricFlitReceive s = .next (pump r.1 n e).settled) ∧
       (behind ∨ r.2 = .waits → exec .fabricFlitReceive s = .next (pump waits n e).settled)) ∧
     (tripped s n = false → l.state = 2 → h.null = false →
       (h.crcOk = false ∨ h.bad = true ∨ a.flag = true ∨ (h.seq ≠ l.expect ∧ l.dropping = false)) →
       exec .fabricFlitReceive s = .next (sendNull (((s.modLink n e fun l => { l with lcrc := true }).modLink n e
         (failed 128 { h with crcOk := h.crcOk && !a.flag })).modLink n e fun l => { l with dropping := true }) n e true).settled) ∧
     (l.state = 2 → exec .fabricNakReceive s = .next (nak n e).settled) ∧
     (met 128 l → exec .portRetrainStart s = .next (retrains n e).settled) ∧
     (¬ met 128 l → exec .portRetrainStart s = .next s.settled) ∧
     (l.state = 3 →
       (a.flag = true → exec .portRetrainAttemptEnd s = .next (trained s n e 0xFF ack).settled) ∧
       (a.flag = false → exec .portRetrainAttemptEnd s = .next (fails n e 0).settled) ∧
       exec .portRetrainAttemptTimeout s = .next (fails n e 0).settled))

/-- R38, R39, Table 2-3. What the access does at its home is `perform`. -/
def Obligations.RequestSlotsPerformTheirAccessAndAnswer : Prop :=
  ∀ s : State,
    let m := s.arg.msg
    let at_ := m.addr.toNat
    let ty : BitVec 4 := m.nmask.truncate 4
    let w := tyBits ty / 8
    let lease (t : State) (pa : Nat) : Nat := if mapFind t.classes (pa / 0x10000) = some 2 then (mapGet {} t.times (lineOf pa)).lease.toNat else 0
    let rdata (t : State) (x : Slot) (bs : List Byte) : State := respond t x 0x40 (lease t x.addr.toNat) (bs.take 32)
    let done (t : State) (x : Slot) (_ : List Byte) : State := respond t x 0x41 0 []
    let err (t : State) (x : Slot) (code : Nat) : State := respond t x 0x42 code []
    let run (i : Instr) (x : Slot) (act : Action) (addr len : Nat) (data : List Byte) (mask : List Bool) (arg : Word)
        (reply : State → Slot → List Byte → State) (fails : State → Slot → Nat → State) (legal : Prop) : Prop :=
      let p : Piece := ⟨addr, len, 1, isDram at_, x.addr.zeroExtend 64, 0, false, true⟩
      let a : Access := { act := act, pieces := [p], data := data, mask := mask, arg := arg }
      let within : Prop := legal ∧ at_ % 128 + m.len ≤ 128 ∧ addr % 128 + len ≤ 128
      (¬ within → exec i s = .next (fails s x 1).settled) ∧
      (within → exec i s = .next (match (perform (.slot x) a).run s with
        | (.done bs, t) => reply t x bs
        | (.fault e _, t) => fails t x e.arg
        | (.wait on, t) => { t with waiters := t.waiters ++ [(⟨.slot x, a, .none, on, 0, false⟩ : Waiter)] }
        | (.full on, t) => { t with waiters := t.waiters ++ [(⟨.slot x, a, .none, on, 0, true⟩ : Waiter)] }).settled)
    let each (x : Slot) (f : State → Nat → State) (t : State) : State := (List.range (max 1 ((x.len + 31) / 32))).foldl f t
    let errs (t : State) (x : Slot) (code : Nat) : State := each x (fun u _ => err u x code) t
    let slot (op : Nat) : Slot := { m with op := BitVec.ofNat 8 op }
    let data (n : Nat) : List Byte := slice m.payload 0 n
    let amo (i : Instr) (k : Nat) (types : List (BitVec 4)) : Prop := run i (slot (0x10 + k)) (.amo k (m.nmask.getLsbD 4) ty) at_ w (data w) [] m.arg rdata err
      (ty ∈ types ∧ at_ % w = 0)
    let flag (i : Instr) (k : Nat) (reply : State → Slot → List Byte → State) : Prop :=
      run i (slot (0x20 + k)) (.flag k) at_ 8 (data 8) [] m.arg reply err (at_ % 8 = 0)
    let cell (i : Instr) (k : Nat) : Prop :=
      let x : Slot := { m with op := 0x28, arg := (m.arg >>> 4 <<< 4) ||| BitVec.ofNat 64 k }
      run i x (.cell k) (lineOf at_) 128 (slice s.arg.data 0 128) [] (x.arg >>> 16) (fun t x bs => each x (fun u _ => rdata u x bs) t) errs True
    run .rdline (slot 0) .load (lineOf at_) 128 (data 128) [] m.arg (fun t x bs => answerLine t x 0 bs)
      (fun t x code => if code < 256 then answerLine t x code [] else err t x code) (m.len ≤ 32) ∧
    run .rdpart (slot 1) .load at_ m.len (data m.len) [] m.arg rdata err (m.len ≤ 32) ∧
    run .wrmask (slot 2) .store at_ m.len (data m.len) ((List.range (2 * m.len)).map m.nmask.getLsbD) m.arg done err (m.len ≤ 32) ∧
    (m.arg.toNat % 4 ≠ 3 → run .tagst (slot 3) (.tagStore (m.arg.toNat % 4)) at_ 4 (data 4) [] m.arg done err
      (m.len ≤ 32 ∧ at_ % 4 = 0)) ∧
    (m.arg.toNat % 4 = 3 → exec .tagst s = .next (err s (slot 3) 1).settled) ∧
    run .tagld (slot 4) (.tagLoad (m.arg.getLsbD 0)) at_ 4 (data 4) [] m.arg rdata err (m.len ≤ 32 ∧ at_ % 4 = 0) ∧
    amo .slotAmoadd 0 [8, 13] ∧ amo .slotAmomin 1 [8, 13] ∧ amo .slotAmomax 2 [8, 13] ∧ amo .slotAmoand 3 [8, 13] ∧
    amo .slotAmoor 4 [8, 13] ∧ amo .slotAmoxor 5 [8, 13] ∧ amo .slotAmoswp 6 [8, 13] ∧ amo .slotAmocas 7 [8, 13] ∧
    amo .slotAmofadd 8 [0, 1, 2] ∧
    (let vt : BitVec 4 := m.arg.extractLsb' 48 4
     let nibs (i : Nat) : BitVec 64 := BitVec.ofNat 64 (field s.arg.data (40 * i + 32) 8)
     let parts := List.range (max 1 ((m.len + 31) / 32))
     run .slotVamoadd (slot 0x19) (.vamo vt) at_ m.len ((parts.flatMap fun i => slice s.arg.data (40 * i) 32).take m.len)
      ((parts.flatMap fun i => (List.range 64).map (nibs i).getLsbD).take (2 * m.len)) m.arg
      (fun t x bs => each x (fun u i => rdata u x (bs.drop (32 * i))) t) errs
      (vt ∈ [0, 1, 2, 8, 13] ∧ m.len % (tyBits vt / 8) = 0)) ∧
    flag .slotFadd 0 rdata ∧ flag .slotFset 1 rdata ∧ flag .slotFarm 2 rdata ∧
    cell .cellopTouch 0 ∧ cell .cellopCstat 1 ∧ cell .cellopDefer 2 ∧ cell .cellopResolve 3 ∧ cell .cellopPoison 4 ∧
    cell .cellopWaitc 5 ∧ cell .cellopHeadQuery 6

/-- R38 to R41, R50, R59, R124, R176. `sendRequest` sends a part of a request, `finishWord` ends its word with the bytes it has got, and
`Waiter.pends` says that a waiter holds an entry of a wait table. A cell trap behind the code of an ERR (notes/assumptions/17.md), an ERR
of any code as machine check REMOTE (notes/assumptions/37.md), and a line write of STATUS 5 that marks its line (notes/assumptions/33.md)
are the model's readings. -/
def Obligations.TransfersLineWritesAndResponsesComplete : Prop :=
  ∀ s : State,
    let a := s.arg
    let m := a.msg
    let ends (t : State) : Host.Outcome State Fault Refusal := .next t.settled
    let without (r : Request) : State := { s with requests := s.requests.filter (fun x => x.tag != r.tag) }
    let now (r : Request) (t : State) : State := { t with requests := t.requests.map fun (x : Request) => if x.tag == r.tag then r else x }
    let failed (r : Request) (cause info : Nat) : State := takeTrap (without r) r.core (engCode r.eng) cause r.part.2.va
      (BitVec.ofNat 64 (reqCode r.acc + (if r.part.2.stash then 8 else 0) + info + r.part.2.elem * 2 ^ 40))
    -- its trap, or a note of it while other engines of the core are busy: the word is then executed again, and meets it
    let error (r : Request) (arg : Nat) : State :=
      let cause := arg / 256 % 256
      if othersBusy (without r) r.core r.eng then
        noteFailed ((without r).modCore r.core fun c =>
          let k := if r.eng == .t then c.unwind else c
          { k with ctx := clearPending k.ctx }) r.core r.eng arg r.part.2
      else if 0x15 ≤ cause ∧ cause ≤ 0x17 then failed r cause (arg / 65536 % 65536 * 65536)
      else failed r 0x40 (0x500 + 0x1000 * (arg % 256))
    let completed (t : State) (r : Request) (bs : List Byte) : State :=
      let q := { r with got := r.got ++ bs }
      if 0 < r.more then now { q with more := r.more - 1 } t
      else match r.rest, (if r.checking then partsOf r.acc else []) with
        | p :: ps, _ => ((sendRequest q p ps).run t).2
        | [], p :: ps => ((sendRequest { q with checking := false, got := [] } p ps).run t).2
        | [], [] => finishWord { t with requests := t.requests.filter (fun x => x.tag != r.tag) } q
    (let count := m.arg.toNat % 2 ^ 24
     let bxid : BitVec 8 := m.arg.extractLsb' 24 8
     let taken := s.bulks.any fun x => x.src == m.src && x.dst == m.dst && x.bxid == bxid
     let b : Bulk := { src := m.src, bxid := bxid, dst := m.dst, addr := m.addr.toNat, count := count, got := 0, tag := m.tag, core := m.core, err := 0 }
     (count = 0 ∨ taken = true → exec .bopen s = ends (respond s m 0x42 1 [])) ∧
     (0 < count → taken = false → exec .bopen s = ends { s with bulks := s.bulks ++ [b] })) ∧
    (let key := bulkPart a.k a.n a.c 0 0
     (s.bulks.find? (·.isOf key) = none → exec .bulkFlit s = ends (s.modLink a.n a.size fun l => { l with proto := true })) ∧
     (∀ b, s.bulks.find? (·.isOf key) = some b →
       let n := min 240 (b.count - 240 * b.got)
       let with_ (f : Bulk → Bulk) : State := { s with bulks := s.bulks.map fun (x : Bulk) => if x.isOf key then f x else x }
       let more := 240 * (b.got + 1) < b.count
       let written : State := ((writeBulk a.k a.n a.c 4 (b.addr + 240 * b.got) (slice a.data 0 n)).run
         (with_ fun x => { x with got := x.got + 1 })).2
       (b.block = none → b.discard = false → exec .bulkFlit s = ends (if more then written else bulkSettle written key)) ∧
       (b.block = none → b.discard = true → exec .bulkFlit s =
         ends (let t := with_ fun x => { x with got := x.got + 1 }; if more then t else bulkSettle t key)) ∧
       (b.block ≠ none → (b.discard = false ∨ more) → exec .bulkFlit s =
         ends (with_ fun x => if x.discard then { x with got := x.got + 1 }
           else { x with got := x.got + 1, data := x.data ++ slice a.data 0 n })) ∧
       (b.block ≠ none → b.discard = true → ¬ more → exec .bulkFlit s =
         ends { s with bulks := s.bulks.filter fun x => !x.isOf key }))) ∧
    (let l := a.line
     let x : Slot := { noSlot with src := l.src, dst := l.dst, addr := BitVec.ofNat 48 (lineOf l.addr.toNat), op := 0x02, len := 32, tag := l.tag, core := l.core }
     let p : Piece := ⟨lineOf l.addr.toNat, 128, 1, isDram x.addr.toNat, x.addr.zeroExtend 64, 0, false, true⟩
     let line (act : Action) : Host.Outcome State Fault Refusal :=
       let acc : Access := { act := act, pieces := [p], data := slice l.line 0 128 }
       ends (match (perform (.slot x) acc).run s with
         | (.done _, t) => respond (markLine t l) x 0x41 0 []
         | (.fault e _, t) => respond t x 0x42 e.arg []
         | (.wait on, t) => { t with waiters := t.waiters ++ [(⟨.slot x, acc, .none, on, 0, false⟩ : Waiter)] }
         | (.full on, t) => { t with waiters := t.waiters ++ [(⟨.slot x, acc, .none, on, 0, true⟩ : Waiter)] })
     exec .lwrite s = line .store ∧ exec .lwritev s = line .resolveWrite) ∧
    (∀ r, findRequest s m = some r → r.op = none →
      let bs := slice m.payload 0 (if r.acc.act.isStore && !r.acc.act.isAtomic then 0 else r.part.2.len)
      exec .rdata s = ends (completed s r bs) ∧ exec .done s = ends (completed s r []) ∧
      (errProxy s m = none → m.len ≠ 0x60 → m.len ≠ 0x30 → m.len ≠ 0x63 → recordAt m.addr.toNat = none →
        exec .err s = ends (error r (m.arg.toNat % 2 ^ 32)))) ∧
    (findRequest s m = none → exec .done s = ends s ∧ (findQuery s m = none → exec .rdata s = ends s) ∧
      (∀ l, findQuery s m = some l → exec .rdata s = ends (headAnswer s l (leNat (slice m.payload 0 8))))) ∧
    (∀ r, findRequest s { noSlot with dst := a.line.dst, tag := a.line.tag, core := a.line.core } = some r → r.op = none →
      let p := r.part.2
      let kept : State := if r.acc.act = .load ∧ mayHold s p = true then
        l1Put s r.core { addr := lineOf p.pa, cls := p.cls, data := a.line.line, stamp := (s.core r.core).genl1 } else s
      (a.line.status = 0 → a.line.ctag ≠ 3 → exec .ldata s = ends (completed kept r (slice a.line.line (p.pa % 128) p.len))) ∧
      (a.line.status = 0 → a.line.ctag = 3 → exec .ldata s = ends (error r (0x1505 + 65536 * leNat (slice a.line.line 34 2)))) ∧
      (a.line.status ≠ 0 → exec .ldata s = ends (error r a.line.status.toNat))) ∧
    (∀ r, findRequest s m = some r → exec .pend s = ends (let marked (x : Request) : Request := if x.tag == r.tag then { x with pended := true } else x
      { s with requests := s.requests.map marked })) ∧
    (findRequest s m = none → exec .pend s = ends s) ∧
    exec .pendTimer s = ends (s.waiters.foldl (fun (s : State) w => match w.who with
      | .slot m => if m.dst == a.n && m.op != 0x30 && w.pends then respond s m 0x43 0 [] else s
      | _ => s) s) ∧
    (∀ r, s.requests.find? (fun r => r.core == a.n && r.tag.toNat == a.k) = some r → r.op = none →
      exec .responseTimeout s = ends (error r 4)) ∧
    (s.requests.find? (fun r => r.core == a.n && r.tag.toNat == a.k) = none →
      ∀ q, s.queries.find? (fun q => q.1.toNat == a.k && homeSite q.2 == siteOf a.n) = some q →
        exec .responseTimeout s = ends (headAnswer s q.2 0)) ∧
    (errProxy s m = none → m.len ≠ 0x60 → m.len ≠ 0x30 → m.len ≠ 0x63 → ∀ site i, recordAt m.addr.toNat = some (site, i) → exec .err s =
      ends (if m.arg.toNat % 256 = 4 then failStream (raiseMsix s 2) (recStream (s.record site i).bytes) 0x0022 else s))

/-- R68 to R76. -/
def Obligations.HostWritesOfTheWindowActAsTheirRulesSay : Prop :=
  ∀ s : State,
    let a := s.arg
    let n := a.n
    let v := a.val.toNat % 2 ^ 32
    let b := slotImage s n
    let st := field b 0 4 % 16
    let ends (t : State) : Host.Outcome State Fault Refusal := .next t.settled
    let owned := st = 0 ∨ (4 ≤ st ∧ st ≤ 7)
    let undone := ends (s.modFw fun f => { f with sloterr := f.sloterr + 1 })
    let gen := mapGet 0 s.fw.gens n
    let id : BitVec 20 := BitVec.ofNat 20 (gen.toNat * 65536 + n)
    let t := slotWrite (s.modFw fun f => { f with gens := mapSet f.gens n (gen + 1) }) n 128 (leBytes 4 id.toNat ++ [0, 0, 0, 0, 0, 0])
    let word := v / 16 * 16 + 1
    let inst := field b 8 1
    (s.fw.st = .minimal → ∀ i, i ∈ ([.submit, .slotFree, .slotStateUndo, .cancelWord, .evheadWrite] : List Instr) → exec i s = ends s) ∧
    (s.fw.st ≠ .minimal → ¬ owned → exec .submit s = undone) ∧
    (s.fw.st ≠ .minimal → owned →
      (∀ c, rejectCause s b word = some c → exec .submit s = ends (terminal t n 7 c 0 id)) ∧
      (rejectCause s b word = none →
        (field b 4 4 ≠ 0 → exec .submit s = ends (terminal t n 5 0x0010 0 id)) ∧
        (field b 4 4 = 0 → exec .submit s = ends (slotWrite (t.modFw fun f => { f with
          streams := mapSet f.streams n (newStream n id b), queue := f.queue ++ [n] }) n 0 (leBytes 4 2))))) ∧
    (s.fw.st ≠ .serving → rejectCause s b word = some 0x0032) ∧
    (s.fw.st = .serving →
      (badFields b word = true → rejectCause s b word = some 0x0031) ∧
      (badFields b word = false →
        (planInst s inst = none → rejectCause s b word = some 0x0030) ∧
        ∀ i, planInst s inst = some i →
          (weightsLoaded s inst = false ∨ inst ∈ s.fw.mediaInst → rejectCause s b word = some 0x0030) ∧
          (weightsLoaded s inst = true → inst ∉ s.fw.mediaInst →
            (i.ctxlim < field b 24 4 → rejectCause s b word = some 0x0033) ∧
            (field b 24 4 ≤ i.ctxlim → rejectCause s b word = none)))) ∧
    (s.fw.st ≠ .minimal → 4 ≤ st ∧ st ≤ 7 → exec .slotFree s = ends (slotWrite s n 0 (leBytes 4 0))) ∧
    (s.fw.st ≠ .minimal → ¬ (4 ≤ st ∧ st ≤ 7) → exec .slotFree s = undone) ∧
    (s.fw.st ≠ .minimal → ¬ (v % 16 = 1 ∧ owned) → ¬ (v = 0 ∧ 4 ≤ st ∧ st ≤ 7) → exec .slotStateUndo s = undone) ∧
    ((v % 16 = 1 ∧ owned) ∨ (v = 0 ∧ 4 ≤ st ∧ st ≤ 7) → exec .slotStateUndo s = ends s) ∧
    (let t := slotWrite s n 4 (leBytes 4 v)
     let live := slotState t n = 2 ∨ slotState t n = 3
     s.fw.st ≠ .minimal → (v = 0 ∨ ¬ live → exec .cancelWord s = ends t) ∧
     (v ≠ 0 → live → exec .cancelWord s = ends (cancelStream t (field (slotImage t n) 128 4 % 2 ^ 20)))) ∧
    (let t := s.modFw fun f => { f with evhead := BitVec.ofNat 12 a.val.toNat }
     s.fw.st ≠ .minimal → (s.fw.evHeld = [] → exec .evheadWrite s = ends t) ∧ exec .evheadWrite s = ends (ringFlush 4096 t)) ∧
    (let bit : BitVec 5 := 1 <<< n
     let entry : Firmware := { s.fw with msixTable := mapSet s.fw.msixTable n (a.addr.zeroExtend 64, BitVec.ofNat 32 a.val.toNat) }
     (a.flag = true → exec .msixUnmask s = ends (s.modFw fun _ => { entry with msixMask := s.fw.msixMask ||| bit })) ∧
     (a.flag = false → exec .msixUnmask s = ends (s.modFw fun _ => { entry with
       msixMask := s.fw.msixMask &&& ~~~bit, msixPend := s.fw.msixPend &&& ~~~bit,
       msix := if s.fw.msixPend.getLsbD n then (n, a.addr.zeroExtend 64, BitVec.ofNat 32 a.val.toNat) :: s.fw.msix else s.fw.msix }))) ∧
    (let o := a.addr.toNat
     let fails := windowError s o != 0 || windowDead s o
     (let k := min a.size (64 - o % 64)
      let awake := match windowPhys s o with
        | some pa => wake s pa
        | none => s
      let bs := (List.range k).map fun i => windowByte awake (o + i)
      let read (t : State) (v : List Byte) (poison : Bool) (err : BitVec 8) : Host.Outcome State Fault Refusal :=
        ends (t.modFw fun f => { f with hostRead := v, hostPoison := poison, hostErr := err })
      (s.fw.st = .minimal → exec .hostMemRead s = read s (List.replicate k 0xFF) true 0) ∧
      (s.fw.st ≠ .minimal →
        (fails = true → exec .hostMemRead s = read s [] false (windowError s o)) ∧
        (fails = false → none ∈ bs → exec .hostMemRead s = read awake (List.replicate k 0xFF) true 0) ∧
        (fails = false → none ∉ bs → exec .hostMemRead s = read awake (bs.map (·.getD 0)) false 0))) ∧
     (let bs := a.data.take (64 - o % 64)
      let t := s.modFw fun f => { f with hostErr := 0 }
      (s.fw.st = .minimal → exec .hostMemWrite s = ends s) ∧
      (s.fw.st ≠ .minimal → fails = true → exec .hostMemWrite s = ends (s.modFw fun f => { f with hostErr := windowError s o })) ∧
      (s.fw.st ≠ .minimal → fails = false →
        (o < 0x1000000 → exec .hostMemWrite s = ends (writeSlot t (o / 256) (o % 256) bs)) ∧
        (o = 0x1010000 → 4 ≤ bs.length → exec .hostMemWrite s = ends (ringFlush 4096 (t.modFw fun f => { f with
          evhead := BitVec.ofNat 12 (leNat (bs.take 4) % 4096) }))) ∧
        (∀ pa, windowPhys s o = some pa → s.cellTag pa ≠ 0 → exec .hostMemWrite s = ends t) ∧
        (∀ pa, windowPhys s o = some pa → s.cellTag pa = 0 → exec .hostMemWrite s = ends
          ((writePiece [] 0 { pa := pa, len := bs.length, cls := 1, defer := false, va := BitVec.ofNat 64 pa, elem := 0, stash := false }
            bs).run (wake t pa)).2) ∧
        (0x1010004 ≤ o → windowPhys s o = none → exec .hostMemWrite s = ends t))))

/-- R77 to R79, R84, R87; the order of the answers is the model's choice (notes/assumptions/28.md). Each command of Table 4-8 with the states that accept it, whether it runs beside a background command, its
input length and what its reserved input must be. -/
def Obligations.MailboxCommandsAreRefusedWhereTheirTableSays : Prop :=
  ∀ s : State,
    let b := s.arg.data.take 0x10000
    let st := s.fw.st
    let result (r : Nat) : Host.Outcome State Fault Refusal := .next (raiseMsix (s.modFw fun f => { f with cxl := .success, out := leBytes 4 r }) 0).settled
    let zero (o n : Nat) : Bool := (slice b o n).all (· == 0)
    let ready := st == .drained || st == .serving
    let id20 := decide (field b 0 4 < 2 ^ 20)
    let peer := decide (field b 0 2 < 4096) && zero 2 6
    let debug : List (Instr × Bool × Bool × Nat × Bool) := [(.debugHalt, st != .minimal, false, 4, zero 1 1),
      (.debugResume, st != .minimal, false, 4, zero 1 1), (.debugRead, st != .minimal, false, 18, decide (field b 1 1 < 2) && zero 4 4),
      (.debugWrite, st != .minimal, false, 24, decide (field b 1 1 < 2) && zero 4 4 && zero 18 6),
      (.debugBreak, st != .minimal, false, 17, zero 1 1 && decide (field b 4 1 < 2) && zero 5 3)]
    let table : List (Instr × Bool × Bool × Nat × Bool) := [(.identify, true, true, 0, true), (.status, true, true, 0, true),
      (.attest, st != .starting, true, 64, true), (.bootlog, true, true, 0, true),
      (.updateConfig, st == .noPlan || st == .drained || st == .minimal, false, 8, true),
      (.setPlan, st == .noPlan || st == .drained, false, 12, true),
      (.loadText, ready, false, 28, zero 1 1 && decide (field b 2 2 < 4096) && zero 4 4),
      (.loadWeights, ready, false, 24, zero 1 1 && zero 4 4), (.mapRegion, ready, false, 24, true), (.unmap, ready, false, 16, true),
      (.openSpace, ready, false, 16, peer), (.closeSpace, ready, false, 2, decide (field b 0 2 < 4096)),
      (.setTier, ready, false, 24, true), (.cancel, st == .serving || st == .draining, true, 4, id20),
      (.drain, st == .serving, false, 0, true), (.queryStream, st != .minimal, true, 4, id20), (.lend, ready, false, 16, peer),
      (.borrow, ready, false, 16, peer), (.reclaim, ready, false, 20, peer),
      (.resetModule, true, false, 1, decide (field b 0 1 < 2)), (.thermalRead, st != .minimal, true, 4, field b 0 1 == 0),
      (.thermalSet, st != .minimal, false, 4, field b 0 1 == 1), (.powerCap, st != .minimal, false, 4, true)]
    (∀ i allowed beside len reserved, (i, allowed, beside, len, reserved) ∈ table ++ debug →
      (s.fw.started = false → exec i s = .next s.settled) ∧
      (s.fw.started = true → unknownOpcode s.arg.k = true →
        exec i s = .next (raiseMsix (s.modFw fun f => { f with cxl := .unsupported, out := [] }) 0).settled) ∧
      (s.fw.started = true → unknownOpcode s.arg.k = false →
        (s.fw.background ≠ none → beside = false → exec i s = result 3) ∧
        (s.fw.background = none ∨ beside = true →
          (allowed = false → exec i s = result (if st = .minimal then 9 else 2)) ∧
          (allowed = true → b.length < len ∨ reserved = false → exec i s = result 1)))) ∧
    (∀ i allowed beside len reserved, (i, allowed, beside, len, reserved) ∈ debug → s.fw.started = true →
      unknownOpcode s.arg.k = false → st ≠ .minimal →
      s.fw.background = none → len ≤ b.length → reserved = true → s.fw.dbg = false → exec i s = result 2)

/-- R68, R77, R80, R81, R86, R88, R89, R91, R92, R98, R180. The exchange that CLOSE_SPACE keeps open and the vector that LOAD_WEIGHTS
raises only at its end are choices of the model (notes/assumptions/28.md), as are the older copy and the order of chunks (30.md). -/
def Obligations.MailboxSetupCommandsDoTheirWork : Prop :=
  ∀ s : State, s.fw.started = true → unknownOpcode s.arg.k = false →
    let b := s.arg.data.take 0x10000
    let f := s.fw
    let st := f.st
    let n (o k : Nat) : Nat := field b o k
    let reply (t : State) (r : Nat) (out : List Byte) : Host.Outcome State Fault Refusal :=
      .next (raiseMsix (t.modFw fun f => { f with cxl := .success, out := leBytes 4 r ++ out }) 0).settled
    let begun (t : State) : Host.Outcome State Fault Refusal := .next (t.modFw fun f => { f with cxl := .background, out := [] }).settled
    let bit (v : Bool) (k : Nat) : Nat := if v then 2 ^ k else 0
    let sites := if st = .minimal then 0 else (List.range 64).foldl (fun m n => m + bit (s.die n).usable n) 0
    let edies := if st = .minimal then 0 else bit (s.die 65).usable 0 + bit (s.die 66).usable 1 + bit (s.die 67).usable 2
    (exec .identify s = reply s 0 (leBytes 2 0x0940 ++ leBytes 2 f.modid.toNat ++ leBytes 8 Config.serial.toNat ++ leBytes 8 sites ++
      (List.range 32).flatMap (fun k => leBytes 4 (s.die (dSite k)).stackCap) ++ (List.range 32).map (fun k => (s.die (pSite k)).wbok) ++
      leBytes 1 edies)) ∧
    (exec .status s = reply s 0 ([BitVec.ofNat 8 st.code, f.attempts] ++ leBytes 2 f.sloterr.toNat ++ leBytes 4 f.streams.length ++
      leBytes 4 ((List.range 64).foldl (fun n k => n + (s.die k).fq.length) 0) ++ leBytes 1 (bit f.ltwarn 0))) ∧
    (exec .bootlog s = reply s 0 (leBytes 4 f.causes.length ++ f.causes.flatten)) ∧
    (st ≠ .starting → 64 ≤ b.length →
      (f.idOk = false → exec .attest s = reply s 2 []) ∧
      (f.idOk = true →
        let head := leBytes 2 1 ++ leBytes 2 f.modid.toNat ++ leBytes 2 f.items.length ++ [0, 0] ++ slice b 0 64 ++ f.chain ++
          f.items.flatMap fun i => leBytes 8 i.1 ++ slice i.2 0 64
        exec .attest s = reply s 0 (head ++ publicKey f.seed ++ (List.range 4627).map (Config.signatureByte f.seed head)))) ∧
    (f.background = none →
      (st = .noPlan ∨ st = .drained ∨ st = .minimal → 8 ≤ b.length →
        let have' := if n 0 4 = 0 then [] else f.update
        let img := have' ++ b.drop 8
        let body := field img 8 4
        let c : Flash := { body := slice img 0 body, sig := slice img body 4627 }
        let t := s.modFw fun f => { f with update := [] }
        (n 0 4 ≠ have'.length ∨ n 4 4 < img.length → exec .updateConfig s = reply s 1 []) ∧
        (n 0 4 = have'.length → img.length < n 4 4 → exec .updateConfig s = reply (s.modFw fun f => { f with update := img }) 0 []) ∧
        (n 0 4 = have'.length → img.length = n 4 4 →
          (body < 1152 ∨ img.length ≠ body + 4627 ∨ field img 0 4 ≠ 0x46434744 → exec .updateConfig s = reply t 1 []) ∧
          (1152 ≤ body → img.length = body + 4627 → field img 0 4 = 0x46434744 →
            (Config.recordSigOk c.body c.sig = false → exec .updateConfig s = reply t 4 []) ∧
            (Config.recordSigOk c.body c.sig = true →
              (f.inUse ≠ none → c.seq ≤ f.cfgSeq → exec .updateConfig s = reply t 1 []) ∧
              (f.inUse = none ∨ f.cfgSeq < c.seq →
                let ok (c : Flash) : Bool := Config.recordSigOk c.body c.sig
                let first := (ok f.flash0 = false ∧ ok f.flash1 = true) ∨ (ok f.flash0 = ok f.flash1 ∧
                  (f.inUse = none ∨ f.flash0.seq < f.flash1.seq ∨ (f.flash0.seq = f.flash1.seq ∧ f.inUse = some 1)))
                exec .updateConfig s = reply (t.modFw fun f => { f with
                  attempts := 0, flash0 := if first then c else f.flash0, flash1 := if first then f.flash1 else c }) 0 []))))) ∧
      (st = .noPlan ∨ st = .drained → 12 ≤ b.length →
        let img := hostRead s (n 0 8) (n 8 4)
        let p := Config.parsePlan img
        let t := installPlan s p (sha3 img)
        (∀ e, planFinding s img (n 8 4) p = some e → exec .setPlan s = reply s 8 (leBytes 4 e.1 ++ leBytes 4 e.2.1 ++ leBytes 4 e.2.2)) ∧
        (planFinding s img (n 8 4) p = none → exec .setPlan s = reply t 0 (sha3 img) ∧
          t.fw.st = .serving ∧ t.fw.plan = some p ∧ t.fw.attempts = 0 ∧ t.fw.texts = [] ∧ t.fw.loaded = [])) ∧
      (st = .drained ∨ st = .serving →
        (28 ≤ b.length → n 1 1 = 0 → n 2 2 < 4096 → n 4 4 = 0 →
          let va := n 8 8
          let len := n 24 4
          (len = 0 ∨ 2 ^ 56 < va + len → exec .loadText s = reply s 1 []) ∧
          (0 < len → va + len ≤ 2 ^ 56 →
            (planInst s (n 0 1) = none ∨ mapFind f.roots (n 2 2) = none → exec .loadText s = reply s 7 []) ∧
            (planInst s (n 0 1) ≠ none → mapFind f.roots (n 2 2) ≠ none →
              (256 ≤ f.items.length → exec .loadText s = reply s 6 []) ∧
              (f.items.length < 256 →
                (rangeParts s 0 (n 2 2) aFetch va len = none → exec .loadText s = reply s 7 []) ∧
                (∀ ps, rangeParts s 0 (n 2 2) aFetch va len = some ps →
                  let text := hostRead s (n 16 8) len
                  exec .loadText s = reply ((writeParts s ps text).modFw fun f => { f with
                    items := f.items ++ [(4, sha3 text)], chain := sha3 (f.chain ++ [4] ++ sha3 text),
                    texts := f.texts ++ [{ inst := n 0 1, asid := n 2 2, va := BitVec.ofNat 64 va, len := len }] }) 0 []))))) ∧
        (24 ≤ b.length → n 1 1 = 0 → n 4 4 = 0 →
          (findTensor s (n 0 1) (n 2 2) = none → exec .loadWeights s = reply s 7 []) ∧
          (findTensor s (n 0 1) (n 2 2) ≠ none → exec .loadWeights s = begun (s.modFw fun f => { f with
            background := some (.loadWeights (n 0 1) (n 2 2) (BitVec.ofNat 64 (n 8 8)) (n 16 8)) }))) ∧
        (24 ≤ b.length →
          (let ok := windowRange (n 0 8) (n 16 8) = true ∧ n 8 8 % 0x400000 = 0 ∧ n 8 8 + n 16 8 ≤ 0x018000000000
           (¬ ok → exec .mapRegion s = reply s 1 []) ∧
           let w := (List.range (n 16 8 / 0x400000)).foldl (fun w i => mapSet w (n 0 8 / 0x400000 + i) (n 8 8 + i * 0x400000)) f.window
           (ok → exec .mapRegion s = reply (s.modFw fun f => { f with window := w }) 0 [])) ∧
          (let ok := n 0 8 % 0x10000 = 0 ∧ n 8 8 % 0x10000 = 0 ∧ n 16 8 % 0x10000 = 0 ∧ 0 < n 16 8 ∧ n 0 8 + n 16 8 ≤ 0x400000000000
           (¬ ok → exec .setTier s = reply s 1 []) ∧
           let t := (List.range (n 16 8 / 0x10000)).foldl (fun t i => mapSet t (n 0 8 / 0x10000 + i) (n 8 8 + i * 0x10000)) f.tier
           (ok → exec .setTier s = reply (s.modFw fun f => { f with tier := t }) 0 []))) ∧
        (16 ≤ b.length →
          (let gs := (List.range (n 8 8 / 0x400000)).map (n 0 8 / 0x400000 + ·)
           (windowRange (n 0 8) (n 8 8) = false → exec .unmap s = reply s 1 []) ∧
           (windowRange (n 0 8) (n 8 8) = true →
             ((∃ g ∈ gs, mapFind f.window g = none) → exec .unmap s = reply s 7 []) ∧
             ((∀ g ∈ gs, mapFind f.window g ≠ none) →
               exec .unmap s = reply (s.modFw fun f => { f with window := gs.foldl mapDel f.window }) 0 []))) ∧
          (n 0 2 < 4096 → (slice b 2 6).all (· == 0) = true →
            let opened (a : Nat) : Host.Outcome State Fault Refusal :=
              reply (s.modFw fun f => { f with roots := mapSet f.roots a (n 8 8) }) 0 (leBytes 2 a)
            (n 8 8 % 0x10000 ≠ 0 ∨ 2 ^ 48 ≤ n 8 8 → exec .openSpace s = reply s 1 []) ∧
            (n 8 8 % 0x10000 = 0 → n 8 8 < 2 ^ 48 →
              (n 0 2 ≠ 0 → mapFind f.roots (n 0 2) ≠ none → exec .openSpace s = reply s 3 []) ∧
              (n 0 2 ≠ 0 → mapFind f.roots (n 0 2) = none → exec .openSpace s = opened (n 0 2)) ∧
              (n 0 2 = 0 → ∀ i, (List.range 4095).find? (fun i => (mapFind f.roots (i + 1)).isNone) = some i →
                exec .openSpace s = opened (i + 1)) ∧
              (n 0 2 = 0 → (List.range 4095).find? (fun i => (mapFind f.roots (i + 1)).isNone) = none →
                exec .openSpace s = reply s 6 [])))) ∧
        (2 ≤ b.length → n 0 2 < 4096 →
          (mapFind f.roots (n 0 2) = none → exec .closeSpace s = reply s 7 []) ∧
          (mapFind f.roots (n 0 2) ≠ none →
            ((∃ t ∈ f.texts, t.asid = n 0 2) → exec .closeSpace s = reply s 3 []) ∧
            ((∀ t ∈ f.texts, t.asid ≠ n 0 2) → accessPending s (n 0 2) = true → exec .closeSpace s = .next s.settled) ∧
            ((∀ t ∈ f.texts, t.asid ≠ n 0 2) → accessPending s (n 0 2) = false →
              exec .closeSpace s = reply (asgen (s.modFw fun f => { f with roots := mapDel f.roots (n 0 2) }) (n 0 2)) 0 []))))) ∧
    (∀ i k host len, f.background = some (.loadWeights i k host len) →
      let ended (t : State) (r : Nat) : Host.Outcome State Fault Refusal := reply (t.modFw fun f => { f with background := none }) r []
      let t := s.modFw fun f => { f with loaded := f.loaded.filter (· != (i, k)) }
      (findTensor s i k = none → exec .loadWeightsDone s = ended t 7) ∧
      (∀ e, findTensor s i k = some e →
        (len ≠ e.len → exec .loadWeightsDone s = ended t 1) ∧
        (len = e.len →
          let bs := hostRead s host.toNat len
          let w := writeParts t (pageParts (len / 0x10000 + 2) e.dest len) bs
          (sha3 bs ≠ e.digest → exec .loadWeightsDone s = ended w 5) ∧
          (sha3 bs = e.digest → exec .loadWeightsDone s = ended (w.modFw fun f => { f with loaded := f.loaded ++ [(i, k)] }) 0))))

/-- R82 to R84, R108, R208, R267, R268, R270, R271, R33. What a site with no valid sensor reports, BADARG and NOTFOUND of debug accesses
and the exchange that goes on are choices of the model (notes/assumptions/28.md), as are the SPDM blocks and the empty answer before the
key exists (notes/assumptions/11.md). -/
def Obligations.StreamResetThermalAndDebugCommandsDoTheirWork : Prop :=
  ∀ s : State, s.fw.started = true → unknownOpcode s.arg.k = false →
    let b := s.arg.data.take 0x10000
    let f := s.fw
    let st := f.st
    let n (o k : Nat) : Nat := field b o k
    let reply (t : State) (r : Nat) (out : List Byte) : Host.Outcome State Fault Refusal :=
      .next (raiseMsix (t.modFw fun f => { f with cxl := .success, out := leBytes 4 r ++ out }) 0).settled
    let hot (t : State) : List Byte :=
      (List.range 68).flatMap fun d => leBytes 2 (BitVec.ofInt 16 ((hottest (t.die d)).getD 0)).toNat
    let slot := n 0 4 % 65536
    let last : Bool := (mapFind f.gens slot).isSome && field (slotImage s slot) 128 4 % 2 ^ 20 == n 0 4
    (4 ≤ b.length → n 0 4 < 2 ^ 20 →
      (st = .serving ∨ st = .draining →
        (last = true → slotState s slot = 2 ∨ slotState s slot = 3 →
          exec .cancel s = reply (cancelStream s (n 0 4)) 0 (leBytes 4 (slotState s slot))) ∧
        (last = false ∨ (slotState s slot ≠ 2 ∧ slotState s slot ≠ 3) → exec .cancel s = reply s 7 [])) ∧
      (st ≠ .minimal →
        (last = true → exec .queryStream s = reply s 0 (leBytes 4 (slotState s slot) ++ leBytes 2 slot ++ ([0, 0] : List Byte) ++
          slice (slotImage s slot) 132 4 ++ leBytes 8 (match mapFind f.streams slot with
            | some e => e.committed.length
            | none => 0))) ∧
        (last = false → exec .queryStream s = reply s 7 []))) ∧
    (st = .serving → f.background = none → exec .drain s = .next (s.modFw fun f => { f with
      st := .draining, background := some (.drain f.streams.length), cxl := .background, out := [] }).settled) ∧
    (∀ k, f.background = some (.drain k) →
      (f.streams = [] → exec .drainComplete s = reply ((resetTimes (s.modFw fun f => { f with st := .drained })).modFw fun f =>
        { f with background := none }) 0 (leBytes 4 k)) ∧
      (f.streams ≠ [] → exec .drainComplete s = .next s.settled)) ∧
    (f.background = none → 1 ≤ b.length → n 0 1 < 2 →
      exec .resetModule s = .next (s.modFw fun f => { f with
        background := some (.reset (n 0 1 == 1)), cxl := .background, out := [] }).settled) ∧
    (let asked := s.arg.data
     let sensor := 0xFF0010000000 ≤ s.arg.addr.toNat ∧ s.arg.addr.toNat < 0xFF0010044000
     let said (bs : List Byte) : Host.Outcome State Fault Refusal := .next (s.modFw fun f => { f with spdm := bs }).settled
     (asked = [] → sensor → exec .spdmRequest s = said (leBytes 4 (ctlRead s true (s.arg.addr.toNat / 4 * 4) 4))) ∧
     (asked ≠ [] ∨ ¬ sensor →
       (s.arg.flag = true → f.idOk = false → exec .spdmRequest s = said []) ∧
       (s.arg.flag = false ∨ f.idOk = true →
         let r := Config.spdmHead asked f.items.length ++ measurementBlocks 1 f.items
         exec .spdmRequest s = said (r ++ Config.spdmTail asked r (if s.arg.flag = true then f.seed else []))))) ∧
    (st ≠ .minimal →
      (4 ≤ b.length → n 0 1 = 0 → exec .thermalRead s = reply s 0 (hot s)) ∧
      (4 ≤ b.length → f.background = none →
        (n 0 1 = 1 → 68 ≤ n 1 1 → exec .thermalSet s = reply s 1 []) ∧
        (n 0 1 = 1 → n 1 1 < 68 →
          let t := setTlim s (n 1 1) (n 2 1) (n 3 1)
          exec .thermalSet s = reply t 0 (hot t)) ∧
        (let t := (List.range 16).foldl (fun (t : State) g => if (n 0 2).testBit g then writeRegion t g 0 (n 2 2) else t) s
         exec .powerCap s = reply t 0 ((List.range 16).flatMap fun g => leBytes 2 (t.region g).pcap.toNat))) ∧
      (f.dbg = true → f.background = none →
        let core := n 0 1 * 1024 + n 2 2
        let asid := (s.core core).ctx.asid
        let named := n 0 1 < 64 ∧ n 2 2 < coresOf (n 0 1)
        let va := n 8 8
        let len := n 16 2
        let ends (r : State × Reply) : Host.Outcome State Fault Refusal := match r with
          | (t, .done r out) => reply t r.code out
          | (t, .background) => .next (t.modFw fun f => { f with cxl := .background, out := [] }).settled
          | (t, .goesOn) => .next t.settled
        let fresh (t : State) : State := { t with arrived := t.arrived.filter fun e => e.1 != opKey debugId }
        let measured (t : State) : State :=
          if t.fw.dbgItem then t else t.modFw fun f => { measure f 5 (sha3 []) with dbgItem := true }
        (4 ≤ b.length → n 1 1 = 0 →
          (¬ named → exec .debugHalt s = reply s 1 [] ∧ exec .debugResume s = reply s 1 []) ∧
          (named →
            exec .debugHalt s = reply (s.modCore core fun c => { c with haltReq := true }) 0 [] ∧
            ((s.core core).inHalt = false → exec .debugResume s = reply s 2 []) ∧
            ((s.core core).inHalt = true → exec .debugResume s = reply (releaseHalt s core) 0 []))) ∧
        (n 1 1 < 2 → n 4 4 = 0 →
          let ok := 0 < len ∧ len ≤ 4096
          (18 ≤ b.length → ok → 64 ≤ n 0 1 → n 0 1 < 68 →
            (0xFF0000000000 ≤ va ∧ va + len ≤ 2 ^ 48 →
              exec .debugRead s = reply s 0 (leBytes 4 0 ++ (List.range len).map fun i =>
                BitVec.ofNat 8 (ctlRead s true ((va + i) / 4 * 4) 4 / 256 ^ ((va + i) % 4)))) ∧
            (va < 0xFF0000000000 ∨ 2 ^ 48 < va + len → exec .debugRead s = reply s 1 [])) ∧
          (18 ≤ b.length → n 0 1 < 64 →
            (¬ named ∨ ¬ ok → exec .debugRead s = reply s 1 []) ∧
            (named → ok → (s.core core).inHalt = false → exec .debugRead s = reply s 2 []) ∧
            (named → ok → (s.core core).inHalt = true →
              (∀ e, debugParts s core aLoad va len (n 1 1 == 1) = .error e → exec .debugRead s = ends e) ∧
              (∀ t ps, debugParts s core aLoad va len (n 1 1 == 1) = .ok (t, ps) →
                let here := ∀ g ∈ farParts ps, ∀ i < g.len, (debugByte t (g.pa + i)).isSome = true
                let bytes (p : Nat × Nat) : List Byte := match spaceOf p.1 with
                  | .control _ => controlBytes t p.1 p.2
                  | .remote _ _ => (List.range p.2).map fun i => (debugByte t (p.1 + i)).getD 0
                  | _ => readBytes t p.1 p.2
                (here → exec .debugRead s = reply (fresh t) 0 (leBytes 4 0 ++ ps.flatMap bytes)) ∧
                (¬ here → exec .debugRead s = ends (debugAsk t core (farParts ps) none))))) ∧
          (24 + len ≤ b.length → (slice b 18 6).all (· == 0) = true → ok →
            let bs := slice b 24 len
            (64 ≤ n 0 1 → n 0 1 < 68 → 0xFF0000000000 ≤ va → va + len ≤ 2 ^ 48 →
              (va % 4 = 0 → len % 4 = 0 → exec .debugWrite s = reply ((List.range (len / 4)).foldl (fun (t : State) i =>
                ctlWrite t (va + 4 * i) 4 (field bs (4 * i) 4)) (measured s)) 0 []) ∧
              (va % 4 ≠ 0 ∨ len % 4 ≠ 0 → exec .debugWrite s = reply s 1 [])) ∧
            (named → (s.core core).inHalt = false → exec .debugWrite s = reply s 2 []) ∧
            (named → (s.core core).inHalt = true →
              (∀ e, debugParts s core aStore va len (n 1 1 == 1) = .error e → exec .debugWrite s = ends e) ∧
              (∀ t ps, debugParts s core aStore va len (n 1 1 == 1) = .ok (t, ps) →
                let unfit := ∃ p ∈ ps, 0xFF0000000000 ≤ p.1 ∧ (p.1 % 4 ≠ 0 ∨ p.2 % 4 ≠ 0)
                let told := farParts ps = [] ∨ ∃ e ∈ t.arrived, e.1 = opKey debugId ∧ e.2.1 = 2 ^ 48 - 1
                (unfit → exec .debugWrite s = reply (fresh t) 1 []) ∧
                (¬ unfit → told → exec .debugWrite s = reply (fresh (debugWriteParts (measured t) ps bs)) 0 []) ∧
                (¬ unfit → ¬ told → exec .debugWrite s = ends (debugAsk t core (farParts ps) (some (farBytes ps bs)))))))) ∧
        (17 ≤ b.length → n 1 1 = 0 → n 4 1 < 2 → (slice b 5 3).all (· == 0) = true →
          let size := n 16 1
          (¬ named ∨ (size ≠ 2 ∧ size ≠ 4 ∧ size ≠ 8) → exec .debugBreak s = reply s 1 []) ∧
          (named → size = 2 ∨ size = 4 ∨ size = 8 →
            (debugText s core asid va = none → exec .debugBreak s = reply s 7 []) ∧
            (∀ pa, debugText s core asid va = some pa →
              (layerOff s pa = true → exec .debugBreak s = reply s 10 []) ∧
              (layerOff s pa = false → (locate s pa).toOption = none → exec .debugBreak s = reply s 7 []) ∧
              (layerOff s pa = false → (locate s pa).toOption.isSome = true →
                let t := wake s pa
                let p : Parcel := BitVec.ofNat 16 (leNat (readBytes t pa 2))
                let k := parcelsOf p
                (n 4 1 = 1 →
                  (size ≠ 2 * k ∨ 64 < pa % 64 + size ∨ va % 2 = 1 ∨ patched t core pa = true →
                    exec .debugBreak s = reply t 1 []) ∧
                  (size = 2 * k → pa % 64 + size ≤ 64 → va % 2 = 0 → patched t core pa = false →
                    ((List.range 64).find? (fun i => (mapFind t.fw.breaks i).isNone) = none → exec .debugBreak s = reply t 6 []) ∧
                    (∀ i, (List.range 64).find? (fun i => (mapFind t.fw.breaks i).isNone) = some i →
                      let word := (List.range k).map fun j => (BitVec.ofNat 16 (leNat (readBytes t (pa + 2 * j) 2)) : Parcel)
                      let e : Break := { va := BitVec.ofNat 64 va, asid := asid, parcels := k, hits := 0, lastCore := 0,
                                         lastSite := 0, word := packParcels word }
                      exec .debugBreak s = reply (dropText (writeBytes ((measured t).modFw fun f => { f with
                        breaks := mapSet f.breaks i e }) pa (textBytes (patchOf p))) 3) 0 []))) ∧
                (n 4 1 = 0 →
                  (findBreak t va asid = none → exec .debugBreak s = reply t 7 []) ∧
                  (∀ i e, findBreak t va asid = some (i, e) →
                    (size ≠ 2 * e.parcels → exec .debugBreak s = reply t 1 []) ∧
                    (size = 2 * e.parcels → exec .debugBreak s = reply (dropText (writeBytes ((measured t).modFw fun f => { f with
                      breaks := mapDel f.breaks i }) pa (textBytes (wordParcels e.word e.parcels))) 3) 0 [])))))))))

/-- R59, R64, R65; the exchange is that of notes/assumptions/29.md. -/
def Obligations.LendingBorrowingAndReclaimingMoveDiesBetweenModules : Prop :=
  ∀ s : State, s.fw.started = true → unknownOpcode s.arg.k = false →
    let b := s.arg.data.take 0x10000
    let f := s.fw
    let n (o k : Nat) : Nat := field b o k
    let reply (t : State) (r : Nat) (out : List Byte) : Host.Outcome State Fault Refusal :=
      .next (raiseMsix (t.modFw fun f => { f with cxl := .success, out := leBytes 4 r ++ out }) 0).settled
    let answered (t : State) (r : Nat) (m : BitVec 64) : Host.Outcome State Fault Refusal :=
      .next (t.modFw fun f => { f with peerAnswer := leBytes 4 r ++ leBytes 8 m.toNat }).settled
    let noted (m : BitVec 64) (t : State) : State := if m = 0 then t else raiseMsix t 4
    let clean (m : BitVec 64) : State := (maskSites m).foldl (fun t k => scrub (dropForeign t k) k) s
    let ended (m : BitVec 64) (r : Nat) : Host.Outcome State Fault Refusal :=
      reply ((noted m (setPool (clean m) m 0 0)).modFw fun f => { f with background := none }) r (leBytes 8 m.toNat)
    (f.st = .drained ∨ f.st = .serving → f.background = none → 16 ≤ b.length → n 0 2 < 4096 →
      (slice b 2 6).all (· == 0) = true →
      let peer : BitVec 12 := BitVec.ofNat 12 (n 0 2)
      let mask : BitVec 64 := BitVec.ofNat 64 (n 8 8)
      let w (i : Nat) : Fwin := mapGet {} f.fwin i
      let a := s.arg
      (a.flag = false → exec .lend s = reply s 11 [] ∧ exec .borrow s = reply s 11 []) ∧
      (a.flag = true →
        (let m := pickSites mask fun k => (s.die k).usable && (s.die k).pool == 0 && !holdsPlacement s k &&
           ((s.die k).records.all (fun r => r.2.st == .free) && (s.die k).entries.isEmpty)
         exec .lend s = reply (noted m (setPool s m 1 peer)) 0 (leBytes 8 m.toNat)) ∧
        (let free := ((List.range 16).find? fun i => (w i).valid && (w i).rmod == peer).orElse fun _ =>
           (List.range 16).find? fun i => !(w i).valid
         (free = none → exec .borrow s = reply s 6 []) ∧
         (∀ i, free = some i →
           let win : Fwin := { rmod := peer, valid := true, port := BitVec.ofNat 7 (a.k % 72), altv := decide (a.c < 72),
                               altport := if a.c < 72 then BitVec.ofNat 7 a.c else 0,
                               sites := (if (w i).valid then (w i).sites else 0) ||| mask }
           exec .borrow s = reply (s.modFw fun x => { x with fwin := mapSet x.fwin i win }) 0 [BitVec.ofNat 8 i]))) ∧
      (20 ≤ b.length →
        let m := pickSites mask fun k => (s.die k).pool == 1 && (s.die k).peer == peer
        (m = 0 → exec .reclaim s = reply s 7 []) ∧
        (m ≠ 0 → exec .reclaim s = .next ((raiseMsix ((setPool s m 2 peer).modFw fun f => { f with
          background := some (.reclaim peer m) }) 4).modFw fun f => { f with cxl := .background, out := [] }).settled))) ∧
    (∀ peer m, f.background = some (.reclaim peer m) →
      exec .reclaimAnswer s = ended m 0 ∧ (s.arg.flag = false → exec .reclaimGraceExpire s = ended m 11)) ∧
    (let peer : BitVec 12 := BitVec.ofNat 12 s.arg.n
     let back (m : BitVec 64) (t : State) : Host.Outcome State Fault Refusal :=
       let ends (w : Fwin) : Bool := w.valid && w.rmod == peer && (w.sites &&& ~~~m) == 0
       let u := t.modFw fun f => { f with fwin := f.fwin.map fun w => (w.1,
         if w.2.valid && w.2.rmod == peer then { w.2 with sites := w.2.sites &&& ~~~m, valid := !ends w.2 } else w.2) }
       answered (if t.fw.fwin.any (fun w => ends w.2) then raiseMsix u 4 else u) 0 m
     (s.arg.flag = true →
       (f.reclaims.find? (fun r => r.peer == peer) = none → exec .reclaimGraceExpire s = .next s.settled) ∧
       (∀ r, f.reclaims.find? (fun r => r.peer == peer) = some r →
         let t := s.modFw fun f => { f with reclaims := f.reclaims.map fun x => if x.peer == peer then { x with expired := true } else x }
         let u := if r.expired then t else failStreams t (worksAt t peer) 0x0021
         ((∃ e ∈ u.fw.streams, worksAt u peer e.2 = true) → exec .reclaimGraceExpire s = .next u.settled) ∧
         ((∀ e ∈ u.fw.streams, worksAt u peer e.2 = false) → exec .reclaimGraceExpire s = back r.sites (u.modFw fun f => { f with
           reclaims := f.reclaims.filter fun x => x.peer != peer })))) ∧
     (f.st ≠ .minimal →
       (s.arg.peer = .lend → exec .poolPeerRequest s = answered s 0 s.arg.val) ∧
       (s.arg.peer = .borrow →
         let m := pickSites s.arg.val fun k => (s.die k).pool == 1 && (s.die k).peer == peer
         exec .poolPeerRequest s = answered s (if m = 0 then 11 else 0) m) ∧
       (s.arg.peer = .reclaim →
         ((∃ e ∈ f.streams, worksAt s peer e.2 = true) → exec .poolPeerRequest s = .next (s.modFw fun f => { f with
           reclaims := f.reclaims ++ [{ peer := peer, sites := s.arg.val }], peerAnswer := [] }).settled) ∧
         ((∀ e ∈ f.streams, worksAt s peer e.2 = false) → exec .poolPeerRequest s = back s.arg.val s)) ∧
       (s.arg.peer = .post →
         let site := s.arg.k
         let i := s.arg.c
         let d := s.die site
         (d.pool ≠ 1 ∨ d.peer ≠ peer ∨ (s.record site i).st ≠ .free → exec .poolPeerRequest s = answered s 11 0) ∧
         (d.pool = 1 → d.peer = peer → (s.record site i).st = .free →
           let t := postRecord (s.modRec site i fun r => { r with bytes := slice s.arg.data 0 128 }) site i
           exec .poolPeerRequest s = answered (t.modRec site i fun r => { r with foreign := r.st != .free }) 0 0)) ∧
       (let site := s.arg.k
        let i := s.arg.c
        let lent := (s.die site).pool ≠ 0 ∧ (s.die site).peer = peer
        let id : BitVec 20 := BitVec.ofNat 20 (leNat (slice s.arg.data 0 4))
        let h := entryOfBytes s.arg.data
        let told (t : State) : Host.Outcome State Fault Refusal := .next t.settled
        (¬ lent → s.arg.peer ∈ ([.kill, .entry, .cancel, .release] : List PeerReq) → exec .poolPeerRequest s = told s) ∧
        (lent →
          (s.arg.peer = .kill → exec .poolPeerRequest s =
            told (if (s.record site i).foreign then endRec (stopTask s site i) site i false else s)) ∧
          (s.arg.peer = .entry → exec .poolPeerRequest s = told (modEntry s site { h with
            bitmapAt := bitmapOf s site (h.stream.toNat % 65536) ((h.layers * h.ntb + 63) / 64 * 8) })) ∧
          (s.arg.peer = .cancel → exec .poolPeerRequest s = told (postSlot s (hoSlot 64 site 0x62 id []))) ∧
          (s.arg.peer = .release → exec .poolPeerRequest s = told (dropEntry s site id))) ∧
        (s.arg.peer = .done → exec .poolPeerRequest s = told (farGone s peer site i)) ∧
        (s.arg.peer = .fault → exec .poolPeerRequest s = told (failTask s (leNat (slice s.arg.data 0 4)) 0x0024)) ∧
        (let m := { s.arg.msg with src := farSite peer site, dst := 64 }
         s.arg.peer = .report → ∀ row, rowOf m = some row → m.op ≠ 0 →
           exec .poolPeerRequest s = told (arriveMsg s row m [] none)))))

/-- R73, R99 to R104, R108, R126, R127, R207, R208. That a CXACK's TAG of 128 or more names the destination behind a window is the
model's choice (notes/assumptions/24.md), as are the wait for records (10.md) and what a lent die's reports become (29.md). -/
def Obligations.TheSequencerAdmitsSamplesEndsAndTimesStreams : Prop :=
  ∀ s : State,
    let same : Host.Outcome State Fault Refusal := .next s.settled
    let f := s.fw
    (queueHead s = none → exec .admission s = same) ∧
    (∀ e, queueHead s = some e → ∀ p, f.plan = some p → ∀ i, mapFind p.insts e.inst = some i →
      let rot := mapGet [] p.rotation e.inst
      let frames := 1 + min (e.plen + e.toklim) i.ctxlim / 256
      let start := mapGet 0 f.pointers e.inst
      (setPossible s i frames rot = false → exec .admission s = .next (finishStream s e 6 0x0026).settled) ∧
      (setPossible s i frames rot = true →
        (pickSet s i frames rot start = none → exec .admission s = same) ∧
        (∀ j set', pickSet s i frames rot start = some (j, set') →
          let e' := { e with dset := set' }
          let jobs := jobTemplates s e' false ++ jobTemplates s e' true
          (roomFor s jobs = false ∨ peersReady s jobs = false → exec .admission s = same) ∧
          (roomFor s jobs = true → peersReady s jobs = true → exec .admission s = .next (admitStream s i e j set' rot.length).settled)))) ∧
    (let n := s.arg.n
     (mapFind f.streams n = none → exec .streamEnd s = same ∧ exec .retirement s = same) ∧
     (∀ e, mapFind f.streams n = some e →
       let working := e.st = .prefill ∨ e.st = .handoff ∨ e.st = .decode
       (¬ working → exec .streamEnd s = same) ∧
       (working →
         let logits : List (BitVec 32) := (List.range (s.arg.data.length / 4)).map fun k => BitVec.ofNat 32 (field s.arg.data (4 * k) 4)
         let token := match sampleToken e logits with
           | some t => t
           | none => Config.freeToken s.fresh
         let t := slotWrite (hostWrite { s with fresh := s.fresh + 1 } (e.oaddr.toNat + 4 * e.ntok) (leBytes 4 token)) e.slot 132
           (leBytes 4 (e.ntok + 1))
         let eos : Bool := match planInst t e.inst with
           | some i => token == i.eos.toNat
           | none => token == 2 ^ 32
         let full := e.ntok + 1 = e.toklim
         let out := e.ntok + 1 = e.olen / 4
         (eos = true → exec .streamEnd s = .next (setStream t { e with ntok := e.ntok + 1, st := .retiring, cause := 0x0001 }).settled) ∧
         (eos = false → full →
           exec .streamEnd s = .next (setStream t { e with ntok := e.ntok + 1, st := .retiring, cause := 0x0002 }).settled) ∧
         (eos = false → ¬ full → out →
           exec .streamEnd s = .next (setStream t { e with ntok := e.ntok + 1, st := .retiring, cause := 0x0003 }).settled) ∧
         (eos = false → ¬ full → ¬ out → exec .streamEnd s = .next (setStream t { e with ntok := e.ntok + 1 }).settled)) ∧
       (e.st = .retiring → (∀ x ∈ e.tasks, x.2.2 = true → taskGone s e x = true) → (∀ x ∈ e.far, x.2.2.2 = false) →
         exec .retirement s = .next (finishStream s e 4 e.cause).settled) ∧
       (e.st ≠ .retiring ∨ (∃ x ∈ e.tasks, x.2.2 = true ∧ taskGone s e x = false) ∨ (∃ x ∈ e.far, x.2.2.2 = true) →
         exec .retirement s = same))) ∧
    (let m := s.arg.msg
     let id := (m.arg.truncate 20 : BitVec 20).toNat
     let bsn := field m.payload 0 2
     let lent := m.src < 64 ∧ (s.die m.src).pool ≠ 0
     (lent → ∀ i ∈ ([.tiermissEvent, .cnote, .hfail, .srcdone, .cxackSequencer] : List Instr),
       exec i s = .next (tellPeer s m.src .report 0 (slotBytes m)).settled) ∧
     (¬ lent → findStream s id = none → exec .tiermissEvent s = same ∧ exec .cnote s = same ∧ exec .srcdone s = same ∧
       exec .cxackSequencer s = same) ∧
     (¬ lent → exec .hfail s = .next (failStream s id 0x0022).settled) ∧
     (¬ lent → ∀ e, findStream s id = some e →
       (e.tiermiss ≠ BitVec.allOnes 32 → exec .tiermissEvent s = .next (setStream s { e with tiermiss := e.tiermiss + 1 }).settled) ∧
       (e.tiermiss = BitVec.allOnes 32 → exec .tiermissEvent s = .next (setStream s e).settled) ∧
       (let e' := { e with committed := if bsn ∈ e.committed then e.committed else e.committed ++ [bsn],
                           st := if e.st = .prefill then .handoff else e.st }
        exec .cnote s = .next (advanceStream (setStream s e') e.id.toNat).settled) ∧
       (let e' := { e with srcdone := if m.src ∈ e.srcdone then e.srcdone else e.srcdone ++ [m.src] }
        exec .srcdone s = .next (checkEnd (setStream s e') e.id.toNat).settled) ∧
       (let d := if 128 ≤ m.tag.toNat then m.tag.toNat else m.src
        let e' := { e with cxacked := if d ∈ e.cxacked then e.cxacked else e.cxacked ++ [d] }
        exec .cxackSequencer s = .next (checkEnd (setStream s e') e.id.toNat).settled))) ∧
    (let past (b : Nat) : Bool :=
       s.cores.any (fun e => b < e.2.tick.toNat) || b < s.idleTick.toNat
     (past (2 ^ 47) = true → f.ltwarn = false →
       exec .ltimeWarn s = .next (raiseMsix (s.modFw fun f => { f with ltwarn := true }) 2).settled) ∧
     (past (2 ^ 47) = false ∨ f.ltwarn = true → exec .ltimeWarn s = same) ∧
     (past (3 * 2 ^ 46) = true → f.st = .serving →
       exec .ltimeSelfDrain s = .next (settleDrain (s.modFw fun f => { f with st := .draining, selfDrain := true })).settled) ∧
     (past (3 * 2 ^ 46) = false ∨ f.st ≠ .serving → exec .ltimeSelfDrain s = same) ∧
     (past (2 ^ 48 - 2 ^ 44) = true → exec .ltimeLimit s = .next (f.streams.foldl (fun (t : State) e => failAtLimit t e.2.id.toNat 0x0025) s).settled) ∧
     (past (2 ^ 48 - 2 ^ 44) = false → exec .ltimeLimit s = same)) ∧
    (exec .logicalTimeTick s = .next (s.modCore s.arg.n fun c =>
      { c with tick := if c.tick = BitVec.allOnes 48 then c.tick else c.tick + 1 }).settled)

/-- R110, R122 to R127, R130, R131, Tables 6-2 and 6-3. That HREJ leaves HERR.LIMIT unchanged is the model's reading
(notes/assumptions/36.md); the order of bursts over regions (39.md) and how messages name a destination behind a window (24.md) are its
choices. -/
def Obligations.HandOffEnginesSendLandRetryAndCancelBlocks : Prop :=
  ∀ s : State,
    let next (t : State) : Host.Outcome State Fault Refusal := .next t.settled
    let a := s.arg
    let m := a.msg
    (let n := a.n
     let stream : BitVec 20 := a.val.truncate 20
     let mine := (s.die n).srcs.filter (fun b => b.stream == stream)
     let sending := ∃ b ∈ mine, b.st = .sending
     (findEntry s n stream = none → (mine = [] → exec .handoffSend s = next s) ∧
       ∀ b bs, mine = b :: bs → exec .handoffSend s = next (releaseSrc s n b 0 0)) ∧
     (∀ h, findEntry s n stream = some h → sending → exec .handoffSend s = next s) ∧
     (∀ h, findEntry s n stream = some h → ¬ sending →
       let first := mine.find? (·.due) <|> mine.find? (fun b => b.st == .queued && !burstWaits s n stream)
       (first = none → exec .handoffSend s = next s) ∧
       (∀ b, first = some b → ∀ o, s.ops.find? (fun o => o.id == b.op) = some o →
         let r := (cellsReady (.op o.id) (linesOf o.src)).run s
         let q := (remoteReady o o.src).run r.2
         (r.1.1 = true → exec .handoffSend s = next r.2) ∧
         (r.1.1 = false →
           (q.1 = false → exec .handoffSend s = next q.2) ∧
           (q.1 = true →
             (∀ c x, r.1.2 = some (c, x) → exec .handoffSend s = next (releaseSrc q.2 n b c x)) ∧
             (r.1.2 = none →
               let bs := readSegs q.2 n o.id o.src
               (∀ c x, firstBad o.src bs = some (c, x) → exec .handoffSend s = next (releaseSrc q.2 n b c x)) ∧
               (firstBad o.src bs = none →
                 let route := match b.via with
                   | some r => r
                   | none => currentRoute q.2 n b.dst
                 exec .handoffSend s = next { sendBlock q.2 n h b route (bs.map (·.1)) with
                   arrived := q.2.arrived.filter (fun r => r.1 != opKey o.id) })))))) ∧
     (findSrc s n stream a.c = none → exec .hblkSent s = next s ∧ exec .handoffTimerExpire s = next s) ∧
     (∀ b, findSrc s n stream a.c = some b →
       (b.st = .sending → exec .hblkSent s = next (setSrc s n { b with st := .wait })) ∧
       (b.st ≠ .sending → exec .hblkSent s = next s) ∧
       (b.st ≠ .wait ∨ b.due = true → exec .handoffTimerExpire s = next s) ∧
       (b.st = .wait → b.due = false →
         (b.attempt < (s.die n).ho.retrylim.toNat →
           exec .handoffTimerExpire s = next ((resendBlock n { b with attempt := b.attempt + 1 }).run s).2) ∧
         ((s.die n).ho.retrylim.toNat ≤ b.attempt → exec .handoffTimerExpire s =
           next (postSlot (setSrc (modHo s n fun h => { h with limit := true }) n { b with st := .held, due := false, via := none })
             (hoSlot n 64 0x67 b.stream (leBytes 2 b.bsn)))))) ∧
     (let k := a.k
      (n < 64 → n % 2 = 1 → exec .frefopAttach s = next (attachFrame s n k) ∧ exec .frefopRead s = next (readFrame s n k)) ∧
      (64 ≤ n ∨ n % 2 = 0 → exec .frefopAttach s = next s ∧ exec .frefopRead s = next s)) ∧
     (let mine (b : Bulk) : Bool := b.dst == n && b.block == some (stream, a.k) && !b.discard && decide (b.count ≤ b.data.length)
      (s.bulks.find? mine = none → exec .blockLanded s = next s) ∧
      (∀ b, s.bulks.find? mine = some b → findDst s n stream a.k = none →
        exec .blockLanded s = next { s with bulks := s.bulks.filter (fun x => !mine x) }) ∧
      (∀ b, s.bulks.find? mine = some b → ∀ d, findDst s n stream a.k = some d →
        let t := { s with bulks := s.bulks.filter (fun x => !mine x) }
        let ans : Slot := { noSlot with src := b.src, dst := n, tag := b.tag, core := b.core, arg := stream.zeroExtend 64 }
        (d.st ≠ .landing → exec .blockLanded s = next t) ∧
        (d.st = .landing →
          let bad (l : Nat) : Prop := (locate t l).toOption.isNone = true ∨ ∃ f ∈ a.flaws, f.2 = true ∧ lineOf f.1 = l
          let pinned (l : Nat) : Prop := t.pinned l = true
          ((∃ l ∈ d.lines, bad l) → exec .blockLanded s =
            next (hoAnswer (endArrivals ((poisonLines 3 d.lines).run (setDst t n { d with st := .abandoned })).2 n d.lines 3) ans 0x68
              (leBytes 2 a.k ++ [3]))) ∧
          ((∀ l ∈ d.lines, ¬ bad l) → (∃ l ∈ d.lines, pinned l) → exec .blockLanded s = next s) ∧
          ((∀ l ∈ d.lines, ¬ bad l ∧ ¬ pinned l) →
            let v := ((landLines d.lines b.data).run (modHo (setDst t n { d with st := .committed }) n fun h =>
              { h with commit := h.commit + 1 })).2
            let u := endArrivals (noteLanding v n b.src stream a.k d.lines) n d.lines 1
            let noted := if b.src < 64 then postSlot u (hoSlot n 64 0x66 stream (leBytes 2 a.k)) else hoAnswer u ans 0x66 (leBytes 2 a.k)
            exec .blockLanded s = next (hoAnswer noted ans 0x61 (leBytes 2 a.k))))))) ∧
    (let n := m.dst
     let stream : BitVec 20 := m.arg.truncate 20
     let bsn := field m.payload 0 2
     (∀ b, findSrc s n stream bsn = some b →
       (b.st = .queued → exec .cack s = next s) ∧
       (b.st ≠ .queued → exec .cack s = next (releaseSrc s n b 0 0))) ∧
     (findSrc s n stream bsn = none → exec .cack s = next s) ∧
     (let t := modHo s n fun h => { h with rej := true }
      (∀ b, findSrc t n stream bsn = some b → b.st = .sending ∨ b.st = .wait →
        exec .hrej s = next (postSlot (setSrc t n { b with st := .held, due := false, via := none })
          (hoSlot n 64 0x67 b.stream (leBytes 2 b.bsn)))) ∧
      (findSrc t n stream bsn = none → exec .hrej s = next t)) ∧
     (findEntry s n stream = none →
       exec .hcancel s = next (postSlot s (hoSlot n 64 0x65 stream (List.replicate 8 0))) ∧ exec .cxack s = next s ∧
       exec .cmark s = next s) ∧
     (∀ h, findEntry s n stream = some h →
       (h.cancelled = true → exec .hcancel s = next s) ∧
       (h.cancelled = false →
         let t := modEntry s n { h with cancelled := true }
         let u := ((t.die n).srcs.filter (fun b => b.stream == stream)).foldl (fun (t : State) b =>
           if b.st = .queued then releaseSrc t n b 0 0 else setSrc t n { b with st := .cancelWait, due := false, via := none }) t
         exec .hcancel s = next (checkSource ((blockDests u n h).foldl (markDest n stream) u) n stream)) ∧
       (let d := if 128 ≤ m.tag.toNat then m.tag.toNat else m.src
        let t := modEntry s n { h with acked := if d ∈ h.acked then h.acked else h.acked ++ [d] }
        let wait := (t.die n).srcs.filter (fun b => b.stream == stream && b.dst == d && b.st == .cancelWait)
        exec .cxack s = next (checkSource (wait.foldl (fun (t : State) b => releaseSrc t n b 0 0) t) n stream)) ∧
       (let t := if h.inEffect = true then s else ((cancelEffect m h).run s).2
        ∀ g, findEntry t n stream = some g →
          let source := if m.src < 64 then m.src else 128 + field m.payload 2 1
          let c := Nat.lor (mapGet 0 g.marks source) (if field m.payload 1 1 % 2 = 0 then 1 else 2)
          let u := modEntry t n { g with marks := mapSet g.marks source c }
          let came := c % 2 + c / 2 % 2
          (came = field m.payload 0 1 →
            exec .cmark s = next (hoAnswer u m 0x64 (leBytes 4 g.received.length ++ [0, 0, 0, 0] ++ leBytes 6 g.bitmapAt))) ∧
          (came ≠ field m.payload 0 1 → exec .cmark s = next u))) ∧
     (let late := match findEntry s n stream with
        | some h => h.inEffect
        | none => false
      let seen := match findEntry s n stream with
        | some h => h.received.contains bsn
        | none => false
      let dup := modHo (openImage s m true) n fun h => { h with dup := h.dup + 1 }
      (late = true → exec .hblk s = next (modHo (openImage s m true) n fun h => { h with latedisc := h.latedisc + 1 })) ∧
      (late = false → seen = true →
        (∀ b, findDst dup n stream bsn = some b →
          (b.st = .committed → exec .hblk s = next (hoAnswer dup m 0x61 (leBytes 2 bsn))) ∧
          (b.st ≠ .committed → exec .hblk s = next dup)) ∧
        (findDst dup n stream bsn = none → exec .hblk s = next dup)) ∧
      (late = false → seen = false →
        (∀ r, hblkRefusal s m = some r →
          exec .hblk s = next (hoAnswer (openImage s m true) m 0x68 (leBytes 2 bsn ++ [BitVec.ofNat 8 r]))) ∧
        (hblkRefusal s m = none → ∀ h, findEntry s n stream = some h →
          let conv := field m.payload 2 1
          let lines := if conv = 0 then rawLines m.addr.toNat (bits m.arg.toNat 55 32) else landingLines s n h bsn conv
          exec .hblk s = next (openImage (setDst (modEntry s n { h with received := h.received ++ [bsn] }) n
            { stream := stream, bsn := bsn, st := .landing, src := m.src, lines := lines }) m false)))))

/-- R9, R16, R134, R135, R137, R143 to R146, R165, Table 7-4. -/
def Obligations.RegisterStepsPostRecordsSetRingsAndServeTheFaultQueue : Prop :=
  ∀ s : State,
    let next (t : State) : Host.Outcome State Fault Refusal := .next t.settled
    let a := s.arg
    let n := a.n
    let i := a.k
    let r := s.record n i
    (r.st ≠ .free → exec .tkpost s = next (s.modDie n fun d => { d with busyErr := true })) ∧
    (r.st = .free → postOk s n r.bytes = false → exec .tkpost s = next (s.modDie n fun d => { d with badrec := true })) ∧
    (r.st = .free → postOk s n r.bytes = true →
      exec .tkpost s = next ((s.modDie n fun d => { d with nextSeq := d.nextSeq + 1 }).modRec n i fun r => { r with
        st := if field r.bytes 28 2 = 0 then .waitring else .blocked, seq := (s.die n).nextSeq, eclass := field r.bytes 30 1,
        pass := 0, errmark := false, cores := [], used := [], parked := [], async := 0, images := [], eval := false,
        foreign := false })) ∧
    (let pred := field r.bytes 28 2
     let t := if r.st = .free ∨ pred = 0 then s.modDie n fun d => { d with under := true }
       else s.modRec n i fun r => { r with bytes := patch r.bytes 28 (leBytes 2 (pred - 1)),
                                           st := if r.st = .blocked ∧ pred = 1 then .waitring else r.st }
     exec .predDecrement s = next t) ∧
    (let used : Prop := ∃ e ∈ (s.die n).records, e.2.st ≠ .free ∧ ∃ x ∈ recIn e.2.bytes ++ recOut e.2.bytes, x.map (·.1) = some i
     let g := s.ring n i
     let o := a.c
     let b := patch (ringBytes g) o (leBytes a.size a.val.toNat)
     let written := { g with raw := slice b 0 12 }
     let g' := { written with
       hdr := BitVec.ofNat 64 (field b 0 8), slots := BitVec.ofNat 16 (field b 8 2), stride := BitVec.ofNat 16 (field b 10 2) }
     let put (t : State) (g : Ring) : State := t.modDie n fun d => { d with rings := mapSet d.rings i g }
     (used → exec .ringDescriptorWrite s = next (s.modDie n fun d => { d with busyErr := true })) ∧
     (¬ used →
       (16 < o ∨ o + a.size ≤ 16 → exec .ringDescriptorWrite s = next (put s written)) ∧
       (o ≤ 16 → 16 < o + a.size →
         (field b 16 1 % 2 = 0 → exec .ringDescriptorWrite s = next (put s { g' with valid := false })) ∧
         (field b 16 1 % 2 = 1 → ringOk n b = true →
           exec .ringDescriptorWrite s = next (put s { g' with valid := true, cidx := 0, pidx := 0 })) ∧
         (field b 16 1 % 2 = 1 → ringOk n b = false → exec .ringDescriptorWrite s =
           next (put (s.modDie n fun d => { d with badring := true }) { g' with valid := false }))))) ∧
    (mapFind (s.die n).fq i = none → exec .fqcmdResume s = next s ∧ exec .fqcmdKill s = next s ∧ exec .fqcmdComplete s = next s ∧
      exec .faultQueueTimeout s = next s) ∧
    (∀ f, mapFind (s.die n).fq i = some f →
      let k := f.task.toNat
      let rest := flushFaults n 1 (s.modDie n fun d => { d with fq := mapDel d.fq i })
      exec .faultQueueTimeout s = next (raiseMsix s 2) ∧
      (f.kind = 0 →
        exec .fqcmdResume s = next (rest.modRec n k fun r => { r with
          st := if r.st = .faulted ∨ r.st = .running then .suspended else r.st, parked := r.parked.filter (· != f.core.toNat),
          images := r.images ++ [(n * 1024 + f.core.toNat, f.image.toNat)] }) ∧
        exec .fqcmdKill s = next (endRec s n k false) ∧ exec .fqcmdComplete s = next (endRec s n k true)) ∧
      (f.kind ≠ 0 →
        (let more := (rest.die n).fq.any (fun x => x.2.task.toNat == k && x.2.kind != 0) ||
           (rest.die n).heldFaults.any (fun x => x.task.toNat == k && x.kind != 0)
         (more = true → exec .fqcmdResume s = next rest) ∧
         (more = false → exec .fqcmdResume s = next (settleRec (rest.modRec n k fun r => { r with
           errmark := false, st := if r.st = .faulted then .draining else r.st }) n k))) ∧
        ((s.record n k).st = .faulted →
          exec .fqcmdKill s = next (endRec s n k false) ∧ exec .fqcmdComplete s = next (endRec s n k true)) ∧
        ((s.record n k).st ≠ .faulted →
          let held (c : BitVec 8) : State := s.modDie n fun d => { d with fq := mapSet d.fq i { f with held := c } }
          exec .fqcmdKill s = next (held 1) ∧ exec .fqcmdComplete s = next (held 2)))) ∧
    (let pa := a.addr.toNat
     let p : Piece := { pa := pa, len := a.size, cls := 1, defer := false, va := a.addr.zeroExtend 64, elem := 0, stash := false }
     (pa < 0xFF0000000000 → exec .registerWrite s = next s) ∧
     (0xFF0000000000 ≤ pa →
       (pa % a.size ≠ 0 → exec .registerWrite s = next (takeTrap s n 0 0x12 p.va (faultInfo aStore ⟨0x12, 0, 1⟩ p))) ∧
       (pa % a.size = 0 → a.flag = true → ctlGuarded pa = true →
         exec .registerWrite s = next (takeTrap s n 0 0x11 p.va (faultInfo aStore fPerm p))) ∧
       (pa % a.size = 0 → a.flag = false ∨ ctlGuarded pa = false →
         exec .registerWrite s = next (ctlWrite s pa a.size (a.val.toNat % 2 ^ (8 * a.size)))))) ∧
    (let c := s.core n
     let v := a.val.toNat
     let base := if a.flag = true then v % 16 else c.stashb
     let size := if a.flag = true then c.stashn else v % 16
     (12 < base + size → exec .stashConfigWrite s = next (takeTrap s n 0 0x19 0 0)) ∧
     (base + size ≤ 12 → ∃ t, stashConfig s n a.flag v = some t ∧ exec .stashConfigWrite s = next t ∧
       (t.core n).stashb = base ∧ (t.core n).stashn = size ∧ (t.core n).granules = []) ∧
     (let e : StMap := { gran := v % 16, valid := v / 16 % 2 = 1, va := bits v 55 11 }
      let twice := e.valid = true ∧ ∃ o ∈ c.stmap, o.1 ≠ c.stmapi ∧ o.2.valid = true ∧ o.2.va = e.va
      (c.stashn ≤ e.gran ∨ twice → exec .stmapdWrite s = next (takeTrap s n 0 0x19 0 0)) ∧
      (e.gran < c.stashn → ¬ twice → exec .stmapdWrite s = next ((emptyStash s n (some c.stmapi)).modCore n fun c => { c with
        stmap := mapSet c.stmap c.stmapi e }))))

/-- R138 to R141, R143, R151, R154, R162, R192 to R194, R264, R270. That a swap waits for the due markers of lower regions that arrive at
the same barrier is the model's reading of R33 (log 39). -/
def Obligations.DispatchersTilesEvaluationsAndRetriesAdvance : Prop :=
  (∀ rs : List (Nat × Record), ∀ b, best rs = some b → b ∈ rs ∧ ∀ r ∈ rs,
    r.2.eclass < b.2.eclass ∨ (r.2.eclass = b.2.eclass ∧ b.2.seq.toNat ≤ r.2.seq.toNat)) ∧
  ∀ s : State,
    let next (t : State) : Host.Outcome State Fault Refusal := .next t.settled
    let a := s.arg
    let n := a.n
    (let reserve (t : State) : State := t.modDie n fun d => { d with reserved := reservation t n }
     let settled := (s.die n).records.foldl (fun (s : State) r =>
       if mayEnd s n r.1 r.2 then runHeld (settleRec s n r.1) n r.1 else s) s
     let t := reserve (dropStale settled n)
     let ends (u : State) : Host.Outcome State Fault Refusal :=
       let v := requestVictim (reserve u) n
       next (((v.die n).requests.forM fun q =>
         if ((reserve u).die n).requests.contains q then pure () else prepareShadow q.core).run v).2
     (best (candidates t n) = none → exec .dispatchSelect s = ends t) ∧
     (∀ i r, best (candidates t n) = some (i, r) →
       let aged (u : State) : State := (candidates t n).foldl (fun (u : State) e => if e.1 = i then u else ageRec u n e.1) u
       (recState t n r = .eligible →
         exec .dispatchSelect s = ends (aged (dispatchOn t n i ((openCores t n i).take (recWidth r.bytes))))) ∧
       (recState t n r ≠ .eligible → ∀ core slot, ownCore t n i r = some (core, slot) →
         exec .dispatchSelect s = ends (aged ((resumeOn n i core slot).run t).2)))) ∧
    (let t := dropStale s (siteOf n)
     let urgent := (t.die (siteOf n)).requests.find? (fun q => q.core == n && q.urgent)
     (urgent = none ∨ swapPoint t n = false → exec .contextSwap s = next t) ∧
     (∀ q, urgent = some q → swapPoint t n = true → exec .contextSwap s = next ((swapFor q).run t).2)) ∧
    (exec .backgroundSpillDone s = next ((clearShadow n).run s).2) ∧
    ((s.core n).shadow = none → exec .backgroundSpillDone s = next s) ∧
    ((s.core n).haltReq = true → swapPoint s n = true → exec .debugHaltTake s =
      next ((takeTrap s n 0 0x32 0 0).modCore n fun c => { c with haltReq := false })) ∧
    ((s.core n).haltReq = false ∨ swapPoint s n = false → exec .debugHaltTake s = next s) ∧
    (let q := if isP n = true then 0 else a.k
     (nextTile s n [] (queueOf s n q) = none → exec .tileTaskIssue s = next s) ∧
     (∀ key t refused, nextTile s n [] (queueOf s n q) = some (key, t, refused) →
       (refused = true → exec .tileTaskIssue s = next (refuseTile s n key t)) ∧
       (refused = false →
         let w := (cellsReady (.op t.op) (linesOf (t.a ++ t.wseg ++ (if tileAcc t then t.c else [])))).run s
         let u := w.2
         (∀ c x, w.1.2 = some (c, x) → exec .tileTaskIssue s = next (retireTile u n key t c x)) ∧
         (w.1.2 = none → w.1.1 = true ∨ chooseArray u n q t = none → exec .tileTaskIssue s = next u) ∧
         (w.1.2 = none → w.1.1 = false → ∀ i, chooseArray u n q t = some i →
           let legal := t.image.isEmpty || epiOk t.image (geoOf (t.kind == 0) t.g).cty
           (legal = false → exec .tileTaskIssue s = next (retireTile u n key t 1 0)) ∧
           (legal = true → pinsFull u (pinLines t) = true → exec .tileTaskIssue s = next u) ∧
           (legal = true → pinsFull u (pinLines t) = false → exec .tileTaskIssue s = next (startTile u n key t i)))))) ∧
    (let key := if isP n = true then a.c else 16 * a.k + a.c % 16
     (mapFind (s.die n).tiles key = none → exec .tileTaskComplete s = next s) ∧
     (∀ t, mapFind (s.die n).tiles key = some t →
       (t.st = 2 → exec .tileTaskComplete s = next ((completeTile n key t).run s).2) ∧
       (t.st = 3 → exec .tileTaskComplete s = next (retireTile s n key t t.err.toNat 0)) ∧
       (t.st ≠ 2 → t.st ≠ 3 → exec .tileTaskComplete s = next s))) ∧
    (let p := a.k
     let u := noteMarkers s
     (∀ key t, mapFind (s.die n).tiles key = some t →
       let before := ∃ e ∈ (s.die n).tiles, e.2.kind ≠ 2 ∧ e.2.st = 1 ∧ e.2.w.toNat % 8 = t.w.toNat % 8 ∧ e.2.qseq < t.qseq
       let phased := ∀ b ∈ t.bar, barPhase s b ≠ t.phase
       (t.kind = 2 → t.due = false → ¬ before → phased → mapFind (u.die n).tiles key = some { t with due := true }) ∧
       (t.kind = 2 → t.due = false → ¬ before → ¬ phased → mapFind (u.die n).tiles key = some { t with late := true }) ∧
       (t.kind ≠ 2 ∨ t.due = true ∨ before → mapFind (u.die n).tiles key = some t)) ∧
     (firstMarker p (queueOf u n 0) = none → exec .bankPairSwap s = next s) ∧
     (∀ key t, firstMarker p (queueOf u n 0) = some (key, t) →
       (t.due = false ∨ swapWaits s n t = true → exec .bankPairSwap s = next u) ∧
       (t.due = true → swapWaits s n t = false →
         let late := if t.late = true then 1 else 0
         let w := (delTile u n key).modDie n fun d =>
           let w := mapGet {} d.wpairs p
           { d with wpairs := mapSet d.wpairs p { act := w.act + 1, epoch := w.epoch + 1 }, wlate := d.wlate + late }
         (t.late = true → exec .bankPairSwap s = next (w.modCore t.core fun c => { c with wlate := c.wlate + 1 })) ∧
         (t.late = false → exec .bankPairSwap s = next w)))) ∧
    (let op := s.ops.find? (fun o => o.id == n)
     (op = none → exec .asyncRetire s = next s) ∧
     (∀ o, op = some o →
       (o.kind = .copy ∨ o.kind = .gather ∨ o.kind = .fill ∨ o.kind = .decomp ∨ (o.kind = .flush ∧ o.nums = []) →
         exec .asyncRetire s = next ((runCopy o).run s).2) ∧
       (o.kind = .flush → ∀ c r, o.nums = c :: r → exec .asyncRetire s = next (retireOp s o c (r.headD 0))) ∧
       (o.kind = .coll → exec .asyncRetire s = next ((runColl o).run s).2) ∧
       (o.kind = .tile ∨ o.kind = .handoff ∨ o.kind = .eval → exec .asyncRetire s = next s))) ∧
    (let op := s.ops.find? (fun o => o.kind == .eval && o.nums.getD 0 0 == n && o.nums.getD 1 0 == a.k)
     (op = none → exec .engineEvalEnd s = next s) ∧
     (∀ o, op = some o → exec .engineEvalEnd s = next ((runEngine o).run s).2)) ∧
    (exec .evalTableRetry s = next ((retryWaiters (waitsAt n)).run s).2) ∧
    (exec .waiterTableRetry s = next ((retryWaiters (waitsAt n)).run s).2) ∧
    (exec .tagwaitRetry s = next ((retryWaiters (waitsPad n)).run s).2) ∧
    ((∀ w ∈ s.waiters, w.retry = true → waitsAt n w = false) →
      exec .evalTableRetry s = next s ∧ exec .waiterTableRetry s = next s) ∧
    ((∀ w ∈ s.waiters, w.retry = true → waitsPad n w = false) → exec .tagwaitRetry s = next s) ∧
    (exec .evalPostRetry s = next ((retryWaiters (waitsPost s n)).run s).2)

/-- R297, R300, R305, R307 to R309, R311, R312. -/
def Obligations.EveryWordHasOneEncodingAndOneMeaning : Prop :=
  (∀ i : Instr, i.wf = true →
    (∀ ps, encode i = some ps → decode ps = .ok i ∧ ps.length = parcelsOf (ps.headD 0) ∧
      ∀ rest, decodeBytes (ps.flatMap parcelBytes ++ rest) = .ok (i, rest)) ∧
    (∀ p, eCode i = some p → decodeEop p = .ok i)) ∧
  (∀ ps i, decode ps = .ok i → i.wf = true ∧ encode i = some (ps.take (parcelsOf (ps.headD 0)))) ∧
  (∀ p i, decodeEop p = .ok i → i.wf = true ∧ eCode i = some p)

/-- R297, R300, R305, R307 to R309, R311; the words are written out from Tables 14-1 to 14-7. -/
def Obligations.WordsWrittenFromTheEncodingTablesDecodeToTheirInstructions : Prop :=
  -- ADD x1 = x2 + x3: 000 0000000 000001 000010 0 000011 0 00
  (decode [0x0001, 0x0818]).toOption = some (.add ⟨1, 2, 0, 3, 0, 0⟩) ∧
  -- ADDI x5 = take x20 + 7: 000 0010000 000101 010100 1 000000111
  (decode [0x0405, 0x5207]).toOption = some (.addi ⟨5, 20, 1, 7⟩) ∧
  -- B +8 parcels: 000 0100000 0…01000
  (decode [0x0800, 0x0008]).toOption = some (.b ⟨8⟩) ∧
  -- BEQ x1, x2, -2 parcels: 000 0100011 000001 000010 1111111110
  (decode [0x08C1, 0x0BFE]).toOption = some (.beq ⟨1, 2, 0x3FE⟩) ∧
  -- CSRR x3 = CSR 0x012: 000 0110000 000011 000000 0 000010010
  (decode [0x0C03, 0x0012]).toOption = some (.csrr ⟨3, 0, 0, 0x012⟩) ∧
  -- LDD x5, x20 and BRK, from the specification's examples
  (decode [0x10C5, 0x5000]).toOption = some (.ldd ⟨5, 20, 0, 0⟩) ∧ (decode [0x0E00, 0x0000]).toOption = some .brk ∧
  -- BRKL: 001 010100001 and 52 zero bits
  (decode [0x2A10, 0, 0, 0]).toOption = some .brkl ∧
  -- LIX x1, H 0, 0x00010002: 001 010100000 000001 0 0…0 and the immediate
  (decode [0x2A00, 0x4000, 0x0001, 0x0002]).toOption = some (.lix ⟨1, 0, 0x00010002⟩) ∧
  -- MBAR, MPUSHX x13, CCOPY 1, M literal 5, C literal 5
  (decode [0x4E00]).toOption = some .mbar ∧ (decode [0x450D]).toOption = some (.mpushx 0 0 13) ∧ (decode [0x8A01]).toOption = some (.ccopy 1) ∧
  (decode [0x6005]).toOption = some (.mlit 5) ∧ (decode [0xA005]).toOption = some (.clit 5) ∧
  -- LOOP 8, LOOP x12, ABR +40 parcels always, SYNC, HALT
  (decode [0xC108]).toOption = some (.loop 8) ∧ (decode [0xC18C]).toOption = some (.loopX 12) ∧ (decode [0xC400, 0x0028]).toOption = some (.abr 0 0 0x28) ∧
  (decode [0xC700]).toOption = some .sync ∧ (decode [0xC900]).toOption = some .halt ∧
  -- E-ops: ELDA e0, ECON e0 c1, EEND
  (decodeEop 0x0800).toOption = some (.elda 0) ∧ (decodeEop 0x3001).toOption = some (.econ 0 1) ∧ (decodeEop 0x0000).toOption = some .eend ∧
  -- op7 0x1A and op5 0x13 are undefined; a set required-zero bit of SYNC
  (decode [0x0680, 0x0000]).toOption = none ∧ (decode [0x5300]).toOption = none ∧
  (decode [0xC701]).toOption = none

/-- R221, R222, R243, R254, R269, R312, R440; the order of turns is that of notes/assumptions/1.md. Which words T executes behind
an access that is not answered, and the count of them, are the model's (notes/assumptions/18.md). -/
def Obligations.AStepRunsTheDecodedWordAndNeverStops : Prop :=
  ∀ s : State,
    let t := tickCycle s
    (t.agenda = [] → t.msgs = [] → t.fw.started = true → t.fw.retryReset = false → resetPending t = false →
      (∀ k, t.epi.at_ = some k → ∀ p, t.epi.prog[k]? = some p →
        (∀ i, decodeEop p = .ok i → step s = exec i t) ∧
        (∀ x, decodeEop p = .error x → step s = exec .illegalEncoding t)) ∧
      (t.epi.at_ = none → ∀ n e,
        (readyEngines t).find? (turnAfter t) = some (n, e) ∨
          ((readyEngines t).find? (turnAfter t) = none ∧ t.turn = noCore ∧ (readyEngines t).head? = some (n, e)) →
        let u := { t with turn := n, eng := e }
        let c := u.core n
        let at_ : Word := (c.ctx.eng e).pc.zeroExtend 64
        c.parkPending = none → c.intrap = false →
          (∀ ps, found u e = .word ps →
            (∀ i, decode ps = .ok i →
              (heldBack u i = false → step s = exec i (wordFetched u e ps.length)) ∧
              (heldBack u i = true → step s = .next (noteStall u))) ∧
            (∀ x, decode ps = .error x → step s = exec .illegalEncoding (wordFetched u e ps.length))) ∧
          (c.subst = none → ∀ p, fetchParcel u at_ = .ok p → tagFits (tagOf p) e = true → (c.ctx.eng e).skip = 0 →
            ∀ ps, fetchParcels u at_ (parcelsOf p) = .ok ps → ∀ i, decode ps = .ok i → heldBack u i = false →
              step s = exec i (fetched u e ps.length)))) ∧
    (∀ i, heldBack s i = true ↔ (s.eng = .t ∧ (s.core s.turn).ahead ≠ none ∧ aheadWord i = false)) ∧
    (∀ i, ∃ u, exec i s = .next u) ∧
    (s.agendaOk = true → ∃ u, step s = .next u) ∧
    (s.waiters = [] → s.settled = s) ∧
    (∀ e k,
      let r := s.retired e k
      r.ctx.eng e = { s.ctx.eng e with pc := (s.ctx.eng e).pc + BitVec.ofNat 56 (2 * k) } ∧
      (∀ g, g ≠ e → r.ctx.eng g = s.ctx.eng g) ∧
      r.ctx.window = (if e = .t then (s.ctx.window.map fun x => { x with left := x.left - 1 }).filter fun x => x.left != 0
        else s.ctx.window) ∧
      { r.ctx with t := s.ctx.t, m := s.ctx.m, c := s.ctx.c, window := s.ctx.window } = s.ctx ∧
      (let was := (s.core s.turn).ahead
       let counted := if e = .t then was.map fun a => { a with words := a.words + 1 } else was
       (s.core s.turn).subst = none → { r.core s.turn with ctx := s.ctx } = { s.core s.turn with ahead := counted }) ∧
      (∀ n, n ≠ s.turn → r.core n = s.core n) ∧
      { r with cores := s.cores, arrived := s.arrived, stalls := s.stalls } = s)

/-- The canonical form of memory is kept by every step (R156, R160, R176, R184, R26); what unlisted bytes read as is notes/assumptions/4.md. -/
def Obligations.EveryStepKeepsMemoryInItsCanonicalForm : Prop :=
  (∀ s t : State, Memory.wf s = true → step s = .next t → Memory.wf t = true) ∧
  (∀ s t : State, Memory.wf s = true → Memory.wf t = true →
    (∀ a, mapGet 0 s.mem a = mapGet 0 t.mem a) → (∀ a, mapGet 0 s.hostMem a = mapGet 0 t.hostMem a) →
    (∀ a, mapGet 1 s.tags a = mapGet 1 t.tags a) → (∀ a, mapGet 0 s.cellTags a = mapGet 0 t.cellTags a) →
    (∀ a, mapGet false s.poison a = mapGet false t.poison a) →
    s.mem = t.mem ∧ s.hostMem = t.hostMem ∧ s.tags = t.tags ∧ s.cellTags = t.cellTags ∧ s.poison = t.poison)
end

