-- ==== Sys2Proof/Laws/Sparse.lean ====
section
/-! SUPPORT. Reading after writing in sparse storage, and the canonical form that writing keeps. -/

namespace Sys2Proof.Machine

variable {α : Type}

@[simp] theorem mapGet_mapSet_same (d : α) (m : Map α) (k : Nat) (v : α) : mapGet d (mapSet m k v) k = v := by
  induction m with
  | nil => simp [mapSet, mapGet]
  | cons e r ih =>
    obtain ⟨a, w⟩ := e
    simp only [mapSet]
    split
    · simp [mapGet]
    · split
      · simp [mapGet]
      · rename_i h1 h2
        simp [mapGet, h1, h2, ih]

theorem mapGet_mapSet_other (d : α) (m : Map α) (k j : Nat) (v : α) (h : j ≠ k) :
    mapGet d (mapSet m k v) j = mapGet d m j := by
  induction m with
  | nil => simp [mapSet, mapGet, h]
  | cons e r ih =>
    obtain ⟨a, w⟩ := e
    simp only [mapSet]
    split
    · simp only [mapGet, h, if_false]
      split
      · rw [if_pos (by omega)]
      · rfl
    · split
      · subst_vars; simp [mapGet, h]
      · simp [mapGet, ih]

theorem mapGet_mapSet (d : α) (m : Map α) (k j : Nat) (v : α) :
    mapGet d (mapSet m k v) j = if j = k then v else mapGet d m j := by
  by_cases h : j = k
  · subst h; simp
  · simp [h, mapGet_mapSet_other d m k j v h]

@[simp] theorem mapSet_mapSet (m : Map α) (k : Nat) (v w : α) : mapSet (mapSet m k v) k w = mapSet m k w := by
  induction m with
  | nil => simp [mapSet]
  | cons e r ih =>
    obtain ⟨a, x⟩ := e
    by_cases h1 : k < a
    · simp [mapSet, h1]
    · by_cases h2 : k = a
      · subst h2; simp [mapSet]
      · simp [mapSet, h1, h2, ih]

@[simp] theorem mapFind_mapSet_same (m : Map α) (k : Nat) (v : α) : mapFind (mapSet m k v) k = some v := by
  induction m with
  | nil => simp [mapSet, mapFind]
  | cons e r ih =>
    obtain ⟨a, w⟩ := e
    by_cases h1 : k < a
    · simp [mapSet, mapFind, h1]
    · by_cases h2 : k = a
      · subst h2; simp [mapSet, mapFind]
      · simp [mapSet, mapFind, h1, h2, ih]

theorem mapFind_mapSet_other (m : Map α) (k j : Nat) (v : α) (h : j ≠ k) : mapFind (mapSet m k v) j = mapFind m j := by
  induction m with
  | nil => simp [mapSet, mapFind, h]
  | cons e r ih =>
    obtain ⟨a, w⟩ := e
    simp only [mapSet]
    split
    · simp only [mapFind, h, if_false]
      split
      · rw [if_pos (by omega)]
      · rfl
    · split
      · subst_vars; simp [mapFind, h]
      · simp [mapFind, ih]

/-! ## The canonical form -/

theorem sortedFrom_mono {lo hi : Nat} (m : Map α) (h : lo ≤ hi) (s : sortedFrom hi m = true) : sortedFrom lo m = true := by
  cases m with
  | nil => rfl
  | cons e r =>
    obtain ⟨a, w⟩ := e
    simp only [sortedFrom, Bool.and_eq_true, decide_eq_true_eq] at *
    exact ⟨by omega, s.2⟩

theorem sortedFrom_mapSet {lo : Nat} (m : Map α) (k : Nat) (v : α) (hk : lo ≤ k) (s : sortedFrom lo m = true) :
    sortedFrom lo (mapSet m k v) = true := by
  induction m generalizing lo with
  | nil => simp [mapSet, sortedFrom, hk]
  | cons e r ih =>
    obtain ⟨a, w⟩ := e
    simp only [sortedFrom, Bool.and_eq_true, decide_eq_true_eq] at s
    simp only [mapSet]
    split
    · simp only [sortedFrom, Bool.and_eq_true, decide_eq_true_eq]
      exact ⟨hk, by omega, s.2⟩
    · split
      · subst_vars; simp [sortedFrom, s]
      · simp only [sortedFrom, Bool.and_eq_true, decide_eq_true_eq]
        exact ⟨s.1, ih (by omega) s.2⟩

theorem sortedFrom_mapDel {lo : Nat} (m : Map α) (k : Nat) (s : sortedFrom lo m = true) : sortedFrom lo (mapDel m k) = true := by
  induction m generalizing lo with
  | nil => rfl
  | cons e r ih =>
    obtain ⟨a, w⟩ := e
    simp only [sortedFrom, Bool.and_eq_true, decide_eq_true_eq] at s
    simp only [mapDel]
    split
    · simp [sortedFrom, s]
    · split
      · exact sortedFrom_mono r (by omega) s.2
      · simp only [sortedFrom, Bool.and_eq_true, decide_eq_true_eq]
        exact ⟨s.1, ih s.2⟩

/-- Below its first key a map lists nothing. -/
theorem mapGet_below (d : α) {lo : Nat} (m : Map α) (j : Nat) (h : j < lo) (s : sortedFrom lo m = true) : mapGet d m j = d := by
  cases m with
  | nil => rfl
  | cons e r =>
    obtain ⟨a, w⟩ := e
    simp only [sortedFrom, Bool.and_eq_true, decide_eq_true_eq] at s
    rw [mapGet, if_pos (by omega)]

theorem mapGet_mapDel (d : α) {lo : Nat} (m : Map α) (k j : Nat) (s : sortedFrom lo m = true) :
    mapGet d (mapDel m k) j = if j = k then d else mapGet d m j := by
  induction m generalizing lo with
  | nil => simp [mapDel, mapGet]
  | cons e r ih =>
    obtain ⟨a, w⟩ := e
    simp only [sortedFrom, Bool.and_eq_true, decide_eq_true_eq] at s
    simp only [mapDel]
    split
    · rename_i h
      by_cases hj : j = k
      · subst hj; simp [mapGet, h]
      · simp [hj]
    · split
      · rename_i h1 h2
        subst h2
        by_cases hj : j < k
        · rw [mapGet_below d r j (by omega) s.2]; simp [mapGet, hj]
        · by_cases hk : j = k
          · subst hk; rw [mapGet_below d r j (by omega) s.2]; simp
          · simp [mapGet, hj, hk]
      · rename_i h1 h2
        simp only [mapGet, ih s.2]
        by_cases hj : j = k
        · subst hj; simp [h1, h2]
        · simp [hj]

theorem mem_mapSet (m : Map α) (k : Nat) (v : α) (e : Nat × α) (h : e ∈ mapSet m k v) : e = (k, v) ∨ e ∈ m := by
  induction m with
  | nil => simpa [mapSet] using h
  | cons x r ih =>
    obtain ⟨a, w⟩ := x
    simp only [mapSet] at h
    split at h
    · simpa using h
    · split at h
      · simp only [List.mem_cons] at h ⊢
        exact h.imp_right .inr
      · simp only [List.mem_cons] at h ⊢
        rcases h with h | h
        · exact .inr (.inl h)
        · exact (ih h).imp_right .inr

theorem mem_mapDel (m : Map α) (k : Nat) (e : Nat × α) (h : e ∈ mapDel m k) : e ∈ m := by
  induction m with
  | nil => simp [mapDel] at h
  | cons x r ih =>
    obtain ⟨a, w⟩ := x
    simp only [mapDel] at h
    split at h
    · exact h
    · split at h
      · exact List.mem_cons_of_mem _ h
      · rcases List.mem_cons.1 h with h | h
        · simp [h]
        · exact List.mem_cons_of_mem _ (ih h)

variable [DecidableEq α]

/-- A write of a byte, a tag or a mark keeps the canonical form. -/
theorem cellsWf_cellSet (d : α) (m : Map α) (k : Nat) (v : α) (h : cellsWf d m = true) : cellsWf d (cellSet d m k v) = true := by
  simp only [cellsWf, Bool.and_eq_true, List.all_eq_true, decide_eq_true_eq] at *
  unfold cellSet
  split
  · exact ⟨sortedFrom_mapDel m k h.1, fun e he => h.2 e (mem_mapDel m k e he)⟩
  · rename_i hv
    refine ⟨sortedFrom_mapSet m k v (Nat.zero_le k) h.1, fun e he => ?_⟩
    rcases mem_mapSet m k v e he with rfl | he
    · exact hv
    · exact h.2 e he

/-- Reading after writing. -/
theorem mapGet_cellSet (d : α) (m : Map α) (k j : Nat) (v : α) (h : cellsWf d m = true) :
    mapGet d (cellSet d m k v) j = if j = k then v else mapGet d m j := by
  simp only [cellsWf, Bool.and_eq_true] at h
  unfold cellSet
  split
  · rename_i hv; rw [mapGet_mapDel d m k j h.1, hv]
  · exact mapGet_mapSet d m k j v

theorem cellsWf_filter (d : α) (m : Map α) (p : Nat × α → Bool) (h : cellsWf d m = true) : cellsWf d (m.filter p) = true := by
  simp only [cellsWf, Bool.and_eq_true, List.all_eq_true, decide_eq_true_eq] at *
  refine ⟨?_, fun e he => h.2 e ((List.mem_filter.1 he).1)⟩
  have key : ∀ (m : Map α) (lo : Nat), sortedFrom lo m = true → sortedFrom lo (m.filter p) = true := by
    intro m
    induction m with
    | nil => intro lo _; rfl
    | cons e r ih =>
      obtain ⟨a, w⟩ := e
      intro lo hs
      simp only [sortedFrom, Bool.and_eq_true, decide_eq_true_eq] at hs
      rw [List.filter_cons]
      split
      · simp only [sortedFrom, Bool.and_eq_true, decide_eq_true_eq]
        exact ⟨hs.1, ih _ hs.2⟩
      · exact sortedFrom_mono _ (by omega) (ih _ hs.2)
  exact key m 0 h.1

end Sys2Proof.Machine
end

