-- ==== Sys2Proof/Laws/Memory.lean ====
section
/-! SUPPORT. The canonical form of memory: it holds at reset, and every operation that writes a byte, a tag or a mark keeps it. -/

namespace Sys2Proof.Machine

theorem wf_iff (s : State) : Memory.wf s = true ↔
    cellsWf 0 s.mem = true ∧ cellsWf 0 s.hostMem = true ∧ cellsWf 1 s.tags = true ∧ cellsWf 0 s.cellTags = true ∧
      cellsWf false s.poison = true := by
  simp only [Memory.wf, Bool.and_eq_true, and_assoc]

theorem wf_reset : Memory.wf State.reset = true := by decide

theorem wf_writeAt {s : State} (h : Memory.wf s = true) (p : Place) (b : Byte) : Memory.wf (writeAt s p b) = true := by
  rw [wf_iff] at *
  unfold writeAt
  split
  · exact ⟨h.1, cellsWf_cellSet _ _ _ _ h.2.1, h.2.2⟩
  · exact ⟨cellsWf_cellSet _ _ _ _ h.1, h.2⟩

theorem wf_writePhys {s : State} (h : Memory.wf s = true) (pa : Nat) (b : Byte) : Memory.wf (writePhys s pa b) = true := by
  unfold writePhys
  split
  · exact wf_writeAt h _ _
  · exact h

theorem wf_writeBytes {s : State} (h : Memory.wf s = true) (pa : Nat) (bs : List Byte) : Memory.wf (writeBytes s pa bs) = true := by
  induction bs generalizing s pa with
  | nil => exact h
  | cons b bs ih => exact ih (wf_writePhys h pa b) (pa + 1)

theorem wf_hostWrite {s : State} (h : Memory.wf s = true) (a : Nat) (bs : List Byte) : Memory.wf (hostWrite s a bs) = true := by
  induction bs generalizing s a with
  | nil => exact h
  | cons b bs ih =>
    rw [wf_iff] at h
    exact ih (s := { s with hostMem := cellSet 0 s.hostMem a b })
      ((wf_iff _).2 ⟨h.1, cellsWf_cellSet _ _ _ _ h.2.1, h.2.2⟩) (a + 1)

theorem wf_setTag {s : State} (h : Memory.wf s = true) (pa : Nat) (t : BitVec 2) : Memory.wf (s.setTag pa t) = true := by
  rw [wf_iff] at *
  exact ⟨h.1, h.2.1, cellsWf_cellSet _ _ _ _ h.2.2.1, h.2.2.2⟩

theorem wf_setCellTag {s : State} (h : Memory.wf s = true) (pa : Nat) (t : BitVec 2) : Memory.wf (s.setCellTag pa t) = true := by
  rw [wf_iff] at *
  exact ⟨h.1, h.2.1, h.2.2.1, cellsWf_cellSet _ _ _ _ h.2.2.2.1, h.2.2.2.2⟩

theorem wf_setPoison {s : State} (h : Memory.wf s = true) (pa : Nat) (b : Bool) : Memory.wf (s.setPoison pa b) = true := by
  rw [wf_iff] at *
  exact ⟨h.1, h.2.1, h.2.2.1, h.2.2.2.1, cellsWf_cellSet _ _ _ _ h.2.2.2.2⟩

theorem wf_zeroRange {s : State} (h : Memory.wf s = true) (lo hi : Nat) : Memory.wf (zeroRange s lo hi) = true := by
  rw [wf_iff] at *
  exact ⟨cellsWf_filter _ _ _ h.1, h.2.1, cellsWf_filter _ _ _ h.2.2.1, cellsWf_filter _ _ _ h.2.2.2.1, cellsWf_filter _ _ _ h.2.2.2.2⟩

theorem wf_resetModule {s : State} (h : Memory.wf s = true) : Memory.wf (resetModule s) = true := by
  rw [wf_iff] at *
  exact ⟨rfl, h.2.1, rfl, rfl, rfl⟩

theorem wf_setCore {s : State} (h : Memory.wf s = true) (n : Nat) (c : Core) : Memory.wf (s.setCore n c) = true := h
theorem wf_modDie {s : State} (h : Memory.wf s = true) (n : Nat) (f : Die → Die) : Memory.wf (s.modDie n f) = true := h
theorem wf_modFw {s : State} (h : Memory.wf s = true) (f : Firmware → Firmware) : Memory.wf (s.modFw f) = true := h

theorem cellsWf_placed (m : Map Byte) (a : Nat) (l : List (Byte × Nat)) (h : cellsWf 0 m = true) :
    cellsWf 0 (l.foldl (fun m x => cellSet 0 m (a + x.2) x.1) m) = true := by
  induction l generalizing m with
  | nil => exact h
  | cons x l ih => exact ih _ (cellsWf_cellSet _ _ _ _ h)

theorem wf_placeBytes {s : State} (h : Memory.wf s = true) (a : Nat) (bs : List Byte) : Memory.wf (placeBytes s a bs) = true := by
  rw [wf_iff] at *
  exact ⟨cellsWf_placed _ _ _ h.1, h.2.1, h.2.2.1, h.2.2.2.1, cellsWf_cellSet false s.poison (lineOf a) false h.2.2.2.2⟩

/-- A byte that has been written reads as written, and every other byte as before (R3, R156). -/
theorem readAt_writeAt {s : State} (h : Memory.wf s = true) (p q : Place) (b : Byte) :
    readAt (writeAt s p b) q = if q = p then b else readAt s q := by
  rw [wf_iff] at h
  obtain ⟨ph, pk⟩ := p
  obtain ⟨qh, qk⟩ := q
  cases ph <;> cases qh <;> simp only [readAt, writeAt, if_true, if_false, Bool.false_eq_true, Place.mk.injEq, reduceCtorEq, true_and,
    false_and]
  · exact mapGet_cellSet 0 s.mem pk qk b h.1
  · exact mapGet_cellSet 0 s.hostMem pk qk b h.2.1

end Sys2Proof.Machine
end

