-- ==== Sys2Proof/Laws/PerInstr.lean ====
section
/-! SUPPORT. One lemma for each constructor: which encoding a row of the opcode table has (Tables 14-2 to 14-7). -/

namespace Sys2Proof.Laws.Rows

open Sys2Proof Sys2Proof.Machine

/-- No row is both a word of text and an E-op, and a row that is neither, nor an illegal pattern, has no field that could be
ill-formed. -/
def Statement (i : Instr) : Prop :=
  ((encode i).isSome = true → eCode i = none) ∧ (isWord i = false → i.wf = true)

theorem add (f : AForm) : Statement (.add f) := ⟨fun _ => rfl, fun h => Bool.noConfusion h⟩
theorem sub (f : AForm) : Statement (.sub f) := ⟨fun _ => rfl, fun h => Bool.noConfusion h⟩
theorem and (f : AForm) : Statement (.and f) := ⟨fun _ => rfl, fun h => Bool.noConfusion h⟩
theorem or (f : AForm) : Statement (.or f) := ⟨fun _ => rfl, fun h => Bool.noConfusion h⟩
theorem xor (f : AForm) : Statement (.xor f) := ⟨fun _ => rfl, fun h => Bool.noConfusion h⟩
theorem shl (f : AForm) : Statement (.shl f) := ⟨fun _ => rfl, fun h => Bool.noConfusion h⟩
theorem shr (f : AForm) : Statement (.shr f) := ⟨fun _ => rfl, fun h => Bool.noConfusion h⟩
theorem mul (f : AForm) : Statement (.mul f) := ⟨fun _ => rfl, fun h => Bool.noConfusion h⟩
theorem div (f : AForm) : Statement (.div f) := ⟨fun _ => rfl, fun h => Bool.noConfusion h⟩
theorem rem (f : AForm) : Statement (.rem f) := ⟨fun _ => rfl, fun h => Bool.noConfusion h⟩
theorem min (f : AForm) : Statement (.min f) := ⟨fun _ => rfl, fun h => Bool.noConfusion h⟩
theorem max (f : AForm) : Statement (.max f) := ⟨fun _ => rfl, fun h => Bool.noConfusion h⟩
theorem cset (f : AForm) : Statement (.cset f) := ⟨fun _ => rfl, fun h => Bool.noConfusion h⟩
theorem bits (f : AForm) : Statement (.bits f) := ⟨fun _ => rfl, fun h => Bool.noConfusion h⟩
theorem field (f : AForm) : Statement (.field f) := ⟨fun _ => rfl, fun h => Bool.noConfusion h⟩
theorem sel (f : AForm) : Statement (.sel f) := ⟨fun _ => rfl, fun h => Bool.noConfusion h⟩
theorem addi (f : BForm) : Statement (.addi f) := ⟨fun _ => rfl, fun h => Bool.noConfusion h⟩
theorem andi (f : BForm) : Statement (.andi f) := ⟨fun _ => rfl, fun h => Bool.noConfusion h⟩
theorem ori (f : BForm) : Statement (.ori f) := ⟨fun _ => rfl, fun h => Bool.noConfusion h⟩
theorem xori (f : BForm) : Statement (.xori f) := ⟨fun _ => rfl, fun h => Bool.noConfusion h⟩
theorem shli (f : BForm) : Statement (.shli f) := ⟨fun _ => rfl, fun h => Bool.noConfusion h⟩
theorem shri (f : BForm) : Statement (.shri f) := ⟨fun _ => rfl, fun h => Bool.noConfusion h⟩
theorem shai (f : BForm) : Statement (.shai f) := ⟨fun _ => rfl, fun h => Bool.noConfusion h⟩
theorem cseti (f : BForm) : Statement (.cseti f) := ⟨fun _ => rfl, fun h => Bool.noConfusion h⟩
theorem xput (f : AForm) : Statement (.xput f) := ⟨fun _ => rfl, fun h => Bool.noConfusion h⟩
theorem xtake (f : AForm) : Statement (.xtake f) := ⟨fun _ => rfl, fun h => Bool.noConfusion h⟩
theorem b (f : CForm) : Statement (.b f) := ⟨fun _ => rfl, fun h => Bool.noConfusion h⟩
theorem call (f : CForm) : Statement (.call f) := ⟨fun _ => rfl, fun h => Bool.noConfusion h⟩
theorem jr (f : BForm) : Statement (.jr f) := ⟨fun _ => rfl, fun h => Bool.noConfusion h⟩
theorem beq (f : DForm) : Statement (.beq f) := ⟨fun _ => rfl, fun h => Bool.noConfusion h⟩
theorem bne (f : DForm) : Statement (.bne f) := ⟨fun _ => rfl, fun h => Bool.noConfusion h⟩
theorem blt (f : DForm) : Statement (.blt f) := ⟨fun _ => rfl, fun h => Bool.noConfusion h⟩
theorem bge (f : DForm) : Statement (.bge f) := ⟨fun _ => rfl, fun h => Bool.noConfusion h⟩
theorem bltu (f : DForm) : Statement (.bltu f) := ⟨fun _ => rfl, fun h => Bool.noConfusion h⟩
theorem bgeu (f : DForm) : Statement (.bgeu f) := ⟨fun _ => rfl, fun h => Bool.noConfusion h⟩
theorem bp (f : FForm) : Statement (.bp f) := ⟨fun _ => rfl, fun h => Bool.noConfusion h⟩
theorem csrr (f : EForm) : Statement (.csrr f) := ⟨fun _ => rfl, fun h => Bool.noConfusion h⟩
theorem csrw (f : EForm) : Statement (.csrw f) := ⟨fun _ => rfl, fun h => Bool.noConfusion h⟩
theorem csrs (f : EForm) : Statement (.csrs f) := ⟨fun _ => rfl, fun h => Bool.noConfusion h⟩
theorem csrc (f : EForm) : Statement (.csrc f) := ⟨fun _ => rfl, fun h => Bool.noConfusion h⟩
theorem fence (kind : BitVec 3) (scope : BitVec 2) (slot : BitVec 4) : Statement (.fence kind scope slot) := ⟨fun _ => rfl, fun h => Bool.noConfusion h⟩
theorem svc (n : BitVec 8) : Statement (.svc n) := ⟨fun _ => rfl, fun h => Bool.noConfusion h⟩
theorem icinv (f : AForm) : Statement (.icinv f) := ⟨fun _ => rfl, fun h => Bool.noConfusion h⟩
theorem getid (f : AForm) : Statement (.getid f) := ⟨fun _ => rfl, fun h => Bool.noConfusion h⟩
theorem ldb (f : BForm) : Statement (.ldb f) := ⟨fun _ => rfl, fun h => Bool.noConfusion h⟩
theorem ldh (f : BForm) : Statement (.ldh f) := ⟨fun _ => rfl, fun h => Bool.noConfusion h⟩
theorem ldw (f : BForm) : Statement (.ldw f) := ⟨fun _ => rfl, fun h => Bool.noConfusion h⟩
theorem ldd (f : BForm) : Statement (.ldd f) := ⟨fun _ => rfl, fun h => Bool.noConfusion h⟩
theorem ldbs (f : BForm) : Statement (.ldbs f) := ⟨fun _ => rfl, fun h => Bool.noConfusion h⟩
theorem ldhs (f : BForm) : Statement (.ldhs f) := ⟨fun _ => rfl, fun h => Bool.noConfusion h⟩
theorem ldws (f : BForm) : Statement (.ldws f) := ⟨fun _ => rfl, fun h => Bool.noConfusion h⟩
theorem stb (f : BForm) : Statement (.stb f) := ⟨fun _ => rfl, fun h => Bool.noConfusion h⟩
theorem sth (f : BForm) : Statement (.sth f) := ⟨fun _ => rfl, fun h => Bool.noConfusion h⟩
theorem stw (f : BForm) : Statement (.stw f) := ⟨fun _ => rfl, fun h => Bool.noConfusion h⟩
theorem std (f : BForm) : Statement (.std f) := ⟨fun _ => rfl, fun h => Bool.noConfusion h⟩
theorem ldf (f : BForm) : Statement (.ldf f) := ⟨fun _ => rfl, fun h => Bool.noConfusion h⟩
theorem ldc (f : BForm) : Statement (.ldc f) := ⟨fun _ => rfl, fun h => Bool.noConfusion h⟩
theorem ste (f : BForm) : Statement (.ste f) := ⟨fun _ => rfl, fun h => Bool.noConfusion h⟩
theorem sts (f : AForm) : Statement (.sts f) := ⟨fun _ => rfl, fun h => Bool.noConfusion h⟩
theorem stn (f : BForm) : Statement (.stn f) := ⟨fun _ => rfl, fun h => Bool.noConfusion h⟩
theorem allot (f : BForm) : Statement (.allot f) := ⟨fun _ => rfl, fun h => Bool.noConfusion h⟩
theorem rotcfg (f : BForm) : Statement (.rotcfg f) := ⟨fun _ => rfl, fun h => Bool.noConfusion h⟩
theorem rotset (f : AForm) : Statement (.rotset f) := ⟨fun _ => rfl, fun h => Bool.noConfusion h⟩
theorem ctxsv (f : AForm) : Statement (.ctxsv f) := ⟨fun _ => rfl, fun h => Bool.noConfusion h⟩
theorem ctxld (f : AForm) : Statement (.ctxld f) := ⟨fun _ => rfl, fun h => Bool.noConfusion h⟩
theorem grpset (f : AForm) : Statement (.grpset f) := ⟨fun _ => rfl, fun h => Bool.noConfusion h⟩
theorem asgen (f : AForm) : Statement (.asgen f) := ⟨fun _ => rfl, fun h => Bool.noConfusion h⟩
theorem cohset (f : AForm) : Statement (.cohset f) := ⟨fun _ => rfl, fun h => Bool.noConfusion h⟩
theorem probe (f : AForm) : Statement (.probe f) := ⟨fun _ => rfl, fun h => Bool.noConfusion h⟩
theorem lix (f : IForm) : Statement (.lix f) := ⟨fun _ => rfl, fun h => Bool.noConfusion h⟩
theorem vadd (f : VForm) : Statement (.vadd f) := ⟨fun _ => rfl, fun h => Bool.noConfusion h⟩
theorem vsub (f : VForm) : Statement (.vsub f) := ⟨fun _ => rfl, fun h => Bool.noConfusion h⟩
theorem vmul (f : VForm) : Statement (.vmul f) := ⟨fun _ => rfl, fun h => Bool.noConfusion h⟩
theorem vfma (f : VForm) : Statement (.vfma f) := ⟨fun _ => rfl, fun h => Bool.noConfusion h⟩
theorem vfms (f : VForm) : Statement (.vfms f) := ⟨fun _ => rfl, fun h => Bool.noConfusion h⟩
theorem vmin (f : VForm) : Statement (.vmin f) := ⟨fun _ => rfl, fun h => Bool.noConfusion h⟩
theorem vmax (f : VForm) : Statement (.vmax f) := ⟨fun _ => rfl, fun h => Bool.noConfusion h⟩
theorem vabs (f : VForm) : Statement (.vabs f) := ⟨fun _ => rfl, fun h => Bool.noConfusion h⟩
theorem vneg (f : VForm) : Statement (.vneg f) := ⟨fun _ => rfl, fun h => Bool.noConfusion h⟩
theorem vdiv (f : VForm) : Statement (.vdiv f) := ⟨fun _ => rfl, fun h => Bool.noConfusion h⟩
theorem vsqrt (f : VForm) : Statement (.vsqrt f) := ⟨fun _ => rfl, fun h => Bool.noConfusion h⟩
theorem vrcp (f : VForm) : Statement (.vrcp f) := ⟨fun _ => rfl, fun h => Bool.noConfusion h⟩
theorem vrsq (f : VForm) : Statement (.vrsq f) := ⟨fun _ => rfl, fun h => Bool.noConfusion h⟩
theorem vexp2 (f : VForm) : Statement (.vexp2 f) := ⟨fun _ => rfl, fun h => Bool.noConfusion h⟩
theorem vlog2 (f : VForm) : Statement (.vlog2 f) := ⟨fun _ => rfl, fun h => Bool.noConfusion h⟩
theorem vscl (f : VForm) : Statement (.vscl f) := ⟨fun _ => rfl, fun h => Bool.noConfusion h⟩
theorem vcmp (f : VForm) : Statement (.vcmp f) := ⟨fun _ => rfl, fun h => Bool.noConfusion h⟩
theorem vsel (f : VForm) : Statement (.vsel f) := ⟨fun _ => rfl, fun h => Bool.noConfusion h⟩
theorem vand (f : VForm) : Statement (.vand f) := ⟨fun _ => rfl, fun h => Bool.noConfusion h⟩
theorem vor (f : VForm) : Statement (.vor f) := ⟨fun _ => rfl, fun h => Bool.noConfusion h⟩
theorem vxor (f : VForm) : Statement (.vxor f) := ⟨fun _ => rfl, fun h => Bool.noConfusion h⟩
theorem vnot (f : VForm) : Statement (.vnot f) := ⟨fun _ => rfl, fun h => Bool.noConfusion h⟩
theorem vshl (f : VForm) : Statement (.vshl f) := ⟨fun _ => rfl, fun h => Bool.noConfusion h⟩
theorem vshr (f : VForm) : Statement (.vshr f) := ⟨fun _ => rfl, fun h => Bool.noConfusion h⟩
theorem vcvt (f : VForm) : Statement (.vcvt f) := ⟨fun _ => rfl, fun h => Bool.noConfusion h⟩
theorem vqmx (f : VForm) : Statement (.vqmx f) := ⟨fun _ => rfl, fun h => Bool.noConfusion h⟩
theorem vdqmx (f : VForm) : Statement (.vdqmx f) := ⟨fun _ => rfl, fun h => Bool.noConfusion h⟩
theorem vqnb (f : VForm) : Statement (.vqnb f) := ⟨fun _ => rfl, fun h => Bool.noConfusion h⟩
theorem vdqnb (f : VForm) : Statement (.vdqnb f) := ⟨fun _ => rfl, fun h => Bool.noConfusion h⟩
theorem vrand (f : VForm) : Statement (.vrand f) := ⟨fun _ => rfl, fun h => Bool.noConfusion h⟩
theorem vbdot (f : VForm) : Statement (.vbdot f) := ⟨fun _ => rfl, fun h => Bool.noConfusion h⟩
theorem vpack (f : VForm) : Statement (.vpack f) := ⟨fun _ => rfl, fun h => Bool.noConfusion h⟩
theorem vred (f : VForm) : Statement (.vred f) := ⟨fun _ => rfl, fun h => Bool.noConfusion h⟩
theorem vscan (f : VForm) : Statement (.vscan f) := ⟨fun _ => rfl, fun h => Bool.noConfusion h⟩
theorem vperm (f : VForm) : Statement (.vperm f) := ⟨fun _ => rfl, fun h => Bool.noConfusion h⟩
theorem vbcast (f : VForm) : Statement (.vbcast f) := ⟨fun _ => rfl, fun h => Bool.noConfusion h⟩
theorem vextr (f : VForm) : Statement (.vextr f) := ⟨fun _ => rfl, fun h => Bool.noConfusion h⟩
theorem vins (f : VForm) : Statement (.vins f) := ⟨fun _ => rfl, fun h => Bool.noConfusion h⟩
theorem vslide (f : VForm) : Statement (.vslide f) := ⟨fun _ => rfl, fun h => Bool.noConfusion h⟩
theorem vzip (f : VForm) : Statement (.vzip f) := ⟨fun _ => rfl, fun h => Bool.noConfusion h⟩
theorem vunzip (f : VForm) : Statement (.vunzip f) := ⟨fun _ => rfl, fun h => Bool.noConfusion h⟩
theorem vmov (f : VForm) : Statement (.vmov f) := ⟨fun _ => rfl, fun h => Bool.noConfusion h⟩
theorem viota (f : VForm) : Statement (.viota f) := ⟨fun _ => rfl, fun h => Bool.noConfusion h⟩
theorem pand (f : VForm) : Statement (.pand f) := ⟨fun _ => rfl, fun h => Bool.noConfusion h⟩
theorem por (f : VForm) : Statement (.por f) := ⟨fun _ => rfl, fun h => Bool.noConfusion h⟩
theorem pxor (f : VForm) : Statement (.pxor f) := ⟨fun _ => rfl, fun h => Bool.noConfusion h⟩
theorem pnot (f : VForm) : Statement (.pnot f) := ⟨fun _ => rfl, fun h => Bool.noConfusion h⟩
theorem pwhile (f : VForm) : Statement (.pwhile f) := ⟨fun _ => rfl, fun h => Bool.noConfusion h⟩
theorem pcnt (f : VForm) : Statement (.pcnt f) := ⟨fun _ => rfl, fun h => Bool.noConfusion h⟩
theorem pfirst (f : VForm) : Statement (.pfirst f) := ⟨fun _ => rfl, fun h => Bool.noConfusion h⟩
theorem vld (f : VForm) : Statement (.vld f) := ⟨fun _ => rfl, fun h => Bool.noConfusion h⟩
theorem vst (f : VForm) : Statement (.vst f) := ⟨fun _ => rfl, fun h => Bool.noConfusion h⟩
theorem vldx (f : VForm) : Statement (.vldx f) := ⟨fun _ => rfl, fun h => Bool.noConfusion h⟩
theorem vstx (f : VForm) : Statement (.vstx f) := ⟨fun _ => rfl, fun h => Bool.noConfusion h⟩
theorem vldf (f : VForm) : Statement (.vldf f) := ⟨fun _ => rfl, fun h => Bool.noConfusion h⟩
theorem vste (f : VForm) : Statement (.vste f) := ⟨fun _ => rfl, fun h => Bool.noConfusion h⟩
theorem vgath (f : VForm) : Statement (.vgath f) := ⟨fun _ => rfl, fun h => Bool.noConfusion h⟩
theorem vscat (f : VForm) : Statement (.vscat f) := ⟨fun _ => rfl, fun h => Bool.noConfusion h⟩
theorem touch (f : VForm) : Statement (.touch f) := ⟨fun _ => rfl, fun h => Bool.noConfusion h⟩
theorem cstat (f : VForm) : Statement (.cstat f) := ⟨fun _ => rfl, fun h => Bool.noConfusion h⟩
theorem waitc (f : VForm) : Statement (.waitc f) := ⟨fun _ => rfl, fun h => Bool.noConfusion h⟩
theorem defer (f : VForm) : Statement (.defer f) := ⟨fun _ => rfl, fun h => Bool.noConfusion h⟩
theorem resolve (f : VForm) : Statement (.resolve f) := ⟨fun _ => rfl, fun h => Bool.noConfusion h⟩
theorem poison (f : VForm) : Statement (.poison f) := ⟨fun _ => rfl, fun h => Bool.noConfusion h⟩
theorem rcpdef (f : VForm) : Statement (.rcpdef f) := ⟨fun _ => rfl, fun h => Bool.noConfusion h⟩
theorem rcpdrop (f : VForm) : Statement (.rcpdrop f) := ⟨fun _ => rfl, fun h => Bool.noConfusion h⟩
theorem rcpkill (f : VForm) : Statement (.rcpkill f) := ⟨fun _ => rfl, fun h => Bool.noConfusion h⟩
theorem rempty (f : VForm) : Statement (.rempty f) := ⟨fun _ => rfl, fun h => Bool.noConfusion h⟩
theorem rstate (f : VForm) : Statement (.rstate f) := ⟨fun _ => rfl, fun h => Bool.noConfusion h⟩
theorem amoadd (f : VForm) : Statement (.amoadd f) := ⟨fun _ => rfl, fun h => Bool.noConfusion h⟩
theorem amomin (f : VForm) : Statement (.amomin f) := ⟨fun _ => rfl, fun h => Bool.noConfusion h⟩
theorem amomax (f : VForm) : Statement (.amomax f) := ⟨fun _ => rfl, fun h => Bool.noConfusion h⟩
theorem amoand (f : VForm) : Statement (.amoand f) := ⟨fun _ => rfl, fun h => Bool.noConfusion h⟩
theorem amoor (f : VForm) : Statement (.amoor f) := ⟨fun _ => rfl, fun h => Bool.noConfusion h⟩
theorem amoxor (f : VForm) : Statement (.amoxor f) := ⟨fun _ => rfl, fun h => Bool.noConfusion h⟩
theorem amoswp (f : VForm) : Statement (.amoswp f) := ⟨fun _ => rfl, fun h => Bool.noConfusion h⟩
theorem amocas (f : VForm) : Statement (.amocas f) := ⟨fun _ => rfl, fun h => Bool.noConfusion h⟩
theorem amofadd (f : VForm) : Statement (.amofadd f) := ⟨fun _ => rfl, fun h => Bool.noConfusion h⟩
theorem vamoadd (f : VForm) : Statement (.vamoadd f) := ⟨fun _ => rfl, fun h => Bool.noConfusion h⟩
theorem fadd (f : VForm) : Statement (.fadd f) := ⟨fun _ => rfl, fun h => Bool.noConfusion h⟩
theorem fset (f : VForm) : Statement (.fset f) := ⟨fun _ => rfl, fun h => Bool.noConfusion h⟩
theorem farm (f : VForm) : Statement (.farm f) := ⟨fun _ => rfl, fun h => Bool.noConfusion h⟩
theorem binit (f : VForm) : Statement (.binit f) := ⟨fun _ => rfl, fun h => Bool.noConfusion h⟩
theorem bexp (f : VForm) : Statement (.bexp f) := ⟨fun _ => rfl, fun h => Bool.noConfusion h⟩
theorem bwait (f : VForm) : Statement (.bwait f) := ⟨fun _ => rfl, fun h => Bool.noConfusion h⟩
theorem btest (f : VForm) : Statement (.btest f) := ⟨fun _ => rfl, fun h => Bool.noConfusion h⟩
theorem binv (f : VForm) : Statement (.binv f) := ⟨fun _ => rfl, fun h => Bool.noConfusion h⟩
theorem rginit (f : VForm) : Statement (.rginit f) := ⟨fun _ => rfl, fun h => Bool.noConfusion h⟩
theorem rgtake (f : VForm) : Statement (.rgtake f) := ⟨fun _ => rfl, fun h => Bool.noConfusion h⟩
theorem sbind (f : VForm) : Statement (.sbind f) := ⟨fun _ => rfl, fun h => Bool.noConfusion h⟩
theorem sunbind (f : VForm) : Statement (.sunbind f) := ⟨fun _ => rfl, fun h => Bool.noConfusion h⟩
theorem sstat (f : VForm) : Statement (.sstat f) := ⟨fun _ => rfl, fun h => Bool.noConfusion h⟩
theorem mpushx (take trap : BitVec 1) (x : BitVec 6) : Statement (.mpushx take trap x) := ⟨fun _ => rfl, fun h => Bool.noConfusion h⟩
theorem mpopx (x : BitVec 6) : Statement (.mpopx x) := ⟨fun _ => rfl, fun h => Bool.noConfusion h⟩
theorem mshl (n : BitVec 6) : Statement (.mshl n) := ⟨fun _ => rfl, fun h => Bool.noConfusion h⟩
theorem mmma (slot : BitVec 4) (emptyA markC acc : BitVec 1) : Statement (.mmma slot emptyA markC acc) := ⟨fun _ => rfl, fun h => Bool.noConfusion h⟩
theorem mmva (slot : BitVec 4) (emptyA markC acc : BitVec 1) : Statement (.mmva slot emptyA markC acc) := ⟨fun _ => rfl, fun h => Bool.noConfusion h⟩
theorem mepi (slot : BitVec 4) : Statement (.mepi slot) := ⟨fun _ => rfl, fun h => Bool.noConfusion h⟩
theorem mwait (ph : BitVec 1) : Statement (.mwait ph) := ⟨fun _ => rfl, fun h => Bool.noConfusion h⟩
theorem mskipz (n : BitVec 8) : Statement (.mskipz n) := ⟨fun _ => rfl, fun h => Bool.noConfusion h⟩
theorem mconst (c slot : BitVec 4) : Statement (.mconst c slot) := ⟨fun _ => rfl, fun h => Bool.noConfusion h⟩
theorem mlit (p : BitVec 13) : Statement (.mlit p) := ⟨fun _ => rfl, fun h => Bool.noConfusion h⟩
theorem cpushx (take trap : BitVec 1) (x : BitVec 6) : Statement (.cpushx take trap x) := ⟨fun _ => rfl, fun h => Bool.noConfusion h⟩
theorem cpopx (x : BitVec 6) : Statement (.cpopx x) := ⟨fun _ => rfl, fun h => Bool.noConfusion h⟩
theorem cshl (n : BitVec 6) : Statement (.cshl n) := ⟨fun _ => rfl, fun h => Bool.noConfusion h⟩
theorem ccopy (resolve : BitVec 1) : Statement (.ccopy resolve) := ⟨fun _ => rfl, fun h => Bool.noConfusion h⟩
theorem ccopy2 (resolve : BitVec 1) : Statement (.ccopy2 resolve) := ⟨fun _ => rfl, fun h => Bool.noConfusion h⟩
theorem cgath (resolve : BitVec 1) : Statement (.cgath resolve) := ⟨fun _ => rfl, fun h => Bool.noConfusion h⟩
theorem cscat (resolve : BitVec 1) : Statement (.cscat resolve) := ⟨fun _ => rfl, fun h => Bool.noConfusion h⟩
theorem cfill (resolve : BitVec 1) : Statement (.cfill resolve) := ⟨fun _ => rfl, fun h => Bool.noConfusion h⟩
theorem cpage (resolve : BitVec 1) : Statement (.cpage resolve) := ⟨fun _ => rfl, fun h => Bool.noConfusion h⟩
theorem ccoll (ty op : BitVec 4) : Statement (.ccoll ty op) := ⟨fun _ => rfl, fun h => Bool.noConfusion h⟩
theorem cwait (ph : BitVec 1) : Statement (.cwait ph) := ⟨fun _ => rfl, fun h => Bool.noConfusion h⟩
theorem cskipz (n : BitVec 8) : Statement (.cskipz n) := ⟨fun _ => rfl, fun h => Bool.noConfusion h⟩
theorem clit (p : BitVec 13) : Statement (.clit p) := ⟨fun _ => rfl, fun h => Bool.noConfusion h⟩
theorem loop (c : BitVec 7) : Statement (.loop c) := ⟨fun _ => rfl, fun h => Bool.noConfusion h⟩
theorem loopX (x : BitVec 6) : Statement (.loopX x) := ⟨fun _ => rfl, fun h => Bool.noConfusion h⟩
theorem endl (rot : BitVec 1) : Statement (.endl rot) := ⟨fun _ => rfl, fun h => Bool.noConfusion h⟩
theorem leave (cond : BitVec 2) (r : BitVec 6) : Statement (.leave cond r) := ⟨fun _ => rfl, fun h => Bool.noConfusion h⟩
theorem abr (cond : BitVec 2) (r : BitVec 6) (off : BitVec 16) : Statement (.abr cond r off) := ⟨fun _ => rfl, fun h => Bool.noConfusion h⟩
theorem acall (off : BitVec 16) : Statement (.acall off) := ⟨fun _ => rfl, fun h => Bool.noConfusion h⟩
theorem slip (n : BitVec 4) : Statement (.slip n) := ⟨fun _ => rfl, fun h => Bool.noConfusion h⟩
theorem elda (d : BitVec 3) : Statement (.elda d) := ⟨fun h => Bool.noConfusion h, fun h => Bool.noConfusion h⟩
theorem eadd (d s : BitVec 3) : Statement (.eadd d s) := ⟨fun h => Bool.noConfusion h, fun h => Bool.noConfusion h⟩
theorem emul (d s : BitVec 3) : Statement (.emul d s) := ⟨fun h => Bool.noConfusion h, fun h => Bool.noConfusion h⟩
theorem efma (d s : BitVec 3) : Statement (.efma d s) := ⟨fun h => Bool.noConfusion h, fun h => Bool.noConfusion h⟩
theorem emax (d s : BitVec 3) : Statement (.emax d s) := ⟨fun h => Bool.noConfusion h, fun h => Bool.noConfusion h⟩
theorem econ (d : BitVec 3) (c : BitVec 4) : Statement (.econ d c) := ⟨fun h => Bool.noConfusion h, fun h => Bool.noConfusion h⟩
theorem erow (d s : BitVec 3) : Statement (.erow d s) := ⟨fun h => Bool.noConfusion h, fun h => Bool.noConfusion h⟩
theorem eact (d s : BitVec 3) (f : BitVec 5) : Statement (.eact d s f) := ⟨fun h => Bool.noConfusion h, fun h => Bool.noConfusion h⟩
theorem ecvt (d s : BitVec 3) (sat : BitVec 1) (ty : BitVec 4) : Statement (.ecvt d s sat ty) := ⟨fun h => Bool.noConfusion h, fun h => Bool.noConfusion h⟩
theorem estat (d s : BitVec 3) : Statement (.estat d s) := ⟨fun h => Bool.noConfusion h, fun h => Bool.noConfusion h⟩
theorem eqkv (d s : BitVec 3) (ty : BitVec 4) : Statement (.eqkv d s ty) := ⟨fun h => Bool.noConfusion h, fun h => Bool.noConfusion h⟩
theorem eres (d : BitVec 3) : Statement (.eres d) := ⟨fun h => Bool.noConfusion h, fun h => Bool.noConfusion h⟩
theorem est (s : BitVec 3) (ty : BitVec 4) : Statement (.est s ty) := ⟨fun h => Bool.noConfusion h, fun h => Bool.noConfusion h⟩
theorem esel (d s c : BitVec 3) : Statement (.esel d s c) := ⟨fun h => Bool.noConfusion h, fun h => Bool.noConfusion h⟩
theorem emov (d s : BitVec 3) : Statement (.emov d s) := ⟨fun h => Bool.noConfusion h, fun h => Bool.noConfusion h⟩
theorem trapf : Statement .trapf := ⟨fun _ => rfl, fun h => Bool.noConfusion h⟩
theorem sret : Statement .sret := ⟨fun _ => rfl, fun h => Bool.noConfusion h⟩
theorem brk : Statement .brk := ⟨fun _ => rfl, fun h => Bool.noConfusion h⟩
theorem xdisp : Statement .xdisp := ⟨fun _ => rfl, fun h => Bool.noConfusion h⟩
theorem isync : Statement .isync := ⟨fun _ => rfl, fun h => Bool.noConfusion h⟩
theorem pause : Statement .pause := ⟨fun _ => rfl, fun h => Bool.noConfusion h⟩
theorem swctx : Statement .swctx := ⟨fun _ => rfl, fun h => Bool.noConfusion h⟩
theorem park : Statement .park := ⟨fun _ => rfl, fun h => Bool.noConfusion h⟩
theorem brkl : Statement .brkl := ⟨fun _ => rfl, fun h => Bool.noConfusion h⟩
theorem mnop : Statement .mnop := ⟨fun _ => rfl, fun h => Bool.noConfusion h⟩
theorem mdup : Statement .mdup := ⟨fun _ => rfl, fun h => Bool.noConfusion h⟩
theorem mdrop : Statement .mdrop := ⟨fun _ => rfl, fun h => Bool.noConfusion h⟩
theorem mswap : Statement .mswap := ⟨fun _ => rfl, fun h => Bool.noConfusion h⟩
theorem mover : Statement .mover := ⟨fun _ => rfl, fun h => Bool.noConfusion h⟩
theorem madd : Statement .madd := ⟨fun _ => rfl, fun h => Bool.noConfusion h⟩
theorem mor : Statement .mor := ⟨fun _ => rfl, fun h => Bool.noConfusion h⟩
theorem mswpw : Statement .mswpw := ⟨fun _ => rfl, fun h => Bool.noConfusion h⟩
theorem mbar : Statement .mbar := ⟨fun _ => rfl, fun h => Bool.noConfusion h⟩
theorem mbrk : Statement .mbrk := ⟨fun _ => rfl, fun h => Bool.noConfusion h⟩
theorem cnop : Statement .cnop := ⟨fun _ => rfl, fun h => Bool.noConfusion h⟩
theorem cdup : Statement .cdup := ⟨fun _ => rfl, fun h => Bool.noConfusion h⟩
theorem cdrop : Statement .cdrop := ⟨fun _ => rfl, fun h => Bool.noConfusion h⟩
theorem cswap : Statement .cswap := ⟨fun _ => rfl, fun h => Bool.noConfusion h⟩
theorem cover : Statement .cover := ⟨fun _ => rfl, fun h => Bool.noConfusion h⟩
theorem cadd : Statement .cadd := ⟨fun _ => rfl, fun h => Bool.noConfusion h⟩
theorem cor : Statement .cor := ⟨fun _ => rfl, fun h => Bool.noConfusion h⟩
theorem cdecomp : Statement .cdecomp := ⟨fun _ => rfl, fun h => Bool.noConfusion h⟩
theorem cpref : Statement .cpref := ⟨fun _ => rfl, fun h => Bool.noConfusion h⟩
theorem choff : Statement .choff := ⟨fun _ => rfl, fun h => Bool.noConfusion h⟩
theorem cflush : Statement .cflush := ⟨fun _ => rfl, fun h => Bool.noConfusion h⟩
theorem cbar : Statement .cbar := ⟨fun _ => rfl, fun h => Bool.noConfusion h⟩
theorem cbrk : Statement .cbrk := ⟨fun _ => rfl, fun h => Bool.noConfusion h⟩
theorem anop : Statement .anop := ⟨fun _ => rfl, fun h => Bool.noConfusion h⟩
theorem aret : Statement .aret := ⟨fun _ => rfl, fun h => Bool.noConfusion h⟩
theorem sync : Statement .sync := ⟨fun _ => rfl, fun h => Bool.noConfusion h⟩
theorem next : Statement .next := ⟨fun _ => rfl, fun h => Bool.noConfusion h⟩
theorem halt : Statement .halt := ⟨fun _ => rfl, fun h => Bool.noConfusion h⟩
theorem abrk : Statement .abrk := ⟨fun _ => rfl, fun h => Bool.noConfusion h⟩
theorem eend : Statement .eend := ⟨fun h => Bool.noConfusion h, fun h => Bool.noConfusion h⟩
theorem powerUp : Statement .powerUp := ⟨fun h => Bool.noConfusion h, fun _ => rfl⟩
theorem stageOverrun : Statement .stageOverrun := ⟨fun h => Bool.noConfusion h, fun _ => rfl⟩
theorem startRetryReset : Statement .startRetryReset := ⟨fun h => Bool.noConfusion h, fun _ => rfl⟩
theorem inputPowerRemoved : Statement .inputPowerRemoved := ⟨fun h => Bool.noConfusion h, fun _ => rfl⟩
theorem sensorSample : Statement .sensorSample := ⟨fun h => Bool.noConfusion h, fun _ => rfl⟩
theorem thstatWarnClear : Statement .thstatWarnClear := ⟨fun h => Bool.noConfusion h, fun _ => rfl⟩
theorem tlimWrite : Statement .tlimWrite := ⟨fun h => Bool.noConfusion h, fun _ => rfl⟩
theorem lpwrWrite : Statement .lpwrWrite := ⟨fun h => Bool.noConfusion h, fun _ => rfl⟩
theorem layerTransitionDone : Statement .layerTransitionDone := ⟨fun h => Bool.noConfusion h, fun _ => rfl⟩
theorem capTick : Statement .capTick := ⟨fun h => Bool.noConfusion h, fun _ => rfl⟩
theorem droopAlarm : Statement .droopAlarm := ⟨fun h => Bool.noConfusion h, fun _ => rfl⟩
theorem droopHoldEnd : Statement .droopHoldEnd := ⟨fun h => Bool.noConfusion h, fun _ => rfl⟩
theorem heldStartAdmit : Statement .heldStartAdmit := ⟨fun h => Bool.noConfusion h, fun _ => rfl⟩
theorem staggeredRegionStart : Statement .staggeredRegionStart := ⟨fun h => Bool.noConfusion h, fun _ => rfl⟩
theorem registerWrite : Statement .registerWrite := ⟨fun h => Bool.noConfusion h, fun _ => rfl⟩
theorem flitReceive : Statement .flitReceive := ⟨fun h => Bool.noConfusion h, fun _ => rfl⟩
theorem nakReceive : Statement .nakReceive := ⟨fun h => Bool.noConfusion h, fun _ => rfl⟩
theorem nullFlitSend : Statement .nullFlitSend := ⟨fun h => Bool.noConfusion h, fun _ => rfl⟩
theorem retrainStart : Statement .retrainStart := ⟨fun h => Bool.noConfusion h, fun _ => rfl⟩
theorem linkForceRetrain : Statement .linkForceRetrain := ⟨fun h => Bool.noConfusion h, fun _ => rfl⟩
theorem retrainAttemptEnd : Statement .retrainAttemptEnd := ⟨fun h => Bool.noConfusion h, fun _ => rfl⟩
theorem retrainAttemptTimeout : Statement .retrainAttemptTimeout := ⟨fun h => Bool.noConfusion h, fun _ => rfl⟩
theorem fabricFlitReceive : Statement .fabricFlitReceive := ⟨fun h => Bool.noConfusion h, fun _ => rfl⟩
theorem fabricNakReceive : Statement .fabricNakReceive := ⟨fun h => Bool.noConfusion h, fun _ => rfl⟩
theorem portRetrainStart : Statement .portRetrainStart := ⟨fun h => Bool.noConfusion h, fun _ => rfl⟩
theorem portRetrainAttemptEnd : Statement .portRetrainAttemptEnd := ⟨fun h => Bool.noConfusion h, fun _ => rfl⟩
theorem portRetrainAttemptTimeout : Statement .portRetrainAttemptTimeout := ⟨fun h => Bool.noConfusion h, fun _ => rfl⟩
theorem rdline : Statement .rdline := ⟨fun h => Bool.noConfusion h, fun _ => rfl⟩
theorem rdpart : Statement .rdpart := ⟨fun h => Bool.noConfusion h, fun _ => rfl⟩
theorem wrmask : Statement .wrmask := ⟨fun h => Bool.noConfusion h, fun _ => rfl⟩
theorem tagst : Statement .tagst := ⟨fun h => Bool.noConfusion h, fun _ => rfl⟩
theorem tagld : Statement .tagld := ⟨fun h => Bool.noConfusion h, fun _ => rfl⟩
theorem slotAmoadd : Statement .slotAmoadd := ⟨fun h => Bool.noConfusion h, fun _ => rfl⟩
theorem slotAmomin : Statement .slotAmomin := ⟨fun h => Bool.noConfusion h, fun _ => rfl⟩
theorem slotAmomax : Statement .slotAmomax := ⟨fun h => Bool.noConfusion h, fun _ => rfl⟩
theorem slotAmoand : Statement .slotAmoand := ⟨fun h => Bool.noConfusion h, fun _ => rfl⟩
theorem slotAmoor : Statement .slotAmoor := ⟨fun h => Bool.noConfusion h, fun _ => rfl⟩
theorem slotAmoxor : Statement .slotAmoxor := ⟨fun h => Bool.noConfusion h, fun _ => rfl⟩
theorem slotAmoswp : Statement .slotAmoswp := ⟨fun h => Bool.noConfusion h, fun _ => rfl⟩
theorem slotAmocas : Statement .slotAmocas := ⟨fun h => Bool.noConfusion h, fun _ => rfl⟩
theorem slotAmofadd : Statement .slotAmofadd := ⟨fun h => Bool.noConfusion h, fun _ => rfl⟩
theorem slotVamoadd : Statement .slotVamoadd := ⟨fun h => Bool.noConfusion h, fun _ => rfl⟩
theorem slotFadd : Statement .slotFadd := ⟨fun h => Bool.noConfusion h, fun _ => rfl⟩
theorem slotFset : Statement .slotFset := ⟨fun h => Bool.noConfusion h, fun _ => rfl⟩
theorem slotFarm : Statement .slotFarm := ⟨fun h => Bool.noConfusion h, fun _ => rfl⟩
theorem cellopTouch : Statement .cellopTouch := ⟨fun h => Bool.noConfusion h, fun _ => rfl⟩
theorem cellopCstat : Statement .cellopCstat := ⟨fun h => Bool.noConfusion h, fun _ => rfl⟩
theorem cellopDefer : Statement .cellopDefer := ⟨fun h => Bool.noConfusion h, fun _ => rfl⟩
theorem cellopResolve : Statement .cellopResolve := ⟨fun h => Bool.noConfusion h, fun _ => rfl⟩
theorem cellopPoison : Statement .cellopPoison := ⟨fun h => Bool.noConfusion h, fun _ => rfl⟩
theorem cellopWaitc : Statement .cellopWaitc := ⟨fun h => Bool.noConfusion h, fun _ => rfl⟩
theorem cellopHeadQuery : Statement .cellopHeadQuery := ⟨fun h => Bool.noConfusion h, fun _ => rfl⟩
theorem bopen : Statement .bopen := ⟨fun h => Bool.noConfusion h, fun _ => rfl⟩
theorem bulkFlit : Statement .bulkFlit := ⟨fun h => Bool.noConfusion h, fun _ => rfl⟩
theorem ldata : Statement .ldata := ⟨fun h => Bool.noConfusion h, fun _ => rfl⟩
theorem lwrite : Statement .lwrite := ⟨fun h => Bool.noConfusion h, fun _ => rfl⟩
theorem lwritev : Statement .lwritev := ⟨fun h => Bool.noConfusion h, fun _ => rfl⟩
theorem rdata : Statement .rdata := ⟨fun h => Bool.noConfusion h, fun _ => rfl⟩
theorem done : Statement .done := ⟨fun h => Bool.noConfusion h, fun _ => rfl⟩
theorem err : Statement .err := ⟨fun h => Bool.noConfusion h, fun _ => rfl⟩
theorem pend : Statement .pend := ⟨fun h => Bool.noConfusion h, fun _ => rfl⟩
theorem pendTimer : Statement .pendTimer := ⟨fun h => Bool.noConfusion h, fun _ => rfl⟩
theorem responseTimeout : Statement .responseTimeout := ⟨fun h => Bool.noConfusion h, fun _ => rfl⟩
theorem hostMemRead : Statement .hostMemRead := ⟨fun h => Bool.noConfusion h, fun _ => rfl⟩
theorem hostMemWrite : Statement .hostMemWrite := ⟨fun h => Bool.noConfusion h, fun _ => rfl⟩
theorem submit : Statement .submit := ⟨fun h => Bool.noConfusion h, fun _ => rfl⟩
theorem slotFree : Statement .slotFree := ⟨fun h => Bool.noConfusion h, fun _ => rfl⟩
theorem slotStateUndo : Statement .slotStateUndo := ⟨fun h => Bool.noConfusion h, fun _ => rfl⟩
theorem cancelWord : Statement .cancelWord := ⟨fun h => Bool.noConfusion h, fun _ => rfl⟩
theorem evheadWrite : Statement .evheadWrite := ⟨fun h => Bool.noConfusion h, fun _ => rfl⟩
theorem msixUnmask : Statement .msixUnmask := ⟨fun h => Bool.noConfusion h, fun _ => rfl⟩
theorem identify : Statement .identify := ⟨fun h => Bool.noConfusion h, fun _ => rfl⟩
theorem status : Statement .status := ⟨fun h => Bool.noConfusion h, fun _ => rfl⟩
theorem attest : Statement .attest := ⟨fun h => Bool.noConfusion h, fun _ => rfl⟩
theorem bootlog : Statement .bootlog := ⟨fun h => Bool.noConfusion h, fun _ => rfl⟩
theorem updateConfig : Statement .updateConfig := ⟨fun h => Bool.noConfusion h, fun _ => rfl⟩
theorem setPlan : Statement .setPlan := ⟨fun h => Bool.noConfusion h, fun _ => rfl⟩
theorem loadText : Statement .loadText := ⟨fun h => Bool.noConfusion h, fun _ => rfl⟩
theorem loadWeights : Statement .loadWeights := ⟨fun h => Bool.noConfusion h, fun _ => rfl⟩
theorem loadWeightsDone : Statement .loadWeightsDone := ⟨fun h => Bool.noConfusion h, fun _ => rfl⟩
theorem mapRegion : Statement .mapRegion := ⟨fun h => Bool.noConfusion h, fun _ => rfl⟩
theorem unmap : Statement .unmap := ⟨fun h => Bool.noConfusion h, fun _ => rfl⟩
theorem openSpace : Statement .openSpace := ⟨fun h => Bool.noConfusion h, fun _ => rfl⟩
theorem closeSpace : Statement .closeSpace := ⟨fun h => Bool.noConfusion h, fun _ => rfl⟩
theorem setTier : Statement .setTier := ⟨fun h => Bool.noConfusion h, fun _ => rfl⟩
theorem cancel : Statement .cancel := ⟨fun h => Bool.noConfusion h, fun _ => rfl⟩
theorem drain : Statement .drain := ⟨fun h => Bool.noConfusion h, fun _ => rfl⟩
theorem drainComplete : Statement .drainComplete := ⟨fun h => Bool.noConfusion h, fun _ => rfl⟩
theorem queryStream : Statement .queryStream := ⟨fun h => Bool.noConfusion h, fun _ => rfl⟩
theorem lend : Statement .lend := ⟨fun h => Bool.noConfusion h, fun _ => rfl⟩
theorem borrow : Statement .borrow := ⟨fun h => Bool.noConfusion h, fun _ => rfl⟩
theorem reclaim : Statement .reclaim := ⟨fun h => Bool.noConfusion h, fun _ => rfl⟩
theorem reclaimAnswer : Statement .reclaimAnswer := ⟨fun h => Bool.noConfusion h, fun _ => rfl⟩
theorem reclaimGraceExpire : Statement .reclaimGraceExpire := ⟨fun h => Bool.noConfusion h, fun _ => rfl⟩
theorem debugHalt : Statement .debugHalt := ⟨fun h => Bool.noConfusion h, fun _ => rfl⟩
theorem debugResume : Statement .debugResume := ⟨fun h => Bool.noConfusion h, fun _ => rfl⟩
theorem debugRead : Statement .debugRead := ⟨fun h => Bool.noConfusion h, fun _ => rfl⟩
theorem debugWrite : Statement .debugWrite := ⟨fun h => Bool.noConfusion h, fun _ => rfl⟩
theorem debugBreak : Statement .debugBreak := ⟨fun h => Bool.noConfusion h, fun _ => rfl⟩
theorem resetModule : Statement .resetModule := ⟨fun h => Bool.noConfusion h, fun _ => rfl⟩
theorem moduleReset : Statement .moduleReset := ⟨fun h => Bool.noConfusion h, fun _ => rfl⟩
theorem thermalRead : Statement .thermalRead := ⟨fun h => Bool.noConfusion h, fun _ => rfl⟩
theorem thermalSet : Statement .thermalSet := ⟨fun h => Bool.noConfusion h, fun _ => rfl⟩
theorem powerCap : Statement .powerCap := ⟨fun h => Bool.noConfusion h, fun _ => rfl⟩
theorem spdmRequest : Statement .spdmRequest := ⟨fun h => Bool.noConfusion h, fun _ => rfl⟩
theorem admission : Statement .admission := ⟨fun h => Bool.noConfusion h, fun _ => rfl⟩
theorem streamEnd : Statement .streamEnd := ⟨fun h => Bool.noConfusion h, fun _ => rfl⟩
theorem retirement : Statement .retirement := ⟨fun h => Bool.noConfusion h, fun _ => rfl⟩
theorem tiermissEvent : Statement .tiermissEvent := ⟨fun h => Bool.noConfusion h, fun _ => rfl⟩
theorem ltimeWarn : Statement .ltimeWarn := ⟨fun h => Bool.noConfusion h, fun _ => rfl⟩
theorem ltimeSelfDrain : Statement .ltimeSelfDrain := ⟨fun h => Bool.noConfusion h, fun _ => rfl⟩
theorem ltimeLimit : Statement .ltimeLimit := ⟨fun h => Bool.noConfusion h, fun _ => rfl⟩
theorem logicalTimeTick : Statement .logicalTimeTick := ⟨fun h => Bool.noConfusion h, fun _ => rfl⟩
theorem handoffSend : Statement .handoffSend := ⟨fun h => Bool.noConfusion h, fun _ => rfl⟩
theorem hblkSent : Statement .hblkSent := ⟨fun h => Bool.noConfusion h, fun _ => rfl⟩
theorem handoffTimerExpire : Statement .handoffTimerExpire := ⟨fun h => Bool.noConfusion h, fun _ => rfl⟩
theorem hblk : Statement .hblk := ⟨fun h => Bool.noConfusion h, fun _ => rfl⟩
theorem blockLanded : Statement .blockLanded := ⟨fun h => Bool.noConfusion h, fun _ => rfl⟩
theorem cack : Statement .cack := ⟨fun h => Bool.noConfusion h, fun _ => rfl⟩
theorem hcancel : Statement .hcancel := ⟨fun h => Bool.noConfusion h, fun _ => rfl⟩
theorem cmark : Statement .cmark := ⟨fun h => Bool.noConfusion h, fun _ => rfl⟩
theorem cxack : Statement .cxack := ⟨fun h => Bool.noConfusion h, fun _ => rfl⟩
theorem cxackSequencer : Statement .cxackSequencer := ⟨fun h => Bool.noConfusion h, fun _ => rfl⟩
theorem srcdone : Statement .srcdone := ⟨fun h => Bool.noConfusion h, fun _ => rfl⟩
theorem cnote : Statement .cnote := ⟨fun h => Bool.noConfusion h, fun _ => rfl⟩
theorem hfail : Statement .hfail := ⟨fun h => Bool.noConfusion h, fun _ => rfl⟩
theorem hrej : Statement .hrej := ⟨fun h => Bool.noConfusion h, fun _ => rfl⟩
theorem frefopAttach : Statement .frefopAttach := ⟨fun h => Bool.noConfusion h, fun _ => rfl⟩
theorem frefopRead : Statement .frefopRead := ⟨fun h => Bool.noConfusion h, fun _ => rfl⟩
theorem tkpost : Statement .tkpost := ⟨fun h => Bool.noConfusion h, fun _ => rfl⟩
theorem predDecrement : Statement .predDecrement := ⟨fun h => Bool.noConfusion h, fun _ => rfl⟩
theorem ringDescriptorWrite : Statement .ringDescriptorWrite := ⟨fun h => Bool.noConfusion h, fun _ => rfl⟩
theorem dispatchSelect : Statement .dispatchSelect := ⟨fun h => Bool.noConfusion h, fun _ => rfl⟩
theorem contextSwap : Statement .contextSwap := ⟨fun h => Bool.noConfusion h, fun _ => rfl⟩
theorem backgroundSpillDone : Statement .backgroundSpillDone := ⟨fun h => Bool.noConfusion h, fun _ => rfl⟩
theorem debugHaltTake : Statement .debugHaltTake := ⟨fun h => Bool.noConfusion h, fun _ => rfl⟩
theorem asyncRetire : Statement .asyncRetire := ⟨fun h => Bool.noConfusion h, fun _ => rfl⟩
theorem fqcmdResume : Statement .fqcmdResume := ⟨fun h => Bool.noConfusion h, fun _ => rfl⟩
theorem fqcmdKill : Statement .fqcmdKill := ⟨fun h => Bool.noConfusion h, fun _ => rfl⟩
theorem fqcmdComplete : Statement .fqcmdComplete := ⟨fun h => Bool.noConfusion h, fun _ => rfl⟩
theorem faultQueueTimeout : Statement .faultQueueTimeout := ⟨fun h => Bool.noConfusion h, fun _ => rfl⟩
theorem tileTaskIssue : Statement .tileTaskIssue := ⟨fun h => Bool.noConfusion h, fun _ => rfl⟩
theorem tileTaskComplete : Statement .tileTaskComplete := ⟨fun h => Bool.noConfusion h, fun _ => rfl⟩
theorem bankPairSwap : Statement .bankPairSwap := ⟨fun h => Bool.noConfusion h, fun _ => rfl⟩
theorem evalTableRetry : Statement .evalTableRetry := ⟨fun h => Bool.noConfusion h, fun _ => rfl⟩
theorem evalPostRetry : Statement .evalPostRetry := ⟨fun h => Bool.noConfusion h, fun _ => rfl⟩
theorem waiterTableRetry : Statement .waiterTableRetry := ⟨fun h => Bool.noConfusion h, fun _ => rfl⟩
theorem tagwaitRetry : Statement .tagwaitRetry := ⟨fun h => Bool.noConfusion h, fun _ => rfl⟩
theorem engineEvalEnd : Statement .engineEvalEnd := ⟨fun h => Bool.noConfusion h, fun _ => rfl⟩
theorem stashConfigWrite : Statement .stashConfigWrite := ⟨fun h => Bool.noConfusion h, fun _ => rfl⟩
theorem stmapdWrite : Statement .stmapdWrite := ⟨fun h => Bool.noConfusion h, fun _ => rfl⟩
theorem illegalEncoding : Statement .illegalEncoding := ⟨fun h => Bool.noConfusion h, fun h => Bool.noConfusion h⟩
theorem poolPeerRequest : Statement .poolPeerRequest := ⟨fun h => Bool.noConfusion h, fun _ => rfl⟩

end Sys2Proof.Laws.Rows
end

