-- ==== Sys2Proof/Laws/State.lean ====
section
/-! SUPPORT. What each update of the state leaves as it was, field by field, and what it sets. -/

namespace Sys2Proof.Machine

@[simp] theorem State.setCore_turn (s : State) (n : Nat) (c : Core) : (s.setCore n c).turn = s.turn := rfl
@[simp] theorem State.setCore_eng (s : State) (n : Nat) (c : Core) : (s.setCore n c).eng = s.eng := rfl
@[simp] theorem State.setCore_stalls (s : State) (n : Nat) (c : Core) : (s.setCore n c).stalls = s.stalls := rfl
@[simp] theorem State.setCore_beat (s : State) (n : Nat) (c : Core) : (s.setCore n c).beat = s.beat := rfl
@[simp] theorem State.setCore_agenda (s : State) (n : Nat) (c : Core) : (s.setCore n c).agenda = s.agenda := rfl
@[simp] theorem State.setCore_arg (s : State) (n : Nat) (c : Core) : (s.setCore n c).arg = s.arg := rfl
@[simp] theorem State.setCore_fresh (s : State) (n : Nat) (c : Core) : (s.setCore n c).fresh = s.fresh := rfl
@[simp] theorem State.setCore_nextOp (s : State) (n : Nat) (c : Core) : (s.setCore n c).nextOp = s.nextOp := rfl
@[simp] theorem State.setCore_epi (s : State) (n : Nat) (c : Core) : (s.setCore n c).epi = s.epi := rfl
@[simp] theorem State.setCore_cycle (s : State) (n : Nat) (c : Core) : (s.setCore n c).cycle = s.cycle := rfl
@[simp] theorem State.setCore_dies (s : State) (n : Nat) (c : Core) : (s.setCore n c).dies = s.dies := rfl
@[simp] theorem State.setCore_regions (s : State) (n : Nat) (c : Core) : (s.setCore n c).regions = s.regions := rfl
@[simp] theorem State.setCore_fw (s : State) (n : Nat) (c : Core) : (s.setCore n c).fw = s.fw := rfl
@[simp] theorem State.setCore_mem (s : State) (n : Nat) (c : Core) : (s.setCore n c).mem = s.mem := rfl
@[simp] theorem State.setCore_hostMem (s : State) (n : Nat) (c : Core) : (s.setCore n c).hostMem = s.hostMem := rfl
@[simp] theorem State.setCore_tags (s : State) (n : Nat) (c : Core) : (s.setCore n c).tags = s.tags := rfl
@[simp] theorem State.setCore_cellTags (s : State) (n : Nat) (c : Core) : (s.setCore n c).cellTags = s.cellTags := rfl
@[simp] theorem State.setCore_bound (s : State) (n : Nat) (c : Core) : (s.setCore n c).bound = s.bound := rfl
@[simp] theorem State.setCore_poison (s : State) (n : Nat) (c : Core) : (s.setCore n c).poison = s.poison := rfl
@[simp] theorem State.setCore_rewritten (s : State) (n : Nat) (c : Core) : (s.setCore n c).rewritten = s.rewritten := rfl
@[simp] theorem State.setCore_owners (s : State) (n : Nat) (c : Core) : (s.setCore n c).owners = s.owners := rfl
@[simp] theorem State.setCore_classes (s : State) (n : Nat) (c : Core) : (s.setCore n c).classes = s.classes := rfl
@[simp] theorem State.setCore_times (s : State) (n : Nat) (c : Core) : (s.setCore n c).times = s.times := rfl
@[simp] theorem State.setCore_waiters (s : State) (n : Nat) (c : Core) : (s.setCore n c).waiters = s.waiters := rfl
@[simp] theorem State.setCore_pins (s : State) (n : Nat) (c : Core) : (s.setCore n c).pins = s.pins := rfl
@[simp] theorem State.setCore_ops (s : State) (n : Nat) (c : Core) : (s.setCore n c).ops = s.ops := rfl
@[simp] theorem State.setCore_msgs (s : State) (n : Nat) (c : Core) : (s.setCore n c).msgs = s.msgs := rfl
@[simp] theorem State.setCore_wires (s : State) (n : Nat) (c : Core) : (s.setCore n c).wires = s.wires := rfl
@[simp] theorem State.setCore_requests (s : State) (n : Nat) (c : Core) : (s.setCore n c).requests = s.requests := rfl
@[simp] theorem State.setCore_arrived (s : State) (n : Nat) (c : Core) : (s.setCore n c).arrived = s.arrived := rfl
@[simp] theorem State.setCore_bulks (s : State) (n : Nat) (c : Core) : (s.setCore n c).bulks = s.bulks := rfl
@[simp] theorem State.setCore_queries (s : State) (n : Nat) (c : Core) : (s.setCore n c).queries = s.queries := rfl
@[simp] theorem State.setCore_heads (s : State) (n : Nat) (c : Core) : (s.setCore n c).heads = s.heads := rfl
@[simp] theorem State.setCore_barTimes (s : State) (n : Nat) (c : Core) : (s.setCore n c).barTimes = s.barTimes := rfl
@[simp] theorem State.setCore_barSites (s : State) (n : Nat) (c : Core) : (s.setCore n c).barSites = s.barSites := rfl
@[simp] theorem State.setCore_farTime (s : State) (n : Nat) (c : Core) : (s.setCore n c).farTime = s.farTime := rfl
@[simp] theorem State.setCore_idleTick (s : State) (n : Nat) (c : Core) : (s.setCore n c).idleTick = s.idleTick := rfl
@[simp] theorem State.modCore_turn (s : State) (n : Nat) (f : Core → Core) : (s.modCore n f).turn = s.turn := rfl
@[simp] theorem State.modCore_eng (s : State) (n : Nat) (f : Core → Core) : (s.modCore n f).eng = s.eng := rfl
@[simp] theorem State.modCore_stalls (s : State) (n : Nat) (f : Core → Core) : (s.modCore n f).stalls = s.stalls := rfl
@[simp] theorem State.modCore_beat (s : State) (n : Nat) (f : Core → Core) : (s.modCore n f).beat = s.beat := rfl
@[simp] theorem State.modCore_agenda (s : State) (n : Nat) (f : Core → Core) : (s.modCore n f).agenda = s.agenda := rfl
@[simp] theorem State.modCore_arg (s : State) (n : Nat) (f : Core → Core) : (s.modCore n f).arg = s.arg := rfl
@[simp] theorem State.modCore_fresh (s : State) (n : Nat) (f : Core → Core) : (s.modCore n f).fresh = s.fresh := rfl
@[simp] theorem State.modCore_nextOp (s : State) (n : Nat) (f : Core → Core) : (s.modCore n f).nextOp = s.nextOp := rfl
@[simp] theorem State.modCore_epi (s : State) (n : Nat) (f : Core → Core) : (s.modCore n f).epi = s.epi := rfl
@[simp] theorem State.modCore_cycle (s : State) (n : Nat) (f : Core → Core) : (s.modCore n f).cycle = s.cycle := rfl
@[simp] theorem State.modCore_dies (s : State) (n : Nat) (f : Core → Core) : (s.modCore n f).dies = s.dies := rfl
@[simp] theorem State.modCore_regions (s : State) (n : Nat) (f : Core → Core) : (s.modCore n f).regions = s.regions := rfl
@[simp] theorem State.modCore_fw (s : State) (n : Nat) (f : Core → Core) : (s.modCore n f).fw = s.fw := rfl
@[simp] theorem State.modCore_mem (s : State) (n : Nat) (f : Core → Core) : (s.modCore n f).mem = s.mem := rfl
@[simp] theorem State.modCore_hostMem (s : State) (n : Nat) (f : Core → Core) : (s.modCore n f).hostMem = s.hostMem := rfl
@[simp] theorem State.modCore_tags (s : State) (n : Nat) (f : Core → Core) : (s.modCore n f).tags = s.tags := rfl
@[simp] theorem State.modCore_cellTags (s : State) (n : Nat) (f : Core → Core) : (s.modCore n f).cellTags = s.cellTags := rfl
@[simp] theorem State.modCore_bound (s : State) (n : Nat) (f : Core → Core) : (s.modCore n f).bound = s.bound := rfl
@[simp] theorem State.modCore_poison (s : State) (n : Nat) (f : Core → Core) : (s.modCore n f).poison = s.poison := rfl
@[simp] theorem State.modCore_rewritten (s : State) (n : Nat) (f : Core → Core) : (s.modCore n f).rewritten = s.rewritten := rfl
@[simp] theorem State.modCore_owners (s : State) (n : Nat) (f : Core → Core) : (s.modCore n f).owners = s.owners := rfl
@[simp] theorem State.modCore_classes (s : State) (n : Nat) (f : Core → Core) : (s.modCore n f).classes = s.classes := rfl
@[simp] theorem State.modCore_times (s : State) (n : Nat) (f : Core → Core) : (s.modCore n f).times = s.times := rfl
@[simp] theorem State.modCore_waiters (s : State) (n : Nat) (f : Core → Core) : (s.modCore n f).waiters = s.waiters := rfl
@[simp] theorem State.modCore_pins (s : State) (n : Nat) (f : Core → Core) : (s.modCore n f).pins = s.pins := rfl
@[simp] theorem State.modCore_ops (s : State) (n : Nat) (f : Core → Core) : (s.modCore n f).ops = s.ops := rfl
@[simp] theorem State.modCore_msgs (s : State) (n : Nat) (f : Core → Core) : (s.modCore n f).msgs = s.msgs := rfl
@[simp] theorem State.modCore_wires (s : State) (n : Nat) (f : Core → Core) : (s.modCore n f).wires = s.wires := rfl
@[simp] theorem State.modCore_requests (s : State) (n : Nat) (f : Core → Core) : (s.modCore n f).requests = s.requests := rfl
@[simp] theorem State.modCore_arrived (s : State) (n : Nat) (f : Core → Core) : (s.modCore n f).arrived = s.arrived := rfl
@[simp] theorem State.modCore_bulks (s : State) (n : Nat) (f : Core → Core) : (s.modCore n f).bulks = s.bulks := rfl
@[simp] theorem State.modCore_queries (s : State) (n : Nat) (f : Core → Core) : (s.modCore n f).queries = s.queries := rfl
@[simp] theorem State.modCore_heads (s : State) (n : Nat) (f : Core → Core) : (s.modCore n f).heads = s.heads := rfl
@[simp] theorem State.modCore_barTimes (s : State) (n : Nat) (f : Core → Core) : (s.modCore n f).barTimes = s.barTimes := rfl
@[simp] theorem State.modCore_barSites (s : State) (n : Nat) (f : Core → Core) : (s.modCore n f).barSites = s.barSites := rfl
@[simp] theorem State.modCore_farTime (s : State) (n : Nat) (f : Core → Core) : (s.modCore n f).farTime = s.farTime := rfl
@[simp] theorem State.modCore_idleTick (s : State) (n : Nat) (f : Core → Core) : (s.modCore n f).idleTick = s.idleTick := rfl
@[simp] theorem State.setCtx_turn (s : State) (c : Ctx) : (s.setCtx c).turn = s.turn := rfl
@[simp] theorem State.setCtx_eng (s : State) (c : Ctx) : (s.setCtx c).eng = s.eng := rfl
@[simp] theorem State.setCtx_stalls (s : State) (c : Ctx) : (s.setCtx c).stalls = s.stalls := rfl
@[simp] theorem State.setCtx_beat (s : State) (c : Ctx) : (s.setCtx c).beat = s.beat := rfl
@[simp] theorem State.setCtx_agenda (s : State) (c : Ctx) : (s.setCtx c).agenda = s.agenda := rfl
@[simp] theorem State.setCtx_arg (s : State) (c : Ctx) : (s.setCtx c).arg = s.arg := rfl
@[simp] theorem State.setCtx_fresh (s : State) (c : Ctx) : (s.setCtx c).fresh = s.fresh := rfl
@[simp] theorem State.setCtx_nextOp (s : State) (c : Ctx) : (s.setCtx c).nextOp = s.nextOp := rfl
@[simp] theorem State.setCtx_epi (s : State) (c : Ctx) : (s.setCtx c).epi = s.epi := rfl
@[simp] theorem State.setCtx_cycle (s : State) (c : Ctx) : (s.setCtx c).cycle = s.cycle := rfl
@[simp] theorem State.setCtx_dies (s : State) (c : Ctx) : (s.setCtx c).dies = s.dies := rfl
@[simp] theorem State.setCtx_regions (s : State) (c : Ctx) : (s.setCtx c).regions = s.regions := rfl
@[simp] theorem State.setCtx_fw (s : State) (c : Ctx) : (s.setCtx c).fw = s.fw := rfl
@[simp] theorem State.setCtx_mem (s : State) (c : Ctx) : (s.setCtx c).mem = s.mem := rfl
@[simp] theorem State.setCtx_hostMem (s : State) (c : Ctx) : (s.setCtx c).hostMem = s.hostMem := rfl
@[simp] theorem State.setCtx_tags (s : State) (c : Ctx) : (s.setCtx c).tags = s.tags := rfl
@[simp] theorem State.setCtx_cellTags (s : State) (c : Ctx) : (s.setCtx c).cellTags = s.cellTags := rfl
@[simp] theorem State.setCtx_bound (s : State) (c : Ctx) : (s.setCtx c).bound = s.bound := rfl
@[simp] theorem State.setCtx_poison (s : State) (c : Ctx) : (s.setCtx c).poison = s.poison := rfl
@[simp] theorem State.setCtx_rewritten (s : State) (c : Ctx) : (s.setCtx c).rewritten = s.rewritten := rfl
@[simp] theorem State.setCtx_owners (s : State) (c : Ctx) : (s.setCtx c).owners = s.owners := rfl
@[simp] theorem State.setCtx_classes (s : State) (c : Ctx) : (s.setCtx c).classes = s.classes := rfl
@[simp] theorem State.setCtx_times (s : State) (c : Ctx) : (s.setCtx c).times = s.times := rfl
@[simp] theorem State.setCtx_waiters (s : State) (c : Ctx) : (s.setCtx c).waiters = s.waiters := rfl
@[simp] theorem State.setCtx_pins (s : State) (c : Ctx) : (s.setCtx c).pins = s.pins := rfl
@[simp] theorem State.setCtx_ops (s : State) (c : Ctx) : (s.setCtx c).ops = s.ops := rfl
@[simp] theorem State.setCtx_msgs (s : State) (c : Ctx) : (s.setCtx c).msgs = s.msgs := rfl
@[simp] theorem State.setCtx_wires (s : State) (c : Ctx) : (s.setCtx c).wires = s.wires := rfl
@[simp] theorem State.setCtx_requests (s : State) (c : Ctx) : (s.setCtx c).requests = s.requests := rfl
@[simp] theorem State.setCtx_arrived (s : State) (c : Ctx) : (s.setCtx c).arrived = s.arrived := rfl
@[simp] theorem State.setCtx_bulks (s : State) (c : Ctx) : (s.setCtx c).bulks = s.bulks := rfl
@[simp] theorem State.setCtx_queries (s : State) (c : Ctx) : (s.setCtx c).queries = s.queries := rfl
@[simp] theorem State.setCtx_heads (s : State) (c : Ctx) : (s.setCtx c).heads = s.heads := rfl
@[simp] theorem State.setCtx_barTimes (s : State) (c : Ctx) : (s.setCtx c).barTimes = s.barTimes := rfl
@[simp] theorem State.setCtx_barSites (s : State) (c : Ctx) : (s.setCtx c).barSites = s.barSites := rfl
@[simp] theorem State.setCtx_farTime (s : State) (c : Ctx) : (s.setCtx c).farTime = s.farTime := rfl
@[simp] theorem State.setCtx_idleTick (s : State) (c : Ctx) : (s.setCtx c).idleTick = s.idleTick := rfl
@[simp] theorem State.setDie_turn (s : State) (n : Nat) (d : Die) : (s.setDie n d).turn = s.turn := rfl
@[simp] theorem State.setDie_eng (s : State) (n : Nat) (d : Die) : (s.setDie n d).eng = s.eng := rfl
@[simp] theorem State.setDie_stalls (s : State) (n : Nat) (d : Die) : (s.setDie n d).stalls = s.stalls := rfl
@[simp] theorem State.setDie_beat (s : State) (n : Nat) (d : Die) : (s.setDie n d).beat = s.beat := rfl
@[simp] theorem State.setDie_agenda (s : State) (n : Nat) (d : Die) : (s.setDie n d).agenda = s.agenda := rfl
@[simp] theorem State.setDie_arg (s : State) (n : Nat) (d : Die) : (s.setDie n d).arg = s.arg := rfl
@[simp] theorem State.setDie_fresh (s : State) (n : Nat) (d : Die) : (s.setDie n d).fresh = s.fresh := rfl
@[simp] theorem State.setDie_nextOp (s : State) (n : Nat) (d : Die) : (s.setDie n d).nextOp = s.nextOp := rfl
@[simp] theorem State.setDie_epi (s : State) (n : Nat) (d : Die) : (s.setDie n d).epi = s.epi := rfl
@[simp] theorem State.setDie_cycle (s : State) (n : Nat) (d : Die) : (s.setDie n d).cycle = s.cycle := rfl
@[simp] theorem State.setDie_cores (s : State) (n : Nat) (d : Die) : (s.setDie n d).cores = s.cores := rfl
@[simp] theorem State.setDie_regions (s : State) (n : Nat) (d : Die) : (s.setDie n d).regions = s.regions := rfl
@[simp] theorem State.setDie_fw (s : State) (n : Nat) (d : Die) : (s.setDie n d).fw = s.fw := rfl
@[simp] theorem State.setDie_mem (s : State) (n : Nat) (d : Die) : (s.setDie n d).mem = s.mem := rfl
@[simp] theorem State.setDie_hostMem (s : State) (n : Nat) (d : Die) : (s.setDie n d).hostMem = s.hostMem := rfl
@[simp] theorem State.setDie_tags (s : State) (n : Nat) (d : Die) : (s.setDie n d).tags = s.tags := rfl
@[simp] theorem State.setDie_cellTags (s : State) (n : Nat) (d : Die) : (s.setDie n d).cellTags = s.cellTags := rfl
@[simp] theorem State.setDie_bound (s : State) (n : Nat) (d : Die) : (s.setDie n d).bound = s.bound := rfl
@[simp] theorem State.setDie_poison (s : State) (n : Nat) (d : Die) : (s.setDie n d).poison = s.poison := rfl
@[simp] theorem State.setDie_rewritten (s : State) (n : Nat) (d : Die) : (s.setDie n d).rewritten = s.rewritten := rfl
@[simp] theorem State.setDie_owners (s : State) (n : Nat) (d : Die) : (s.setDie n d).owners = s.owners := rfl
@[simp] theorem State.setDie_classes (s : State) (n : Nat) (d : Die) : (s.setDie n d).classes = s.classes := rfl
@[simp] theorem State.setDie_times (s : State) (n : Nat) (d : Die) : (s.setDie n d).times = s.times := rfl
@[simp] theorem State.setDie_waiters (s : State) (n : Nat) (d : Die) : (s.setDie n d).waiters = s.waiters := rfl
@[simp] theorem State.setDie_pins (s : State) (n : Nat) (d : Die) : (s.setDie n d).pins = s.pins := rfl
@[simp] theorem State.setDie_ops (s : State) (n : Nat) (d : Die) : (s.setDie n d).ops = s.ops := rfl
@[simp] theorem State.setDie_msgs (s : State) (n : Nat) (d : Die) : (s.setDie n d).msgs = s.msgs := rfl
@[simp] theorem State.setDie_wires (s : State) (n : Nat) (d : Die) : (s.setDie n d).wires = s.wires := rfl
@[simp] theorem State.setDie_requests (s : State) (n : Nat) (d : Die) : (s.setDie n d).requests = s.requests := rfl
@[simp] theorem State.setDie_arrived (s : State) (n : Nat) (d : Die) : (s.setDie n d).arrived = s.arrived := rfl
@[simp] theorem State.setDie_bulks (s : State) (n : Nat) (d : Die) : (s.setDie n d).bulks = s.bulks := rfl
@[simp] theorem State.setDie_queries (s : State) (n : Nat) (d : Die) : (s.setDie n d).queries = s.queries := rfl
@[simp] theorem State.setDie_heads (s : State) (n : Nat) (d : Die) : (s.setDie n d).heads = s.heads := rfl
@[simp] theorem State.setDie_barTimes (s : State) (n : Nat) (d : Die) : (s.setDie n d).barTimes = s.barTimes := rfl
@[simp] theorem State.setDie_barSites (s : State) (n : Nat) (d : Die) : (s.setDie n d).barSites = s.barSites := rfl
@[simp] theorem State.setDie_farTime (s : State) (n : Nat) (d : Die) : (s.setDie n d).farTime = s.farTime := rfl
@[simp] theorem State.setDie_idleTick (s : State) (n : Nat) (d : Die) : (s.setDie n d).idleTick = s.idleTick := rfl
@[simp] theorem State.modDie_turn (s : State) (n : Nat) (f : Die → Die) : (s.modDie n f).turn = s.turn := rfl
@[simp] theorem State.modDie_eng (s : State) (n : Nat) (f : Die → Die) : (s.modDie n f).eng = s.eng := rfl
@[simp] theorem State.modDie_stalls (s : State) (n : Nat) (f : Die → Die) : (s.modDie n f).stalls = s.stalls := rfl
@[simp] theorem State.modDie_beat (s : State) (n : Nat) (f : Die → Die) : (s.modDie n f).beat = s.beat := rfl
@[simp] theorem State.modDie_agenda (s : State) (n : Nat) (f : Die → Die) : (s.modDie n f).agenda = s.agenda := rfl
@[simp] theorem State.modDie_arg (s : State) (n : Nat) (f : Die → Die) : (s.modDie n f).arg = s.arg := rfl
@[simp] theorem State.modDie_fresh (s : State) (n : Nat) (f : Die → Die) : (s.modDie n f).fresh = s.fresh := rfl
@[simp] theorem State.modDie_nextOp (s : State) (n : Nat) (f : Die → Die) : (s.modDie n f).nextOp = s.nextOp := rfl
@[simp] theorem State.modDie_epi (s : State) (n : Nat) (f : Die → Die) : (s.modDie n f).epi = s.epi := rfl
@[simp] theorem State.modDie_cycle (s : State) (n : Nat) (f : Die → Die) : (s.modDie n f).cycle = s.cycle := rfl
@[simp] theorem State.modDie_cores (s : State) (n : Nat) (f : Die → Die) : (s.modDie n f).cores = s.cores := rfl
@[simp] theorem State.modDie_regions (s : State) (n : Nat) (f : Die → Die) : (s.modDie n f).regions = s.regions := rfl
@[simp] theorem State.modDie_fw (s : State) (n : Nat) (f : Die → Die) : (s.modDie n f).fw = s.fw := rfl
@[simp] theorem State.modDie_mem (s : State) (n : Nat) (f : Die → Die) : (s.modDie n f).mem = s.mem := rfl
@[simp] theorem State.modDie_hostMem (s : State) (n : Nat) (f : Die → Die) : (s.modDie n f).hostMem = s.hostMem := rfl
@[simp] theorem State.modDie_tags (s : State) (n : Nat) (f : Die → Die) : (s.modDie n f).tags = s.tags := rfl
@[simp] theorem State.modDie_cellTags (s : State) (n : Nat) (f : Die → Die) : (s.modDie n f).cellTags = s.cellTags := rfl
@[simp] theorem State.modDie_bound (s : State) (n : Nat) (f : Die → Die) : (s.modDie n f).bound = s.bound := rfl
@[simp] theorem State.modDie_poison (s : State) (n : Nat) (f : Die → Die) : (s.modDie n f).poison = s.poison := rfl
@[simp] theorem State.modDie_rewritten (s : State) (n : Nat) (f : Die → Die) : (s.modDie n f).rewritten = s.rewritten := rfl
@[simp] theorem State.modDie_owners (s : State) (n : Nat) (f : Die → Die) : (s.modDie n f).owners = s.owners := rfl
@[simp] theorem State.modDie_classes (s : State) (n : Nat) (f : Die → Die) : (s.modDie n f).classes = s.classes := rfl
@[simp] theorem State.modDie_times (s : State) (n : Nat) (f : Die → Die) : (s.modDie n f).times = s.times := rfl
@[simp] theorem State.modDie_waiters (s : State) (n : Nat) (f : Die → Die) : (s.modDie n f).waiters = s.waiters := rfl
@[simp] theorem State.modDie_pins (s : State) (n : Nat) (f : Die → Die) : (s.modDie n f).pins = s.pins := rfl
@[simp] theorem State.modDie_ops (s : State) (n : Nat) (f : Die → Die) : (s.modDie n f).ops = s.ops := rfl
@[simp] theorem State.modDie_msgs (s : State) (n : Nat) (f : Die → Die) : (s.modDie n f).msgs = s.msgs := rfl
@[simp] theorem State.modDie_wires (s : State) (n : Nat) (f : Die → Die) : (s.modDie n f).wires = s.wires := rfl
@[simp] theorem State.modDie_requests (s : State) (n : Nat) (f : Die → Die) : (s.modDie n f).requests = s.requests := rfl
@[simp] theorem State.modDie_arrived (s : State) (n : Nat) (f : Die → Die) : (s.modDie n f).arrived = s.arrived := rfl
@[simp] theorem State.modDie_bulks (s : State) (n : Nat) (f : Die → Die) : (s.modDie n f).bulks = s.bulks := rfl
@[simp] theorem State.modDie_queries (s : State) (n : Nat) (f : Die → Die) : (s.modDie n f).queries = s.queries := rfl
@[simp] theorem State.modDie_heads (s : State) (n : Nat) (f : Die → Die) : (s.modDie n f).heads = s.heads := rfl
@[simp] theorem State.modDie_barTimes (s : State) (n : Nat) (f : Die → Die) : (s.modDie n f).barTimes = s.barTimes := rfl
@[simp] theorem State.modDie_barSites (s : State) (n : Nat) (f : Die → Die) : (s.modDie n f).barSites = s.barSites := rfl
@[simp] theorem State.modDie_farTime (s : State) (n : Nat) (f : Die → Die) : (s.modDie n f).farTime = s.farTime := rfl
@[simp] theorem State.modDie_idleTick (s : State) (n : Nat) (f : Die → Die) : (s.modDie n f).idleTick = s.idleTick := rfl
@[simp] theorem State.modRegion_turn (s : State) (n : Nat) (f : Region → Region) : (s.modRegion n f).turn = s.turn := rfl
@[simp] theorem State.modRegion_eng (s : State) (n : Nat) (f : Region → Region) : (s.modRegion n f).eng = s.eng := rfl
@[simp] theorem State.modRegion_stalls (s : State) (n : Nat) (f : Region → Region) : (s.modRegion n f).stalls = s.stalls := rfl
@[simp] theorem State.modRegion_beat (s : State) (n : Nat) (f : Region → Region) : (s.modRegion n f).beat = s.beat := rfl
@[simp] theorem State.modRegion_agenda (s : State) (n : Nat) (f : Region → Region) : (s.modRegion n f).agenda = s.agenda := rfl
@[simp] theorem State.modRegion_arg (s : State) (n : Nat) (f : Region → Region) : (s.modRegion n f).arg = s.arg := rfl
@[simp] theorem State.modRegion_fresh (s : State) (n : Nat) (f : Region → Region) : (s.modRegion n f).fresh = s.fresh := rfl
@[simp] theorem State.modRegion_nextOp (s : State) (n : Nat) (f : Region → Region) : (s.modRegion n f).nextOp = s.nextOp := rfl
@[simp] theorem State.modRegion_epi (s : State) (n : Nat) (f : Region → Region) : (s.modRegion n f).epi = s.epi := rfl
@[simp] theorem State.modRegion_cycle (s : State) (n : Nat) (f : Region → Region) : (s.modRegion n f).cycle = s.cycle := rfl
@[simp] theorem State.modRegion_cores (s : State) (n : Nat) (f : Region → Region) : (s.modRegion n f).cores = s.cores := rfl
@[simp] theorem State.modRegion_dies (s : State) (n : Nat) (f : Region → Region) : (s.modRegion n f).dies = s.dies := rfl
@[simp] theorem State.modRegion_fw (s : State) (n : Nat) (f : Region → Region) : (s.modRegion n f).fw = s.fw := rfl
@[simp] theorem State.modRegion_mem (s : State) (n : Nat) (f : Region → Region) : (s.modRegion n f).mem = s.mem := rfl
@[simp] theorem State.modRegion_hostMem (s : State) (n : Nat) (f : Region → Region) : (s.modRegion n f).hostMem = s.hostMem := rfl
@[simp] theorem State.modRegion_tags (s : State) (n : Nat) (f : Region → Region) : (s.modRegion n f).tags = s.tags := rfl
@[simp] theorem State.modRegion_cellTags (s : State) (n : Nat) (f : Region → Region) : (s.modRegion n f).cellTags = s.cellTags := rfl
@[simp] theorem State.modRegion_bound (s : State) (n : Nat) (f : Region → Region) : (s.modRegion n f).bound = s.bound := rfl
@[simp] theorem State.modRegion_poison (s : State) (n : Nat) (f : Region → Region) : (s.modRegion n f).poison = s.poison := rfl
@[simp] theorem State.modRegion_rewritten (s : State) (n : Nat) (f : Region → Region) : (s.modRegion n f).rewritten = s.rewritten := rfl
@[simp] theorem State.modRegion_owners (s : State) (n : Nat) (f : Region → Region) : (s.modRegion n f).owners = s.owners := rfl
@[simp] theorem State.modRegion_classes (s : State) (n : Nat) (f : Region → Region) : (s.modRegion n f).classes = s.classes := rfl
@[simp] theorem State.modRegion_times (s : State) (n : Nat) (f : Region → Region) : (s.modRegion n f).times = s.times := rfl
@[simp] theorem State.modRegion_waiters (s : State) (n : Nat) (f : Region → Region) : (s.modRegion n f).waiters = s.waiters := rfl
@[simp] theorem State.modRegion_pins (s : State) (n : Nat) (f : Region → Region) : (s.modRegion n f).pins = s.pins := rfl
@[simp] theorem State.modRegion_ops (s : State) (n : Nat) (f : Region → Region) : (s.modRegion n f).ops = s.ops := rfl
@[simp] theorem State.modRegion_msgs (s : State) (n : Nat) (f : Region → Region) : (s.modRegion n f).msgs = s.msgs := rfl
@[simp] theorem State.modRegion_wires (s : State) (n : Nat) (f : Region → Region) : (s.modRegion n f).wires = s.wires := rfl
@[simp] theorem State.modRegion_requests (s : State) (n : Nat) (f : Region → Region) : (s.modRegion n f).requests = s.requests := rfl
@[simp] theorem State.modRegion_arrived (s : State) (n : Nat) (f : Region → Region) : (s.modRegion n f).arrived = s.arrived := rfl
@[simp] theorem State.modRegion_bulks (s : State) (n : Nat) (f : Region → Region) : (s.modRegion n f).bulks = s.bulks := rfl
@[simp] theorem State.modRegion_queries (s : State) (n : Nat) (f : Region → Region) : (s.modRegion n f).queries = s.queries := rfl
@[simp] theorem State.modRegion_heads (s : State) (n : Nat) (f : Region → Region) : (s.modRegion n f).heads = s.heads := rfl
@[simp] theorem State.modRegion_barTimes (s : State) (n : Nat) (f : Region → Region) : (s.modRegion n f).barTimes = s.barTimes := rfl
@[simp] theorem State.modRegion_barSites (s : State) (n : Nat) (f : Region → Region) : (s.modRegion n f).barSites = s.barSites := rfl
@[simp] theorem State.modRegion_farTime (s : State) (n : Nat) (f : Region → Region) : (s.modRegion n f).farTime = s.farTime := rfl
@[simp] theorem State.modRegion_idleTick (s : State) (n : Nat) (f : Region → Region) : (s.modRegion n f).idleTick = s.idleTick := rfl
@[simp] theorem State.modFw_turn (s : State) (f : Firmware → Firmware) : (s.modFw f).turn = s.turn := rfl
@[simp] theorem State.modFw_eng (s : State) (f : Firmware → Firmware) : (s.modFw f).eng = s.eng := rfl
@[simp] theorem State.modFw_stalls (s : State) (f : Firmware → Firmware) : (s.modFw f).stalls = s.stalls := rfl
@[simp] theorem State.modFw_beat (s : State) (f : Firmware → Firmware) : (s.modFw f).beat = s.beat := rfl
@[simp] theorem State.modFw_agenda (s : State) (f : Firmware → Firmware) : (s.modFw f).agenda = s.agenda := rfl
@[simp] theorem State.modFw_arg (s : State) (f : Firmware → Firmware) : (s.modFw f).arg = s.arg := rfl
@[simp] theorem State.modFw_fresh (s : State) (f : Firmware → Firmware) : (s.modFw f).fresh = s.fresh := rfl
@[simp] theorem State.modFw_nextOp (s : State) (f : Firmware → Firmware) : (s.modFw f).nextOp = s.nextOp := rfl
@[simp] theorem State.modFw_epi (s : State) (f : Firmware → Firmware) : (s.modFw f).epi = s.epi := rfl
@[simp] theorem State.modFw_cycle (s : State) (f : Firmware → Firmware) : (s.modFw f).cycle = s.cycle := rfl
@[simp] theorem State.modFw_cores (s : State) (f : Firmware → Firmware) : (s.modFw f).cores = s.cores := rfl
@[simp] theorem State.modFw_dies (s : State) (f : Firmware → Firmware) : (s.modFw f).dies = s.dies := rfl
@[simp] theorem State.modFw_regions (s : State) (f : Firmware → Firmware) : (s.modFw f).regions = s.regions := rfl
@[simp] theorem State.modFw_mem (s : State) (f : Firmware → Firmware) : (s.modFw f).mem = s.mem := rfl
@[simp] theorem State.modFw_hostMem (s : State) (f : Firmware → Firmware) : (s.modFw f).hostMem = s.hostMem := rfl
@[simp] theorem State.modFw_tags (s : State) (f : Firmware → Firmware) : (s.modFw f).tags = s.tags := rfl
@[simp] theorem State.modFw_cellTags (s : State) (f : Firmware → Firmware) : (s.modFw f).cellTags = s.cellTags := rfl
@[simp] theorem State.modFw_bound (s : State) (f : Firmware → Firmware) : (s.modFw f).bound = s.bound := rfl
@[simp] theorem State.modFw_poison (s : State) (f : Firmware → Firmware) : (s.modFw f).poison = s.poison := rfl
@[simp] theorem State.modFw_rewritten (s : State) (f : Firmware → Firmware) : (s.modFw f).rewritten = s.rewritten := rfl
@[simp] theorem State.modFw_owners (s : State) (f : Firmware → Firmware) : (s.modFw f).owners = s.owners := rfl
@[simp] theorem State.modFw_classes (s : State) (f : Firmware → Firmware) : (s.modFw f).classes = s.classes := rfl
@[simp] theorem State.modFw_times (s : State) (f : Firmware → Firmware) : (s.modFw f).times = s.times := rfl
@[simp] theorem State.modFw_waiters (s : State) (f : Firmware → Firmware) : (s.modFw f).waiters = s.waiters := rfl
@[simp] theorem State.modFw_pins (s : State) (f : Firmware → Firmware) : (s.modFw f).pins = s.pins := rfl
@[simp] theorem State.modFw_ops (s : State) (f : Firmware → Firmware) : (s.modFw f).ops = s.ops := rfl
@[simp] theorem State.modFw_msgs (s : State) (f : Firmware → Firmware) : (s.modFw f).msgs = s.msgs := rfl
@[simp] theorem State.modFw_wires (s : State) (f : Firmware → Firmware) : (s.modFw f).wires = s.wires := rfl
@[simp] theorem State.modFw_requests (s : State) (f : Firmware → Firmware) : (s.modFw f).requests = s.requests := rfl
@[simp] theorem State.modFw_arrived (s : State) (f : Firmware → Firmware) : (s.modFw f).arrived = s.arrived := rfl
@[simp] theorem State.modFw_bulks (s : State) (f : Firmware → Firmware) : (s.modFw f).bulks = s.bulks := rfl
@[simp] theorem State.modFw_queries (s : State) (f : Firmware → Firmware) : (s.modFw f).queries = s.queries := rfl
@[simp] theorem State.modFw_heads (s : State) (f : Firmware → Firmware) : (s.modFw f).heads = s.heads := rfl
@[simp] theorem State.modFw_barTimes (s : State) (f : Firmware → Firmware) : (s.modFw f).barTimes = s.barTimes := rfl
@[simp] theorem State.modFw_barSites (s : State) (f : Firmware → Firmware) : (s.modFw f).barSites = s.barSites := rfl
@[simp] theorem State.modFw_farTime (s : State) (f : Firmware → Firmware) : (s.modFw f).farTime = s.farTime := rfl
@[simp] theorem State.modFw_idleTick (s : State) (f : Firmware → Firmware) : (s.modFw f).idleTick = s.idleTick := rfl
@[simp] theorem State.setTag_turn (s : State) (a : Nat) (t : BitVec 2) : (s.setTag a t).turn = s.turn := rfl
@[simp] theorem State.setTag_eng (s : State) (a : Nat) (t : BitVec 2) : (s.setTag a t).eng = s.eng := rfl
@[simp] theorem State.setTag_stalls (s : State) (a : Nat) (t : BitVec 2) : (s.setTag a t).stalls = s.stalls := rfl
@[simp] theorem State.setTag_beat (s : State) (a : Nat) (t : BitVec 2) : (s.setTag a t).beat = s.beat := rfl
@[simp] theorem State.setTag_agenda (s : State) (a : Nat) (t : BitVec 2) : (s.setTag a t).agenda = s.agenda := rfl
@[simp] theorem State.setTag_arg (s : State) (a : Nat) (t : BitVec 2) : (s.setTag a t).arg = s.arg := rfl
@[simp] theorem State.setTag_fresh (s : State) (a : Nat) (t : BitVec 2) : (s.setTag a t).fresh = s.fresh := rfl
@[simp] theorem State.setTag_nextOp (s : State) (a : Nat) (t : BitVec 2) : (s.setTag a t).nextOp = s.nextOp := rfl
@[simp] theorem State.setTag_epi (s : State) (a : Nat) (t : BitVec 2) : (s.setTag a t).epi = s.epi := rfl
@[simp] theorem State.setTag_cycle (s : State) (a : Nat) (t : BitVec 2) : (s.setTag a t).cycle = s.cycle := rfl
@[simp] theorem State.setTag_cores (s : State) (a : Nat) (t : BitVec 2) : (s.setTag a t).cores = s.cores := rfl
@[simp] theorem State.setTag_dies (s : State) (a : Nat) (t : BitVec 2) : (s.setTag a t).dies = s.dies := rfl
@[simp] theorem State.setTag_regions (s : State) (a : Nat) (t : BitVec 2) : (s.setTag a t).regions = s.regions := rfl
@[simp] theorem State.setTag_fw (s : State) (a : Nat) (t : BitVec 2) : (s.setTag a t).fw = s.fw := rfl
@[simp] theorem State.setTag_mem (s : State) (a : Nat) (t : BitVec 2) : (s.setTag a t).mem = s.mem := rfl
@[simp] theorem State.setTag_hostMem (s : State) (a : Nat) (t : BitVec 2) : (s.setTag a t).hostMem = s.hostMem := rfl
@[simp] theorem State.setTag_cellTags (s : State) (a : Nat) (t : BitVec 2) : (s.setTag a t).cellTags = s.cellTags := rfl
@[simp] theorem State.setTag_bound (s : State) (a : Nat) (t : BitVec 2) : (s.setTag a t).bound = s.bound := rfl
@[simp] theorem State.setTag_poison (s : State) (a : Nat) (t : BitVec 2) : (s.setTag a t).poison = s.poison := rfl
@[simp] theorem State.setTag_rewritten (s : State) (a : Nat) (t : BitVec 2) : (s.setTag a t).rewritten = s.rewritten := rfl
@[simp] theorem State.setTag_owners (s : State) (a : Nat) (t : BitVec 2) : (s.setTag a t).owners = s.owners := rfl
@[simp] theorem State.setTag_classes (s : State) (a : Nat) (t : BitVec 2) : (s.setTag a t).classes = s.classes := rfl
@[simp] theorem State.setTag_times (s : State) (a : Nat) (t : BitVec 2) : (s.setTag a t).times = s.times := rfl
@[simp] theorem State.setTag_waiters (s : State) (a : Nat) (t : BitVec 2) : (s.setTag a t).waiters = s.waiters := rfl
@[simp] theorem State.setTag_pins (s : State) (a : Nat) (t : BitVec 2) : (s.setTag a t).pins = s.pins := rfl
@[simp] theorem State.setTag_ops (s : State) (a : Nat) (t : BitVec 2) : (s.setTag a t).ops = s.ops := rfl
@[simp] theorem State.setTag_msgs (s : State) (a : Nat) (t : BitVec 2) : (s.setTag a t).msgs = s.msgs := rfl
@[simp] theorem State.setTag_wires (s : State) (a : Nat) (t : BitVec 2) : (s.setTag a t).wires = s.wires := rfl
@[simp] theorem State.setTag_requests (s : State) (a : Nat) (t : BitVec 2) : (s.setTag a t).requests = s.requests := rfl
@[simp] theorem State.setTag_arrived (s : State) (a : Nat) (t : BitVec 2) : (s.setTag a t).arrived = s.arrived := rfl
@[simp] theorem State.setTag_bulks (s : State) (a : Nat) (t : BitVec 2) : (s.setTag a t).bulks = s.bulks := rfl
@[simp] theorem State.setTag_queries (s : State) (a : Nat) (t : BitVec 2) : (s.setTag a t).queries = s.queries := rfl
@[simp] theorem State.setTag_heads (s : State) (a : Nat) (t : BitVec 2) : (s.setTag a t).heads = s.heads := rfl
@[simp] theorem State.setTag_barTimes (s : State) (a : Nat) (t : BitVec 2) : (s.setTag a t).barTimes = s.barTimes := rfl
@[simp] theorem State.setTag_barSites (s : State) (a : Nat) (t : BitVec 2) : (s.setTag a t).barSites = s.barSites := rfl
@[simp] theorem State.setTag_farTime (s : State) (a : Nat) (t : BitVec 2) : (s.setTag a t).farTime = s.farTime := rfl
@[simp] theorem State.setTag_idleTick (s : State) (a : Nat) (t : BitVec 2) : (s.setTag a t).idleTick = s.idleTick := rfl
@[simp] theorem State.setCellTag_turn (s : State) (a : Nat) (t : BitVec 2) : (s.setCellTag a t).turn = s.turn := rfl
@[simp] theorem State.setCellTag_eng (s : State) (a : Nat) (t : BitVec 2) : (s.setCellTag a t).eng = s.eng := rfl
@[simp] theorem State.setCellTag_stalls (s : State) (a : Nat) (t : BitVec 2) : (s.setCellTag a t).stalls = s.stalls := rfl
@[simp] theorem State.setCellTag_beat (s : State) (a : Nat) (t : BitVec 2) : (s.setCellTag a t).beat = s.beat := rfl
@[simp] theorem State.setCellTag_agenda (s : State) (a : Nat) (t : BitVec 2) : (s.setCellTag a t).agenda = s.agenda := rfl
@[simp] theorem State.setCellTag_arg (s : State) (a : Nat) (t : BitVec 2) : (s.setCellTag a t).arg = s.arg := rfl
@[simp] theorem State.setCellTag_fresh (s : State) (a : Nat) (t : BitVec 2) : (s.setCellTag a t).fresh = s.fresh := rfl
@[simp] theorem State.setCellTag_nextOp (s : State) (a : Nat) (t : BitVec 2) : (s.setCellTag a t).nextOp = s.nextOp := rfl
@[simp] theorem State.setCellTag_epi (s : State) (a : Nat) (t : BitVec 2) : (s.setCellTag a t).epi = s.epi := rfl
@[simp] theorem State.setCellTag_cycle (s : State) (a : Nat) (t : BitVec 2) : (s.setCellTag a t).cycle = s.cycle := rfl
@[simp] theorem State.setCellTag_cores (s : State) (a : Nat) (t : BitVec 2) : (s.setCellTag a t).cores = s.cores := rfl
@[simp] theorem State.setCellTag_dies (s : State) (a : Nat) (t : BitVec 2) : (s.setCellTag a t).dies = s.dies := rfl
@[simp] theorem State.setCellTag_regions (s : State) (a : Nat) (t : BitVec 2) : (s.setCellTag a t).regions = s.regions := rfl
@[simp] theorem State.setCellTag_fw (s : State) (a : Nat) (t : BitVec 2) : (s.setCellTag a t).fw = s.fw := rfl
@[simp] theorem State.setCellTag_mem (s : State) (a : Nat) (t : BitVec 2) : (s.setCellTag a t).mem = s.mem := rfl
@[simp] theorem State.setCellTag_hostMem (s : State) (a : Nat) (t : BitVec 2) : (s.setCellTag a t).hostMem = s.hostMem := rfl
@[simp] theorem State.setCellTag_tags (s : State) (a : Nat) (t : BitVec 2) : (s.setCellTag a t).tags = s.tags := rfl
@[simp] theorem State.setCellTag_bound (s : State) (a : Nat) (t : BitVec 2) : (s.setCellTag a t).bound = s.bound := rfl
@[simp] theorem State.setCellTag_poison (s : State) (a : Nat) (t : BitVec 2) : (s.setCellTag a t).poison = s.poison := rfl
@[simp] theorem State.setCellTag_rewritten (s : State) (a : Nat) (t : BitVec 2) : (s.setCellTag a t).rewritten = s.rewritten := rfl
@[simp] theorem State.setCellTag_owners (s : State) (a : Nat) (t : BitVec 2) : (s.setCellTag a t).owners = s.owners := rfl
@[simp] theorem State.setCellTag_classes (s : State) (a : Nat) (t : BitVec 2) : (s.setCellTag a t).classes = s.classes := rfl
@[simp] theorem State.setCellTag_times (s : State) (a : Nat) (t : BitVec 2) : (s.setCellTag a t).times = s.times := rfl
@[simp] theorem State.setCellTag_waiters (s : State) (a : Nat) (t : BitVec 2) : (s.setCellTag a t).waiters = s.waiters := rfl
@[simp] theorem State.setCellTag_pins (s : State) (a : Nat) (t : BitVec 2) : (s.setCellTag a t).pins = s.pins := rfl
@[simp] theorem State.setCellTag_ops (s : State) (a : Nat) (t : BitVec 2) : (s.setCellTag a t).ops = s.ops := rfl
@[simp] theorem State.setCellTag_msgs (s : State) (a : Nat) (t : BitVec 2) : (s.setCellTag a t).msgs = s.msgs := rfl
@[simp] theorem State.setCellTag_wires (s : State) (a : Nat) (t : BitVec 2) : (s.setCellTag a t).wires = s.wires := rfl
@[simp] theorem State.setCellTag_requests (s : State) (a : Nat) (t : BitVec 2) : (s.setCellTag a t).requests = s.requests := rfl
@[simp] theorem State.setCellTag_arrived (s : State) (a : Nat) (t : BitVec 2) : (s.setCellTag a t).arrived = s.arrived := rfl
@[simp] theorem State.setCellTag_bulks (s : State) (a : Nat) (t : BitVec 2) : (s.setCellTag a t).bulks = s.bulks := rfl
@[simp] theorem State.setCellTag_queries (s : State) (a : Nat) (t : BitVec 2) : (s.setCellTag a t).queries = s.queries := rfl
@[simp] theorem State.setCellTag_heads (s : State) (a : Nat) (t : BitVec 2) : (s.setCellTag a t).heads = s.heads := rfl
@[simp] theorem State.setCellTag_barTimes (s : State) (a : Nat) (t : BitVec 2) : (s.setCellTag a t).barTimes = s.barTimes := rfl
@[simp] theorem State.setCellTag_barSites (s : State) (a : Nat) (t : BitVec 2) : (s.setCellTag a t).barSites = s.barSites := rfl
@[simp] theorem State.setCellTag_farTime (s : State) (a : Nat) (t : BitVec 2) : (s.setCellTag a t).farTime = s.farTime := rfl
@[simp] theorem State.setCellTag_idleTick (s : State) (a : Nat) (t : BitVec 2) : (s.setCellTag a t).idleTick = s.idleTick := rfl
@[simp] theorem State.setPoison_turn (s : State) (a : Nat) (b : Bool) : (s.setPoison a b).turn = s.turn := rfl
@[simp] theorem State.setPoison_eng (s : State) (a : Nat) (b : Bool) : (s.setPoison a b).eng = s.eng := rfl
@[simp] theorem State.setPoison_stalls (s : State) (a : Nat) (b : Bool) : (s.setPoison a b).stalls = s.stalls := rfl
@[simp] theorem State.setPoison_beat (s : State) (a : Nat) (b : Bool) : (s.setPoison a b).beat = s.beat := rfl
@[simp] theorem State.setPoison_agenda (s : State) (a : Nat) (b : Bool) : (s.setPoison a b).agenda = s.agenda := rfl
@[simp] theorem State.setPoison_arg (s : State) (a : Nat) (b : Bool) : (s.setPoison a b).arg = s.arg := rfl
@[simp] theorem State.setPoison_fresh (s : State) (a : Nat) (b : Bool) : (s.setPoison a b).fresh = s.fresh := rfl
@[simp] theorem State.setPoison_nextOp (s : State) (a : Nat) (b : Bool) : (s.setPoison a b).nextOp = s.nextOp := rfl
@[simp] theorem State.setPoison_epi (s : State) (a : Nat) (b : Bool) : (s.setPoison a b).epi = s.epi := rfl
@[simp] theorem State.setPoison_cycle (s : State) (a : Nat) (b : Bool) : (s.setPoison a b).cycle = s.cycle := rfl
@[simp] theorem State.setPoison_cores (s : State) (a : Nat) (b : Bool) : (s.setPoison a b).cores = s.cores := rfl
@[simp] theorem State.setPoison_dies (s : State) (a : Nat) (b : Bool) : (s.setPoison a b).dies = s.dies := rfl
@[simp] theorem State.setPoison_regions (s : State) (a : Nat) (b : Bool) : (s.setPoison a b).regions = s.regions := rfl
@[simp] theorem State.setPoison_fw (s : State) (a : Nat) (b : Bool) : (s.setPoison a b).fw = s.fw := rfl
@[simp] theorem State.setPoison_mem (s : State) (a : Nat) (b : Bool) : (s.setPoison a b).mem = s.mem := rfl
@[simp] theorem State.setPoison_hostMem (s : State) (a : Nat) (b : Bool) : (s.setPoison a b).hostMem = s.hostMem := rfl
@[simp] theorem State.setPoison_tags (s : State) (a : Nat) (b : Bool) : (s.setPoison a b).tags = s.tags := rfl
@[simp] theorem State.setPoison_cellTags (s : State) (a : Nat) (b : Bool) : (s.setPoison a b).cellTags = s.cellTags := rfl
@[simp] theorem State.setPoison_bound (s : State) (a : Nat) (b : Bool) : (s.setPoison a b).bound = s.bound := rfl
@[simp] theorem State.setPoison_owners (s : State) (a : Nat) (b : Bool) : (s.setPoison a b).owners = s.owners := rfl
@[simp] theorem State.setPoison_classes (s : State) (a : Nat) (b : Bool) : (s.setPoison a b).classes = s.classes := rfl
@[simp] theorem State.setPoison_times (s : State) (a : Nat) (b : Bool) : (s.setPoison a b).times = s.times := rfl
@[simp] theorem State.setPoison_waiters (s : State) (a : Nat) (b : Bool) : (s.setPoison a b).waiters = s.waiters := rfl
@[simp] theorem State.setPoison_pins (s : State) (a : Nat) (b : Bool) : (s.setPoison a b).pins = s.pins := rfl
@[simp] theorem State.setPoison_ops (s : State) (a : Nat) (b : Bool) : (s.setPoison a b).ops = s.ops := rfl
@[simp] theorem State.setPoison_msgs (s : State) (a : Nat) (b : Bool) : (s.setPoison a b).msgs = s.msgs := rfl
@[simp] theorem State.setPoison_wires (s : State) (a : Nat) (b : Bool) : (s.setPoison a b).wires = s.wires := rfl
@[simp] theorem State.setPoison_requests (s : State) (a : Nat) (b : Bool) : (s.setPoison a b).requests = s.requests := rfl
@[simp] theorem State.setPoison_arrived (s : State) (a : Nat) (b : Bool) : (s.setPoison a b).arrived = s.arrived := rfl
@[simp] theorem State.setPoison_bulks (s : State) (a : Nat) (b : Bool) : (s.setPoison a b).bulks = s.bulks := rfl
@[simp] theorem State.setPoison_queries (s : State) (a : Nat) (b : Bool) : (s.setPoison a b).queries = s.queries := rfl
@[simp] theorem State.setPoison_heads (s : State) (a : Nat) (b : Bool) : (s.setPoison a b).heads = s.heads := rfl
@[simp] theorem State.setPoison_barTimes (s : State) (a : Nat) (b : Bool) : (s.setPoison a b).barTimes = s.barTimes := rfl
@[simp] theorem State.setPoison_barSites (s : State) (a : Nat) (b : Bool) : (s.setPoison a b).barSites = s.barSites := rfl
@[simp] theorem State.setPoison_farTime (s : State) (a : Nat) (b : Bool) : (s.setPoison a b).farTime = s.farTime := rfl
@[simp] theorem State.setPoison_idleTick (s : State) (a : Nat) (b : Bool) : (s.setPoison a b).idleTick = s.idleTick := rfl
@[simp] theorem Ctx.setEng_x (c : Ctx) (e : Eng) (g : EngCtx) : (c.setEng e g).x = c.x := by cases e <;> rfl
@[simp] theorem Ctx.setEng_v (c : Ctx) (e : Eng) (g : EngCtx) : (c.setEng e g).v = c.v := by cases e <;> rfl
@[simp] theorem Ctx.setEng_p (c : Ctx) (e : Eng) (g : EngCtx) : (c.setEng e g).p = c.p := by cases e <;> rfl
@[simp] theorem Ctx.setEng_vallot (c : Ctx) (e : Eng) (g : EngCtx) : (c.setEng e g).vallot = c.vallot := by cases e <;> rfl
@[simp] theorem Ctx.setEng_recipes (c : Ctx) (e : Eng) (g : EngCtx) : (c.setEng e g).recipes = c.recipes := by cases e <;> rfl
@[simp] theorem Ctx.setEng_streams (c : Ctx) (e : Eng) (g : EngCtx) : (c.setEng e g).streams = c.streams := by cases e <;> rfl
@[simp] theorem Ctx.setEng_alog (c : Ctx) (e : Eng) (g : EngCtx) : (c.setEng e g).alog = c.alog := by cases e <;> rfl
@[simp] theorem Ctx.setEng_flags (c : Ctx) (e : Eng) (g : EngCtx) : (c.setEng e g).flags = c.flags := by cases e <;> rfl
@[simp] theorem Ctx.setEng_trapen (c : Ctx) (e : Eng) (g : EngCtx) : (c.setEng e g).trapen = c.trapen := by cases e <;> rfl
@[simp] theorem Ctx.setEng_rmode (c : Ctx) (e : Eng) (g : EngCtx) : (c.setEng e g).rmode = c.rmode := by cases e <;> rfl
@[simp] theorem Ctx.setEng_srseed (c : Ctx) (e : Eng) (g : EngCtx) : (c.setEng e g).srseed = c.srseed := by cases e <;> rfl
@[simp] theorem Ctx.setEng_srctr (c : Ctx) (e : Eng) (g : EngCtx) : (c.setEng e g).srctr = c.srctr := by cases e <;> rfl
@[simp] theorem Ctx.setEng_vsize (c : Ctx) (e : Eng) (g : EngCtx) : (c.setEng e g).vsize = c.vsize := by cases e <;> rfl
@[simp] theorem Ctx.setEng_psize (c : Ctx) (e : Eng) (g : EngCtx) : (c.setEng e g).psize = c.psize := by cases e <;> rfl
@[simp] theorem Ctx.setEng_vrrb (c : Ctx) (e : Eng) (g : EngCtx) : (c.setEng e g).vrrb = c.vrrb := by cases e <;> rfl
@[simp] theorem Ctx.setEng_prrb (c : Ctx) (e : Eng) (g : EngCtx) : (c.setEng e g).prrb = c.prrb := by cases e <;> rfl
@[simp] theorem Ctx.setEng_slipw (c : Ctx) (e : Eng) (g : EngCtx) : (c.setEng e g).slipw = c.slipw := by cases e <;> rfl
@[simp] theorem Ctx.setEng_displ (c : Ctx) (e : Eng) (g : EngCtx) : (c.setEng e g).displ = c.displ := by cases e <;> rfl
@[simp] theorem Ctx.setEng_phase (c : Ctx) (e : Eng) (g : EngCtx) : (c.setEng e g).phase = c.phase := by cases e <;> rfl
@[simp] theorem Ctx.setEng_remain (c : Ctx) (e : Eng) (g : EngCtx) : (c.setEng e g).remain = c.remain := by cases e <;> rfl
@[simp] theorem Ctx.setEng_ker (c : Ctx) (e : Eng) (g : EngCtx) : (c.setEng e g).ker = c.ker := by cases e <;> rfl
@[simp] theorem Ctx.setEng_epi (c : Ctx) (e : Eng) (g : EngCtx) : (c.setEng e g).epi = c.epi := by cases e <;> rfl
@[simp] theorem Ctx.setEng_taskid (c : Ctx) (e : Eng) (g : EngCtx) : (c.setEng e g).taskid = c.taskid := by cases e <;> rfl
@[simp] theorem Ctx.setEng_streamid (c : Ctx) (e : Eng) (g : EngCtx) : (c.setEng e g).streamid = c.streamid := by cases e <;> rfl
@[simp] theorem Ctx.setEng_evalid (c : Ctx) (e : Eng) (g : EngCtx) : (c.setEng e g).evalid = c.evalid := by cases e <;> rfl
@[simp] theorem Ctx.setEng_asid (c : Ctx) (e : Eng) (g : EngCtx) : (c.setEng e g).asid = c.asid := by cases e <;> rfl
@[simp] theorem Ctx.setEng_serial (c : Ctx) (e : Eng) (g : EngCtx) : (c.setEng e g).serial = c.serial := by cases e <;> rfl
@[simp] theorem Ctx.setEng_window (c : Ctx) (e : Eng) (g : EngCtx) : (c.setEng e g).window = c.window := by cases e <;> rfl

/-! ## Reading what an update has set -/

@[simp] theorem State.core_setCore_same (s : State) (n : Nat) (c : Core) : (s.setCore n c).core n = c := by
  simp [State.core, State.setCore]
theorem State.core_setCore_other (s : State) (n m : Nat) (c : Core) (h : m ≠ n) : (s.setCore n c).core m = s.core m := by
  simp [State.core, State.setCore, mapGet_mapSet_other _ _ _ _ _ h]
@[simp] theorem State.core_modCore_same (s : State) (n : Nat) (f : Core → Core) : (s.modCore n f).core n = f (s.core n) := by
  simp [State.modCore]
theorem State.core_modCore_other (s : State) (n m : Nat) (f : Core → Core) (h : m ≠ n) :
    (s.modCore n f).core m = s.core m := by simp [State.modCore, State.core_setCore_other _ _ _ _ h]
@[simp] theorem State.setCore_setCore (s : State) (n : Nat) (c d : Core) : (s.setCore n c).setCore n d = s.setCore n d := by
  simp [State.setCore]
@[simp] theorem State.die_setDie_same (s : State) (n : Nat) (d : Die) : (s.setDie n d).die n = d := by
  simp [State.die, State.setDie]
theorem State.die_setDie_other (s : State) (n m : Nat) (d : Die) (h : m ≠ n) : (s.setDie n d).die m = s.die m := by
  simp [State.die, State.setDie, mapGet_mapSet_other _ _ _ _ _ h]
@[simp] theorem State.die_modDie_same (s : State) (n : Nat) (f : Die → Die) : (s.modDie n f).die n = f (s.die n) := by
  simp [State.modDie]
theorem State.die_modDie_other (s : State) (n m : Nat) (f : Die → Die) (h : m ≠ n) : (s.modDie n f).die m = s.die m := by
  simp [State.modDie, State.die_setDie_other _ _ _ _ h]
@[simp] theorem State.region_modRegion_same (s : State) (g : Nat) (f : Region → Region) :
    (s.modRegion g f).region g = f (s.region g) := by simp [State.region, State.modRegion]
@[simp] theorem State.fw_modFw (s : State) (f : Firmware → Firmware) : (s.modFw f).fw = f s.fw := rfl
@[simp] theorem State.core_setDie (s : State) (n m : Nat) (d : Die) : (s.setDie n d).core m = s.core m := rfl
@[simp] theorem State.core_modDie (s : State) (n m : Nat) (f : Die → Die) : (s.modDie n f).core m = s.core m := rfl
@[simp] theorem State.core_modFw (s : State) (m : Nat) (f : Firmware → Firmware) : (s.modFw f).core m = s.core m := rfl
@[simp] theorem State.die_setCore (s : State) (n m : Nat) (c : Core) : (s.setCore n c).die m = s.die m := rfl
@[simp] theorem State.die_modCore (s : State) (n m : Nat) (f : Core → Core) : (s.modCore n f).die m = s.die m := rfl
@[simp] theorem State.die_setCtx (s : State) (m : Nat) (c : Ctx) : (s.setCtx c).die m = s.die m := rfl
@[simp] theorem State.die_modFw (s : State) (m : Nat) (f : Firmware → Firmware) : (s.modFw f).die m = s.die m := rfl

/-! ## The context of the turn -/

@[simp] theorem State.ctx_setCtx (s : State) (c : Ctx) : (s.setCtx c).ctx = c := by simp [State.ctx, State.setCtx]
@[simp] theorem State.setCtx_setCtx (s : State) (c d : Ctx) : (s.setCtx c).setCtx d = s.setCtx d := by
  simp [State.setCtx, State.modCore]
@[simp] theorem State.core_setCtx (s : State) (c : Ctx) : (s.setCtx c).core s.turn = { s.core s.turn with ctx := c } := by
  simp [State.setCtx]
theorem State.core_setCtx_other (s : State) (c : Ctx) (m : Nat) (h : m ≠ s.turn) : (s.setCtx c).core m = s.core m := by
  simp [State.setCtx, State.core_modCore_other _ _ _ _ h]

/-! ## The engines of a context -/

@[simp] theorem Ctx.eng_setEng_same (c : Ctx) (e : Eng) (g : EngCtx) : (c.setEng e g).eng e = g := by cases e <;> rfl
theorem Ctx.eng_setEng_other (c : Ctx) (e f : Eng) (g : EngCtx) (h : f ≠ e) : (c.setEng e g).eng f = c.eng f := by
  cases e <;> cases f <;> first | rfl | exact absurd rfl h
@[simp] theorem Ctx.setEng_setEng (c : Ctx) (e : Eng) (g h : EngCtx) : (c.setEng e g).setEng e h = c.setEng e h := by
  cases e <;> rfl

end Sys2Proof.Machine
end

