-- ==== Sys2Proof/Laws/Words.lean ====
section
/-! SUPPORT. What a word in progress can do, said once for each shared operation: how a body ends, and what reading and writing
registers answers when they are ready. -/

namespace Sys2Proof.Machine

/-! ## Bodies -/

theorem M.bind_ok {α β : Type} {x : M α} {f : α → M β} {s s' : State} {a : α} (h : x s = .ok a s') :
    (x >>= f) s = f a s' := by
  show EStateM.bind x f s = _
  rw [EStateM.bind, h]

theorem M.bind_error {α β : Type} {x : M α} {f : α → M β} {s s' : State} {e : Stop} (h : x s = .error e s') :
    (x >>= f) s = .error e s' := by
  show EStateM.bind x f s = _
  rw [EStateM.bind, h]

@[simp] theorem M.pure_run {α : Type} (a : α) (s : State) : (pure a : M α) s = .ok a s := rfl
@[simp] theorem M.get_run (s : State) : (get : M State) s = .ok s s := rfl
@[simp] theorem M.set_run (s t : State) : (set t : M Unit) s = .ok () t := rfl
@[simp] theorem M.modify_run (f : State → State) (s : State) : (modify f : M Unit) s = .ok () (f s) := rfl
@[simp] theorem M.throw_run {α : Type} (e : Stop) (s : State) : (throw e : M α) s = .error e s := rfl
@[simp] theorem M.trap_run {α : Type} (c : Nat) (a i : Word) (s : State) : (trap c a i : M α) s = .error (.trap c a i) s := rfl
@[simp] theorem M.stall_run {α : Type} (s : State) : (stall : M α) s = .error .stall s := rfl
@[simp] theorem curCtx_run (s : State) : curCtx s = .ok s.ctx s := rfl
@[simp] theorem curCore_run (s : State) : curCore s = .ok (s.core s.turn) s := rfl
@[simp] theorem modCtx_run (f : Ctx → Ctx) (s : State) : modCtx f s = .ok () (s.setCtx (f s.ctx)) := rfl
@[simp] theorem modCur_run (f : Core → Core) (s : State) : modCur f s = .ok () (s.modCore s.turn f) := rfl
@[simp] theorem orFlags_run (f : BitVec 7) (s : State) : orFlags f s = .ok () (s.setCtx (s.ctx.raise f)) := rfl
@[simp] theorem liftH_run {α : Type} (h : H α) (s : State) : liftH h s = .ok (h.run s).1 (h.run s).2 := rfl

/-- A step of a body that answers, one that traps, one that waits. -/
@[simp] theorem M.bind_run {α β : Type} (x : M α) (f : α → M β) (s : State) :
    (x >>= f) s = match x s with
      | .ok a s' => f a s'
      | .error e s' => .error e s' := by
  cases h : x s with
  | ok a s' => rw [M.bind_ok h]
  | error e s' => rw [M.bind_error h]

/-! ## How a word ends -/

theorem runWord_ok {e : Eng} {eng n : Nat} {body : M (Option Word)} {s s' : State} (h : body s = .ok none s') :
    runWord e eng n body s = .next (s'.retired e n).settled := by
  rw [runWord, h]

/-- A word that answers a place goes there; where that place is no address it traps, and a trap waits for the other engines. -/
theorem runWord_to {e : Eng} {eng n : Nat} {body : M (Option Word)} {s s' : State} {t : Word} (h : body s = .ok (some t) s')
    (hc : 2 ^ 56 ≤ t.toNat → s.awaits e = false) :
    runWord e eng n body s = .next (goTo (s'.retired e n) e eng t).settled := by
  rw [runWord, h]
  refine if_neg fun hb => ?_
  obtain ⟨hp, ha⟩ := Bool.and_eq_true_iff.mp hb
  rw [hc (of_decide_eq_true hp)] at ha
  exact Bool.false_ne_true ha

theorem runWord_trap {e : Eng} {eng n : Nat} {body : M (Option Word)} {s s' : State} {c : Nat} {a i : Word}
    (h : body s = .error (.trap c a i) s') (hf : s.awaits e = false) :
    runWord e eng n body s = .next (s.trapped s' eng c a i).settled := by
  rw [runWord, h]
  simp only [hf, Bool.false_eq_true, if_false]

theorem runWord_stall {e : Eng} {eng n : Nat} {body : M (Option Word)} {s s' : State} (h : body s = .error .stall s') :
    runWord e eng n body s = .next (noteStall s) := by rw [runWord, h]

/-- A word never ends the machine. -/
theorem runWord_next (e : Eng) (eng n : Nat) (body : M (Option Word)) (s : State) : ∃ t, runWord e eng n body s = .next t := by
  unfold runWord
  split
  · exact ⟨_, rfl⟩
  · split <;> exact ⟨_, rfl⟩
  · split <;> exact ⟨_, rfl⟩
  · exact ⟨_, rfl⟩
  · exact ⟨_, rfl⟩
  · exact ⟨_, rfl⟩

theorem tWord_ok {n : Nat} {body : M Unit} {s s' : State} (h : body s = .ok () s') :
    tWord n body s = .next (s'.retired .t n).settled :=
  runWord_ok (by rw [M.bind_ok h]; rfl)

theorem tWord_trap {n : Nat} {body : M Unit} {s s' : State} {c : Nat} {a i : Word} (h : body s = .error (.trap c a i) s')
    (hf : s.awaits .t = false) : tWord n body s = .next (s.trapped s' 0 c a i).settled :=
  runWord_trap (by rw [M.bind_error h]) hf

theorem tWord_stall {n : Nat} {body : M Unit} {s s' : State} (h : body s = .error .stall s') :
    tWord n body s = .next (noteStall s) := runWord_stall (by rw [M.bind_error h])

theorem tWordClosing_ok {n : Nat} {body : M Unit} {s s' : State} (h : body (closeWindow s) = .ok () s') :
    tWordClosing n body s = .next (s'.retired .t n).settled := tWord_ok h

theorem tBranch_next {n : Nat} {body : M (Option Word)} {s s' : State} (h : body (closeWindow s) = .ok none s') :
    tBranch n body s = .next (s'.retired .t n).settled := runWord_ok h

theorem tBranch_to {n : Nat} {body : M (Option Word)} {s s' : State} {t : Word} (h : body (closeWindow s) = .ok (some t) s')
    (hc : 2 ^ 56 ≤ t.toNat → (closeWindow s).awaits .t = false) :
    tBranch n body s = .next (goTo (s'.retired .t n) .t 0 t).settled := runWord_to h hc

theorem mcWord_ok {e : Eng} {body : M Unit} {s s' : State} (h : body s = .ok () s') :
    mcWord e body s = .next (s'.retired e 1).settled := runWord_ok (by rw [M.bind_ok h]; rfl)

theorem mcWord_trap {e : Eng} {body : M Unit} {s s' : State} {c : Nat} {a i : Word} (h : body s = .error (.trap c a i) s')
    (hf : s.awaits e = false) : mcWord e body s = .next (s.trapped s' (engCode e) c a i).settled :=
  runWord_trap (by rw [M.bind_error h]) hf

theorem mcWord_stall {e : Eng} {body : M Unit} {s s' : State} (h : body s = .error .stall s') :
    mcWord e body s = .next (noteStall s) := runWord_stall (by rw [M.bind_error h])

/-! ## Waiting accesses -/

/-- With no waiting access there is nothing to serve. -/
theorem settled_of_none {s : State} (h : s.waiters = []) : s.settled = s := by
  show (StateT.run settle s).2 = s
  unfold settle
  show (StateT.run (if s.waiters.isEmpty then pure () else settleN (2 * s.waiters.length + 1)) s).2 = s
  rw [h]; rfl

theorem event_eq (h : H Unit) (s : State) : event h s = .next (h.run s).2.settled := rfl

/-! ## Reading registers -/

theorem readX_ready {r : Nat → M Unit} {n : Nat} {b : Bool} {s : State} (h : s.ctx.xReady n = true) :
    readX r n b s = .ok (s.ctx.regX n).val s := by
  have hf : s.ctx.fill .x n = .full := by simpa [Ctx.xReady, Ctx.fill] using h
  have hr : ready r .x n n b s = .ok () s := by
    rw [ready, M.bind_ok (curCtx_run s), hf]; rfl
  rw [readX, M.bind_ok hr]; rfl

theorem readX_empty_trap {r : Nat → M Unit} {n : Nat} {s : State} (h : (s.ctx.regX n).fill = .empty) :
    readX r n true s = .error (.trap 0x07 (s.ctx.t.pc.zeroExtend 64) (emptyInfo n .x)) s := by
  have hr : ready r .x n n true s = .error (.trap 0x07 (s.ctx.t.pc.zeroExtend 64) (emptyInfo n .x)) s := by
    rw [ready, M.bind_ok (curCtx_run s), show s.ctx.fill .x n = .empty from h]; rfl
  rw [readX, M.bind_error hr]

theorem readX_empty_wait {r : Nat → M Unit} {n : Nat} {s : State} (h : (s.ctx.regX n).fill = .empty) :
    readX r n false s = .error .stall s := by
  have hr : ready r .x n n false s = .error .stall s := by
    rw [ready, M.bind_ok (curCtx_run s), show s.ctx.fill .x n = .empty from h]; rfl
  rw [readX, M.bind_error hr]

theorem readP_ready {r : Nat → M Unit} {n : Nat} {b : Bool} {s : State} (h : s.ctx.pReady n = true) :
    readP r n b s = .ok (s.ctx.pVal n) s := by
  rw [readP, M.bind_ok (curCtx_run s), M.bind_ok (curCtx_run s)]
  cases hl : s.ctx.liveAt .p (rotP s.ctx n) with
  | some t => simp only [Ctx.pVal, hl]; rfl
  | none =>
    have hf : s.ctx.fill .p (rotP s.ctx n) = .full := by simpa [Ctx.pReady, hl, Ctx.fill] using h
    have hr : ready r .p n (rotP s.ctx n) b s = .ok () s := by
      rw [ready, M.bind_ok (curCtx_run s), hf]; rfl
    simp only [Ctx.pVal, hl]
    rw [M.bind_ok hr]; rfl

theorem readV1_ready {r : Nat → M Unit} {n m : Nat} {b : Bool} {s : State} (ha : m < s.ctx.vallot)
    (h : ((s.ctx.liveAt .v m).isSome || (s.ctx.regV m).fill == .full) = true) :
    readV1 r n m b s = .ok (match s.ctx.liveAt .v m with
      | some t => vecBytes t.val
      | none => vecBytes (s.ctx.regV m).val) s := by
  rw [readV1, M.bind_ok (curCtx_run s)]
  rw [if_neg (by omega)]
  cases hl : s.ctx.liveAt .v m with
  | some t => rfl
  | none =>
    have hf : s.ctx.fill .v m = .full := by simpa [hl, Ctx.fill] using h
    have hr : ready r .v n m b s = .ok () s := by
      rw [ready, M.bind_ok (curCtx_run s), hf]; rfl
    simp only
    rw [M.bind_ok hr]; rfl

theorem readV_ready {r : Nat → M Unit} {n g : Nat} {b : Bool} {s : State} (h : s.ctx.vReady n g = true) :
    readV r n g b s = .ok (s.ctx.liveGroup (members s.ctx n g)) s := by
  simp only [Ctx.vReady, Bool.and_eq_true, decide_eq_true_eq, List.all_eq_true] at h
  rw [readV, if_neg (by omega), M.bind_ok (curCtx_run s)]
  generalize hm : members s.ctx n g = rs
  rw [hm] at h
  have key : ∀ rs : List Nat, (∀ m ∈ rs, m < s.ctx.vallot ∧ ((s.ctx.liveAt .v m).isSome || (s.ctx.regV m).fill == .full) = true) →
      readV.go r n b rs s = .ok (s.ctx.liveGroup rs) s := by
    intro rs
    induction rs with
    | nil => intro _; rfl
    | cons m rs ih =>
      intro h
      have h1 := h m (List.mem_cons_self ..)
      rw [readV.go, M.bind_ok (readV1_ready h1.1 h1.2), M.bind_ok (ih fun k hk => h k (List.mem_cons_of_mem _ hk))]
      rfl
  exact key rs h.2

/-! ## Writing registers -/

theorem prepWrite_ok {r : Nat → M Unit} {k : Kind} {n : Nat} {s : State} (h : s.ctx.writable k n = true) :
    prepWrite r k n s = .ok () s := by
  simp only [Ctx.writable, Bool.and_eq_true, Bool.not_eq_true'] at h
  have hf : s.ctx.recipes.filter (fun e => e.2.pins.contains (k, n) && s.ctx.fill e.2.kind e.2.target == .dropped) = [] := by
    rw [List.filter_eq_nil_iff]
    intro a ha
    have := List.any_eq_false.1 h.2 a ha
    exact this
  rw [prepWrite, M.bind_ok (curCtx_run s)]
  simp only [h.1, hf]
  rfl

theorem writeX_ready {r : Nat → M Unit} {n : Nat} {v : Word} {s : State} (h : s.ctx.xWritable n = true) (h0 : n ≠ 0) :
    writeX r n v s = .ok () (s.setCtx (s.ctx.putX n v)) := by
  rw [writeX, if_neg h0, M.bind_ok (prepWrite_ok (by simpa [Ctx.xWritable, h0] using h))]
  rfl

theorem put_ready {d : BitVec 6} {r : Alu} {s : State} (h : s.ctx.xWritable d.toNat = true) :
    put rdS d r s = .ok () (s.setCtx ((s.ctx.putX d.toNat r.1).raise r.2)) := by
  by_cases h0 : d.toNat = 0
  · rw [put, M.bind_ok (show rdS.xw d.toNat r.1 s = .ok () s by rw [h0]; rfl), h0]; rfl
  · rw [put, M.bind_ok (show rdS.xw d.toNat r.1 s = _ from writeX_ready h h0)]
    show orFlags r.2 _ = _
    rw [orFlags_run, State.ctx_setCtx, State.setCtx_setCtx]

theorem writeX_zero {r : Nat → M Unit} {v : Word} {s : State} : writeX r 0 v s = .ok () s := rfl

theorem putX_zero (c : Ctx) (v : Word) : c.putX 0 v = c := rfl

theorem dropArrived_setCtx (s : State) (c : Ctx) : dropArrived (s.setCtx c) = (dropArrived s).setCtx c := by
  unfold dropArrived
  show (if s.arrived.isEmpty then _ else _) = _
  split <;> rfl

/-- A context that stands may be set once more before a word retires. -/
theorem retired_setCtx_self (s : State) (e : Eng) (n : Nat) : (s.setCtx s.ctx).retired e n = s.retired e n := by
  simp only [State.retired, dropArrived_setCtx, State.ctx_setCtx, State.setCtx_setCtx, State.setCtx_turn]

/-- A word that writes its result to a scalar register, x0 or not, retires with it. -/
theorem retired_writeX {r : Nat → M Unit} {d : Nat} {v : Word} {s : State} (h : s.ctx.xWritable d = true) (e : Eng) (n : Nat) :
    ∃ s', writeX r d v s = .ok () s' ∧ s'.retired e n = (s.setCtx (s.ctx.putX d v)).retired e n := by
  by_cases h0 : d = 0
  · subst h0; exact ⟨s, rfl, by rw [putX_zero, retired_setCtx_self]⟩
  · exact ⟨_, writeX_ready h h0, rfl⟩

end Sys2Proof.Machine
end

