-- ==== Sys2Proof/Tests/Slice0.lean ====
section
/-! SUPPORT. The package's own tests: the encodings of the spec's tables read by the decoder, ill-formed terms that
`WellFormed` refuses, the spec's worked examples run for one step, and for every obligation with hypotheses named
theorems (`wit_…`, each naming its obligation) with concrete states and operands that meet all of them together. Every expected value is the
spec's or a hand calculation from it. -/

set_option Elab.async false

open Sys2Proof Sys2Proof.Machine

namespace Sys2Proof.Tests
theorem test_decode_add_to_sel :
    (decode [0x0005, 0x5315]).toOption = some (.add ⟨5, 0x14, 1, 0x22, 1, 1⟩) ∧
    (decode [0x0045, 0x5315]).toOption = some (.sub ⟨5, 0x14, 1, 0x22, 1, 1⟩) ∧
    (decode [0x0085, 0x5315]).toOption = some (.and ⟨5, 0x14, 1, 0x22, 1, 1⟩) ∧
    (decode [0x00C5, 0x5315]).toOption = some (.or ⟨5, 0x14, 1, 0x22, 1, 1⟩) ∧
    (decode [0x0105, 0x5315]).toOption = some (.xor ⟨5, 0x14, 1, 0x22, 1, 1⟩) ∧
    (decode [0x0145, 0x5314]).toOption = some (.shl ⟨5, 0x14, 1, 0x22, 1, 0⟩) ∧
    (decode [0x0185, 0x5315]).toOption = some (.shr ⟨5, 0x14, 1, 0x22, 1, 1⟩) ∧
    (decode [0x01C5, 0x5315]).toOption = some (.mul ⟨5, 0x14, 1, 0x22, 1, 1⟩) ∧
    (decode [0x0205, 0x5315]).toOption = some (.div ⟨5, 0x14, 1, 0x22, 1, 1⟩) ∧
    (decode [0x0245, 0x5315]).toOption = some (.rem ⟨5, 0x14, 1, 0x22, 1, 1⟩) ∧
    (decode [0x0285, 0x5315]).toOption = some (.min ⟨5, 0x14, 1, 0x22, 1, 1⟩) ∧
    (decode [0x02C5, 0x5315]).toOption = some (.max ⟨5, 0x14, 1, 0x22, 1, 1⟩) ∧
    (decode [0x0305, 0x5315]).toOption = some (.cset ⟨5, 0x14, 1, 0x22, 1, 1⟩) ∧
    (decode [0x0345, 0x5201]).toOption = some (.bits ⟨5, 0x14, 1, 0, 0, 1⟩) ∧
    (decode [0x0385, 0x5315]).toOption = some (.field ⟨5, 0x14, 1, 0x22, 1, 1⟩) ∧
    (decode [0x03C5, 0x5314]).toOption = some (.sel ⟨5, 0x14, 1, 0x22, 1, 0⟩) := by
  decide +kernel

theorem test_decode_addi_to_blt :
    (decode [0x0405, 0x5222]).toOption = some (.addi ⟨5, 0x14, 1, 0x22⟩) ∧
    (decode [0x0445, 0x5222]).toOption = some (.andi ⟨5, 0x14, 1, 0x22⟩) ∧
    (decode [0x0485, 0x5222]).toOption = some (.ori ⟨5, 0x14, 1, 0x22⟩) ∧
    (decode [0x04C5, 0x5222]).toOption = some (.xori ⟨5, 0x14, 1, 0x22⟩) ∧
    (decode [0x0505, 0x5222]).toOption = some (.shli ⟨5, 0x14, 1, 0x22⟩) ∧
    (decode [0x0545, 0x5222]).toOption = some (.shri ⟨5, 0x14, 1, 0x22⟩) ∧
    (decode [0x0585, 0x5222]).toOption = some (.shai ⟨5, 0x14, 1, 0x22⟩) ∧
    (decode [0x05C5, 0x5222]).toOption = some (.cseti ⟨5, 0x14, 1, 0x22⟩) ∧
    (decode [0x0605, 0x5200]).toOption = some (.xput ⟨5, 0x14, 1, 0, 0, 0⟩) ∧
    (decode [0x0645, 0x5200]).toOption = some (.xtake ⟨5, 0x14, 1, 0, 0, 0⟩) ∧
    (decode [0x0800, 0x0005]).toOption = some (.b ⟨5⟩) ∧
    (decode [0x0840, 0x0005]).toOption = some (.call ⟨5⟩) ∧
    (decode [0x0885, 0x5222]).toOption = some (.jr ⟨5, 0x14, 1, 0x22⟩) ∧
    (decode [0x08C5, 0x5009]).toOption = some (.beq ⟨5, 0x14, 9⟩) ∧
    (decode [0x0905, 0x5009]).toOption = some (.bne ⟨5, 0x14, 9⟩) ∧
    (decode [0x0945, 0x5009]).toOption = some (.blt ⟨5, 0x14, 9⟩) := by
  decide +kernel

theorem test_decode_bge_to_icinv :
    (decode [0x0985, 0x5009]).toOption = some (.bge ⟨5, 0x14, 9⟩) ∧
    (decode [0x09C5, 0x5009]).toOption = some (.bltu ⟨5, 0x14, 9⟩) ∧
    (decode [0x0A05, 0x5009]).toOption = some (.bgeu ⟨5, 0x14, 9⟩) ∧
    (decode [0x0A42, 0xA009]).toOption = some (.bp ⟨5, 1, 9⟩) ∧
    (decode [0x0C05, 0x0014]).toOption = some (.csrr ⟨5, 0, 0, 0x14⟩) ∧
    (decode [0x0C45, 0x5222]).toOption = some (.csrw ⟨5, 0x14, 1, 0x22⟩) ∧
    (decode [0x0C85, 0x5222]).toOption = some (.csrs ⟨5, 0x14, 1, 0x22⟩) ∧
    (decode [0x0CC5, 0x5222]).toOption = some (.csrc ⟨5, 0x14, 1, 0x22⟩) ∧
    (decode [0x0D00, 0x00D2]).toOption = some (.fence 3 1 2) ∧
    (decode [0x0D40, 0x0000]).toOption = some .trapf ∧
    (decode [0x0D80, 0x0005]).toOption = some (.svc 5) ∧
    (decode [0x0DC0, 0x0000]).toOption = some .sret ∧
    (decode [0x0E00, 0x0000]).toOption = some .brk ∧
    (decode [0x0E40, 0x0000]).toOption = some .xdisp ∧
    (decode [0x0E80, 0x0000]).toOption = some .isync ∧
    (decode [0x0EC1, 0x5315]).toOption = some (.icinv ⟨1, 0x14, 1, 0x22, 1, 1⟩) := by
  decide +kernel

theorem test_decode_getid_to_ste :
    (decode [0x0F05, 0x0001]).toOption = some (.getid ⟨5, 0, 0, 0, 0, 1⟩) ∧
    (decode [0x0F40, 0x0000]).toOption = some .pause ∧
    (decode [0x1005, 0x5222]).toOption = some (.ldb ⟨5, 0x14, 1, 0x22⟩) ∧
    (decode [0x1045, 0x5222]).toOption = some (.ldh ⟨5, 0x14, 1, 0x22⟩) ∧
    (decode [0x1085, 0x5222]).toOption = some (.ldw ⟨5, 0x14, 1, 0x22⟩) ∧
    (decode [0x10C5, 0x5222]).toOption = some (.ldd ⟨5, 0x14, 1, 0x22⟩) ∧
    (decode [0x1105, 0x5222]).toOption = some (.ldbs ⟨5, 0x14, 1, 0x22⟩) ∧
    (decode [0x1145, 0x5222]).toOption = some (.ldhs ⟨5, 0x14, 1, 0x22⟩) ∧
    (decode [0x1185, 0x5222]).toOption = some (.ldws ⟨5, 0x14, 1, 0x22⟩) ∧
    (decode [0x1205, 0x5222]).toOption = some (.stb ⟨5, 0x14, 1, 0x22⟩) ∧
    (decode [0x1245, 0x5222]).toOption = some (.sth ⟨5, 0x14, 1, 0x22⟩) ∧
    (decode [0x1285, 0x5222]).toOption = some (.stw ⟨5, 0x14, 1, 0x22⟩) ∧
    (decode [0x12C5, 0x5222]).toOption = some (.std ⟨5, 0x14, 1, 0x22⟩) ∧
    (decode [0x1305, 0x5222]).toOption = some (.ldf ⟨5, 0x14, 1, 0x22⟩) ∧
    (decode [0x1345, 0x5222]).toOption = some (.ldc ⟨5, 0x14, 1, 0x22⟩) ∧
    (decode [0x1385, 0x5222]).toOption = some (.ste ⟨5, 0x14, 1, 0x22⟩) := by
  decide +kernel

theorem test_decode_sts_to_mdrop :
    (decode [0x13C5, 0x5201]).toOption = some (.sts ⟨5, 0x14, 1, 0, 0, 1⟩) ∧
    (decode [0x1405, 0x5222]).toOption = some (.stn ⟨5, 0x14, 1, 0x22⟩) ∧
    (decode [0x1605, 0x0040]).toOption = some (.allot ⟨5, 0, 0, 0x40⟩) ∧
    (decode [0x1640, 0x0054]).toOption = some (.rotcfg ⟨0, 0, 0, 0x54⟩) ∧
    (decode [0x1680, 0x1600]).toOption = some (.rotset ⟨0, 5, 1, 0, 0, 0⟩) ∧
    (decode [0x1700, 0x0000]).toOption = some .swctx ∧
    (decode [0x1740, 0x0000]).toOption = some .park ∧
    (decode [0x1780, 0x1600]).toOption = some (.ctxsv ⟨0, 5, 1, 0, 0, 0⟩) ∧
    (decode [0x17C0, 0x1600]).toOption = some (.ctxld ⟨0, 5, 1, 0, 0, 0⟩) ∧
    (decode [0x1800, 0x164C]).toOption = some (.grpset ⟨0, 5, 1, 9, 1, 0⟩) ∧
    (decode [0x1840, 0x1600]).toOption = some (.asgen ⟨0, 5, 1, 0, 0, 0⟩) ∧
    (decode [0x1880, 0x164C]).toOption = some (.cohset ⟨0, 5, 1, 9, 1, 0⟩) ∧
    (decode [0x18C5, 0x5201]).toOption = some (.probe ⟨5, 0x14, 1, 0, 0, 1⟩) ∧
    (decode [0x4000]).toOption = some .mnop ∧
    (decode [0x4100]).toOption = some .mdup ∧
    (decode [0x4200]).toOption = some .mdrop := by
  decide +kernel

theorem test_decode_mswap_to_mconst :
    (decode [0x4300]).toOption = some .mswap ∧
    (decode [0x4400]).toOption = some .mover ∧
    (decode [0x45C6]).toOption = some (.mpushx 1 1 6) ∧
    (decode [0x4605]).toOption = some (.mpopx 5) ∧
    (decode [0x4700]).toOption = some .madd ∧
    (decode [0x4805]).toOption = some (.mshl 5) ∧
    (decode [0x4900]).toOption = some .mor ∧
    (decode [0x4A57]).toOption = some (.mmma 5 1 1 1) ∧
    (decode [0x4B57]).toOption = some (.mmva 5 1 1 1) ∧
    (decode [0x4C00]).toOption = some .mswpw ∧
    (decode [0x4D05]).toOption = some (.mepi 5) ∧
    (decode [0x4E00]).toOption = some .mbar ∧
    (decode [0x4F01]).toOption = some (.mwait 1) ∧
    (decode [0x5005]).toOption = some (.mskipz 5) ∧
    (decode [0x5100]).toOption = some .mbrk ∧
    (decode [0x5253]).toOption = some (.mconst 5 3) := by
  decide +kernel

theorem test_decode_mlit_to_cscat :
    (decode [0x6005]).toOption = some (.mlit 5) ∧
    (decode [0x8000]).toOption = some .cnop ∧
    (decode [0x8100]).toOption = some .cdup ∧
    (decode [0x8200]).toOption = some .cdrop ∧
    (decode [0x8300]).toOption = some .cswap ∧
    (decode [0x8400]).toOption = some .cover ∧
    (decode [0x85C6]).toOption = some (.cpushx 1 1 6) ∧
    (decode [0x8605]).toOption = some (.cpopx 5) ∧
    (decode [0x8700]).toOption = some .cadd ∧
    (decode [0x8805]).toOption = some (.cshl 5) ∧
    (decode [0x8900]).toOption = some .cor ∧
    (decode [0x8A01]).toOption = some (.ccopy 1) ∧
    (decode [0x8B01]).toOption = some (.ccopy2 1) ∧
    (decode [0x8C00]).toOption = some .cdecomp ∧
    (decode [0x8D01]).toOption = some (.cgath 1) ∧
    (decode [0x8E01]).toOption = some (.cscat 1) := by
  decide +kernel

theorem test_decode_cfill_to_leave :
    (decode [0x8F01]).toOption = some (.cfill 1) ∧
    (decode [0x9000]).toOption = some .cpref ∧
    (decode [0x9100]).toOption = some .choff ∧
    (decode [0x9201]).toOption = some (.cpage 1) ∧
    (decode [0x9312]).toOption = some (.ccoll 1 2) ∧
    (decode [0x9400]).toOption = some .cflush ∧
    (decode [0x9500]).toOption = some .cbar ∧
    (decode [0x9601]).toOption = some (.cwait 1) ∧
    (decode [0x9705]).toOption = some (.cskipz 5) ∧
    (decode [0x9800]).toOption = some .cbrk ∧
    (decode [0xA005]).toOption = some (.clit 5) ∧
    (decode [0xC000]).toOption = some .anop ∧
    (decode [0xC105]).toOption = some (.loop 5) ∧
    (decode [0xC185]).toOption = some (.loopX 5) ∧
    (decode [0xC201]).toOption = some (.endl 1) ∧
    (decode [0xC343]).toOption = some (.leave 1 3) := by
  decide +kernel

theorem test_decode_abr_to_erow :
    (decode [0xC454, 0x0009]).toOption = some (.abr 1 0x14 9) ∧
    (decode [0xC500, 0x0005]).toOption = some (.acall 5) ∧
    (decode [0xC600]).toOption = some .aret ∧
    (decode [0xC700]).toOption = some .sync ∧
    (decode [0xC800]).toOption = some .next ∧
    (decode [0xC900]).toOption = some .halt ∧
    (decode [0xCA05]).toOption = some (.slip 5) ∧
    (decode [0xCB00]).toOption = some .abrk ∧
    (decodeEop 0x0).toOption = some .eend ∧
    (decodeEop 0xd00).toOption = some (.elda 5) ∧
    (decodeEop 0x1560).toOption = some (.eadd 5 3) ∧
    (decodeEop 0x1d60).toOption = some (.emul 5 3) ∧
    (decodeEop 0x2560).toOption = some (.efma 5 3) ∧
    (decodeEop 0x2d60).toOption = some (.emax 5 3) ∧
    (decodeEop 0x3503).toOption = some (.econ 5 3) ∧
    (decodeEop 0x3d60).toOption = some (.erow 5 3) := by
  decide +kernel

theorem test_decode_eact_to_emov :
    (decodeEop 0x4322).toOption = some (.eact 3 1 2) ∧
    (decodeEop 0x4d75).toOption = some (.ecvt 5 3 1 5) ∧
    (decodeEop 0x5560).toOption = some (.estat 5 3) ∧
    (decodeEop 0x5d66).toOption = some (.eqkv 5 3 6) ∧
    (decodeEop 0x6500).toOption = some (.eres 5) ∧
    (decodeEop 0x68a3).toOption = some (.est 5 3) ∧
    (decodeEop 0x7566).toOption = some (.esel 5 3 6) ∧
    (decodeEop 0x7d60).toOption = some (.emov 5 3) := by
  decide +kernel


theorem test_decode_vadd_to_vrcp :
    (decode [0x2001, 0x2062, 0x2084, 0x9910]).toOption = some (.vadd ⟨0x12, 3, 0x11, 0, 0, 0x21, 0, 1, 0x32, 0, 1⟩) ∧
    (decode [0x2011, 0x2062, 0x2084, 0x9910]).toOption = some (.vsub ⟨0x12, 3, 0x11, 0, 0, 0x21, 0, 1, 0x32, 0, 1⟩) ∧
    (decode [0x2021, 0x2062, 0x2084, 0x9910]).toOption = some (.vmul ⟨0x12, 3, 0x11, 0, 0, 0x21, 0, 1, 0x32, 0, 1⟩) ∧
    (decode [0x2031, 0x2062, 0x2084, 0x9910]).toOption = some (.vfma ⟨0x12, 3, 0x11, 0, 0, 0x21, 0, 1, 0x32, 0, 1⟩) ∧
    (decode [0x2041, 0x2062, 0x2084, 0x9910]).toOption = some (.vfms ⟨0x12, 3, 0x11, 0, 0, 0x21, 0, 1, 0x32, 0, 1⟩) ∧
    (decode [0x2051, 0x0062, 0x2084, 0x9910]).toOption = some (.vmin ⟨0x10, 3, 0x11, 0, 0, 0x21, 0, 1, 0x32, 0, 1⟩) ∧
    (decode [0x2061, 0x0062, 0x2084, 0x9910]).toOption = some (.vmax ⟨0x10, 3, 0x11, 0, 0, 0x21, 0, 1, 0x32, 0, 1⟩) ∧
    (decode [0x2071, 0x0062, 0x2084, 0x8000]).toOption = some (.vabs ⟨0x10, 3, 0x11, 0, 0, 0x21, 0, 1, 0, 0, 0⟩) ∧
    (decode [0x2081, 0x0062, 0x2084, 0x8000]).toOption = some (.vneg ⟨0x10, 3, 0x11, 0, 0, 0x21, 0, 1, 0, 0, 0⟩) ∧
    (decode [0x2091, 0x2062, 0x2084, 0x9910]).toOption = some (.vdiv ⟨0x12, 3, 0x11, 0, 0, 0x21, 0, 1, 0x32, 0, 1⟩) ∧
    (decode [0x20A1, 0x2062, 0x2084, 0x8000]).toOption = some (.vsqrt ⟨0x12, 3, 0x11, 0, 0, 0x21, 0, 1, 0, 0, 0⟩) ∧
    (decode [0x20B1, 0x2062, 0x2084, 0x8000]).toOption = some (.vrcp ⟨0x12, 3, 0x11, 0, 0, 0x21, 0, 1, 0, 0, 0⟩) := by
  decide +kernel

theorem test_decode_vrsq_to_vshr :
    (decode [0x20C1, 0x2062, 0x2084, 0x8000]).toOption = some (.vrsq ⟨0x12, 3, 0x11, 0, 0, 0x21, 0, 1, 0, 0, 0⟩) ∧
    (decode [0x20D1, 0x2062, 0x2084, 0x8000]).toOption = some (.vexp2 ⟨0x12, 3, 0x11, 0, 0, 0x21, 0, 1, 0, 0, 0⟩) ∧
    (decode [0x20E1, 0x2062, 0x2084, 0x8000]).toOption = some (.vlog2 ⟨0x12, 3, 0x11, 0, 0, 0x21, 0, 1, 0, 0, 0⟩) ∧
    (decode [0x20F1, 0x2062, 0x2084, 0x9910]).toOption = some (.vscl ⟨0x12, 3, 0x11, 0, 0, 0x21, 0, 1, 0x32, 0, 1⟩) ∧
    (decode [0x2101, 0x2060, 0xA084, 0x9910]).toOption = some (.vcmp ⟨0x12, 3, 5, 0, 0, 0x21, 0, 1, 0x32, 0, 1⟩) ∧
    (decode [0x2111, 0x0062, 0x2084, 0x9910]).toOption = some (.vsel ⟨0x10, 3, 0x11, 0, 0, 0x21, 0, 1, 0x32, 0, 1⟩) ∧
    (decode [0x2121, 0x0062, 0x2084, 0x9910]).toOption = some (.vand ⟨0x10, 3, 0x11, 0, 0, 0x21, 0, 1, 0x32, 0, 1⟩) ∧
    (decode [0x2131, 0x0062, 0x2084, 0x9910]).toOption = some (.vor ⟨0x10, 3, 0x11, 0, 0, 0x21, 0, 1, 0x32, 0, 1⟩) ∧
    (decode [0x2141, 0x0062, 0x2084, 0x9910]).toOption = some (.vxor ⟨0x10, 3, 0x11, 0, 0, 0x21, 0, 1, 0x32, 0, 1⟩) ∧
    (decode [0x2151, 0x0062, 0x2084, 0x8000]).toOption = some (.vnot ⟨0x10, 3, 0x11, 0, 0, 0x21, 0, 1, 0, 0, 0⟩) ∧
    (decode [0x2168, 0x0062, 0x2084, 0x9910]).toOption = some (.vshl ⟨0x80, 3, 0x11, 0, 0, 0x21, 0, 1, 0x32, 0, 1⟩) ∧
    (decode [0x2178, 0x0062, 0x2084, 0x9910]).toOption = some (.vshr ⟨0x80, 3, 0x11, 0, 0, 0x21, 0, 1, 0x32, 0, 1⟩) := by
  decide +kernel

theorem test_decode_vcvt_to_vbcast :
    (decode [0x2181, 0x2062, 0x2084, 0x8800]).toOption = some (.vcvt ⟨0x12, 3, 0x11, 0, 0, 0x21, 0, 1, 0x10, 0, 0⟩) ∧
    (decode [0x21A3, 0x0062, 0x2081, 0x9800]).toOption = some (.vdqmx ⟨0x30, 3, 0x11, 0, 0, 0x20, 1, 1, 0x30, 0, 0⟩) ∧
    (decode [0x21D1, 0x0062, 0x2000, 0x0000]).toOption = some (.vrand ⟨0x10, 3, 0x11, 0, 0, 0, 0, 0, 0, 0, 0⟩) ∧
    (decode [0x21E1, 0x0062, 0x2084, 0x9910]).toOption = some (.vbdot ⟨0x10, 3, 0x11, 0, 0, 0x21, 0, 1, 0x32, 0, 1⟩) ∧
    (decode [0x21F1, 0x2062, 0x2084, 0x9910]).toOption = some (.vpack ⟨0x12, 3, 0x11, 0, 0, 0x21, 0, 1, 0x32, 0, 1⟩) ∧
    (decode [0x2201, 0x2062, 0x2084, 0x8080]).toOption = some (.vred ⟨0x12, 3, 0x11, 0, 0, 0x21, 0, 1, 1, 0, 0⟩) ∧
    (decode [0x2211, 0x2062, 0x2084, 0x8080]).toOption = some (.vscan ⟨0x12, 3, 0x11, 0, 0, 0x21, 0, 1, 1, 0, 0⟩) ∧
    (decode [0x2221, 0x0062, 0x2084, 0x9910]).toOption = some (.vperm ⟨0x10, 3, 0x11, 0, 0, 0x21, 0, 1, 0x32, 0, 1⟩) ∧
    (decode [0x2231, 0x0062, 0x2028, 0x8000]).toOption = some (.vbcast ⟨0x10, 3, 0x11, 0, 0, 0xa, 0, 1, 0, 0, 0⟩) := by
  decide +kernel

theorem test_decode_vslide_to_pwhile :
    (decode [0x2261, 0x0062, 0x2084, 0xAA50]).toOption = some (.vslide ⟨0x10, 3, 0x11, 0, 0, 0x21, 0, 1, 0x54, 2, 1⟩) ∧
    (decode [0x2271, 0x0062, 0x2084, 0x9910]).toOption = some (.vzip ⟨0x10, 3, 0x11, 0, 0, 0x21, 0, 1, 0x32, 0, 1⟩) ∧
    (decode [0x2281, 0x0062, 0x2084, 0x9910]).toOption = some (.vunzip ⟨0x10, 3, 0x11, 0, 0, 0x21, 0, 1, 0x32, 0, 1⟩) ∧
    (decode [0x2291, 0x0062, 0x2084, 0x8000]).toOption = some (.vmov ⟨0x10, 3, 0x11, 0, 0, 0x21, 0, 1, 0, 0, 0⟩) ∧
    (decode [0x22A8, 0x0062, 0x2028, 0x8000]).toOption = some (.viota ⟨0x80, 3, 0x11, 0, 0, 0xa, 0, 1, 0, 0, 0⟩) ∧
    (decode [0x2300, 0x0000, 0xA018, 0x8390]).toOption = some (.pand ⟨0, 0, 5, 0, 0, 6, 0, 1, 7, 0, 1⟩) ∧
    (decode [0x2310, 0x0000, 0xA018, 0x8390]).toOption = some (.por ⟨0, 0, 5, 0, 0, 6, 0, 1, 7, 0, 1⟩) ∧
    (decode [0x2320, 0x0000, 0xA018, 0x8390]).toOption = some (.pxor ⟨0, 0, 5, 0, 0, 6, 0, 1, 7, 0, 1⟩) ∧
    (decode [0x2330, 0x0000, 0xA018, 0x8000]).toOption = some (.pnot ⟨0, 0, 5, 0, 0, 6, 0, 1, 0, 0, 0⟩) ∧
    (decode [0x2341, 0x0000, 0xA028, 0x8590]).toOption = some (.pwhile ⟨0x10, 0, 5, 0, 0, 0xa, 0, 1, 0xb, 0, 1⟩) := by
  decide +kernel

theorem test_decode_pcnt_to_cstat :
    (decode [0x2351, 0x0001, 0x2018, 0x8000]).toOption = some (.pcnt ⟨0x10, 0, 9, 0, 0, 6, 0, 1, 0, 0, 0⟩) ∧
    (decode [0x2361, 0x0000, 0xA018, 0x8000]).toOption = some (.pfirst ⟨0x10, 0, 5, 0, 0, 6, 0, 1, 0, 0, 0⟩) ∧
    (decode [0x2400, 0x0062, 0x2028, 0xAA50]).toOption = some (.vld ⟨0, 3, 0x11, 0, 0, 0xa, 0, 1, 0x54, 2, 1⟩) ∧
    (decode [0x2460, 0x0062, 0x2028, 0xAA50]).toOption = some (.vldf ⟨0, 3, 0x11, 0, 0, 0xa, 0, 1, 0x54, 2, 1⟩) ∧
    (decode [0x2410, 0x0062, 0x2028, 0xAA50]).toOption = some (.vst ⟨0, 3, 0x11, 0, 0, 0xa, 0, 1, 0x54, 2, 1⟩) ∧
    (decode [0x2470, 0x0062, 0x2028, 0xAA50]).toOption = some (.vste ⟨0, 3, 0x11, 0, 0, 0xa, 0, 1, 0x54, 2, 1⟩) ∧
    (decode [0x2420, 0x0062, 0x2028, 0x8590]).toOption = some (.vldx ⟨0, 3, 0x11, 0, 0, 0xa, 0, 1, 0xb, 0, 1⟩) ∧
    (decode [0x2430, 0x0062, 0x2028, 0x8590]).toOption = some (.vstx ⟨0, 3, 0x11, 0, 0, 0xa, 0, 1, 0xb, 0, 1⟩) ∧
    (decode [0x2440, 0x0062, 0x2028, 0x9910]).toOption = some (.vgath ⟨0, 3, 0x11, 0, 0, 0xa, 0, 1, 0x32, 0, 1⟩) ∧
    (decode [0x2450, 0x0062, 0x2028, 0x9910]).toOption = some (.vscat ⟨0, 3, 0x11, 0, 0, 0xa, 0, 1, 0x32, 0, 1⟩) ∧
    (decode [0x2500, 0x0000, 0x0028, 0xAA50]).toOption = some (.touch ⟨0, 0, 0, 0, 0, 0xa, 0, 1, 0x54, 2, 1⟩) ∧
    (decode [0x2510, 0x0001, 0x2028, 0xAA50]).toOption = some (.cstat ⟨0, 0, 9, 0, 0, 0xa, 0, 1, 0x54, 2, 1⟩) := by
  decide +kernel

theorem test_decode_waitc_to_amomax :
    (decode [0x2550, 0x0001, 0x2028, 0xAA50]).toOption = some (.waitc ⟨0, 0, 9, 0, 0, 0xa, 0, 1, 0x54, 2, 1⟩) ∧
    (decode [0x2520, 0x0002, 0x0828, 0xAA50]).toOption = some (.defer ⟨0, 0, 0x10, 1, 0, 0xa, 0, 1, 0x54, 2, 1⟩) ∧
    (decode [0x2530, 0x0002, 0x0828, 0xAA50]).toOption = some (.resolve ⟨0, 0, 0x10, 1, 0, 0xa, 0, 1, 0x54, 2, 1⟩) ∧
    (decode [0x2540, 0x0000, 0x0028, 0x8590]).toOption = some (.poison ⟨0, 0, 0, 0, 0, 0xa, 0, 1, 0xb, 0, 1⟩) ∧
    (decode [0x2602, 0x9001, 0x2028, 0x8020]).toOption = some (.rcpdef ⟨0x29, 0, 9, 0, 0, 0xa, 0, 1, 0, 1, 0⟩) ∧
    (decode [0x2610, 0x1001, 0x2000, 0x0000]).toOption = some (.rcpdrop ⟨1, 0, 9, 0, 0, 0, 0, 0, 0, 0, 0⟩) ∧
    (decode [0x2680, 0x1001, 0x2000, 0x0000]).toOption = some (.rempty ⟨1, 0, 9, 0, 0, 0, 0, 0, 0, 0, 0⟩) ∧
    (decode [0x2622, 0x8000, 0x0000, 0x0000]).toOption = some (.rcpkill ⟨0x28, 0, 0, 0, 0, 0, 0, 0, 0, 0, 0⟩) ∧
    (decode [0x2690, 0x1001, 0x2028, 0x8000]).toOption = some (.rstate ⟨1, 0, 9, 0, 0, 0xa, 0, 1, 0, 0, 0⟩) ∧
    (decode [0x2708, 0x0001, 0x2028, 0x8590]).toOption = some (.amoadd ⟨0x80, 0, 9, 0, 0, 0xa, 0, 1, 0xb, 0, 1⟩) ∧
    (decode [0x2718, 0x0001, 0x2028, 0x8590]).toOption = some (.amomin ⟨0x80, 0, 9, 0, 0, 0xa, 0, 1, 0xb, 0, 1⟩) ∧
    (decode [0x2728, 0x0001, 0x2028, 0x8590]).toOption = some (.amomax ⟨0x80, 0, 9, 0, 0, 0xa, 0, 1, 0xb, 0, 1⟩) := by
  decide +kernel

theorem test_decode_amoand_to_bexp :
    (decode [0x2738, 0x0001, 0x2028, 0x8590]).toOption = some (.amoand ⟨0x80, 0, 9, 0, 0, 0xa, 0, 1, 0xb, 0, 1⟩) ∧
    (decode [0x2748, 0x0001, 0x2028, 0x8590]).toOption = some (.amoor ⟨0x80, 0, 9, 0, 0, 0xa, 0, 1, 0xb, 0, 1⟩) ∧
    (decode [0x2758, 0x0001, 0x2028, 0x8590]).toOption = some (.amoxor ⟨0x80, 0, 9, 0, 0, 0xa, 0, 1, 0xb, 0, 1⟩) ∧
    (decode [0x2768, 0x0001, 0x2028, 0x8590]).toOption = some (.amoswp ⟨0x80, 0, 9, 0, 0, 0xa, 0, 1, 0xb, 0, 1⟩) ∧
    (decode [0x2778, 0x0001, 0x2028, 0x8590]).toOption = some (.amocas ⟨0x80, 0, 9, 0, 0, 0xa, 0, 1, 0xb, 0, 1⟩) ∧
    (decode [0x2781, 0x0001, 0x2028, 0x8590]).toOption = some (.amofadd ⟨0x10, 0, 9, 0, 0, 0xa, 0, 1, 0xb, 0, 1⟩) ∧
    (decode [0x2791, 0x0062, 0x2028, 0x8000]).toOption = some (.vamoadd ⟨0x10, 3, 0x11, 0, 0, 0xa, 0, 1, 0, 0, 0⟩) ∧
    (decode [0x2800, 0x0001, 0x2028, 0x8590]).toOption = some (.fadd ⟨0, 0, 9, 0, 0, 0xa, 0, 1, 0xb, 0, 1⟩) ∧
    (decode [0x2810, 0x0001, 0x2028, 0x8590]).toOption = some (.fset ⟨0, 0, 9, 0, 0, 0xa, 0, 1, 0xb, 0, 1⟩) ∧
    (decode [0x2820, 0x0001, 0x2028, 0x8590]).toOption = some (.farm ⟨0, 0, 9, 0, 0, 0xa, 0, 1, 0xb, 0, 1⟩) ∧
    (decode [0x2830, 0x0000, 0x0028, 0x8590]).toOption = some (.binit ⟨0, 0, 0, 0, 0, 0xa, 0, 1, 0xb, 0, 1⟩) ∧
    (decode [0x2840, 0x0000, 0x0028, 0x8590]).toOption = some (.bexp ⟨0, 0, 0, 0, 0, 0xa, 0, 1, 0xb, 0, 1⟩) := by
  decide +kernel

theorem test_decode_bwait_to_brkl :
    (decode [0x2850, 0x0001, 0x2028, 0x8010]).toOption = some (.bwait ⟨0, 0, 9, 0, 0, 0xa, 0, 1, 0, 0, 1⟩) ∧
    (decode [0x2860, 0x0001, 0x2028, 0x8000]).toOption = some (.btest ⟨0, 0, 9, 0, 0, 0xa, 0, 1, 0, 0, 0⟩) ∧
    (decode [0x2870, 0x0000, 0x0028, 0x8000]).toOption = some (.binv ⟨0, 0, 0, 0, 0, 0xa, 0, 1, 0, 0, 0⟩) ∧
    (decode [0x2882, 0x5001, 0x2028, 0x8590]).toOption = some (.rginit ⟨0x25, 0, 9, 0, 0, 0xa, 0, 1, 0xb, 0, 1⟩) ∧
    (decode [0x2892, 0x5001, 0x2000, 0x0000]).toOption = some (.rgtake ⟨0x25, 0, 9, 0, 0, 0, 0, 0, 0, 0, 0⟩) ∧
    (decode [0x2900, 0x5000, 0x0028, 0x8000]).toOption = some (.sbind ⟨5, 0, 0, 0, 0, 0xa, 0, 1, 0, 0, 0⟩) ∧
    (decode [0x2910, 0x5000, 0x0000, 0x0000]).toOption = some (.sunbind ⟨5, 0, 0, 0, 0, 0, 0, 0, 0, 0, 0⟩) ∧
    (decode [0x2920, 0x5001, 0x2000, 0x0000]).toOption = some (.sstat ⟨5, 0, 9, 0, 0, 0, 0, 0, 0, 0, 0⟩) ∧
    (decode [0x2A01, 0x6000, 0x8000, 0x0005]).toOption = some (.lix ⟨5, 1, 0x80000005⟩) ∧
    (decode [0x2A10, 0, 0, 0]).toOption = some .brkl := by
  decide +kernel

theorem test_decode_vqmx_to_vins :
    (decode [0x2193, 0x0062, 0x0881, 0x8800]).toOption = some (.vqmx ⟨0x30, 3, 0x10, 1, 0, 0x20, 1, 1, 0x10, 0, 0⟩) ∧
    (decode [0x21BE, 0x0062, 0x0882, 0x8800]).toOption = some (.vqnb ⟨0xe0, 3, 0x10, 1, 0, 0x20, 2, 1, 0x10, 0, 0⟩) ∧
    (decode [0x21C1, 0x0062, 0x1081, 0x8000]).toOption = some (.vdqnb ⟨0x10, 3, 0x10, 2, 0, 0x20, 1, 1, 0, 0, 0⟩) ∧
    (decode [0x2241, 0x0001, 0x2084, 0x8150]).toOption = some (.vextr ⟨0x10, 0, 9, 0, 0, 0x21, 0, 1, 2, 2, 1⟩) ∧
    (decode [0x2251, 0x0002, 0x2024, 0x8150]).toOption = some (.vins ⟨0x10, 0, 0x11, 0, 0, 9, 0, 1, 2, 2, 1⟩) := by
  decide +kernel


/-! ## States that the witnesses start from -/

/-- The value of a part of a word that neither traps nor waits, held to a check. -/
def has {α : Type} (m : M α) (s : State) (p : α → State → Bool) : Bool :=
  match got m s with
  | some (a, t) => p a t
  | none => false

/-- A translation that fails with a fault of its own, not for an entry behind a window. -/
def fails (r : Except MemErr Leaf) : Bool :=
  match r with
  | .error e => e.entryAt == none
  | .ok _ => false

/-- The module with one running core whose three engines stand at 0x1000. -/
def coreAt (n : Nat) (f : Ctx → Ctx) (g : Core → Core) : State :=
  let e : EngCtx := { pc := 0x1000, halted := false }
  { State.reset with turn := n, cores := [(n, g { running := true, ctx := f { t := e, m := e, c := e } })] }

def base : State := coreAt 0 id id
def withX (l : List (Nat × Reg Word)) : State := coreAt 0 (fun c => { c with x := l }) id
def empty : Reg Word := { val := 0, fill := .empty }
def full (v : Word) : Reg Word := { val := v }
def inSup (c : Core) : Core := { c with sup := true }
def inTrap (c : Core) : Core := { c with sup := true, intrap := true, tpct := 0x2000, teng := 0 }

/-- Pages: 0 text at 0x50000, 1 DRAM at 0x500000, 2 the scratchpad of core 0, 3 DEFER cells at 0x600000, 4 DRAM of the second
D-stack, 5 control space, 6 the scratchpad of core 1024, 7 DRAM at 0x500000 with NC. -/
def pages (s : State) : State :=
  -- 0x10000: 0x20001; 0x20000: 0x30001; 0x30000: 0x40001; from 0x40000: 0x5001B, 0x500017, 0x030000000007, 0x600067,
  -- 0x000C00500017, 0xFF0000000017, 0x030002000007, 0x500117
  { s with
    fw := { s.fw with started := true, roots := [(0, 0x10000)] },
    mem := [(0x10000, 1), (0x10002, 2), (0x20000, 1), (0x20002, 3), (0x30000, 1), (0x30002, 4), (0x40000, 0x1B), (0x40002, 5),
      (0x40008, 0x17), (0x4000A, 0x50), (0x40010, 7), (0x40015, 3), (0x40018, 0x67), (0x4001A, 0x60), (0x40020, 0x17), (0x40022, 0x50),
      (0x40024, 0x0C), (0x40028, 0x17), (0x4002D, 0xFF), (0x40030, 7), (0x40033, 2), (0x40035, 3), (0x40038, 0x17), (0x40039, 1),
      (0x4003A, 0x50)] }

/-- A state with further bytes, at addresses above those it lists. -/
def also (s : State) (l : List Host.Cell) : State := { s with mem := s.mem ++ l }
def paged (l : List (Nat × Reg Word)) : State := pages (withX l)

/-- The bytes other than zero of a context image at 0x500000 with 16 registers allotted (Table 12-5). -/
def imageCells : List Host.Cell := [(0x500000, 1), (0x500002, 1), (0x500004, 0x80), (0x500005, 0x17), (0x500070, 16)]

/-- A vector word with its registers: full width, all lanes, no transient. -/
def vw (d a b : BitVec 8) (fn8 : BitVec 8) : VForm :=
  { fn8 := fn8, pg := 0, d := d, dw := 0, dt := 0, a := a, aw := 0, ab := 0, b := b, bw := 0, bb := 0 }

/-! ## Every hypothesis can be met: integer words, traps and control -/

/-- Hypotheses of `IntegerWordsWriteTheirResult`. -/
theorem wit_IntegerWords :
    let s := withX [(3, full 7), (4, full 9), (5, empty)]
    (s.ctx.xReady 3 && s.ctx.xReady 4 && s.ctx.xWritable 5 && s.ctx.xWritable 0 && s.ctx.xReady 63) = true ∧
      ((0 : BitVec 2) ≠ 2 ∨ s.ctx.xReady 5 = true) := by decide +kernel

/-- Hypotheses of `ImmediateWordsWriteTheirResult`. -/
theorem wit_ImmediateWords :
    let s := withX [(3, full 7), (5, empty)]
    (s.ctx.xReady 3 && s.ctx.xWritable 5 && (Instr.shli ⟨5, 3, 0, 63⟩).wf && (Instr.shri ⟨5, 3, 0, 63⟩).wf &&
      (Instr.shai ⟨5, 3, 0, 63⟩).wf && s.ctx.xReady 3 && s.ctx.xWritable 3) = true ∧
      ((0 : BitVec 1) = 0 ∨ s.ctx.xReady 5 = true) := by decide +kernel

/-- Hypotheses of `IntegerResultsFollowTheTables`. -/
theorem wit_IntegerResults :
    let a : Word := 0x8000000000000000
    ((1 : Word) ≠ 0 ∧ ¬(a = 0x8000000000000000 ∧ (1 : Word) = -1)) ∧ ((-1 : Word) ≠ 0 ∧ ¬((1 : Word) = 0x8000000000000000 ∧ (-1 : Word) = -1)) ∧
      a ≠ 0 := by decide +kernel

/-- Hypotheses of `EmptyOperandTrapsOrWaits`. -/
theorem wit_EmptyOperand :
    let s := withX [(3, empty), (4, full 9)]
    s.awaits .t = false ∧ (s.ctx.regX 3).fill = .empty ∧ s.ctx.xReady 4 = true ∧
      Instr.add ⟨1, 3, 1, 4, 0, 0⟩ ∈ [Instr.add ⟨1, 3, 1, 4, 0, 0⟩] ∧ Instr.addi ⟨1, 3, 0, 1⟩ ∈ [Instr.addi ⟨1, 3, 0, 1⟩] := by
  decide +kernel

/-- Hypotheses of `HandshakeWordsMoveThroughFillStates`. -/
theorem wit_Handshake :
    let s := withX [(2, empty), (3, full 7), (4, { val := 1, fill := .empty, pend := some .full })]
    s.ctx.xReady 3 = true ∧ s.ctx.xReady 0 = true ∧ (s.ctx.regX 2).fill = .empty ∧ (2 : BitVec 6) ≠ 0 ∧ s.ctx.xWritable 2 = true ∧
      (s.ctx.regX 5).fill ≠ .empty ∧ (s.ctx.regX 4).pend ≠ none ∧ s.ctx.writable .x 3 = true ∧ s.ctx.xWritable 3 = true := by
  decide +kernel

/-- Hypotheses of `BranchesGoToTheirTargets`. -/
theorem wit_Branches :
    let s := withX [(3, full 0x00FFFFFFFFFFFFFE), (4, full 1), (63, empty)]
    let pc : Word := s.ctx.t.pc.zeroExtend 64
    let low := coreAt 0 (fun c => { c with t := { c.t with pc := 0 } }) id
    (pc + 2 * (0x1FFFFF : BitVec 22).signExtend 64).toNat < 2 ^ 56 ∧ s.ctx.xWritable 63 = true ∧
      2 ^ 56 ≤ ((low.ctx.t.pc.zeroExtend 64 : Word) + 2 * (0x3FFFFF : BitVec 22).signExtend 64).toNat ∧
      (s.ctx.xReady 3 && s.ctx.xWritable 1 && s.ctx.xWritable 0) = true ∧
      ((s.ctx.regX 3).val + 2 * (0 : BitVec 9).signExtend 64).getLsbD 0 = false ∧
      ((s.ctx.regX 3).val + 2 * (0 : BitVec 9).signExtend 64).toNat < 2 ^ 56 ∧
      s.ctx.xReady 4 = true ∧ ((s.ctx.regX 4).val + 2 * (0 : BitVec 9).signExtend 64).getLsbD 0 = true ∧ s.awaits .t = false ∧
      (pc + 2 * (0x200 : BitVec 10).signExtend 64).toNat < 2 ^ 56 ∧
      s.ctx.closed.pReady 0 = true ∧ (pc + 2 * (0xFFF : BitVec 13).signExtend 64).toNat < 2 ^ 56 := by
  decide +kernel

/-- Hypotheses of `CsrWordsReadThenWrite`. -/
theorem wit_CsrWords :
    let s := withX [(3, full 7)]
    let u := coreAt 0 id inSup
    (!csrSup 0x012 && csrSup 0x051 && s.ctx.xWritable 5 && s.ctx.xReady 3 && (u.core u.turn).sup) = true ∧
      (!csrSup 0x051 || (s.core s.turn).sup) = false ∧ s.awaits .t = false ∧
      (csrWrite (s.setCtx s.ctx.closed) s.turn 0x031 12).isSome = true ∧ (csrWrite (s.setCtx s.ctx.closed) s.turn 0x031 13).isNone = true ∧
      Instr.csrr ⟨5, 3, 0, 0x051⟩ ∈ [Instr.csrr ⟨5, 3, 0, 0x051⟩] := by decide +kernel

/-- Hypotheses of `CsrWritesKeepTheirFields`. -/
theorem wit_CsrFields :
    ∀ n ∈ [0x058, 0x059, 0x05A, 0x05B], (csrWrite base 0 n 0xFFFF).isSome = true := by decide +kernel

/-- Hypotheses of `FencesIdsAndFetchControlComplete`. -/
theorem wit_FencesAndFetch :
    let s := paged [(3, full 0x1FFFF), (4, full 1)]
    let low := coreAt 0 (fun c => { c with flags := 1, trapen := 1 }) id
    let s0 := s.setCtx s.ctx.closed
    releaseWaits s0 (effScope s0 s.turn 3 0) = false ∧ (4 < 4 ∨ launchedHere s0 = []) ∧ (1 : BitVec 3) = 1 ∧
      s.ctx.flags &&& s.ctx.trapen = 0 ∧ low.ctx.flags &&& low.ctx.trapen ≠ 0 ∧ low.awaits .t = false ∧
      s.ctx.xReady 3 = true ∧ s.ctx.xReady 4 = true ∧ (s.ctx.regX 0).val = 0 ∧
      0xFFFF % 65536 + 1 ≤ 65536 ∧ (translateHere s0 0x1FFFF aLoad).toOption.isSome = true ∧
      fails (translateHere s0 0x100000 aLoad) = true ∧ s.pins = [] ∧ s.awaits .t = false ∧ s.ctx.xWritable 5 = true := by
  decide +kernel

/-- Hypotheses of `TrappingWordsTakeTheirTrap`. -/
theorem wit_TrappingWords :
    (base.awaits .t || base.awaits .m || base.awaits .c || base.awaits base.eng) = false ∧ base.epi.at_ = none ∧ 255 < 256 ∧
      (base.core base.turn).intrap = false ∧ base.ctx.window = [] := by decide +kernel

/-- Hypotheses of `AllotAndRotationWordsChangeTheContext`. -/
theorem wit_AllotAndRotation :
    let s := coreAt 0 (fun c => { c with vsize := 16, recipes := [(1, ⟨[.addi ⟨1, 2, 0, 0⟩], .x, 1, [(.x, 2)], 0⟩)] }) id
    let w := coreAt 0 (fun c => { c with vallot := 144 }) id
    let c := s.ctx.closed
    c.vallot ≤ 64 ∧ s.ctx.xWritable 3 = true ∧ 63 < c.vallot ∧ 32 < c.vallot ∧ 16 + c.vsize ≤ 32 ∧ 31 < 16 + c.vsize ∧
      (∀ e ∈ c.recipes, c.fill e.2.kind e.2.target ≠ .dropped) ∧ s.awaits .t = false ∧
      (8 * ((0x108 : BitVec 9).toNat / 16) ≤ 128 ∧ 8 * ((0x108 : BitVec 9).toNat % 16) ≤ 64 ∧ 16 + 128 ≤ w.ctx.closed.vallot) ∧
      (128 < 8 * ((0x110 : BitVec 9).toNat / 16)) ∧ (64 < 8 * ((0x009 : BitVec 9).toNat % 16)) ∧ s.ctx.xReady 3 = true := by
  decide +kernel

/-- Hypotheses of `AllotAndRotationWordsChangeTheContext`. -/
theorem wit_RotationSet :
    let fits (c : Ctx) (a : Nat) : Bool := a < 65536 && (if 0 < c.vsize then a % 256 < c.vsize else a % 256 == 0) &&
      (if 0 < c.psize then a / 256 % 256 < c.psize else a / 256 % 256 == 0)
    let c : Ctx := { vsize := 16, psize := 8 }
    fits c 0x070F = true ∧ fits c 0x0710 = false ∧ fits c 0x080F = false ∧ fits {} 0 = true ∧ fits {} 1 = false := by decide +kernel

/-- Hypotheses of `TakingATrapSavesTheCore`. -/
theorem wit_TakingATrap :
    (base.core 0).intrap = false ∧ ((coreAt 0 id inTrap).core 0).intrap = true ∧ (1 : Nat) ≠ 0 ∧ base.waiters = [] := by
  decide +kernel

/-- Hypotheses of `SupervisorWordsLeaveTheTrap`. -/
theorem wit_SupervisorReturn :
    let s := coreAt 0 id inSup
    let t := (coreAt 0 (fun c => { c with displ := 0x000108180000_0000 }) inTrap).modDie 0 fun d => { d with pslots := 1, pbase := 0x800000 }
    let x := coreAt 0 id fun c => { inTrap c with shadow := some {} }
    base.awaits .t = false ∧ (base.core 0).sup = false ∧ (s.core 0).sup = true ∧ (s.core 0).intrap = false ∧
      (t.core 0).sup = true ∧ (t.core 0).intrap = true ∧
      fitsEng (tagOf ((displParcels (t.core 0).ctx).headD 0)) (t.core 0).teng.toNat = true ∧ (t.core 0).shadow = none ∧
      (x.core 0).shadow ≠ none ∧ fqBlocked (t.die 0) = false ∧ freeSlots (t.die 0) = [0] := by decide +kernel

/-- Hypotheses of `SupervisorDataWordsActOrTrap`. -/
theorem wit_SupervisorData :
    let s := (paged [(3, full 4095), (4, full 4096), (6, full 0xFFFF), (7, full 0x10000)]).modCore 0 inSup
    let s0 := s.setCtx s.ctx.closed
    let x : State := { s with mem := imageCells }
    let sp := leBytes 8 (0x80 + 0x00FF * 2 ^ 32) ++ List.replicate 120 0
    let g := also s [(0x500080, 0x80), (0x500084, 0xFF)]
    let pend : State := { s0 with waiters := [⟨.core 0 .m, { act := .load, pieces := [] }, .none, .cell 0x600000, 1, false⟩] }
    (base.core 0).sup = false ∧ base.awaits .t = false ∧ (s.core 0).sup = true ∧ s.awaits .t = false ∧
      (s.ctx.xReady 3 && s.ctx.xReady 4 && s.ctx.xReady 6 && s.ctx.xReady 7 && s.ctx.xWritable 5) = true ∧
      ((s.modCore 0 fun c => { c with shadow := some {} }).core 0).shadow = some {} ∧ 0x500000 % 64 = 0 ∧ isDram 0x500000 = true ∧
      (locate s0 0x500000).toOption.isSome = true ∧ (x.core 0).shadow = none ∧ accessPending s0 4095 = false ∧
      accessPending s0 s.ctx.asid.toNat = false ∧ accessPending pend 0 = true ∧
      ((loadImage (wakeImage x 0x500000) 0x500000).map (·.vallot)) = some 16 ∧ 16 ≤ (x.core 0).poolFree ∧
      has (loadRange 0x10080 128) g (fun b _ => b == sp) = true ∧ (decodeGroup sp).2 = true ∧ (translateHere s0 0x20000 0).toOption.isSome = true ∧
      fails (translateHere s0 0x100000 0) = true ∧
      membershipOk (mapSet g.fw.groups 255 (decodeGroup sp).1) = true ∧
      ((translateHere s0 0x10000 aLoad).toOption.map (·.cls)) = some 1 ∧ (0x10001 % 4 = 1 ∧ 0x10001 / 65536 = 1) ∧
      ((translateHere s0 0x20000 aLoad).toOption.map (·.cls)) = some 0 ∧ coreOk (0xFF0000 / 65536) = true ∧ 0xFF0000 % 65536 < 4 := by
  decide +kernel

/-! ## Memory -/

def stashed (s : State) (va : Nat) : State :=
  s.modCore 0 fun c => { c with stashn := 1, stmap := [(0, { gran := 0, valid := true, va := va / 2048 })] }

/-- Hypotheses of `AlignedAccessesArePlacedByTheirPage`. -/
theorem wit_AlignedAccesses :
    let s := paged []
    let leaf (s : State) (va : Word) (p : Leaf → Bool) : Bool := (translateHere s va 0).toOption.any p
    2 ^ 56 ≤ (0x0100000000000000 : Word).toNat ∧ ((0x10001 : Word).toNat < 2 ^ 56 ∧ (0x10001 : Word).toNat % 2 ≠ 0) ∧
      (0x00FFFFFFFFFFFFF8 : Word).toNat < 2 ^ 56 ∧ (0x00FFFFFFFFFFFFF8 : Word).toNat % 8 = 0 ∧
      fails (translateHere s 0x00FFFFFFFFFFFFF8 0) = true ∧ leaf s 0x1FFF8 (fun _ => true) = true ∧ (s.core 0).stashn = 0 ∧
      leaf (stashed s 0x10000) 0x107F8 (fun l => isDram l.pa && !l.nc && !l.defer) = true ∧
      (stashEntry (stashed s 0x10000) 0x107F8).isSome = true ∧
      leaf (stashed s 0x70000) 0x70000 (fun l => isDram l.pa && l.nc) = true ∧ (stashEntry (stashed s 0x70000) 0x70000).isSome = true ∧
      leaf (stashed s 0x30000) 0x30000 (fun l => isDram l.pa && l.defer) = true := by decide +kernel

/-- Page tables of one entry a level, for address 0; the 4 MiB entry of level 1 is the same one. -/
def walked (e3 e2 e1 e0 : Nat) : State :=
  let put (s : State) (a v : Nat) : State := placeBytes s a (leBytes 8 v)
  put (put (put (put { base with fw := { base.fw with roots := [(0, 0x10000)] } } 0x10000 e3) 0x20000 e2) 0x30000 e1) 0x40000 e0

/-- Hypotheses of `TranslationWalksFourLevels`. -/
theorem wit_Translation :
    let e (s : State) (a : Nat) : Nat := match read64 s a with
      | .ok e => e
      | .error _ => 8
    let far : State := { walked 0 0 0 0 with fw := { (walked 0 0 0 0).fw with
      roots := [(0, 0x700000000000)], fwin := [(0, { rmod := 5, valid := true })] } }
    let next (e : Nat) : Bool := e % 2 == 1 && e / 2 % 2 ^ 15 == 0
    mapFind (walked 0 0 0 0).fw.roots 0 = some 0x10000 ∧ mapFind far.fw.roots 0 = some 0x700000000000 ∧
      (read64 far 0x700000000000).toOption = none ∧ e (walked 0 0 0 0) 0x10000 % 2 = 0 ∧
      (e (walked 3 0 0 0) 0x10000 % 2 = 1 ∧ e (walked 3 0 0 0) 0x10000 / 2 % 2 ^ 15 ≠ 0) ∧
      (next (e (walked 0x20001 3 0 0) 0x10000) = true ∧ e (walked 0x20001 0 0 0) 0x20000 % 2 = 0) ∧
      (e (walked 0x20001 3 0 0) 0x20000 % 2 = 1 ∧ e (walked 0x20001 3 0 0) 0x20000 / 2 % 2 ^ 15 ≠ 0) ∧
      (let s := walked 0x20001 0x30001 0x40001 0x500017
       next (e s 0x10000) = true ∧ next (e s 0x20000) = true ∧ next (e s 0x30000) = true ∧ e s 0x40000 % 2 = 1) ∧
      e (walked 0x20001 0x30001 0 0) 0x30000 % 2 = 0 ∧ e (walked 0x20001 0x30001 0x40001 0) 0x40000 % 2 = 0 ∧
      (let s := walked 0x20001 0x30001 0x40401 0x400017
       let big := e s 0x40000
       next (e s 0x20000) = true ∧ e s 0x30000 % 2 = 1 ∧ e s 0x30000 / 2 % 2 ^ 9 = 0 ∧ (e s 0x30000).testBit 10 = true ∧ big % 2 = 1 ∧
         big / 2 ^ 16 % 2 ^ 6 = 0 ∧ (checkLeaf big 0 true).toOption.isSome = true) ∧
      (∀ a ∈ [0, 1, 3, 4, 5, 6, 7], (checkLeaf 0x500017 a true).toOption.isSome = true) ∧
      (checkLeaf 0x5001B 2 true).toOption.isSome = true ∧ (checkLeaf 0x500817 0 false).toOption.isSome = true := by decide +kernel

/-- Hypotheses of `PlainAccessesReadAndWriteTheirBytes`. -/
theorem wit_PlainAccesses :
    let s := paged []
    let bad : State := { s with poison := [(0x500000, true)] }
    let mine : State := { s with owners := [(0x50, some 0)] }
    let p : Piece := ⟨0x50007F, 1, 1, false, 0, 0, false, true⟩
    let own : Piece := { p with cls := 0 }
    let mask := [true, false]
    0 < p.len ∧ p.nc = true ∧ p.stash = false ∧ heldAway s (.core 0 .t) p = false ∧ (∀ i < 1, isDram (p.pa + i) = true ∧ (locate s (p.pa + i)).toOption.isSome = true) ∧ p.defer = false ∧
      cutOff s (.core 0 .t) p.pa = false ∧ answerLost s (.core 0 .t) p.pa = false ∧ wake s p.pa = s ∧ mapGet none s.owners (p.pa / 0x10000) = none ∧
      (own.cls = 0 ∧ mapGet none mine.owners (p.pa / 0x10000) = coreOf mine (.core 0 .t)) ∧ s.poisoned p.pa = false ∧
      (wake bad p.pa = bad ∧ bad.poisoned p.pa = true ∧
        ((List.range 1).any fun i => (nibSel mask i).1 || (nibSel mask i).2) = true) ∧ s.pins = [] := by
  decide +kernel

/-- Hypotheses of `PlainAccessesReadAndWriteTheirBytes`: a line of the core's L1. -/
theorem wit_CachedAccesses :
    let l : Line := { addr := 0x500000, cls := 1, data := List.replicate 128 7 }
    let s := base.modCore 0 fun c => { c with l1 := [l] }
    let p : Piece := ⟨0x500008, 8, 1, false, 0, 0, false, false⟩
    copyHit s 0 p = some l ∧ ownerLets s 0 p = true ∧ mayWrite s [] 0 p = true ∧ ((s.core 0).l1.filter fun x => l1Set x.addr == l1Set l.addr).length ≤ 4 := by
  decide +kernel


/-- x3 holds an aligned address of DRAM, x5 is EMPTY; p1 selects no lane and p2 eight bytes. -/
def loadState : State := paged [(3, full 0x10000), (5, empty)]
def vecState : State := loadState.setCtx { loadState.ctx with p := [(2, { val := 0xFF })] }

/-- Hypotheses of `LoadsDeliverTheirBytes`. -/
theorem wit_Loads :
    let s := loadState
    let v := vecState
    let f := vw 4 3 0 0
    let onto (n : Nat) (signed : Bool) : Bool := has (reach 2 ((s.ctx.regX 3).val + (0xFF : BitVec 9).signExtend 64 * BitVec.ofNat 64 n) n
      aLoad (fun p => { act := .load, pieces := [p], scalar := true }) (.x 5 n signed)) s fun _ t => t.ctx == s.ctx
    let group (dt : Nat) (va : Word) : Bool := has (groupPieces va 1 aLoad) v fun ps t0 =>
      (dt == 0 || ps.all fun p => (ownPad v.turn p).isSome) &&
        has (tAccess 4 { act := .load, pieces := ps, mask := nibMask 0xFF 1 } (.v (members v.ctx 4 1) (nibPlaces 0xFF 1))) t0 fun _ t =>
          t.ctx == v.ctx
    (s.ctx.xReady 3 && s.ctx.xWritable 5 && onto 1 false && onto 2 false && onto 4 false && onto 8 false && onto 1 true && onto 2 true &&
      onto 4 true) = true ∧
      (v.ctx.xReady 3 && v.ctx.xReady 0 && v.ctx.pReady 1 && v.ctx.pReady 2 && v.ctx.vWritable 4 1 false && v.ctx.vWritable 4 1 true) = true ∧
      f.d.toNat < 240 ∧ v.ctx.pVal 1 = 0 ∧ v.ctx.pVal 2 ≠ 0 ∧ group 0 0x10040 = true ∧ group 1 0x20040 = true := by
  decide +kernel

/-- Hypotheses of `StoresWriteTheirOperand`. -/
theorem wit_Stores :
    let s := loadState
    let v := vecState
    let onto (n : Nat) : Bool := has (reach 2 ((s.ctx.regX 3).val + (0x0FF : BitVec 9).signExtend 64 * BitVec.ofNat 64 n) n aStore
      (fun p => { act := .store, pieces := [p], data := leBytes n 7, scalar := true }) .none) (s.setCtx s.ctx.closed) fun _ _ => true
    let nib : Int := 2 * (0x10000 : Int) + ((0x0FF : BitVec 9).toInt)
    let half : Bool := has (reach 2 (BitVec.ofInt 64 (nib / 2)) 1 aStore (fun p =>
      { act := .store, pieces := [p], data := [0x77], mask := [nib % 2 == 0, nib % 2 == 1], scalar := true }) .none)
      (s.setCtx s.ctx.closed) fun _ _ => true
    let v0 := v.setCtx v.ctx.closed
    let group : Bool := has (groupPieces 0x10040 1 aStore) v0 fun ps t0 => has (tAccess 4 { act := .store, pieces := ps, data := leBytes 64 0, mask := nibMask 0xFF 1 } .none) t0 fun _ _ => true
    let tagged : Bool := has (taggedGroup 0x20040 aTagStore) { v0 with tags := (List.range 16).map fun i => (padAddr 0 0x40 / 4 + i, 0) } fun ps t0 => has (tAccess 4 { act := .tagStore 0, pieces := ps, data := leBytes 64 0, mask := nibMask 0xFF 1 } .none) t0 fun _ _ => true
    let is := (List.range 16).filter (active 0xFF 0)
    let scat : Bool := has (placeElems 0 0x10000 0 aStore .store is []) v0 fun ps t0 => has (tAccess 4 { act := .store, pieces := ps, data := is.flatMap (fun _ => leBytes 4 0), mask := elemMask 0 0x10000 0 is } .none) t0 fun _ _ => true
    (s.ctx.xReady 3 && s.ctx.xReady 4 && onto 1 && onto 2 && onto 4 && onto 8 && half) = true ∧
      (v.ctx.xReady 3 && v.ctx.xReady 0 && v.ctx.closed.pReady 1 && v.ctx.closed.pReady 2 && v.ctx.closed.vReady 4 1 && v.ctx.closed.vReady 5 1) = true ∧
      group = true ∧ tagged = true ∧ ((8 ≤ tyBits 0 → (0x10000 : Word).toNat % (tyBits 0 / 8) = 0) ∧
        (List.range 16).filter (active 0 0) = [] ∧ is ≠ []) ∧ scat = true := by
  decide +kernel

/-- Hypotheses of `TaggedWordsMoveWordsByTheirTags`. -/
theorem wit_TaggedWords :
    let s := paged [(3, full 0x20000), (5, empty)]
    let s0 := s.setCtx s.ctx.closed
    let ld (clear : Bool) : Bool := has (reach 2 0x20000 4 aTagLoad (fun p => { act := .tagLoad clear, pieces := [p] }) (.x 5 4 false)) s0
      fun _ t => t.ctx == s0.ctx
    let at_ (tag : BitVec 2) : State := { s0 with tags := [(padAddr 0 0 / 4, tag)] }
    let st (k : Nat) (tag : BitVec 2) : Bool := has (reach 2 0x20000 4 aTagStore (fun p => { act := .tagStore k, pieces := [p], data := leBytes 4 0 })
      .none) (at_ tag) fun _ _ => true
    (s.ctx.xReady 3 && s.ctx.xWritable 5 && s.ctx.xReady 4 && ld false && ld true && st 0 0 && st 1 0 && st 1 1 && st 2 1) = true := by
  decide +kernel

/-- Hypotheses of `TaggedWordsMoveWordsByTheirTags`. -/
theorem wit_TaggedGroups :
    let v := vecState
    let c := v.ctx.closed
    let v0 := v.setCtx c
    let group : Bool := has (taggedGroup 0x20040 aTagLoad) v0 fun ps t0 => has (tAccess 4 { act := .tagLoad false, pieces := ps }
      (.v (members c 4 1) (nibPlaces 0xFF 1))) t0 fun _ t => t.ctx == c
    let is := (List.range 16).filter (active 0xFF 0)
    let nibs := is.flatMap fun i => (List.range 8).map (· + elemBit 0 i / 4)
    let gath : Bool := has (placeElems 0 0x10000 0 aLoad .load is []) v0 fun ps t0 => has (tAccess 4 { act := .load, pieces := ps, mask := elemMask 0 0x10000 0 is } (.v (members c 4 1) nibs)) t0 fun _ t => t.ctx == c
    (v.ctx.xReady 3 && c.pReady 2 && c.vWritable 4 1 false && c.vReady 5 1 && group && gath) = true ∧ is ≠ [] ∧
      (List.range 16).filter (active 0 0) = [] ∧ (4 : Nat) < 240 := by decide +kernel

/-- Hypotheses of `TaggedWordsMoveWordsByTheirTags`. -/
theorem wit_TagsAtAScratchpad :
    (0x5FFC < 0x6000 ∧ 0x5FFC % 4 = 0) ∧ coreOk 0 = true ∧ coreOk (63 * 1024 + 255) = true ∧ (leBytes 4 7).length = 4 ∧
      base.tag (padAddr 0 0x5FFC) = 1 := by decide +kernel

/-! ## Cells, atomics, barriers, units and recipes -/

/-- Hypotheses of `CellWordsActOnTheirCell`. -/
theorem wit_CellWords :
    let s := paged [(3, full 0x30000), (4, full 0x100), (6, full 0xFFFF), (7, full 0xFF), (8, full 0x10000)]
    let s0 := s.setCtx s.ctx.closed
    let rd (op : Nat) : Bool := has (cellPlace 0x30000 aLoad) s0 fun p t0 => !p.isRemote &&
      has (tAccess 4 { act := .cell op, pieces := [p] } (.x 5 8 false)) t0 fun _ t => t.ctx == s0.ctx
    let wr (op : Nat) : Bool := has (cellPlace 0x30000 aStore) s0 fun p t0 =>
      has (tAccess 4 { act := .cell op, pieces := [p], data := leBytes 128 0, arg := 0x100 } .none) t0 fun _ _ => true
    (s.ctx.xReady 3 && s.ctx.xWritable 5 && s.ctx.closed.vReady 4 2 && s.ctx.xReady 4 && rd 1 && rd 5 && wr 2 && wr 3 && wr 4) = true ∧
      s.awaits .t = false ∧ 0x100 ≤ (s.ctx.regX 4).val.toNat ∧ (s.ctx.regX 6).val.toNat ≤ 0xFFFF ∧ (s.ctx.regX 7).val.toNat < 0x100 ∧
      0xFFFF < (s.ctx.regX 8).val.toNat ∧ has (placeAligned 0x10080 128 128 aLoad) s (fun p _ => !p.defer) = true ∧
      has (placeAligned 0x30080 128 128 aLoad) s (fun p _ => p.defer) = true := by decide +kernel

/-- Hypotheses of `CellOperationsFollowTheTable`. -/
theorem wit_CellOperations :
    let at_ (t : BitVec 2) : State := { State.reset with cellTags := if t = 0 then [] else [(0x600000, t)] }
    0x600000 % 128 = 0 ∧ (leBytes 128 0).length = 128 ∧
      (∀ t ∈ [0, 1, 2, 3], (at_ t).cellTag 0x600000 = t ∧
        ∀ i < 128, isDram (0x600000 + i) = true ∧ (locate (at_ t) (0x600000 + i)).toOption.isSome = true) ∧
      isFollow (at_ 0) 0x600000 = false ∧ isFollow (at_ 3) 0x600000 = false := by decide +kernel

/-- Hypotheses of `AtomicAndFlagWordsReturnTheOldValue`. -/
theorem wit_Atomics :
    let s := paged [(3, full 0x10000)]
    let s0 := s.setCtx s.ctx.closed
    let amo (op : Nat) (uns : Bool) (ty : BitVec 4) : Bool := has (reach 4 0x10000 (tyBits ty / 8) aAtomic
      (fun p => { act := .amo op uns ty, pieces := [p], data := leBytes (tyBits ty / 8) 1 }) (.x 5 (tyBits ty / 8) (ty == 8))) s0
      fun _ t => t.ctx == s0.ctx
    let flag (op : Nat) (b : Word) : Bool := has (flagPlace 0x20008) s0 fun p t0 => !(op != 2 && releaseWaits t0 3) &&
      has (tAccess 4 { act := .flag op, pieces := [p], arg := b } (.x 5 8 false)) (if op = 2 then t0 else releaseScope t0 t0.turn 3) fun _ t => t.ctx == s0.ctx
    let vamo : Bool := has (groupPieces 0x10000 1 aAtomic) s0 fun ps t0 =>
      has (tAccess 4 { act := .vamo 8, pieces := ps, data := leBytes 64 1, mask := List.replicate 128 true } .none) t0 fun _ _ => true
    (s.ctx.xReady 3 && s.ctx.xReady 4 && s.ctx.xWritable 5 && s.ctx.closed.vReady 4 1 && s.ctx.closed.pReady 0 &&
      s.ctx.closed.pReady 1) = true ∧
      ((List.range 8).all fun op => amo op false 8 && amo op false 13) = true ∧ amo 1 true 8 = true ∧ amo 2 true 13 = true ∧ amo 8 false 0 = true ∧
      flag 0 1 = true ∧ flag 1 1 = true ∧ flag 2 0 = true ∧ vamo = true ∧
      (List.range 16).any (active (s.ctx.closed.pVal 1) 8) = false ∧ (List.range 16).any (active (s.ctx.closed.pVal 0) 8) = true := by
  decide +kernel

/-- Hypotheses of `AtomicAndFlagWordsReturnTheOldValue`. -/
theorem wit_Atomics_results : (tyBits 8 = 32 ∧ (32 = 32 ∨ 32 = 64)) ∧ (tyBits 13 = 64 ∧ (64 = 32 ∨ 64 = 64)) := by decide +kernel

/-- A barrier object at offset 0 of core 0's scratchpad: expected 2, phase 0. -/
def barred (s : State) : State :=
  also { s with tags := (List.range 4).map fun i => (padAddr 0 0 / 4 + i, 2) } [(padAddr 0 0, 2)]

/-- Hypotheses of `BarrierWordsActOnTheirObject`. -/
theorem wit_Barriers :
    let s := paged [(3, full 0x20000)]
    let s0 := s.setCtx s.ctx.closed
    let b := barred s0
    let place (s : State) (code : Nat) (made : Bool) : Bool := has (barrierPlace 0x20000 code made) s fun _ _ => true
    let wait : Bool := has (barrierPlace 0x20000 aTagLoad true) b fun p t =>
      has (tAccess 4 { act := .barWait true, pieces := [p] } (.x 5 4 false)) t fun _ t => t.ctx == s0.ctx
    (s.ctx.xReady 3 && s.ctx.xReady 4 && s.ctx.xWritable 5) = true ∧ place s0 aTagStore false = true ∧ place b aTagStore true = true ∧
      place b aTagLoad true = true ∧ wait = true ∧ (0x5FF0 % 16 = 0 ∧ 0x5FF0 < 0x6000 ∧ coreOk 0 = true ∧ b.waiters = []) ∧
      isBarrier b (padAddr 0 0) = true ∧ isBarrier b (padAddr 0 0x5FF0) = false := by
  decide +kernel

/-- The descriptor of a stream port over eight words at 0x10100, laid out at 0x500000 (Table 17-9). -/
def descriptor : List Host.Cell :=
  [(0x500001, 1), (0x500002, 1), (0x500008, 4), (0x500010, 8), (0x500014, 1), (0x500018, 1), (0x500020, 4)]

/-- Hypotheses of `RangeAndStreamWordsUseTheirUnits`. -/
theorem wit_RangesAndStreams :
    let s := also (paged [(3, full 0x10000), (4, full 0xFFFFFFFFFFFF), (6, full 0x1000000000000), (7, full 0xFFFFFFF),
      (8, full 0x10000000)]) descriptor
    let c := s.ctx.closed
    let bound (p : Option Stream → Bool) (a : Word) : Bool := has (descPieces a 3) (s.setCtx c) fun ps t0 =>
      has (tAccess 4 { act := .load, pieces := ps } .again) t0 fun bs t => t.ctx == c && p (streamOf bs)
    (s.ctx.xReady 3 && s.ctx.xReady 4 && s.ctx.xReady 6 && s.ctx.xReady 7 && s.ctx.xReady 8 && s.ctx.xWritable 5 && s.ctx.xWritable 6) = true ∧
      s.awaits .t = false ∧ (s.ctx.regX 4).val.toNat < 2 ^ 48 ∧ 2 ^ 48 ≤ (s.ctx.regX 6).val.toNat ∧ (s.ctx.regX 7).val.toNat < 2 ^ 28 ∧
      2 ^ 28 ≤ (s.ctx.regX 8).val.toNat ∧ ((0x70000 : Word).toNat < 2 ^ 56 ∧ (0x70000 : Word).toNat % 16 = 0) ∧
      bound Option.isSome 0x70000 = true ∧ bound Option.isNone 0x70040 = true := by decide +kernel

/-- Hypotheses of `RecipeWordsBindDropAndUnbind`. -/
theorem wit_Recipes :
    -- text: ADDI x5 = x6 + 1, then ADDI x5 = x5 + 1, whose source is the target
    let text := ([.addi ⟨5, 6, 0, 1⟩, .addi ⟨5, 5, 0, 1⟩] : List Instr).flatMap fun i => ((encode i).getD []).flatMap parcelBytes
    let dropped : Reg Word := { val := 0, fill := .dropped }
    let s := (placeBytes (paged [(5, full 0), (9, dropped)]) 0x50000 text)
    let slot : Recipe := ⟨[.addi ⟨9, 6, 0, 1⟩], .x, 9, [(.x, 6)], 0⟩
    let held := s.setCtx { s.ctx with recipes := [(1, { slot with target := 7 }), (2, slot)] }
    let c := s.ctx.closed
    let body (a : Word) (p : List Instr → Bool) : Bool := has (bodyWords a 1) (s.setCtx c) fun b t => t.ctx == c && p b
    (s.ctx.xReady 0 && s.ctx.xWritable 6) = true ∧ s.awaits .t = false ∧ isZeroReg .x 5 = false ∧ isZeroReg .x 0 = true ∧ isZeroReg .p 0 = true ∧
      body 0 (fun b => (checkBody c (.x, 5) b false []).isSome) = true ∧
      body 4 (fun b => (checkBody c (.x, 5) b false []).isNone) = true ∧ mapFind c.recipes 1 = none ∧
      (held.ctx.fill .x 7 ≠ .dropped) ∧ mapFind held.ctx.recipes 1 ≠ none ∧ (held.ctx.slotOf .x 7).isSome = true ∧ held.ctx.pending .x 7 = false ∧
      (held.ctx.slotOf .x 5).isNone = true ∧ (239 < 240 ∧ s.ctx.vallot ≤ 239 ∧ 63 < s.ctx.vallot) ∧ s.ctx.writable .x 5 = true := by
  decide +kernel

/-! ## Vector and engine words -/

/-- Hypotheses of `VectorArithmeticWritesItsActiveElements` and `VectorBitAndMoveWordsPlaceTheirElements` and `ConversionsQuantisersAndReductionsWriteTheirResult` and `PredicateWordsAndExtractionWriteTheirResult`. -/
theorem wit_VectorWords :
    let s := coreAt 0 (fun c => { c with v := [(9, { val := 0, fill := .empty })], x := [(3, full 0x7FFFFFFFFFFFFFFF)] }) id
    let w := coreAt 0 (fun c => { c with window := [⟨.v, 9, 7, 2, 0x900, 0, true⟩], v := [(9, { val := 0, fill := .empty })] }) id
    let f := vw 9 4 6 0
    let wide : VForm := { vw 48 56 60 0 with dw := 3, aw := 2, bw := 1 }
    s.ctx.vecReady f true true false = true ∧ s.ctx.vecReady { f with dt := 1 } true true false = true ∧
      w.ctx.vecReady (vw 4 9 6 0) true true true = true ∧ s.ctx.vecReady wide true true true = true ∧ s.ctx.xReady 3 = true ∧
      (s.ctx.closed.vecReady f false false false && s.ctx.vReady 63 1 && s.ctx.pReady 127 && s.ctx.pWritable 127 true &&
        s.ctx.pWritable 0 false && s.ctx.xWritable 63) = true ∧
      (VForm.fn { f with fn8 := 0x01 }).getLsbD 0 = true ∧ f.fn.getLsbD 0 = false := by decide +kernel

/-- Hypotheses of `VectorElementsFollowTheirType`. -/
theorem wit_VectorElements :
    (8 = 8 ∨ 8 = 9 ∨ 8 = 10 ∨ (8 : Nat) = 13) ∧ 0x80000000 < 2 ^ tyBits 8 ∧ 0x8000000000000000 < 2 ^ tyBits 13 ∧ 0x80 < 2 ^ tyBits 10 ∧
      (0 : Nat) < 1 := by decide +kernel

def withM (ps : List Word) (f : EngCtx → EngCtx) : State := coreAt 0 (fun c => { c with m := f { c.m with params := ps } }) id
def withC (ps : List Word) : State := coreAt 0 (fun c => { c with c := { c.c with params := ps } }) id

/-- Hypotheses of `EngineStackWordsTurnTheirTopEntries`. -/
theorem wit_EngineStack :
    let row : Eng × Instr × Instr × Instr × Instr × Instr × Instr × Instr × Instr :=
      (Eng.c, Instr.cnop, .cdup, .cdrop, .cswap, .cover, .cadd, .cor, .cshl 63)
    row ∈ [row] ∧ base.awaits .c = false ∧
      ((withM [1, 2, 3, 4, 5, 6, 7] id).ctx.eng .m).params = 1 :: [2, 3, 4, 5, 6, 7] ∧ [2, 3, 4, 5, 6, 7].length < 7 ∧
      ((withM [1, 2, 3, 4, 5, 6, 7, 8] id).ctx.eng .m).params = 1 :: 2 :: [3, 4, 5, 6, 7, 8] ∧ [3, 4, 5, 6, 7, 8].length < 7 ∧
      [3, 4, 5, 6, 7].length < 6 ∧ (base.ctx.eng .m).params = [] ∧ ((withM [1] id).ctx.eng .m).params.length < 2 ∧
      ((withC [1, 2, 3, 4, 5, 6, 7, 8]).ctx.eng .c).params.length = 8 := by decide +kernel

/-- Hypotheses of `EngineHandshakesLiteralsSkipsAndWaits`. -/
theorem wit_EngineMoves :
    let s := coreAt 0 (fun c => { c with x := [(3, full 9), (5, empty)], m := { c.m with params := [0, 1, 2, 3, 4, 5, 6], litRun := 4 } }) id
    let g := s.ctx.eng .m
    let b := (barred (paged [])).modCore 0 fun k => { k with ctx := { k.ctx with
      m := { k.ctx.m with params := [0x20000], breg := some (padAddr 0 0) } } }
    let s' := b.setCtx (b.ctx.noLit .m)
    let q : Piece := ⟨padAddr 0 0, 4, 0, false, BitVec.ofNat 64 (padAddr 0 0), 0, false, false⟩
    let c := ((s.setCtx (s.ctx.noLit .m)).modCore s.turn Core.unwind).ctx
    (c.regX 3).fill = .full ∧ g.params.length < 8 ∧ c.writable .x 3 = true ∧ (3 : BitVec 6) ≠ 0 ∧ g.params = 0 :: [1, 2, 3, 4, 5, 6] ∧
      (c.regX 5).fill = .empty ∧ c.writable .x 5 = true ∧ (0 < g.litRun ∧ g.litRun < 5) ∧ (base.ctx.eng .m).litRun = 0 ∧
      5 ≤ ((withM [1] fun g => { g with litRun := 5 }).ctx.eng .m).litRun ∧ base.awaits .m = false ∧
      has (barrierAddr 0x20000) s' (fun _ _ => true) = true ∧ (base.ctx.eng .m).breg = none ∧
      (launchedHere (base.setCtx (base.ctx.noLit .m))).any (fun o => o.eng == .m) = false ∧ (b.ctx.eng .m).breg = some (padAddr 0 0) ∧
      (ownPad b.turn q).isSome = true ∧ isBarrier b (padAddr 0 0) = true ∧
      has (access .m 1 { act := .barWait true, pieces := [q] } .none) s' (fun _ _ => true) = true := by decide +kernel

/-- Hypotheses of `EngineHandshakesLiteralsSkipsAndWaits`. -/
theorem wit_EpilogueSlots :
    let s := (paged []).modCore 0 fun k => { k with ctx := { k.ctx with m := { k.ctx.m with params := [0x10000] } } }
    let s' := s.setCtx (s.ctx.noLit .m)
    s.ctx.m.params = [0x10000] ∧ (0x10000 : Word).toNat < 2 ^ 56 ∧ (0x10000 : Word).getLsbD 0 = false ∧
      has (rangePieces 0x10000 aLoad 3 66) s' (fun ps t0 => ps.all (fun p => !isControl p.pa) &&
        has (access .m 1 { act := .load, pieces := ps } .again) t0 fun _ _ => true) = true := by decide +kernel

/-- Parameters of C with the pages. -/
def copyState (ps : List Word) : State := (paged []).modCore 0 fun k => { k with ctx := { k.ctx with c := { k.ctx.c with params := ps } } }

/-- Hypotheses of `CopyWordsLaunchOrRefuseTheirOperation`. -/
theorem wit_Copies :
    let s := copyState []
    let s' := s.setCtx (s.ctx.noLit .c)
    let launches (m : M Verdict) : Bool := has m s' fun v _ => match v with
      | .launch _ => true
      | _ => false
    let refuses (m : M Verdict) : Bool := has m s' fun v _ => match v with
      | .refused _ _ => true
      | _ => false
    let dst (a : Word) (re : Bool) : Bool := has (segsOf a 128 aDst) s' fun d t => !(d.any (badDst t)) && (!re || d.all (·.defer)) &&
      has (takeScores [] d) t fun _ _ => true
    launches (copyLaunch .copy 256 false [(0x10000, 0x10200, 256)] anySeg) = true ∧
      refuses (copyLaunch .copy 256 false [(0x10000, 0x10200, 256)] slowSeg) = true ∧
      launches (copyLaunch .copy 128 true [(0x10000, 0x30000, 128)] anySeg) = true ∧ dst 0x10000 false = true ∧ dst 0x30000 true = true ∧
      launches (copyLaunch .copy 8 false [(0x10000, 0x10200, 4), (0x10010, 0x10210, 4)] anySeg) = true ∧
      launches (copyLaunch .gather 8 false [(0x10000, 0x20000, 4), (0x10010, 0x20004, 4)] anySeg) = true ∧
      has (segsOf 0x10000 1 aSrc) s' (fun _ t => t.pins == [] && has (prefetchGo 2 0x10000 1) t fun _ _ => true) = true := by decide +kernel

/-- Hypotheses of `CopyWordsLaunchOrRefuseTheirOperation`. -/
theorem wit_CopyOperands :
    let k (n : Nat) : Nat := ((BitVec.ofNat 64 n : Word)).toNat
    k 0 = 0 ∧ 2 ^ 32 ≤ k (2 ^ 32) ∧ (0 < k (2 ^ 32 - 1) ∧ k (2 ^ 32 - 1) < 2 ^ 32) ∧ (k 128 % 128 = 0) ∧
      (let v := k (3 + 5 * 2 ^ 20); v % 2 ^ 20 = 3 ∧ v / 2 ^ 20 % 2 ^ 20 = 5 ∧ v < 2 ^ 40) ∧
      (let v := k (1 + 2 ^ 20 + 2 ^ 40); 0 < v % 2 ^ 20 ∧ 0 < v / 2 ^ 20 % 2 ^ 20 ∧ 2 ^ 40 ≤ v) ∧
      (let v := k (1 + 0x5FFC * 2 ^ 16); v < 2 ^ 31 ∧ v % 2 ^ 16 = 1 ∧ v / 2 ^ 16 % 2 ^ 15 % 4 = 0 ∧ v / 2 ^ 16 % 2 ^ 15 + 4 * 1 ≤ 0x6000) ∧
      (let s := copyState [0, 0, 0, 0]
       3 ≤ s.ctx.c.params.length ∧ 4 ≤ s.ctx.c.params.length ∧ inStash (s.setCtx (s.ctx.noLit .c)) s.turn 0x5FFC = false ∧
         s.tag (padAddr s.turn 0x5FFC) ≠ 3) := by decide +kernel

set_option maxRecDepth 20000 in
/-- Hypotheses of `CopyWordsLaunchOrRefuseTheirOperation`. -/
theorem wit_Decompression :
    -- two symbols of one bit: lengths 1 of symbols 0 and 1
    let s := also (copyState []) [(0x500000, 4), (0x500100, 1), (0x500101, 1)]
    let s' := s.setCtx (s.ctx.noLit .c)
    has (segsOf 0x10000 512 aSrc) s' (fun table t0 =>
      (match got (liftH (cellsReady (.core t0.turn .c) (linesOf table))) (dropRanges t0 t0.turn table) with
       | some (r, t1) => r.1 == false && r.2.isNone &&
         has (readHere (linesOf table)) t1 fun bytes t2 =>
          let tab := bytes.map (·.1)
          let source : M (List Seg) := match decompBound 1 tab with
            | some bound => segsOf 0x10200 bound aSrc
            | none => pure []
          has source t2 fun src t3 => has (segsOf 0x10300 1 aDst) t3 fun dst t4 =>
            (match decompTable tab with
              | some (size, _) => size == 4
              | none => false) && !(bytes.any (·.2 != 0)) && !((table ++ src).any (badSrc t4)) && !(dst.any (badDst t4)) &&
              has (takeScores src dst) t4 fun _ _ => true
       | none => false)) = true ∧ decompTable (List.replicate 512 0xFF) = none := by decide +kernel

/-- Hypotheses of `CopyWordsLaunchOrRefuseTheirOperation`: CFLUSH of lines that another core has claimed, and of the core's own. -/
theorem wit_Flushes :
    let s := copyState []
    let s' := s.setCtx (s.ctx.noLit .c)
    let claimed : State := { s' with owners := [(0x50, some 1)] }
    let dirty := s'.modCore 0 fun c => { c with l1 := [{ addr := 0x500000, cls := 1, data := List.replicate 128 7, dirty := 1 }] }
    has (segsOf 0x10000 1 aSrc) claimed (fun gs t => gs.any (segPrivate t t.turn)) = true ∧
      has (segsOf 0x10000 1 aSrc) dirty (fun gs t => !(gs.any (segPrivate t t.turn)) && !((linesHeld (t.core t.turn)).any fun l =>
        (gs.any fun g => g.pa < l.addr + 128 && l.addr < g.pa + g.len) && l.dirty != 0 && t.pinned l.addr)) = true := by decide +kernel

/-- Hypotheses of `CopyWordsLaunchOrRefuseTheirOperation`. -/
theorem wit_Collectives :
    let s0 := (copyState []).modCore 0 fun k => { k with gmem := [(0, { group := 255, valid := true, member := 0 })] }
    let s : State := { s0 with fw := { s0.fw with groups := [(255, [(0, 0, 1)])] } }
    let s' := s.setCtx (s.ctx.noLit .c)
    let d : Nat := 255 + 4 * 2 ^ 16
    (gmemSlot (s.core s.turn) (d % 256)).isSome = true ∧ d / 256 % 256 = 0 ∧ d < 2 ^ 48 ∧ 0 < d / 65536 ∧
      (let ms := groupMembers (mapGet [] s.fw.groups (d % 256))
       ms = [0, 1] ∧ has (segsOf 0x10000 (collSrcLen 0 4 ms.length 0 * (tyBits 0 / 8)) aSrc) s' (fun src t0 =>
         has (segsOf 0x10200 (collDstLen 0 4 ms.length * (tyBits 0 / 8)) aDst) t0 fun dst _ =>
           !(src.any (badSrc s')) && !(dst.any (badDst s'))) = true) := by decide +kernel

/-- Hypotheses of `MatrixWordsEnterTheirRecord`. -/
theorem wit_Matrix :
    let word : Nat := 1 + 2 ^ 16 + 32 * 2 ^ 25 + 2 ^ 34 + 2 ^ 38
    let args : List Word := [BitVec.ofNat 64 word, 0x20400, 0x20000, 0]
    let s := (paged []).modCore 0 fun k => { k with ctx := { k.ctx with m := { k.ctx.m with params := args } } }
    let s' := (s.setCtx (s.ctx.noLit .m)).modCore s.turn Core.unwind
    let d := coreAt 1024 id id
    let busy := d.modDie 1 fun x => { x with tiles := (List.range 16).map fun i => (i, noTile) }
    isP (siteOf s.turn) = true ∧ isP (siteOf d.turn) = false ∧ d.awaits .m = false ∧ freeTile s' s.turn = some 0 ∧ 4 ≤ args.length ∧
      freeTile busy busy.turn = none ∧
      has (matrixChecks true 0 0 0 0 0 args) s' (fun v _ => match v with
        | .launch _ _ _ => true
        | .refused _ => false) = true ∧
      has (matrixChecks true 0 0 0 0 0 (0 :: args.tail)) s' (fun v _ => match v with
        | .launch _ _ _ => false
        | .refused _ => true) = true := by decide +kernel

/-- Hypotheses of `MatrixWordsEnterTheirRecord`. -/
theorem wit_Markers :
    let s := paged []
    let s' := s.setCtx (s.ctx.noLit .m)
    let place (va : Word) (p : Nat → Bool) : Bool := has (placeOf va 16 aTagStore 0) s' fun q _ => p q.pa
    (8 ≤ (8 : Word).toNat ∧ (7 : Word).toNat < 8) ∧ ((0x20008 : Word) ≠ 0 ∧ (0x20008 : Word).toNat < 2 ^ 56 ∧ (0x20008 : Word).toNat % 16 ≠ 0) ∧
      place 0x25FF0 (fun pa => match spaceOf pa with
        | .pad c off => coreOk c && off < 0x6000 && !inStash s' c off
        | _ => false) = true ∧
      place 0x10000 (fun pa => match spaceOf pa with
        | .pad _ _ => false
        | _ => true) = true := by decide +kernel

theorem mapFind_run {α : Type} (v : α) (n a k : Nat) (h : a ≤ k) (h' : k < a + n) :
    mapFind ((List.range' a n).map fun i => (i, v)) k = some v := by
  induction n generalizing a with
  | zero => omega
  | succ n ih =>
    simp only [List.range'_succ, List.map_cons, mapFind]
    by_cases e : k = a
    · simp [e]
    · rw [if_neg (by omega), if_neg (by omega)]
      exact ih (a + 1) (by omega) (by omega)

theorem mapFind_range {α : Type} (v : α) (n k : Nat) (h : k < n) : mapFind ((List.range n).map fun i => (i, v)) k = some v := by
  rw [List.range_eq_range']
  exact mapFind_run v n 0 k (by omega) (by omega)

/-- P-die 0 with `n` entries in its queue. -/
def queued (n : Nat) : State := { base with dies := [(0, { tiles := (List.range n).map fun i => (i, noTile) })] }

theorem queued_tiles (n : Nat) (c : Ctx) : (((queued n).setCtx c).die 0).tiles = (List.range n).map fun i => (i, noTile) := by
  simp [queued, State.setCtx, State.modCore, State.setCore, State.die, mapGet]

/-- Hypotheses of `MatrixWordsEnterTheirRecord`. -/
theorem wit_FullTileQueue (c : Ctx) : freeTile ((queued 1024).setCtx c) 0 = none := by
  have slots : tileSlots 0 = List.range 1024 := if_pos (by decide)
  simp only [freeTile, slots, show siteOf 0 = 0 from rfl, queued_tiles, List.find?_eq_none, List.mem_range]
  intro i hi
  rw [mapFind_range noTile 1024 i hi]
  decide

/-! ## Words of the A kind, ports, hand-off launches -/

/-- Three engines at the text page: LOOP 0 at 0, ENDL at 2. -/
def aState (e : Eng) (f : EngCtx → EngCtx) (log : List ALog) : State :=
  let text := ([.loop 0, .endl 0] : List Instr).flatMap fun i => ((encode i).getD []).flatMap parcelBytes
  let s := placeBytes (paged [(3, full 5)]) 0x50000 text
  let g : EngCtx := f { pc := 0, halted := false }
  { s.setCtx { s.ctx with t := g, m := g, c := g, alog := log } with eng := e }

/-- Hypotheses of `AWordsKeepTheEnginesInStep`. -/
theorem wit_AWords :
    let s := aState .t id []
    let loops (k : Nat) := aState .t (fun g => { g with loops := List.replicate k ⟨1, 2⟩ }) []
    let m := aState .m id [⟨1, 0, some (true, 5)⟩]
    let c := s.ctx.entered .t none
    s.ctx.mayA s.eng = true ∧ m.ctx.mayA m.eng = true ∧ (m.ctx.logged .m).isSome = true ∧ s.ctx.logged .t = none ∧
      (aState .m id []).ctx.mayA .m = true ∧ (aState .m id []).ctx.logged .m = none ∧
      (s.ctx.xReady 3 && (s.ctx.atA .t).pReady 3) = true ∧
      ((0x7F : BitVec 7).zeroExtend 64 : Word) ≠ 0 ∧ (((loops 3).ctx.entered .t none).eng .t).loops.length < 4 ∧
      (matchEndl (s.setCtx c) walkLimit 0 2).toOption = some (some 4) ∧ ((loops 1).ctx.eng .t).loops ≠ [] ∧
      (offsetBy 0 (0x7FFF : BitVec 16).toInt).toNat < 2 ^ 56 ∧
      ((aState .t (fun g => { g with rets := List.replicate 7 4 }) []).ctx.eng .t).rets.length < 8 ∧
      ((loops 4).ctx.eng .t).loops = ⟨1, 2⟩ :: List.replicate 3 ⟨1, 2⟩ := by decide +kernel

/-- Hypotheses of `RendezvousWordsWaitForEveryEngine`. -/
theorem wit_Rendezvous :
    let met (e : Eng) := aState e (fun g => { g with atMeet := true }) []
    let ahead := aState .t id []
    let slip := ahead.setCtx { ahead.ctx with t := { ahead.ctx.t with acount := 2 } }
    let apart := aState .m id [⟨1, 8, none⟩]
    ahead.ctx.mayA .t = true ∧
      (let c := ahead.ctx.entered .t none
       allMet (c.setEng .t { c.eng .t with atMeet := true }) = false) ∧
      (let c := (met .c).ctx.entered .c none
       allMet (c.setEng .c { c.eng .c with atMeet := true }) = true) ∧
      slipHolds slip.ctx .t = true ∧ slipHolds apart.ctx .m = false ∧ apart.awaits .m = false ∧
      logAt apart.ctx ((apart.ctx.eng .m).acount + 1) = some ⟨1, 8, none⟩ ∧ (8 : TextAddr) ≠ (apart.ctx.eng .m).pc := by decide +kernel

/-- Hypotheses of `StreamPortsMoveTheElementsOfTheirBinding`. -/
theorem wit_Ports :
    let q (w : Bool) (pos : Nat) : Stream := ⟨0x10100, 4, w, 20, 1, 1, 4, 0, 0, pos⟩
    let s (w : Bool) := (paged []).modCore 0 fun k => { k with ctx := { k.ctx with streams := [(7, q w 16)] } }
    let usable (q : Stream) (w : Bool) : Bool := q.write == w && decide (q.pos < q.total)
    (7 < 8 ∧ usable (q false 16) false = true ∧ usable (q true 19) true = true ∧ usable (q false 20) false = false ∧ usable (q true 0) false = false) ∧
      ((s false).ctx.pReady 0 && (s false).ctx.vWritable 4 1 false && (s true).ctx.vReady 4 1) = true ∧ (s false).awaits .t = false ∧
      has (portPieces (q false 16) aLoad (min (64 / 4) (20 - 16)) 16) (s false) (fun ps t0 =>
        has (tAccess 0 { act := .load, pieces := ps } .again) t0 fun _ t => t.ctx == (s false).ctx) = true ∧
      has (portPieces (q true 16) aStore (min (64 / 4) (20 - 16)) 16) (s true) (fun ps t0 =>
        has (tAccess 0 { act := .store, pieces := ps, data := leBytes 64 0, mask := [true] } .again) t0 fun _ t => t.ctx == (s true).ctx) = true := by
  decide +kernel

/-- A stream of one layer and two token blocks of 2 heads at site 0, its blocks going to site 1. -/
def entry0 : HoEntry :=
  { stream := 0x30002, plen := 300, ntb := 2, layers := 1, heads := 2, conv := 1, frames := 2, dests := [(1, false)] }
def handing (ps : List Word) (f : HoEntry → HoEntry) : State :=
  (copyState ps).modDie 0 fun d => { d with entries := [(2, f entry0)] }

/-- Hypotheses of `HandOffWordLaunchesABlock`. -/
theorem wit_HandOffLaunch :
    let k (bsn conv : Nat) : Nat := 0x30002 + bsn * 2 ^ 20 + conv * 2 ^ 36
    let h := entry0
    let s := handing [0, 0x10000, 128, 0x500000] id
    let s' := s.setCtx (s.ctx.noLit .c)
    let raw (bytes cell : Nat) : Bool := decide (0 < bytes ∧ bytes ≤ 0x400000 ∧ cell % 128 = 0 ∧
      cell / 0x400000 = (cell + (bytes + 127) / 128 * 128 - 1) / 0x400000)
    4 ≤ s.ctx.c.params.length ∧ findEntry s 0 (BitVec.ofNat 20 7) = none ∧ findEntry s 0 (BitVec.ofNat 20 (k 1 1)) = some h ∧
      2 ^ 44 ≤ k 1 0 + 2 ^ 44 ∧ k 2 1 < 2 ^ 44 ∧ h.layers * h.ntb ≤ 2 ∧ 1 < h.layers * h.ntb ∧ (2 ≠ 0 ∧ 2 ≠ h.conv) ∧
      (raw 0x400000 0x400000 = true ∧ raw 128 0x40 = false ∧ raw 0x400000 0x400080 = false ∧ raw 0 0x400000 = false) ∧
      2 * blockTokens h 1 * h.heads * 256 ≠ 0 ∧ ((0xFFFFFFFFFF80 : Nat) < 2 ^ 48) ∧
      ((0x700000000000 : Nat) ≤ 0x700000000000 ∧ (0x700000000000 : Nat) < 0xB00000000000) ∧ ¬ ((0x1000000000000 : Nat) < 2 ^ 48) ∧
      (∀ l ∈ h.lastBsn, l < 0) ∧ (¬ ∀ l ∈ (some 1 : Option Nat), l < 1) ∧ h.cancelled = false ∧
      has (segsOf 0x10000 128 aSrc) s' (fun src t => !(src.any (badSrc t))) = true ∧
      (translateHere s' 0x10000 aSrc).toOption.any (fun l => !(badSrc s' ⟨l.pa, 128, l.cls, l.defer⟩)) = true ∧
      0x10000 % 65536 + 128 ≤ 65536 ∧
      has (segsOf 0x20000 128 aSrc) (stashed s' 0x10000) (fun src t => src.any (badSrc t)) = true := by decide +kernel

/-! ## Starts, sensors, links -/

/-- Hypotheses of `StartsResetTheModuleAndCountTheAttempt`. -/
theorem wit_Starts :
    let s : State := { State.reset with fw := { State.reset.fw with retryReset := true, background := some (.reset true) } }
    State.reset.fw.background = none ∧ s.fw.retryReset = true ∧ s.fw.background = some (.reset true) ∧ State.reset.fw.st = .starting ∧ State.reset.arg.n ≤ 5 ∧ 5 ≤ 5 := by
  decide +kernel

/-- Hypotheses of `StagesOfAStartFailOrGoOnInOrder`. -/
theorem wit_StagesBeforeTheRecord :
    let t := allPass
    let m := resetModule State.reset
    (none : Option Nat) ≠ some 1 ∧ { t with romOk := false }.romOk = false ∧ t.romOk = true ∧ (2 : Nat) < 3 ∧ 3 ≤ (3 : Nat) ∧
      64 ∈ { t with badSites := [64] }.badSites ∧ (stage2 m t).toOption.isSome = true := by
  decide +kernel

/-- All dies but site 0 and E-die N unusable: stage 3 passes, and finds site 0 cut off where its link to N fails. Hypotheses of `StagesOfAStartFailOrGoOnInOrder`. -/
theorem wit_StageThree :
    let t : SelfTest := { allPass with badSites := (List.range 68).filter fun n => n != 0 && n != 64 }
    let cut : SelfTest := { t with linkOk := [(0, 0, 0)] }
    let s2 := (stage2 (resetModule State.reset) t).toOption
    (s2.bind fun s => (stage3 s t).toOption).isSome = true ∧ s2.any (fun s => (stage3 s cut).toOption.isNone) = true := by decide +kernel

/-- Whether a flash copy verifies is the signature's (`Config.recordSigOk`): stage 4 takes one of its two clauses. Hypotheses of `StagesOfAStartFailOrGoOnInOrder`. -/
theorem wit_StageFour (s : State) :
    (Config.recordSigOk s.fw.flash0.body s.fw.flash0.sig = false ∧ Config.recordSigOk s.fw.flash1.body s.fw.flash1.sig = false) ∨
      ((Config.recordSigOk s.fw.flash0.body s.fw.flash0.sig = true ∨ Config.recordSigOk s.fw.flash1.body s.fw.flash1.sig = true) ∧
        ∃ y, stage4 s = .ok y) := by
  simp only [stage4, chooseCopy, Flash.verifies]
  by_cases h : s.fw.flash1.seq ≤ s.fw.flash0.seq <;> cases h0 : Config.recordSigOk s.fw.flash0.body s.fw.flash0.sig <;>
    cases h1 : Config.recordSigOk s.fw.flash1.body s.fw.flash1.sig <;> simp [h, h0, h1]

/-- Hypotheses of `SensorsLayersAndRegionsFollowTheirRules`. -/
theorem wit_Sensors :
    let d (t : BitVec 16) : Die := { sensors := [(0, { temp := t, seq := 0, valid := true })] }
    hottest (d 761) = some 761 ∧ (761 : Int) > 8 * ((d 0).warn : Int) ∧ hottest {} = none ∧ 8 * (95 : Int) - 16 < 745 ∧ (744 : Int) ≤ 8 * 95 - 16 ∧
      isD 1 = true ∧ (mapGet {} ({ lpwr := [(3, ⟨0, 3, true, none⟩)] } : Die).lpwr 3).busy = true ∧
      (mapGet {} ({ lpwr := [(3, ⟨3, 3, false, none⟩)] } : Die).lpwr 3).busy = false ∧
      (mapGet {} ({ lpwr := [(3, ⟨3, 3, false, none⟩)] } : Die).lpwr 3).state = 3 ∧ (BitVec.ofNat 2 (4 % 4)) ≠ (3 : BitVec 2) ∧
      (mapGet {} ({ lpwr := [] } : Die).lpwr 3).state ≠ 3 := by decide +kernel

set_option maxRecDepth 20000 in
/-- Hypotheses of `LinksAndPortsReceiveReplayAndRetrain`. -/
theorem wit_Links :
    let up : Link := { state := 2, expect := 5 }
    let s := base.modDie 0 fun d => { d with links := [(1, up), (2, { up with dropping := true })] }
    let flit (seq : BitVec 12) (null nak : Bool) : List Byte := withHop (mkFlit 0 0 1 1 0 0 0 (slotBytes noSlot)) seq 4 1 null nak 2
    let h (b : List Byte) : Hop := hopOf b
    let ok (h : Hop) : Bool := h.crcOk && !h.bad && !h.null && !h.nak
    linkExists 0 1 = true ∧ isPort 1 = false ∧ (s.link 0 1).state = 2 ∧ (s.link 0 3).state ≠ 2 ∧ (s.link 0 2).dropping = true ∧
      ok (h (flit 5 false false)) = true ∧ (h (flit 5 false false)).seq = (s.link 0 1).expect ∧
      ((h (flit 6 false false)).crcOk = true ∧ (h (flit 6 false false)).bad = false ∧ (h (flit 6 false false)).seq ≠ (s.link 0 1).expect) ∧
      (h ((flit 5 false false).set 20 77)).crcOk = false ∧ ((h (flit 5 true false)).null = true ∧ (h (flit 5 true false)).nak = false ∧
        (h (flit 5 true false)).crcOk = true ∧ (h (flit 5 true false)).bad = false) ∧
      4 ≤ popcount8 0x0F ∧ popcount8 0x07 < 4 ∧ tripped s 0 = false ∧ tripped (base.modDie 0 fun d => { d with thTrip := true }) 0 = true ∧
      8 ≤ ({ up with nakRun := 8 } : Link).nakRun ∧
      (let l : Link := { up with failAt := List.replicate 64 0 }
       l.state = 2 ∧ 64 ≤ (l.failAt.filter fun t => s.cycle.toNat < t + 940000).length) ∧
      ¬ (8 ≤ up.nakRun ∨ 64 ≤ (up.failAt.filter fun t => s.cycle.toNat < t + 940000).length) ∧ ({ up with state := 3 } : Link).state = 3 := by
  decide +kernel

set_option maxRecDepth 20000 in
/-- Hypotheses of `LinksAndPortsReceiveReplayAndRetrain`. -/
theorem wit_Ports_of_the_fabric :
    let up : Link := { state := 2, expect := 5 }
    let s := base.modDie 64 fun d => { d with links := [(8, up)] }
    let inner := mkFlit 0 1 1 3 64 0 0 (slotBytes { noSlot with src := 3, dst := 64, op := 0x41 })
    let b := withFabric 7 5 0 inner 5 4 false false 1 2
    -- an answer for another die of the module
    let on := withFabric 7 5 0 (mkFlit 0 1 1 3 2 0 0 (slotBytes { noSlot with src := 3, dst := 2, op := 0x41 })) 5 4 false false 1 2
    let h := fabricHop b
    let l := s.link (portSite 0) (portEdge 0)
    (portSite 0, portEdge 0) = (64, 8) ∧ l.state = 2 ∧ (h.crcOk && !h.bad && !h.null && !h.nak) = true ∧ h.seq = l.expect ∧
      (s.die 64).portHeld = [] ∧ tripped s 64 = false ∧
      (ingress s 0 (BitVec.ofNat 12 (field b 2 2)) (slice b 16 256)).2 = .free ∧
      (ingress s 0 (BitVec.ofNat 12 (field on 2 2)) (slice on 16 256)).2 = .goesOn ∧
      (s.link (portSite 1) (portEdge 1)).state ≠ 2 := by decide +kernel

/-! ## Messages -/

/-- Hypotheses of `RequestSlotsPerformTheirAccessAndAnswer`. -/
theorem wit_RequestSlots :
    let legal (addr len : Nat) : Bool := decide (addr % 128 + len ≤ 128)
    (0 ≤ 32 ∧ (lineOf 0x500040 % 128 = 0 ∧ legal (lineOf 0x500040) 128 = true)) ∧
      (legal 0x500060 32 = true ∧ legal 0x500061 32 = false ∧ legal 0x500060 0 = true ∧ ¬ (33 ≤ 32)) ∧
      (0x50007C % 4 = 0 ∧ legal 0x50007C 4 = true ∧ 0x50007D % 4 ≠ 0) ∧ ((2 : Nat) % 4 ≠ 3 ∧ (7 : Nat) % 4 = 3) ∧
      ((8 : BitVec 4) ∈ [8, 13] ∧ (3 : BitVec 4) ∉ [0, 1, 2, 8, 13] ∧ tyBits 8 / 8 = 4 ∧ tyBits 13 / 8 = 8 ∧ 0x500078 % 8 = 0 ∧ legal 0x500078 8 = true ∧ 0x50007C % 8 ≠ 0) := by decide +kernel

/-- Hypotheses of `TransfersLineWritesAndResponsesComplete`. -/
theorem wit_Transfers :
    let b : Bulk := { src := 3, bxid := 1, dst := 0, addr := 0x500000, count := 241, got := 0, tag := 1, core := 0, err := 0 }
    let img : Bulk := { b with bxid := 2, block := some (0x30002, 2) }
    let p : Piece := ⟨0x700000000000, 8, 1, false, 0x10000, 0, false, true⟩
    let r : Request := { core := 0, eng := .t, tag := 1, acc := { act := .load, pieces := [p] }, dest := .x 5 8 false, len := 2, part := (0, p), rest := [], got := [] }
    let s : State := { base with bulks := [b, img], requests := [r, { r with tag := 2, rest := [(8, p)] }], queries := [(9, 0x600000)] }
    let m (tag : BitVec 16) : Slot := { noSlot with dst := 0, core := 0, tag := tag }
    let find (bxid : Nat) : Option Bulk := s.bulks.find? (·.isOf (bulkPart 3 0 bxid 0 0))
    find 1 = some b ∧ find 2 = some img ∧ find 3 = none ∧ 240 * (b.got + 1) < b.count ∧ ¬ (240 * (1 + 1) < b.count) ∧ b.block = none ∧
      img.block ≠ none ∧ b.discard = false ∧ (s.bulks.any fun x => x.src == 3 && x.dst == 0 && x.bxid == 1) = true ∧
      findRequest s (m 1) = some r ∧ (r.op = none ∧ r.dest ≠ .again) ∧ r.rest = [] ∧ ((findRequest s (m 2)).map (·.rest)) = some [(8, p)] ∧
      findRequest s (m 3) = none ∧ errProxy s (m 1) = none ∧ findQuery s (m 3) = none ∧
      findQuery s { m 9 with dst := homeSite 0x600000 } = some 0x600000 ∧ findRequest s { m 9 with dst := homeSite 0x600000 } = none ∧
      ((0 : Nat) ≠ 0x60 ∧ (0 : Nat) ≠ 0x30 ∧ (0 : Nat) ≠ 0x63) ∧ (s.bulks.any fun x => x.src == 4 && x.dst == 0 && x.bxid == 1) = false ∧ recordAt 0x500000 = none ∧ (recordAt (0xFF0040000000 + 63 * 0x400000 + 0x7FF80)).isSome = true ∧
      s.requests.find? (fun r => r.core == 0 && r.tag.toNat == 1) = some r := by decide +kernel

/-- Slot 2 holds a request of instance 1: 300 prompt tokens, a limit of 5, 400 bytes of output. -/
def requestImage (st : Nat) : List Byte :=
  leBytes 4 st ++ leBytes 4 0 ++ [1, 2, 0, 0] ++ leBytes 4 5 ++ leBytes 8 0x1000 ++ leBytes 4 300 ++ leBytes 4 0 ++ leBytes 8 0x2000 ++
    leBytes 4 400 ++ leBytes 4 0 ++ leBytes 8 7 ++ leBytes 4 0x3F800000 ++ leBytes 4 0x3F000000 ++ leBytes 4 3 ++ List.replicate 60 0 ++
    leBytes 4 0x30002 ++ List.replicate 124 0
def inst1 : Inst := { layers := 1, heads := 2, ctxlim := 300, eos := 9, vocab := 100, tensors := 1, conv := 1 }
def plan1 : Plan := { insts := [(1, inst1)], tensors := [⟨1, 0, 0x500000, 64, []⟩] }
def serving (f : Firmware → Firmware) : State :=
  base.modFw fun x => f { x with started := true, st := .serving, plan := some plan1, loaded := [(1, 0)], slots := [(2, requestImage 0)], gens := [(2, 3)] }

/-- Hypotheses of `HostWritesOfTheWindowActAsTheirRulesSay`. -/
theorem wit_HostWrites :
    let s := serving id
    let b := slotImage s 2
    let st (n : Nat) : Nat := slotState (serving fun f => { f with slots := [(2, requestImage n)] }) 2
    st 0 = 0 ∧ st 2 = 2 ∧ (4 ≤ st 7 ∧ st 7 ≤ 7) ∧ ¬ (4 ≤ st 3 ∧ st 3 ≤ 7) ∧ s.fw.st = .serving ∧ base.fw.st ≠ .serving ∧ s.fw.st ≠ .minimal ∧ (serving fun f => { f with st := .minimal }).fw.st = .minimal ∧
      rejectCause s b 1 = none ∧ field b 4 4 = 0 ∧ badFields b 1 = false ∧ badFields b 17 = true ∧ planInst s (field b 8 1) = some inst1 ∧
      field b 24 4 ≤ inst1.ctxlim ∧ inst1.ctxlim < 301 ∧ weightsLoaded s 1 = true ∧ 1 ∉ s.fw.mediaInst ∧
      weightsLoaded (serving fun f => { f with loaded := [] }) 1 = false ∧ s.fw.evHeld = [] ∧
      ((1 : Nat) % 16 = 1) ∧ planInst s 2 = none := by decide +kernel

/-- Hypotheses of `HostWritesOfTheWindowActAsTheirRulesSay`. -/
theorem wit_HostWindow :
    let s := (serving fun f => { f with window := [(16, 0x400000)] })
    let cell : State := { s with cellTags := [(0x500000, 1)] }
    let failing (s : State) (o : Nat) : Bool := windowError s o != 0 || windowDead s o
    let away := s.modDie 1 fun d => { d with lpwr := (List.range 13).map fun l => (l, ⟨3, 3, false, none⟩) }
    s.fw.st ≠ .minimal ∧ failing s 0x4100000 = false ∧ failing s 0x4400000 = false ∧ failing s 0x1010000 = false ∧ failing away 0x4100000 = true ∧
      windowPhys s 0x4100000 = some 0x500000 ∧ s.cellTag 0x500000 = 0 ∧ (locate s 0x500000).toOption.isSome = true ∧
      cell.cellTag 0x500000 ≠ 0 ∧ windowPhys s 0x4400000 = none ∧ 0x1010004 ≤ 0x4400000 ∧ (0xFFFFFF < 0x1000000) ∧
      4 ≤ ([1, 2, 3, 4].take (64 - 0x1010000 % 64)).length ∧
      none ∉ (List.range 64).map (fun i => windowByte s (0x4100000 + i)) ∧
      none ∈ (List.range 2).map (fun i => windowByte s (0x43FFFFF + i)) := by decide +kernel

/-! ## The mailbox -/

/-- Hypotheses of `MailboxCommandsAreRefusedWhereTheirTableSays`. -/
theorem wit_MailboxRefusals :
    let s := serving id
    let bytes (n : Nat) : List Byte := List.replicate n 0
    s.fw.started = true ∧ base.fw.started = false ∧ (s.fw.st == .draining) = false ∧ (s.fw.st != .minimal) = true ∧ s.fw.background = none ∧
      (serving fun f => { f with background := some (.drain 0) }).fw.background ≠ none ∧ (bytes 3).length < 4 ∧ 4 ≤ (bytes 4).length ∧
      s.fw.dbg = false ∧ unknownOpcode 0 = false ∧ unknownOpcode 0xC0FF = true := by decide +kernel

/-- Hypotheses of `MailboxSetupCommandsDoTheirWork`. -/
theorem wit_MailboxSetup :
    let s := serving fun f => { f with roots := [(5, 0x10000)], window := [(16, 0x400000)], texts := [⟨1, 5, 0, 64⟩] }
    let img : List Byte := leBytes 4 0x46434744 ++ leBytes 4 1 ++ leBytes 4 1152 ++ List.replicate 5767 0
    (s.fw.idOk = false ∧ (serving fun f => { f with idOk := true }).fw.idOk = true) ∧
      (field img 8 4 = 1152 ∧ img.length = 1152 + 4627 ∧ field img 0 4 = 0x46434744) ∧ s.fw.inUse = none ∧
      (planInst s 1 ≠ none ∧ mapFind s.fw.roots 5 ≠ none ∧ mapFind s.fw.roots 6 = none ∧ s.fw.items.length < 256) ∧
      (findTensor s 1 0).isSome = true ∧ findTensor s 1 1 = none ∧
      (windowRange 0x4000000 0x400000 = true ∧ windowRange 0x4000001 0x400000 = false ∧ windowRange 0xFFFC00000 0x400000 = true ∧
        windowRange 0xFFFC00000 0x800000 = false) ∧
      mapFind s.fw.window 16 ≠ none ∧ mapFind s.fw.window 17 = none ∧ (0x3FFFFFFF0000 + 0x10000 ≤ 0x400000000000) ∧
      (List.range 4095).find? (fun i => (mapFind s.fw.roots (i + 1)).isNone) = some 0 ∧
      (accessPending s 6 = false ∧ accessPending { s with waiters := [⟨.core 0 .t, { act := .load, pieces := [] }, .none, .tag 0, 0, false⟩] } 0 = true) ∧
      (∃ t ∈ s.fw.texts, t.asid = 5) ∧ (∀ t ∈ s.fw.texts, t.asid ≠ 6) ∧
      (serving fun f => { f with background := some (.loadWeights 1 0 0x3000 64) }).fw.background = some (.loadWeights 1 0 0x3000 64) ∧
      ((findTensor s 1 0).map (·.len)) = some 64 := by decide +kernel

/-- Hypotheses of `MailboxSetupCommandsDoTheirWork`. -/
theorem wit_TextRanges :
    let s := pages (serving fun f => { f with roots := [] })
    (rangeParts s 0 0 aFetch 0 0x10000).isSome = true ∧ (rangeParts s 0 0 aFetch 0 0x10001).isNone = true := by decide +kernel

/-- Hypotheses of `StreamResetThermalAndDebugCommandsDoTheirWork`. -/
theorem wit_StreamAndResetCommands :
    let s := serving fun f => { f with slots := [(2, requestImage 3)], items := [(1, [])], dbg := true }
    let last (s : State) (id : Nat) : Bool := (mapFind s.fw.gens (id % 65536)).isSome && field (slotImage s (id % 65536)) 128 4 % 2 ^ 20 == id
    last s 0x30002 = true ∧ last s 0x40002 = false ∧ last s 0x30003 = false ∧ slotState s 2 = 3 ∧ 0x30002 < 2 ^ 20 ∧
      (serving fun f => { f with background := some (.drain 1) }).fw.background = some (.drain 1) ∧ (serving id).fw.streams = [] ∧
      (serving fun f => { f with streams := [(2, newStream 2 0x30002 (requestImage 2))] }).fw.streams ≠ [] ∧
      s.fw.items ≠ [] ∧ (serving id).fw.items = [] ∧ (false = false ∨ s.fw.idOk = true) ∧ 67 < 68 ∧ s.fw.background = none := by
  decide +kernel

/-- Hypotheses of `StreamResetThermalAndDebugCommandsDoTheirWork`. -/
theorem wit_DebugCommands :
    let s := pages (serving fun f => { f with dbg := true })
    let found (r : Except (State × Reply) (State × List (Nat × Nat))) : Bool := r.toOption.isSome
    let h := s.modCore 0 fun c => { c with inHalt := true }
    let b : Break := { va := 0, asid := 0, parcels := 2, hits := 0, lastCore := 0, lastSite := 0, word := 0 }
    let t := h.modFw fun f => { f with breaks := [(0, b)] }
    let all := h.modFw fun f => { f with breaks := (List.range 64).map fun i => (i, { b with va := 64 }) }
    (0 < 64 ∧ 255 < coresOf 0 ∧ ¬ (256 < coresOf 0)) ∧ (s.core 0).inHalt = false ∧ (h.core 0).inHalt = true ∧ (64 ≤ 67 ∧ 67 < 68) ∧
      (0xFF0000000000 ≤ 0xFFFFFFFFF000 ∧ 0xFFFFFFFFF000 + 4096 ≤ 2 ^ 48) ∧
      found (debugParts h 0 aLoad 0x10000 4096 false) = true ∧ found (debugParts h 0 aLoad 0x100000 1 false) = false ∧
      found (debugParts h 0 aStore 0x10000 4096 false) = true ∧ found (debugParts h 0 aStore 0 1 false) = false ∧
      debugText h 0 0 0 = some 0x50000 ∧ debugText h 0 0 0x100000 = none ∧ layerOff h 0x50000 = false ∧ (locate h 0x50000).toOption.isSome = true ∧
      parcelsOf (BitVec.ofNat 16 (leNat (readBytes h 0x50000 2))) = 2 ∧ (0x50000 % 64 + 4 ≤ 64 ∧ 0 % 2 = 0 ∧ patched h 0 0x50000 = false) ∧
      patched t 0 0x50000 = true ∧ (List.range 64).find? (fun i => (mapFind h.fw.breaks i).isNone) = some 0 ∧
      (List.range 64).find? (fun i => (mapFind all.fw.breaks i).isNone) = none ∧ findBreak h 0 0 = none ∧ findBreak t 0 0 = some (0, b) := by
  decide +kernel

/-- Hypotheses of `StreamResetThermalAndDebugCommandsDoTheirWork`. -/
theorem wit_DebugLayers :
    let s := pages (serving id)
    let off := s.modDie 1 fun d => { d with lpwr := (List.range 13).map fun l => (l, ⟨3, 3, false, none⟩) }
    layerOff off 0x50000 = true := by decide +kernel

/-- Hypotheses of `LendingBorrowingAndReclaimingMoveDiesBetweenModules`. -/
theorem wit_Pooling :
    let s := serving fun f => { f with fwin := [(0, ⟨5, true, 2, true, 3, 1⟩)], background := some (.reclaim 5 2), reclaims := [⟨5, 2, true⟩] }
    let lent := (serving id).modDie 1 fun d => { d with pool := 1, peer := 5 }
    let w (i : Nat) : Fwin := mapGet {} s.fw.fwin i
    let free (peer : BitVec 12) : Option Nat := ((List.range 16).find? fun i => (w i).valid && (w i).rmod == peer).orElse fun _ =>
      (List.range 16).find? fun i => !(w i).valid
    free 5 = some 0 ∧ free 6 = some 1 ∧ pickSites 2 (fun k => (lent.die k).pool == 1 && (lent.die k).peer == 5) = 2 ∧
      pickSites 2 (fun k => ((serving id).die k).pool == 1) = 0 ∧ s.fw.background = some (.reclaim 5 2) ∧
      s.fw.reclaims.find? (fun r => r.peer == 5) = some ⟨5, 2, true⟩ ∧ s.fw.reclaims.find? (fun r => r.peer == 6) = none ∧
      s.fw.st ≠ .minimal ∧ (List.replicate 20 (0 : Byte)).length = 20 := by decide +kernel

/-- Hypotheses of `LendingBorrowingAndReclaimingMoveDiesBetweenModules`. -/
theorem wit_FullWindowTable :
    let full : Map Fwin := (List.range 16).map fun i => (i, ⟨6, true, 0, false, 0, 1⟩)
    let w (i : Nat) : Fwin := mapGet {} full i
    (((List.range 16).find? fun i => (w i).valid && (w i).rmod == 5).orElse fun _ => (List.range 16).find? fun i => !(w i).valid) = none := by
  decide +kernel


/-- Hypotheses of `StreamResetThermalAndDebugCommandsDoTheirWork`. -/
theorem wit_DebugWindows :
    let s := also (pages (serving fun f => { f with dbg := true, fwin := [(0, ⟨5, true, 64, false, 0, 1⟩)] })) [(0x40040, 0x17), (0x40045, 0x70)]
    let h := s.modCore 0 fun c => { c with inHalt := true }
    let told : State := { h with arrived := [(opKey debugId, 0x700000000000, [1, 2]), (opKey debugId, 2 ^ 48 - 1, [])] }
    let parts (t : State) (va len : Nat) : Option (List (Nat × Nat)) := (debugParts t 0 aStore va len false).toOption.map (·.2)
    (parts h 0x80000 2 = some [(0x700000000000, 2)] ∧ farParts [(0x700000000000, 2)] ≠ [] ∧ farParts [(0x500000, 2)] = []) ∧
      ((debugByte told 0x700000000001).isSome = true ∧ debugByte h 0x700000000001 = none) ∧
      (∃ e ∈ told.arrived, e.1 = opKey debugId ∧ e.2.1 = 2 ^ 48 - 1) ∧
      (parts h 0x50001 1 = some [(0xFF0000000001, 1)] ∧ parts h 0x50004 8 = some [(0xFF0000000004, 8)]) ∧
      (0xFF0010000000 ≤ 0xFF0010043FFC ∧ 0xFF0010043FFC < 0xFF0010044000) ∧ ([] : List Byte) ≠ [0x10] := by decide +kernel

/-- Hypotheses of `LendingBorrowingAndReclaimingMoveDiesBetweenModules`. -/
theorem wit_PoolPeers :
    let s := serving fun f => { f with fwin := [(0, ⟨5, true, 2, true, 3, 1⟩)], streams := [(2, newStream 2 0x30002 (requestImage 2))] }
    let lent (r : Record) : State := s.modDie 0 fun d => { d with pool := 1, peer := 5, records := [(3, r)] }
    let o : Op := { newOp base .copy .c 64 with stream := 0x30002, src := [⟨0x700000000000, 64, 1, false⟩] }
    (((lent {}).die 0).pool = 1 ∧ ((lent {}).die 0).peer = 5 ∧ ((lent {}).record 0 3).st = .free ∧
        ((lent { st := .blocked }).record 0 3).st ≠ .free ∧ (s.die 0).pool ≠ 1) ∧
      (∃ e ∈ s.fw.streams, worksAt { s with ops := [o] } 5 e.2 = true) ∧ (∀ e ∈ s.fw.streams, worksAt s 5 e.2 = false) := by decide +kernel

/-! ## Sequencer, hand-off engines, dispatchers -/

/-- Instance 1 on P-die 0 and the stacks of sites 1 and 3. -/
def seqState (f : StreamEnt → StreamEnt) (frames : List Nat) : State :=
  let p : Plan := { plan1 with placement := [⟨1, 0, 1, [0], []⟩], rotation := [(1, [[(1, false)], [(3, false)]])], pools := [(1, (16, 200)), (3, (16, 200))] }
  let e := f (newStream 2 0x30002 (requestImage 2))
  let s := serving fun x => { x with plan := some p, streams := [(2, e)], queue := [2] }
  (s.modDie 1 fun d => { d with freeFrames := frames }).modDie 3 fun d => { d with freeFrames := frames }

/-- Hypotheses of `TheSequencerAdmitsSamplesEndsAndTimesStreams`. -/
theorem wit_Admission :
    let s := seqState id [0, 1, 2, 3]
    let none' := seqState id []
    let rot : List DestSet := [[(1, false)], [(3, false)]]
    (queueHead base = none ∧ (queueHead s).map (·.slot) = some 2 ∧ mapFind plan1.insts 1 = some inst1) ∧
      (setPossible s inst1 2 rot = true ∧ setPossible none' inst1 2 [] = false) ∧ pickSet none' inst1 2 rot 0 = none ∧
      pickSet s inst1 2 rot 1 = some (1, [(3, false)]) ∧
      (queueHead s).any (fun e => roomFor s (jobTemplates s { e with dset := [(3, false)] } false)) = true := by decide +kernel

/-- Hypotheses of `TheSequencerAdmitsSamplesEndsAndTimesStreams`. -/
theorem wit_NoRoom :
    let s := base.modDie 0 fun d => { d with records := [(7, { st := .running })] }
    let template (i : Nat) : Template := { inst := 1, site := 0, decode := false, bytes := [], index := some i }
    roomFor s [template 7] = false ∧ roomFor s [template 8] = true := by decide +kernel

/-- Hypotheses of `TheSequencerAdmitsSamplesEndsAndTimesStreams`. -/
theorem wit_StreamEnds :
    let st (e : StreamEnt) : StreamSt := e.st
    let e := newStream 2 0x30002 (requestImage 2)
    let dec := { e with st := .decode, ntok := 4, tiermiss := BitVec.allOnes 32 }
    let s := seqState (fun _ => { e with st := .retiring, tasks := [(0, 0, true)] }) []
    (st dec = .prefill ∨ st dec = .handoff ∨ st dec = .decode) ∧ ¬ (st e = .prefill ∨ st e = .handoff ∨ st e = .decode) ∧
      (dec.ntok + 1 = dec.toklim ∧ e.ntok + 1 ≠ e.toklim ∧ 99 + 1 = dec.olen / 4) ∧ mapFind s.fw.streams 3 = none ∧
      (mapFind s.fw.streams 2).any (fun e => e.tasks.all (fun x => taskGone s e x)) = true ∧ dec.tiermiss = BitVec.allOnes 32 ∧
      e.tiermiss ≠ BitVec.allOnes 32 ∧ findStream s 0x30003 = none ∧ (findStream s 0x30002).isSome = true := by decide +kernel

/-- Hypotheses of `TheSequencerAdmitsSamplesEndsAndTimesStreams`. -/
theorem wit_UnfinishedTask :
    let s := (seqState id []).modRec 0 0 fun r => { r with st := .running, bytes := patch r.bytes 40 (leBytes 4 0x30002) }
    (mapFind s.fw.streams 2).any (fun e => !taskGone s e (0, 0, true)) = true := by decide +kernel

/-- Hypotheses of `TheSequencerAdmitsSamplesEndsAndTimesStreams`. -/
theorem wit_LogicalTime :
    let at_ (t : BitVec 48) : State := base.modCore 0 fun c => { c with tick := t }
    let past (s : State) (b : Nat) : Bool := s.cores.any fun e => decide (b < e.2.tick.toNat)
    past (at_ 0x800000000001) (2 ^ 47) = true ∧ past (at_ 0x800000000000) (2 ^ 47) = false ∧ past (at_ 0xC00000000001) (3 * 2 ^ 46) = true ∧
      past (at_ 0xC00000000000) (3 * 2 ^ 46) = false ∧ past (at_ 0xF00000000001) (2 ^ 48 - 2 ^ 44) = true ∧
      past (at_ 0xF00000000000) (2 ^ 48 - 2 ^ 44) = false ∧ base.fw.ltwarn = false ∧ (serving id).fw.st = .serving := by decide +kernel

/-- Site 0 with a block to send, site 1 with one landing. -/
def moving (src : SrcBlock) (dst : DstBlock) (f : HoEntry → HoEntry) : State :=
  let o : Op := { newOp base .handoff .c 512 with src := [⟨0x500000, 512, 1, false⟩], nums := [0, 0] }
  let s := { paged [] with ops := [{ o with id := 1 }],
                           bulks := [{ src := 0, bxid := 1, dst := 1, addr := 0x500000, count := 128, got := 1, tag := 0, core := 0, err := 0,
                                       block := some (0x30002, 1), data := List.replicate 240 0 }] }
  (s.modDie 0 fun d => { d with entries := [(2, f entry0)], srcs := [src] }).modDie 1 fun d => { d with entries := [(2, f entry0)], dsts := [dst] }

/-- Hypotheses of `HandOffEnginesSendLandRetryAndCancelBlocks`. -/
theorem wit_HandOffEngines :
    let b : SrcBlock := ⟨0x30002, 1, .queued, 8, 0, [], false, none, 0, 1, 0x500000, 0, 1⟩
    let d : DstBlock := ⟨0x30002, 1, .landing, 0, [0x500000]⟩
    let s := moving b d id
    let first (s : State) := ((s.die 0).srcs.filter (fun b => b.stream == 0x30002)).find? (·.due) <|>
      ((s.die 0).srcs.filter (fun b => b.stream == 0x30002)).find? (fun b => b.st == .queued && !burstWaits s 0 0x30002)
    let r := ((cellsReady (.op 1) (linesOf [⟨0x500000, 512, 1, false⟩])).run s)
    let mine (b : Bulk) : Bool := b.dst == 1 && b.block == some (0x30002, 1) && !b.discard && decide (b.count ≤ b.data.length)
    first s = some b ∧ first (moving { b with st := .wait } d id) = none ∧ findEntry s 0 0x30002 = some entry0 ∧
      (s.ops.find? (fun o => o.id == b.op)).isSome = true ∧ (r.1.1 = false ∧ r.1.2 = none) ∧
      ((s.ops.find? (fun o => o.id == 1)).any fun o => (remoteReady o o.src).run r.2 |>.1) = true ∧
      firstBad [⟨0x500000, 512, 1, false⟩] (readSegs r.2 0 1 [⟨0x500000, 512, 1, false⟩]) = none ∧
      findSrc s 0 0x30002 1 = some b ∧ findSrc s 0 0x30002 2 = none ∧ (7 < (s.die 0).ho.retrylim.toNat ∧ (s.die 0).ho.retrylim.toNat ≤ b.attempt) ∧
      (∃ l ∈ d.lines, ({ s with pins := [⟨1, 0, 0x500000⟩] } : State).pinned l = true) ∧ (∀ l ∈ d.lines, s.pinned l = false) ∧
      (s.bulks.find? mine).isSome = true ∧ findDst s 1 0x30002 1 = some d ∧ findDst s 1 0x30002 2 = none ∧
      (locate s 0x500000).toOption.isNone = false ∧ (63 < 64 ∧ 1 % 2 = 1) ∧ findEntry s 2 0x30002 = none := by decide +kernel

/-- Hypotheses of `HandOffEnginesSendLandRetryAndCancelBlocks`. -/
theorem wit_HandOffSources :
    let o (pa : Nat) : Op := { newOp base .handoff .c 512 with id := 1, evalid := 1, src := [⟨pa, 128, 1, true⟩], nums := [0, 0] }
    let deep (tag : BitVec 2) : State :=
      ({ base with ops := [o 0x600000], cellTags := [(0x600000, tag)], mem := [(0x600000, 1)] }).modDie 0 fun d =>
        { d with evals := [(1, { cell := 0x600080, kind := 1, depth := 8 })] }
    let ready (tag : BitVec 2) : Bool × Option (Nat × Nat) := ((cellsReady (.op 1) (linesOf (o 0x600000).src)).run (deep tag)).1
    let bad : State := { base with poison := [(0x600000, true)] }
    ready 2 = (true, none) ∧ ready 3 = (false, none) ∧ ready 1 = (false, some (1, 0x600000)) ∧
      (let far : Op := { o 0x700000000000 with src := [⟨0x700000000000, 128, 1, false⟩] }
       let s : State := base.modFw fun f => { f with fwin := [(0, ⟨5, true, 64, false, 0, 1⟩)] }
       ((remoteReady far far.src).run s).1 = false) ∧
      (firstBad (o 0x600000).src (readSegs bad 0 1 (o 0x600000).src)).isSome = true ∧
      (∃ f ∈ [((0x500004 : Nat), true)], f.2 = true ∧ lineOf f.1 = 0x500000) := by decide +kernel

/-- Hypotheses of `HandOffEnginesSendLandRetryAndCancelBlocks`. -/
theorem wit_HandOffMessages :
    let b : SrcBlock := ⟨0x30002, 1, .wait, 0, 0, [], false, none, 0, 1, 0x500000, 0, 1⟩
    let d : DstBlock := ⟨0x30002, 1, .committed, 0, [0x500000]⟩
    let s := moving b d id
    let gone := moving b d fun h => { h with received := [1], inEffect := true, cancelled := true }
    let m (bsn : Nat) : Slot := { noSlot with src := 0, dst := 1, arg := 0x0000020000030002, addr := 0x500000, payload := leBytes 2 bsn ++ [1] }
    let seen := moving b d fun h => { h with received := [1] }
    (b.st = .sending ∨ b.st = .wait) ∧ entry0.cancelled = false ∧ (findEntry gone 1 0x30002).any (fun h => h.inEffect && h.cancelled) = true ∧
      (findEntry seen 1 0x30002).any (fun h => !h.inEffect && h.received.contains 1) = true ∧
      (findEntry s 1 0x30002).any (fun h => !h.inEffect && !h.received.contains 1) = true ∧
      mapGet 0 entry0.marks 0 + 1 = 1 ∧ hblkRefusal s (m 2) = some 2 ∧ hblkRefusal base (m 1) = some 1 ∧ hblkRefusal s (m 1) = some 3 ∧
      findDst s 1 0x30002 1 = some d := by decide +kernel

/-- Hypotheses of `HandOffEnginesSendLandRetryAndCancelBlocks`. -/
theorem wit_AcceptedBlock :
    let h : HoEntry := { entry0 with list := [0, 1, 2, 3] }
    let s := base.modDie 1 fun d => { d with entries := [(2, h)] }
    let m : Slot := { noSlot with src := 0, dst := 1, arg := BitVec.ofNat 64 (0x30002 + 128 * (blockShape h 1 1).lines.length * 2 ^ 32),
                                  addr := BitVec.ofNat 48 (headCell s 1 h 1), payload := leBytes 2 1 ++ [1] }
    hblkRefusal s m = none := by decide +kernel

/-- A task record of one core of any kind: entries at 0x100, 0x200 and 0x300, `pred` predecessors. -/
def recordImage (pred width : Nat) : List Byte :=
  leBytes 8 0x100 ++ leBytes 8 0x200 ++ leBytes 8 0x300 ++ leBytes 4 1 ++ leBytes 2 pred ++ [0, 0] ++ leBytes 8 0 ++ leBytes 4 0 ++ leBytes 2 0 ++
    leBytes 2 0 ++ leBytes 2 width ++ leBytes 2 0 ++ List.replicate 76 0
def posted (st : TaskSt) (pred : Nat) : State := (State.reset).modRec 0 1 fun r => { r with bytes := recordImage pred 1, st := st }

/-- Hypotheses of `RegisterStepsPostRecordsSetRingsAndServeTheFaultQueue`. -/
theorem wit_Records :
    let s := posted .free 0
    let fault (kind : BitVec 8) : FqEntry := { task := 1, core := 0, kind := kind, cause := 7, addr := 0, info := 0, image := 0x800000, stream := 0, evalid := 0, time := 0 }
    let q (kind : BitVec 8) (st : TaskSt) : State := (posted st 0).modDie 0 fun d => { d with fq := [(0, fault kind)] }
    let g : List Byte := leBytes 8 padBase ++ leBytes 2 1024 ++ leBytes 2 4 ++ leBytes 4 0 ++ [1] ++ List.replicate 15 0
    (s.record 0 1).st = .free ∧ ((posted .blocked 1).record 0 1).st ≠ .free ∧ postOk s 0 (recordImage 0 1) = true ∧
      postOk s 0 (recordImage 0 0) = false ∧ (field (recordImage 1 1) 28 2 = 1) ∧ ringOk 0 g = true ∧ ringOk 0 (patch g 8 [0, 0]) = false ∧
      (field g 16 1 % 2 = 1 ∧ field (patch g 16 [0]) 16 1 % 2 = 0) ∧ (12 ≤ 16 ∧ 16 < 12 + 8 ∧ 16 ≤ 16 ∧ 8 + 8 ≤ 16 ∧ 16 < 20) ∧
      mapFind (s.die 0).fq 0 = none ∧ mapFind ((q 0 .faulted).die 0).fq 0 = some (fault 0) ∧ (fault 2).kind ≠ 0 ∧
      ((q 2 .faulted).record 0 1).st = .faulted ∧ ((q 2 .running).record 0 1).st ≠ .faulted := by decide +kernel

/-- Hypotheses of `RegisterStepsPostRecordsSetRingsAndServeTheFaultQueue`. -/
theorem wit_RegisterWrites :
    (0xFEFFFFFFFFFF < 0xFF0000000000 ∧ 0xFF0000000000 ≤ 0xFF0000000000) ∧ (0xFF0000000002 % 4 ≠ 0 ∧ 0xFF0000000004 % 4 = 0) ∧
      (ctlGuarded 0xFF0030000000 = true ∨ ctlGuarded 0xFF0000000000 = true ∨ ctlGuarded 0xFF0040000000 = true) ∧
      (12 < 12 + 1 ∧ 11 + 1 ≤ 12) ∧ (let c := (stashed base 0x10000).core 0; c.stashn ≤ 1 ∧ 0 < c.stashn ∧
        (∃ o ∈ c.stmap, o.1 ≠ 1 ∧ o.2.valid = true ∧ o.2.va = 0x10000 / 2048)) := by decide +kernel

/-- Hypotheses of `RegisterStepsPostRecordsSetRingsAndServeTheFaultQueue`. -/
theorem wit_RingInUse :
    let b := patch (recordImage 0 1) 52 (leBytes 4 (0x80000000 + 1))
    let s := (State.reset).modRec 0 1 fun r => { r with bytes := b, st := .running }
    ∃ e ∈ (s.die 0).records, e.2.st ≠ .free ∧ ∃ x ∈ recIn e.2.bytes ++ recOut e.2.bytes, x.map (·.1) = some (((recIn b).headD none).getD (0, 0)).1 := by
  decide +kernel

/-- Hypotheses of `DispatchersTilesEvaluationsAndRetriesAdvance`. -/
theorem wit_Dispatch :
    let s := posted .waitring 0
    let sus := (posted .suspended 0).modRec 0 1 fun r => { r with images := [(5, 0x800000)] }
    let reserve (t : State) : State := t.modDie 0 fun d => { d with reserved := reservation t 0 }
    let t := reserve (dropStale s 0)
    let u := reserve (dropStale sus 0)
    let head (t : State) : Bool := (best (candidates t 0)).any fun e => e.1 == 1 && recState t 0 e.2 == .eligible
    let urgent := base.modDie 0 fun d => { d with requests := [⟨0, 1, true⟩] }
    let halt := base.modCore 0 fun c => { c with haltReq := true }
    best (candidates (reserve (dropStale (posted .blocked 1) 0)) 0) = none ∧ head t = true ∧
      (best (candidates u 0)).any (fun e => recState u 0 e.2 == .suspended && ownCore u 0 e.1 e.2 == some (5, 0x800000)) = true ∧
      (urgent.die 0).requests.find? (fun q => q.core == 0 && q.urgent) = some ⟨0, 1, true⟩ ∧ (base.core 0).shadow = none ∧
      ((halt.core 0).haltReq = true ∧ swapPoint halt 0 = true) ∧ (base.core 0).haltReq = false ∧ swapPoint State.reset 0 = false := by
  decide +kernel

/-- Hypotheses of `DispatchersTilesEvaluationsAndRetriesAdvance`. -/
theorem wit_Tiles :
    let word : Nat := 1 + 2 ^ 16 + 32 * 2 ^ 25 + 2 ^ 34 + 2 ^ 38
    let t : TileTask := { noTile with g := BitVec.ofNat 64 word, a := [⟨0x500000, 64, 1, false⟩], c := [⟨0x500400, 4, 1, false⟩], op := 1 }
    let swap : TileTask := { noTile with kind := 2, w := 3 }
    let s (l : List TileTask) : State :=
      base.modDie 0 fun d => { d with tiles := (List.range l.length).zip ((l.zip (List.range l.length)).map fun x => { x.1 with qseq := x.2 }) }
    let w := (cellsReady (.op 1) (linesOf (t.a ++ t.wseg))).run (s [t])
    let barred' : TileTask := { swap with bar := some (padAddr 0 0), phase := true }
    nextTile (s []) 0 [] (queueOf (s []) 0 0) = none ∧ ((nextTile (s [t]) 0 [] (queueOf (s [t]) 0 0)).map fun x => (x.1, x.2.2)) = some (0, false) ∧
      (w.1.2 = none ∧ w.1.1 = false) ∧ (chooseArray w.2 0 0 t).isSome = true ∧ (t.image.isEmpty = true) ∧ pinsFull w.2 (pinLines t) = false ∧
      mapFind ((s [{ t with st := 2 }]).die 0).tiles 0 ≠ none ∧ firstMarker 3 (queueOf (noteMarkers (s [t])) 0 0) = none ∧
      ((firstMarker 3 (queueOf (noteMarkers (s [swap])) 0 0)).map fun x => (x.1, x.2.due, x.2.late)) = some (0, true, false) ∧
      ((firstMarker 3 (queueOf (noteMarkers (s [{ t with w := 3, st := 1 }, swap])) 0 0)).map (·.2.due)) = some false ∧
      ((firstMarker 3 (queueOf (noteMarkers (s [{ swap with due := true, late := true }])) 0 0)).map (·.2.late)) = some true ∧
      (barPhase (s []) (padAddr 0 0) != barred'.phase) = true := by decide +kernel

theorem eraseDups_of_nodup {l : List Nat} (h : l.Nodup) : l.eraseDups = l := by
  induction l with
  | nil => rfl
  | cons a l ih =>
    obtain ⟨ha, hl⟩ := List.nodup_cons.mp h
    rw [List.eraseDups_cons, List.filter_eq_self.mpr, ih hl]
    intro b hb
    simp only [Bool.not_eq_true', beq_eq_false_iff_ne]
    rintro rfl
    exact ha hb

/-- Hypotheses of `DispatchersTilesEvaluationsAndRetriesAdvance`. -/
theorem wit_PinsFull :
    pinsFull { base with pins := (List.range 2048).map fun i => ⟨1, 0, 0x500000 + 128 * i⟩ } [0x540000] = true := by
  have same : ((List.range 2048).map (fun i => 0x500000 + 128 * i) ++ [0x540000]).filter
      (fun x => homeSite x == homeSite 0x540000 && homeSlice base x == homeSlice base 0x540000) =
        (List.range 2049).map (fun i => 0x500000 + 128 * i) := by decide +kernel
  have once : ((List.range 2049).map (fun i => 0x500000 + 128 * i)).Nodup :=
    List.Pairwise.map _ (fun a b (h : a ≠ b) => by omega) List.nodup_range
  have slice (l : List Pin) : homeSlice { base with pins := l } = homeSlice base := rfl
  simp only [pinsFull, List.map_map, Function.comp_def, List.any_cons, slice, same, eraseDups_of_nodup once]
  simp

/-- Hypotheses of `DispatchersTilesEvaluationsAndRetriesAdvance`. -/
theorem wit_Retries :
    let o (k : OpKind) : Op := { newOp base k .c 128 with id := 1, nums := [0, 0] }
    let s (k : OpKind) : State := { base with ops := [o k] }
    let w : Waiter := ⟨.core 0 .m, { act := .load, pieces := [⟨0x500000, 4, 1, false, 0, 0, false, true⟩] }, .none, .cell 0x500000, 1, true⟩
    ((s .flush).ops.find? (fun o => o.id == 1)).map (·.nums) = some (0 :: [0]) ∧ (base.ops.find? (fun o => o.id == 1)) = none ∧
      ((s .eval).ops.find? (fun o => o.kind == .eval && o.nums.getD 0 0 == 0 && o.nums.getD 1 0 == 0)).isSome = true ∧
      (∀ w ∈ base.waiters, w.retry = true → waitsAt 0 w = false) ∧ waitsAt (homeSite 0x500000) w = true ∧ waitsPad 0 w = false := by
  decide +kernel

/-! ## Words and steps -/

/-- Hypotheses of `EveryWordHasOneEncodingAndOneMeaning`. -/
theorem wit_Encoding :
    (Instr.add ⟨1, 2, 0, 3, 0, 0⟩).wf = true ∧ (encode (.add ⟨1, 2, 0, 3, 0, 0⟩)).isSome = true ∧ (eCode (.elda 7)).isSome = true ∧
      (Instr.elda 7).wf = true ∧ (decode [0x0001, 0x0818]).toOption.isSome = true ∧ (decodeEop 0x0800).toOption.isSome = true := by
  decide +kernel

/-- Core 0 about to execute ADD x1 = x2 + x3, the first word of its text. -/
def aboutToAdd : State := placeWord State.reset [0x0001, 0x0818]

/-- Hypotheses of `AStepRunsTheDecodedWordAndNeverStops`. -/
theorem wit_AStep :
    let s := aboutToAdd
    let t := { s with cycle := s.cycle + 1 }
    let u := { t with turn := 0, eng := .t }
    let c := u.core 0
    s.agenda = [] ∧ s.msgs = [] ∧ s.fw.started = true ∧ s.fw.retryReset = false ∧ s.fw.background = none ∧ s.epi.at_ = none ∧
      (readyEngines t).find? (turnAfter t) = none ∧ s.turn = noCore ∧ (readyEngines t).head? = some (0, .t) ∧ c.parkPending = none ∧
      c.intrap = false ∧ c.subst = none ∧ (c.ctx.eng .t).skip = 0 ∧ (fetchParcel u placeAt).toOption = some 0x0001 ∧ tagFits (tagOf 0x0001) .t = true ∧
      parcelsOf 0x0001 = 2 ∧ (fetchParcels u placeAt 2).toOption = some [0x0001, 0x0818] ∧ s.agendaOk = true ∧ s.waiters = [] := by decide +kernel

/-- Hypotheses of `AStepRunsTheDecodedWordAndNeverStops`. -/
theorem wit_AnEpilogueStep :
    let s := placeEop State.reset 0x0800
    s.agenda = [] ∧ s.msgs = [] ∧ s.fw.started = true ∧ s.fw.retryReset = false ∧ s.fw.background = none ∧ s.epi.at_ = some 0 ∧
      s.epi.prog[0]? = some 0x0800 ∧ (decodeEop 0x0800).toOption = some (.elda 0) := by decide +kernel

/-- Hypotheses of `AStepRunsTheDecodedWordAndNeverStops`. -/
theorem wit_SafeAgenda :
    ({ State.reset with agenda := [(.powerUp, noArgs)] }).agendaOk = true ∧ ({ State.reset with agenda := [(.brk, noArgs)] }).agendaOk = false := by
  decide +kernel

/-! ## Results that the specification works out -/

/-- The table after R332's section heading "results follow R324 to R327". -/
theorem test_integer_results :
    addOp 0 0x7FFFFFFFFFFFFFF0 0x20 = (0x8000000000000010, fIOV) ∧ addOp 1 0x7FFFFFFFFFFFFFF0 0x20 = (0x7FFFFFFFFFFFFFFF, fSAT) ∧
      subOp 2 5 9 = (0, fSAT) ∧ mulOp 3 (-1) 3 = (0xFFFFFFFFFFFFFFFF, 0) ∧ divOp 0 (-7) 2 = (-3, 0) ∧ remOp 0 (-7) 2 = (-1, 0) ∧
      divOp 1 7 0 = (0xFFFFFFFFFFFFFFFF, fDZ) ∧ divOp 0 0x8000000000000000 (-1) = (0x8000000000000000, fIOV) := by decide +kernel

/-- The example of R329. -/
theorem test_field : (fieldOp 0 0xF0A0 0x0808 0).1 = 0xF0 ∧ (fieldOp 1 0xF0A0 0x0808 0).1 = 0xFFFFFFFFFFFFFFF0 := by decide +kernel

/-- The example of R368 and R369; type codes 0x0 F32, 0x1 BF16, 0x3 E4M3, 0xA I8. -/
theorem test_elements :
    eAdd 3 0 false 0 0x7E 0x62 0 = (0x7F, fOF ||| fNX) ∧ eAdd 3 0 true 0 0x7E 0x62 0 = (0x7E, fSAT ||| fNX) ∧
      eDiv 0 0 true 0 0x3F800000 0 0 = (0x7F7FFFFF, fDZ ||| fSAT) ∧ eMin 0 0 false 0 0x7FC00000 0x40400000 0 = (0x40400000, 0) ∧
      eMax 1 0 false 0 0x8000 0 0 = (0, 0) ∧ eNeg 10 0 false 0 0x80 0 0 = (0x80, fIOV) ∧ eNeg 10 0 true 0 0x80 0 0 = (0x7F, fSAT) := by
  decide +kernel

/-- The examples of R275 (E2M1, code 7), R281 (draws; 1.25 to E2M1 in SR) and R287 (BF16 to E4M3). -/
theorem test_conversions :
    ((List.range 8).map fun c => (convert 7 0 0 false c 0).1) =
        [0, 0x3F000000, 0x3F800000, 0x3FC00000, 0x40000000, 0x40400000, 0x40800000, 0x40C00000] ∧
      drawWord 0 0 1 = 0xE220A8397B1DCDAF ∧ drawWord 0 0 2 = 0x6E789E6AA1B965F4 ∧
      ((List.range 3).map fun j => (convert 1 7 5 false 0x3FA0 (draw 0 0 j)).1) = [3, 2, 3] ∧
      convert 1 3 0 false 0x4380 0 = (0x78, 0) ∧ convert 1 3 0 false 0x43F3 0 = (0x7F, fOF ||| fNX) ∧
      convert 1 3 0 true 0x43F3 0 = (0x7E, fSAT ||| fNX) := by decide +kernel

/-- The example after R292: two blocks to MXFP4 and to NB4 type 01. -/
theorem test_quantisers :
    let block (x : Nat) : List Val := [decodeFp 0 x, decodeFp 0 0xC0200000] ++ List.replicate 30 (decodeFp 0 0)
    let codes (r : Nat × List (Nat × BitVec 7) × BitVec 7) : Nat × List Nat := (r.1, (r.2.1.map (·.1)).take 3)
    codes (mxQuantise 7 0 false (block 0x40A00000) fun _ => 0) = (0x7F, [6, 0xC, 0]) ∧
      codes (mxQuantise 7 0 false (block 0x40F00000) fun _ => 0) = (0x7F, [7, 0xC, 0]) ∧
      codes (nbQuantise 1 0 false (block 0x40A00000) fun _ => 0) = (0x60, [6, 0xC, 0]) ∧
      codes (nbQuantise 1 0 false (block 0x40F00000) fun _ => 0) = (0x61, [6, 0xA, 0]) := by decide +kernel

/-- The example of R374: 256 and 31 ones in BF16 sum to 288, 286 under RTZ. -/
theorem test_reduction :
    let v := (0x4380 + (List.range 31).foldl (fun n i => n + 0x3F80 * 2 ^ (16 * (i + 1))) 0)
    let sum (mode : Nat) : Nat := (reduceElems 1 0 ⟨mode, false, 0, 0⟩ (elems 1 v 32 (BitVec.allOnes 64))).1
    sum 0 = 0x4390 ∧ sum 1 = 0x438F := by decide +kernel

/-- The example of R45: the field at sites 0, 8 and 9 of a planned route. -/
theorem test_route : nextEdge 0 9 0x62 = (2, 0x11) ∧ nextEdge 8 9 0x11 = (1, 0) ∧ neighbour 0 2 = (8, 0) ∧ (neighbour 8 1).1 = 9 := by decide +kernel

/-- The example of section 1.4: columns, banks and the capacity of a carved D-stack. -/
theorem test_carving :
    let d : Die := { carve := [(16 * 5 + 3, 0x04), (16 * 5 + 7, 0x6B)], carved := true }
    d.banks 5 3 = 14 ∧ d.banks 5 7 = 0 ∧ d.colGran 5 = 174 ∧ d.colBase 5 = 960 ∧ d.stackCap = 12270 ∧ d.layerOf (960 + 36) = 3 := by
  decide +kernel

/-- The example of R177: lengths 1, 2, 3, 3 and the bytes 0xB6, 0x7F. -/
theorem test_decompression :
    let table := [(4 : Byte)] ++ List.replicate 255 0 ++ [1, 2, 3, 3] ++ List.replicate 252 0
    ((decompTable table).map fun t => (decodeSymbols t.2 [0xB6, 0x7F] 4 0).1) = some [1, 2, 2, 0] := by decide +kernel

/-- The example of R147: the fifth and the last chunk. -/
theorem test_range_unit :
    let take (u : RangeUnit) : Nat × Nat × RangeUnit :=
      let len := min (max u.minc.toNat ((u.remain.toNat + u.pdiv.toNat - 1) / u.pdiv.toNat)) u.remain.toNat
      (u.next.toNat, len, { u with next := u.next + BitVec.ofNat 48 len, remain := u.remain - BitVec.ofNat 48 len })
    let chunks (k : Nat) : RangeUnit := (List.range k).foldl (fun u _ => (take u).2.2) { next := 0, remain := 1000, minc := 16, pdiv := 8 }
    let chunk (k : Nat) : Nat × Nat := let r := take (chunks k); (r.1, r.2.1)
    chunk 4 = (415, 74) ∧ chunk 15 = (867, 17) ∧ chunk 16 = (884, 16) ∧ chunk 23 = (996, 4) ∧ (chunk 24).2 = 0 := by decide +kernel

/-- The words of Tables 14-9 and 16-5, and the examples of R397, R400 and R349. -/
theorem test_worked_encodings :
    (decode [0x0405, 0x51FD]).toOption = some (.addi ⟨5, 20, 0, 0x1FD⟩) ∧ (decode [0x08C3, 0x13F4]).toOption = some (.beq ⟨3, 4, 0x3F4⟩) ∧
      (decode [0x2000, 0x00A0, 0x6004, 0x0100]).toOption = some (.vadd { vw 3 1 2 0 with pg := 5 }) ∧
      (decode [0x2183, 0xB001, 0x0009, 0x0800]).toOption = some (.vcvt { vw 8 2 0x10 0x3B with aw := 1 }) ∧
      (decode [0x2A01, 0xC000, 0x2345, 0x6789]).toOption = some (.lix ⟨7, 0, 0x23456789⟩) ∧
      (decode [0x2A01, 0xE000, 0, 1]).toOption = some (.lix ⟨7, 1, 1⟩) ∧ (decode [0x7FFB]).toOption = some (.mlit 0x1FFB) ∧
      (decode [0xC201]).toOption = some (.endl 1) ∧ (decode [0x1403, 0x2801]).toOption = some (.stn ⟨3, 10, 0, 1⟩) ∧
      (decode [0x0D00, 0x00A0]).toOption = some (.fence 2 2 0) ∧
      (decode [0x2030, 0x2002, 0x8010, 0x0280]).toOption = some (.vfma (vw 20 4 5 0x02)) ∧
      (decode [0x2108, 0x2008, 0xC024, 0x0510]).toOption = some (.vcmp { vw 70 9 10 0x82 with bb := 1 }) ∧
      (decode [0x2179, 0x3001, 0x8030, 0x0030]).toOption = some (.vshr { vw 12 12 0 0x93 with bw := 1, bb := 1 }) ∧
      (decode [0x2201, 0x0003, 0xC001, 0x0000]).toOption = some (.vred { vw 30 0 0 0x10 with aw := 1 }) ∧
      (decode [0x2197, 0xA005, 0x0802, 0x0800]).toOption = some (.vqmx { vw 40 0 0x10 0x7A with dw := 1, aw := 2 }) ∧
      (decode [0x21BE, 0x0005, 0x4812, 0x0980]).toOption = some (.vqnb { vw 42 4 0x13 0xE0 with dw := 1, aw := 2 }) ∧
      (decode [0x2348, 0x0008, 0xE00C, 0x0200]).toOption = some (.pwhile (vw 71 3 4 0x80)) := by decide +kernel

/-! ## Ill-formed words, each refused by one check -/

theorem smoke_scalar :
    (Instr.add ⟨1, 2, 0, 3, 0, 3⟩).wf = false ∧ (Instr.and ⟨1, 2, 0, 3, 0, 2⟩).wf = false ∧ (Instr.shl ⟨1, 2, 0, 3, 0, 1⟩).wf = false ∧
      (Instr.bits ⟨1, 2, 0, 3, 0, 0⟩).wf = false ∧ (Instr.sel ⟨1, 2, 0, 3, 0, 1⟩).wf = false ∧ (Instr.shli ⟨1, 2, 0, 64⟩).wf = false ∧
      (Instr.xput ⟨1, 2, 0, 0, 0, 1⟩).wf = false ∧ (Instr.csrr ⟨1, 2, 0, 0x012⟩).wf = false ∧ (Instr.csrw ⟨1, 2, 0, 0x1FF⟩).wf = false ∧
      (Instr.fence 5 0 0).wf = false ∧ (Instr.fence 0 3 4).wf = false ∧ (Instr.getid ⟨1, 0, 0, 0, 0, 3⟩).wf = false ∧
      (Instr.sts ⟨1, 2, 0, 0, 0, 2⟩).wf = false ∧ (Instr.allot ⟨1, 0, 0, 15⟩).wf = false ∧ (Instr.allot ⟨1, 0, 0, 256⟩).wf = false ∧
      (Instr.rotcfg ⟨1, 0, 0, 0⟩).wf = false ∧ (Instr.asgen ⟨1, 2, 0, 0, 0, 0⟩).wf = false ∧ (Instr.probe ⟨1, 2, 0, 0, 0, 3⟩).wf = false ∧
      (Instr.grpset ⟨0, 2, 0, 3, 0, 1⟩).wf = false := by decide +kernel

theorem smoke_vector :
    -- rounding mode 111; a type outside the class; d past the allotment; a width group not aligned; a transient pair of a quantiser
    (Instr.vadd (vw 3 1 2 0x0E)).wf = false ∧ (Instr.vadd (vw 3 1 2 0xF0)).wf = false ∧ (Instr.vsqrt (vw 3 1 0 0x80)).wf = false ∧
      (Instr.vadd { vw 3 1 2 0 with dw := 1, aw := 1, bw := 1 }).wf = false ∧ (Instr.vadd { vw 240 1 2 0 with dt := 1 }).wf = false ∧
      (Instr.vqmx { vw 40 0 0x10 0x7A with dw := 1, aw := 2, dt := 1 }).wf = false ∧ (Instr.vcvt (vw 8 2 0x11 0x3B)).wf = false ∧
      (Instr.vabs (vw 3 1 2 0)).wf = false ∧ (Instr.vcmp (vw 70 9 10 0x87)).wf = false ∧ (Instr.pcnt { vw 5 71 0 0x80 with pg := 1 }).wf = false ∧
      (Instr.rcpdef (vw 20 3 0 0x03)).wf = false ∧ (Instr.vld { vw 3 64 0 0 with fn8 := 1 }).wf = false := by decide +kernel

theorem smoke_engines :
    (Instr.mepi 0).wf = false ∧ (Instr.mconst 1 0).wf = false ∧ (Instr.mskipz 0).wf = false ∧ (Instr.cskipz 0).wf = false ∧
      (Instr.loop 0).wf = false ∧ (Instr.leave 0 1).wf = false ∧ (Instr.abr 0 1 5).wf = false ∧ (Instr.slip 0).wf = false ∧
      (Instr.slip 9).wf = false ∧ (Instr.ccoll 0xF 0).wf = false ∧ (Instr.eact 0 0 5).wf = false := by decide +kernel

theorem smoke_steps :
    argsOk .stageOverrun noArgs = false ∧ argsOk .sensorSample { noArgs with n := 68 } = false ∧ argsOk .lpwrWrite noArgs = false ∧
      argsOk .capTick { noArgs with n := 16 } = false ∧ argsOk .registerWrite noArgs = false ∧ argsOk .flitReceive noArgs = false ∧
      argsOk .fabricNakReceive { noArgs with n := 72 } = false ∧ argsOk .rdline { noArgs with msg := { noSlot with src := 68 } } = false ∧
      argsOk .lwrite noArgs = false ∧ argsOk .submit { noArgs with n := 65536 } = false ∧ argsOk .msixUnmask { noArgs with n := 5 } = false ∧
      argsOk .contextSwap { noArgs with n := 256 } = false ∧ argsOk .tkpost { noArgs with k := 4096 } = false := by decide +kernel

/-! ## Single steps -/

def field' {α : Type} (o : Host.Outcome State Fault Refusal) (f : State → α) : Option α :=
  match o with
  | .next s => some (f s)
  | _ => none

/-- ADD.SS clamps and raises SAT; the pc goes past two parcels (R324, R255). -/
theorem test_step_add :
    let s := withX [(2, full 0x7FFFFFFFFFFFFFF0), (3, full 0x20)]
    field' (exec (.add ⟨1, 2, 0, 3, 0, 1⟩) s) (fun t => ((t.ctx.regX 1).val, t.ctx.flags, t.ctx.t.pc)) =
      some (0x7FFFFFFFFFFFFFFF, fSAT, 0x1004) := by decide +kernel

/-- BRK enters the handler of the die with cause 0x30 (Table 12-2). -/
theorem test_step_brk :
    field' (exec .brk base) (fun t => ((t.core 0).tcause, (t.core 0).tpct, (t.core 0).intrap, t.ctx.t.pc)) =
      some (0x30, 0x1000, true, 0xFF0030000000) := by decide +kernel

/-- SHLI and ADD replay a DROPPED x20 from x21 = 5 and x22 = 0x10000 (the example of R249). -/
theorem test_step_replay :
    let c (r : Ctx) : Ctx := { r with x := [(20, { val := 0, fill := .dropped }), (21, full 5), (22, full 0x10000)],
                                      recipes := [(3, ⟨[.shli ⟨20, 21, 0, 6⟩, .add ⟨20, 20, 0, 22, 0, 0⟩], .x, 20, [(.x, 21), (.x, 22)], 0⟩)] }
    field' (exec (.addi ⟨5, 20, 0, 0⟩) (coreAt 0 c id)) (fun t => (t.ctx.regX 5).val) = some 0x10140 := by decide +kernel

/-- PWHILE.I32 and PCNT (the example of R380). -/
theorem test_step_predicates :
    let s := withX [(3, full 10), (4, full 13)]
    field' (exec (.pwhile (vw 71 3 4 0x80)) s) (fun t => (t.ctx.regP 71).val) = some 0xFFF ∧
      field' (exec (.pcnt (vw 5 71 0 0x80)) (s.setCtx { s.ctx with p := [(71, { val := 0xFFF })] })) (fun t => (t.ctx.regX 5).val) = some 3 ∧
      field' (exec (.pcnt (vw 5 71 0 0xA0)) (s.setCtx { s.ctx with p := [(71, { val := 0xFFF })] })) (fun t => (t.ctx.regX 5).val) =
        some 12 := by decide +kernel

/-- STN x3, x10, 1 writes the high nibble of its byte alone (the example of R400). -/
theorem test_step_stn :
    let s := paged [(3, full 0xB), (10, full 0x10000)]
    field' (exec (.stn ⟨3, 10, 0, 1⟩) (writeBytes s 0x500000 [0x05])) (fun t => readBytes t 0x500000 1) = some [0xB5] := by decide +kernel

/-- A store then a load of DRAM, and the same through the text of a step. -/
theorem test_step_store :
    let s := paged [(3, full 0x1122334455667788), (4, full 0x70000)]
    field' (exec (.std ⟨3, 4, 0, 1⟩) s) (fun t => readBytes t 0x500008 8) = some [0x88, 0x77, 0x66, 0x55, 0x44, 0x33, 0x22, 0x11] := by
  decide +kernel

/-- Two MLIT words leave 100,000 (Table 14-9). -/
theorem test_step_literals :
    (field' (exec (.mlit 12) (withM [] id)) fun t => field' (exec (.mlit 0x06A0) t) fun t => t.ctx.m.params) = some (some [100000]) := by
  decide +kernel

/-- The word that stands in text is the one that a step executes. -/
theorem test_step_fetches :
    field' (step (State.reset.withFetchWord 32 0x040551FD)) (fun t => (t.ctx.regX 5).val) = some 0xFFFFFFFFFFFFFFFD := by
  decide +kernel

/-- A state that meets the canonical form, of which a step answers the next; and two states that read alike. Hypotheses of `EveryStepKeepsMemoryInItsCanonicalForm`. -/
theorem wit_StepMemory :
    let s := State.reset.withFetchWord 32 0x040551FD
    Memory.wf s = true ∧ field' (step s) Memory.wf = some true ∧ s.mem ≠ [] ∧ (s.mem == (writePhys (writePhys s 7 9) 7 0).mem) = true := by
  decide +kernel

/-! ## Forms that run behind an access, wait, or stop -/

/-- Hypotheses of `EmptyOperandTrapsOrWaits`. -/
theorem wit_EmptySources :
    let s := coreAt 0 (fun c => { c with x := [(3, empty), (4, full 9)], v := [(5, { val := 0, fill := .empty })],
                                         p := [(71, { val := 0, fill := .empty })] }) id
    let c := s.ctx
    s.awaits .t = false ∧ ((c.regX 3).fill = .empty ∧ c.xReady 4 = true) ∧ members c 4 2 = [4] ++ 5 :: [] ∧
      (∀ q ∈ [4], q < c.vallot ∧ ((c.liveAt .v q).isSome = true ∨ (c.regV q).fill = .full)) ∧
      (5 < c.vallot ∧ c.liveAt .v 5 = none ∧ (c.regV 5).fill = .empty) ∧ (members c 239 1 = [] ++ 239 :: [] ∧ c.vallot ≤ 239) ∧
      ((c.liveAt .p (rotP c 71)).isNone = true ∧ (c.regP (rotP c 71)).fill = .empty) ∧ (c.vReady 6 1 && c.vReady 8 1 && c.vReady 10 1) = true := by
  decide +kernel

/-- A replay that traps, held to a check of its cause, address, information and state. -/
def replayTraps (j : Nat) (s : State) (p : Nat → Word → Word → State → Bool) : Bool :=
  match replay j s with
  | .error (.trap cause addr info) t => p cause addr info t
  | _ => false

/-- Hypotheses of `RecipeWordsBindDropAndUnbind`: x9 is DROPPED, and replayed from x6 by slot 2. -/
theorem wit_Replays :
    let dropped : Reg Word := { val := 0, fill := .dropped }
    let slot (t : Nat) (body : Instr) (pins : List (Kind × Nat)) : Recipe := ⟨[body], .x, t, pins, 0⟩
    let s (x : List (Nat × Reg Word)) (rs : List (Nat × Recipe)) : State := let b := paged x; b.setCtx { b.ctx with recipes := rs }
    let w := slot 9 (.addi ⟨9, 6, 0, 1⟩) [(.x, 6)]
    let a := s [(6, full 4), (9, dropped)] [(2, w)]
    let l := slot 9 (.ldd ⟨9, 6, 0, 0⟩) [(.x, 6)]
    let m := s [(6, full 0x10000), (9, dropped)] [(2, l)]
    let chain := s [(6, dropped), (7, dropped), (9, dropped)]
      [(2, w), (3, slot 6 (.addi ⟨6, 7, 0, 1⟩) [(.x, 7)]), (4, slot 7 (.addi ⟨7, 8, 0, 1⟩) [(.x, 8)])]
    (mapFind a.ctx.recipes 2 = some w ∧ (∀ p ∈ w.pins, a.ctx.fill p.1 p.2 = .full) ∧ w.body = [.addi ⟨9, 6, 0, 1⟩]) ∧
      (mapFind m.ctx.recipes 2 = some l ∧ has (placeAligned 0x10000 8 8 aLoad) m (fun p t =>
        (translateHere t p.va aLoad).toOption.any (fun f => f.w || f.defer)) = true) ∧
      (let e := s [(6, empty), (9, dropped)] [(2, w)]
       (∃ p ∈ w.pins, e.ctx.fill p.1 p.2 = .empty) ∧ (∀ p ∈ w.pins, e.ctx.fill p.1 p.2 ≠ .dropped)) ∧
      (w.pins = [(.x, 6)] ∧ chain.ctx.fill .x 6 = .dropped ∧ (chain.ctx.slotOf .x 6).map (·.1) = some 3 ∧
        chain.ctx.fill .x 7 = .dropped ∧ (chain.ctx.slotOf .x 7).map (·.1) = some 4) ∧
      (a.ctx.fill .x 9 = .dropped ∧ a.ctx.slotOf .x 9 = some (2, w) ∧ has (replay 2) a (fun _ t => t.ctx.xWritable 1) = true) ∧
      (chain.awaits .t = false ∧ replayTraps 2 chain (fun cause _ _ _ => cause == 8) = true) ∧
      (a.ctx.xReady 6 = true ∧ a.ctx.pending .x 6 = false ∧
        a.ctx.recipes.filter (fun r => r.2.pins.contains (.x, 6) && a.ctx.fill r.2.kind r.2.target == .dropped) = [(2, w)]) := by
  decide +kernel

/-- The trap at depth 3 names the third slot, with REPLAY (R249, Table 12-9). -/
theorem test_replay_depth :
    let dropped : Reg Word := { val := 0, fill := .dropped }
    let slot (t a : Nat) : Recipe := ⟨[.addi ⟨BitVec.ofNat 6 t, BitVec.ofNat 6 a, 0, 1⟩], .x, t, [(.x, a)], 0⟩
    let s := coreAt 0 (fun c => { c with x := [(6, dropped), (7, dropped), (9, dropped)],
                                         recipes := [(2, slot 9 6), (3, slot 6 7), (4, slot 7 8)] }) id
    replayTraps 2 s (fun cause _ info _ => cause == 8 && info.toNat == 2 ^ 56 + 4 * 2 ^ 57) = true := by decide +kernel

/-- Hypotheses of `AtomicAndFlagWordsReturnTheOldValue`: VAMOADD without an active element. -/
theorem wit_IdleVamoadd :
    let s := withX [(3, full 0x10040), (4, full 0x10020), (5, full 0x0100000000000000)]
    let a (n : Nat) : Nat := (s.ctx.regX n).val.toNat
    (List.range 16).any (active 0 8) = false ∧ (a 3 < 2 ^ 56 ∧ a 3 % 64 = 0) ∧ (a 4 < 2 ^ 56 ∧ a 4 % 64 ≠ 0) ∧ 2 ^ 56 ≤ a 5 ∧
      s.awaits .t = false := by decide +kernel

/-- Hypotheses of `BranchesGoToTheirTargets`. -/
theorem wit_BranchesOut : (coreAt 0 (fun c => { c with t := { c.t with pc := 0 } }) id).awaits .t = false := by decide +kernel

/-- A DEFER page behind window 0, at 0x80000, and the same page without DEFER at 0x90000. -/
def windowed (l : List (Nat × Reg Word)) : State :=
  let s := also (paged l) [(0x40040, 0x57), (0x40045, 0x70), (0x40048, 0x17), (0x4004D, 0x70)]
  s.modFw fun f => { f with fwin := [(0, ⟨5, true, 64, false, 0, 1⟩)] }

/-- Hypotheses of `CellWordsActOnTheirCell`: a cell behind a window. -/
theorem wit_FarCells :
    let s := windowed [(3, full 0x80000)]
    has (cellPlace 0x80000 aLoad) (s.setCtx s.ctx.closed) (fun p _ => p.isRemote) = true := by decide +kernel

/-- Hypotheses of `AWordsKeepTheEnginesInStep`. -/
theorem wit_AWordTraps :
    let ahead := aState .t id []
    let slip := ahead.setCtx { ahead.ctx with t := { ahead.ctx.t with acount := 2 } }
    let apart := aState .m id [⟨1, 8, none⟩]
    let at_ (pc : TextAddr) (f : State → State) : State := f (aState .t (fun g => { g with pc := pc }) [])
    let walk (s : State) := matchEndl (s.setCtx (s.ctx.entered .t none)) walkLimit 0 ((s.ctx.entered .t none).t.pc.toNat + 2)
    let bad := at_ 0xFF7E fun s => { s with poison := [(0x5FF80, true)] }
    slipHolds slip.ctx .t = true ∧ (Instr.halt = .halt ∧ (slip.ctx.eng .t).halted = false) ∧ slipHolds apart.ctx .m = false ∧
      apart.awaits .m = false ∧ logAt apart.ctx ((apart.ctx.eng .m).acount + 1) = some ⟨1, 8, none⟩ ∧ (8 : TextAddr) ≠ (apart.ctx.eng .m).pc ∧
      (match walk (at_ 0xFFFE id) with
        | .ok none => true
        | _ => false) = true ∧
      (match walk bad with
        | .error (x, _) => x.entryAt == none && x != errRemote 0
        | _ => false) = true ∧
      (bad.ctx.mayA .t = true ∧ bad.awaits .t = false) ∧
      (let f := aState .t (fun g => { g with loops := List.replicate 4 ⟨1, 2⟩, rets := List.replicate 8 4 }) []
       let c := f.ctx.entered .t none
       f.ctx.mayA .t = true ∧ 4 ≤ (c.eng .t).loops.length ∧ 8 ≤ (c.eng .t).rets.length) ∧
      ((ahead.ctx.entered .t none).eng .t).loops = [] ∧ ((ahead.ctx.entered .t none).eng .t).rets = [] := by decide +kernel

/-- A TOUCH of core 0 that waits at its home. -/
def touching (s : State) : State :=
  { s with waiters := [⟨.slot (ownSlot s 0x600000), { act := .cell 0, pieces := [] }, .none, .cell 0x600000, 0, true⟩] }

/-- Hypotheses of `RendezvousWordsWaitForEveryEngine` and `FencesIdsAndFetchControlComplete`. -/
theorem wit_Touches :
    let s := touching (aState .t id [])
    touchOut s s.turn = true ∧ s.eng = .t ∧ touchOut base base.turn = false ∧
      (let b := base.modCore 0 fun c => { c with l1 := [{ addr := 0x500000, cls := 1, data := List.replicate 128 7, dirty := 1 }] }
       let dirty := (linesHeld (b.core 0)).filter fun x => x.dirty != 0
       dirty ≠ [] ∧ dirty.any (fun x => b.pinned x.addr) = false) := by decide +kernel

/-- Core 0 behind an access that is not answered: T has gone on by one word. -/
def goneAhead (s : State) : State := s.modCore 0 fun k => { k with ahead := some { base := { k.ctx with t := { k.ctx.t with pc := 0xFF8 } }, words := 1 } }

/-- Hypotheses of `TrappingWordsTakeTheirTrap` and `AStepRunsTheDecodedWordAndNeverStops`. -/
theorem wit_BehindAnAccess :
    let s := goneAhead base
    ((s.core s.turn).unwind.ctx).window = [] ∧ (s.core s.turn).intrap = false ∧
      (heldBack { s with eng := .t } (.fence 0 0 0) = true ∧ heldBack { s with eng := .t } (.add ⟨1, 2, 0, 3, 0, 0⟩) = false ∧
        heldBack base (.fence 0 0 0) = false) := by decide +kernel

/-- Hypotheses of `AStepRunsTheDecodedWordAndNeverStops`: T may have its turn behind an access. -/
theorem wit_AStepBehindAnAccess :
    let s := goneAhead aboutToAdd
    let t := tickCycle s
    let u := { t with turn := 0, eng := .t }
    (readyEngines t).find? (turnAfter t) = none ∧ s.turn = noCore ∧ (readyEngines t).head? = some (0, .t) ∧
      heldBack u (.add ⟨1, 2, 0, 3, 0, 0⟩) = false ∧ heldBack u (.fence 0 0 0) = true := by decide +kernel

/-- Hypotheses of `SupervisorDataWordsActOrTrap`: the traps inside supervisor mode. -/
theorem wit_SupervisorTraps :
    let s := (paged [(3, full 255), (4, full 256)]).modCore 0 inSup
    let s0 := s.setCtx s.ctx.closed
    let x : State := s.modCore 0 fun c => { c with shadow := some {} }
    let img : State := { s0 with mem := imageCells }
    let wide := { img with mem := [(0x500000, 1), (0x500002, 15), (0x500004, 0x80), (0x500005, 0x4F), (0x500070, 240)] }
    let wide := wide.modCore 0 fun c => { c with ctx := { c.ctx with vallot := 240 } }
    let off := s0.modDie 1 fun d => { d with lpwr := (List.range 13).map fun l => (l, ⟨3, 3, false, none⟩) }
    let bad := also s [(0x500080, 0x80), (0x500084, 0xFF), (0x500086, 1)]
    s.awaits .t = false ∧ ((s.core 0).shadow = none ∧ (x.core 0).shadow ≠ none) ∧ (0x500010 % 64 ≠ 0 ∧ 0x500040 % 64 = 0) ∧
      (isDram 0x030000000000 = false ∧ isDram 0x500000 = true) ∧
      (match locate off 0x500000 with
        | .error e => e.info == 0x300
        | .ok _ => false) = true ∧
      loadImage (wakeImage s0 0x500000) 0x500000 = none ∧
      ((loadImage (wakeImage wide 0x500000) 0x500000).any fun c => (wide.core 0).poolFree < c.vallot) = true ∧
      (256 ≤ (s.ctx.regX 4).val.toNat ∧ (s.ctx.regX 3).val.toNat < 256) ∧
      (2 ^ 56 ≤ (0x0100000000000000 : Word).toNat ∧ (0x10080 : Word).toNat < 2 ^ 56 ∧ 0x10080 % 128 = 0 ∧ 0x10040 % 128 ≠ 0) ∧
      has (loadRange 0x10080 128) bad (fun b t => (decodeGroup b).2 == false || membershipOk (mapSet t.fw.groups 255 (decodeGroup b).1) == false) = true ∧
      fails (translateHere s0 0x100000 aLoad) = true ∧
      ((translateHere s0 0x10000 aLoad).toOption.any fun l => 0x10000 % 4 != l.cls.toNat) = true := by decide +kernel

/-- Hypotheses of `PlainAccessesReadAndWriteTheirBytes`. -/
theorem wit_PlainStores :
    let p : Piece := ⟨0x500008, 8, 1, false, 0, 0, false, false⟩
    ownerLets (paged []) 0 p = true ∧ (paged []).pinned p.pa = false := by decide +kernel

/-! ## Messages, ports and units: forms that wait, end or are passed on -/

/-- Hypotheses of `RequestSlotsPerformTheirAccessAndAnswer`: VAMOADD's type and length, and the line that an access may not leave. -/
theorem wit_SlotBounds :
    let m (addr : BitVec 48) (len : Nat) (ty : Nat) : Slot := { noSlot with addr := addr, len := len, arg := BitVec.ofNat 64 (ty * 2 ^ 48) }
    let vt (m : Slot) : BitVec 4 := m.arg.extractLsb' 48 4
    let vamo (m : Slot) : Bool := [0, 1, 2, 8, 13].contains (vt m) && m.len % (tyBits (vt m) / 8) == 0 && m.addr.toNat % 128 + m.len ≤ 128
    vamo (m 0x500000 128 13) = true ∧ vamo (m 0x500000 12 13) = false ∧ vamo (m 0x500000 4 3) = false ∧ vamo (m 0x500040 65 3) = false ∧
      ¬ ((m 0x500070 32 0).addr.toNat % 128 + (m 0x500070 32 0).len ≤ 128) := by decide +kernel

/-- Hypotheses of `TransfersLineWritesAndResponsesComplete`: an image that is not kept, a query that is not answered, a line in POISON. -/
theorem wit_LostAnswers :
    let b : Bulk := { src := 3, bxid := 1, dst := 0, addr := 0x500000, count := 241, got := 0, tag := 1, core := 0, err := 0, discard := true }
    let img : Bulk := { b with bxid := 2, block := some (0x30002, 2) }
    let p : Piece := ⟨0x700000000000, 8, 1, false, 0x10000, 0, false, true⟩
    let r : Request := { core := 0, eng := .t, tag := 1, acc := { act := .load, pieces := [p] }, dest := .x 5 8 false, len := 2, part := (0, p), rest := [], got := [] }
    let s : State := { base with bulks := [b, img], requests := [r], queries := [(9, 0x600000)] }
    let l (status : Byte) (tag : BitVec 2) : LineMsg := { noLine with dst := 0, tag := 1, core := 0, status := status, ctag := tag }
    let query := s.queries.find? fun q => q.1.toNat == 9 && homeSite q.2 == siteOf 0
    (b.block = none ∧ b.discard = true ∧ img.block ≠ none ∧ img.discard = true) ∧ 240 * (0 + 1) < b.count ∧ ¬ (240 * (1 + 1) < b.count) ∧
      (findRequest s { noSlot with dst := 0, tag := 1, core := 0 } = some r ∧ r.op = none) ∧ (l 0 0).ctag ≠ 3 ∧ (l 0 3).ctag = 3 ∧
      (l 2 0).status ≠ 0 ∧ (s.requests.find? (fun r => r.core == 0 && r.tag.toNat == 9)).isNone = true ∧
      (query = some (9, 0x600000) ∨ homeSite 0x600000 ≠ 0) := by decide +kernel

set_option maxRecDepth 20000 in
/-- Hypotheses of `LinksAndPortsReceiveReplayAndRetrain`: a flit behind another that waits for room. -/
theorem wit_FlitsBehind :
    let s := base.modDie 64 fun d => { d with portHeld := [(0, [])] }
    let inner := mkFlit 0 0 1 3 64 0 0 (slotBytes { noSlot with src := 3, dst := 64, op := 0x01 })
    let answer := mkFlit 0 1 1 3 64 0 0 (slotBytes { noSlot with src := 3, dst := 64, op := 0x41 })
    (s.die 64).portHeld.any (·.1 == 0) = true ∧ flitVc inner % 2 = 0 ∧ flitVc answer % 2 ≠ 0 ∧ (s.die 64).portHeld.any (·.1 == 1) = false := by
  decide +kernel

/-- Hypotheses of `StreamPortsMoveTheElementsOfTheirBinding`: a result that writes part of a nibble (six-bit elements). -/
theorem wit_PartialPort :
    let q : Stream := ⟨0x10100, 4, true, 20, 1, 1, 4, 0, 0, 16⟩
    let s := (paged []).modCore 0 fun k => { k with ctx := { k.ctx with streams := [(7, q)], p := [(5, { val := 2 })] } }
    let f : VForm := { vw 247 4 0 0x50 with pg := 5 }
    let out := mapLanes f.ty (lanesD f f.ty) (active (s.ctx.opPg f) f.ty) fun i => (elemOf f.ty (s.ctx.opA f) i, 0)
    let next := portPieces q aStore (min (64 / q.es) (q.total - q.pos)) q.pos
    let merged (o : Nat) : List Byte := leBytes 64 (Nat.lor (o - Nat.land o out.mask) out.val)
    (s.ctx.vReady 4 1 && s.ctx.pReady 5) = true ∧ tyBits f.ty = 6 ∧ out.keepsAt 240 0 = true ∧
      has next s (fun ps t0 => has (tAccess 0 { act := .load, pieces := ps } .again) t0 fun bs t1 => t1.ctx == s.ctx &&
        has next t1 fun os t2 =>
          has (tAccess 0 { act := .store, pieces := os, data := merged (leNat (slice bs 0 64)), mask := out.nibs } .again) t2
            fun _ t => t.ctx == s.ctx) = true := by decide +kernel

/-- Hypotheses of `LendingBorrowingAndReclaimingMoveDiesBetweenModules`: the grace of a reclaim ends, and what peers ask. -/
theorem wit_PoolAsks :
    let e := newStream 2 0x30002 (requestImage 2)
    let s (r : Reclaim) (far : List (BitVec 12 × Nat × Nat × Bool)) :=
      let e := { e with st := .decode, far := far, farSites := [(5, 2)] }
      serving fun f => { f with fwin := [(0, ⟨5, true, 2, true, 3, 6⟩)], reclaims := [r], streams := [(2, e)] }
    let work := s ⟨5, 2, true⟩ [(5, 1, 7, true)]
    let lent := base.modDie 1 fun d => { d with pool := 1, peer := 5 }
    let m : Slot := { noSlot with op := 0x64, src := farSite 5 1, dst := 64 }
    work.fw.reclaims.find? (fun r => r.peer == 5) = some ⟨5, 2, true⟩ ∧ (∃ e ∈ work.fw.streams, worksAt work 5 e.2 = true) ∧
      (∀ e ∈ (s ⟨5, 2, true⟩ []).fw.streams, worksAt (s ⟨5, 2, true⟩ []) 5 e.2 = false) ∧
      (∃ e ∈ (failStreams (s ⟨5, 2, true⟩ [(5, 1, 7, true)]) (worksAt (s ⟨5, 2, true⟩ [(5, 1, 7, true)]) 5) 0x0021).fw.streams,
        worksAt (failStreams (s ⟨5, 2, true⟩ [(5, 1, 7, true)]) (worksAt (s ⟨5, 2, true⟩ [(5, 1, 7, true)]) 5) 0x0021) 5 e.2 = true) ∧
      ((lent.die 1).pool ≠ 0 ∧ (lent.die 1).peer = 5 ∧ (lent.die 1).peer ≠ 6 ∧ (lent.die 3).pool = 0) ∧
      (rowOf m).isSome = true ∧ m.op ≠ 0 := by decide +kernel

/-- Hypotheses of `TheSequencerAdmitsSamplesEndsAndTimesStreams`: records on a borrowed die, and reports of a lent one. -/
theorem wit_FarRecords :
    let t : Template := { inst := 1, site := 1, decode := true, bytes := [], peer := some 5 }
    let s (r : List Reclaim) := serving fun f => { f with fwin := [(0, ⟨5, true, 2, true, 3, 2⟩)], reclaims := r }
    let e := newStream 2 0x30002 (requestImage 2)
    peersReady (s []) [t] = true ∧ peersReady (s [⟨5, 2, false⟩]) [t] = false ∧ peersReady base [t] = false ∧ roomFor base [t] = true ∧
      (let lent := base.modDie 1 fun d => { d with pool := 1, peer := 5 }
       (1 < 64 ∧ (lent.die 1).pool ≠ 0) ∧ (base.die 1).pool = 0) ∧
      (∃ x ∈ ({ e with far := [(5, 1, 7, true)] } : StreamEnt).far, x.2.2.2 = true) ∧ (∀ x ∈ e.far, x.2.2.2 = false) := by decide +kernel

/-- Hypotheses of `DispatchersTilesEvaluationsAndRetriesAdvance`: a swap marker behind one of a lower region at the same barrier. -/
theorem wit_SwapOrder :
    let swap : TileTask := { noTile with kind := 2, w := 3, due := true, bar := some (padAddr 0 0) }
    let s := (base.modDie 0 fun d => { d with tiles := [(0, swap)] }).modDie 62 fun d => { d with tiles := [(0, swap)] }
    regionOf 0 < regionOf 62 ∧ swapWaits s 62 swap = true ∧ swapWaits s 0 swap = false ∧ swapWaits s 62 { swap with bar := none } = false ∧
      (firstMarker 3 (queueOf (noteMarkers s) 62 0)).isSome = true := by decide +kernel

/-- Hypotheses of `HandOffEnginesSendLandRetryAndCancelBlocks`: a burst behind one of a lower region. -/
theorem wit_BurstOrder :
    let b : SrcBlock := ⟨0x30002, 1, .queued, 8, 0, [], false, none, 0, 1, 0x500000, 0, 1⟩
    let s := (base.modDie 0 fun d => { d with srcs := [b] }).modDie 62 fun d => { d with srcs := [b] }
    burstWaits s 62 0x30002 = true ∧ burstWaits s 0 0x30002 = false := by decide +kernel

end Sys2Proof.Tests
end

section
/-! PROOFS. The register steps: each row answers the state that its operation of the model makes, settled (R9, R16, R134 to R146,
R165). -/

namespace Sys2Proof.Machine

/-- A module step that is one update of the state answers the updated state, settled. -/
theorem event_modify (f : State → State) (s : State) : event (modify f) s = .next (f s).settled := rfl

theorem exec_tkpost {s t : State} (h : postRecord s s.arg.n s.arg.k = t) : exec .tkpost s = .next t.settled := h ▸ rfl

theorem exec_predDecrement {s t : State} (h : predDec s s.arg.n s.arg.k = t) : exec .predDecrement s = .next t.settled := h ▸ rfl

theorem exec_ringDescriptorWrite {s t : State} (h : writeRing s s.arg.n s.arg.k s.arg.c s.arg.val.toNat s.arg.size = t) :
    exec .ringDescriptorWrite s = .next t.settled := h ▸ rfl

theorem exec_fqcmdResume {s t : State} (h : fqCommand s s.arg.n s.arg.k 0 = t) : exec .fqcmdResume s = .next t.settled := h ▸ rfl

theorem exec_fqcmdKill {s t : State} (h : fqCommand s s.arg.n s.arg.k 1 = t) : exec .fqcmdKill s = .next t.settled := h ▸ rfl

theorem exec_fqcmdComplete {s t : State} (h : fqCommand s s.arg.n s.arg.k 2 = t) : exec .fqcmdComplete s = .next t.settled := h ▸ rfl

theorem exec_faultQueueTimeout_none {s : State} (h : mapFind (s.die s.arg.n).fq s.arg.k = none) :
    exec .faultQueueTimeout s = .next s.settled := by
  show execFaultQueueTimeout s = _
  rw [execFaultQueueTimeout, event_modify, h]
  rfl

theorem exec_faultQueueTimeout_some {s : State} {f : FqEntry} (h : mapFind (s.die s.arg.n).fq s.arg.k = some f) :
    exec .faultQueueTimeout s = .next (raiseMsix s 2).settled := by
  show execFaultQueueTimeout s = _
  rw [execFaultQueueTimeout, event_modify, h]
  rfl

theorem exec_stashConfigWrite_none {s : State} (h : stashConfig s s.arg.n s.arg.flag s.arg.val.toNat = none) :
    exec .stashConfigWrite s = .next (takeTrap s s.arg.n 0 0x19 0 0).settled := by
  show execStashConfigWrite s = _
  rw [execStashConfigWrite, event_modify, h, Option.getD_none]

theorem exec_stashConfigWrite_some {s t : State} (h : stashConfig s s.arg.n s.arg.flag s.arg.val.toNat = some t) :
    exec .stashConfigWrite s = .next t.settled := by
  show execStashConfigWrite s = _
  rw [execStashConfigWrite, event_modify, h, Option.getD_some]

theorem exec_stmapdWrite_none {s : State} (h : stmapWrite s s.arg.n s.arg.val.toNat = none) :
    exec .stmapdWrite s = .next (takeTrap s s.arg.n 0 0x19 0 0).settled := by
  show execStmapdWrite s = _
  rw [execStmapdWrite, event_modify, h, Option.getD_none]

theorem exec_stmapdWrite_some {s t : State} (h : stmapWrite s s.arg.n s.arg.val.toNat = some t) :
    exec .stmapdWrite s = .next t.settled := by
  show execStmapdWrite s = _
  rw [execStmapdWrite, event_modify, h, Option.getD_some]

end Sys2Proof.Machine
end

section
/-! PROOFS. Posting a loop record, and a decrement of its predecessors (R134, R135). -/

namespace Sys2Proof.Machine

/-- An update of a die that keeps its records keeps each of them. -/
theorem record_modDie (s : State) (n i : Nat) (f : Die → Die) (h : (f (s.die n)).records = (s.die n).records) :
    (s.modDie n f).record n i = s.record n i := by
  rw [State.record, State.die_modDie_same, h, State.record]

/-- An update of a record is its value at that record. -/
theorem modRec_congr {s : State} {n i : Nat} {f g : Record → Record} (h : f (s.record n i) = g (s.record n i)) :
    s.modRec n i f = s.modRec n i g := by
  show s.setDie n { s.die n with records := mapSet (s.die n).records i (f (s.record n i)) } = _
  rw [h]
  rfl

/-- R134: the class of a record that may be posted is its byte, whose upper bits are 0. -/
theorem postOk_class {s : State} {n : Nat} {b : List Byte} (h : postOk s n b = true) : recClass b = field b 30 1 := by
  by_cases hc : field b 30 1 < 8
  · exact Nat.mod_eq_of_lt hc
  · simp only [postOk, hc, decide_false, Bool.false_and, Bool.false_eq_true] at h

theorem postRecord_of_busy {s : State} {n i : Nat} (h : (s.record n i).st ≠ .free) :
    postRecord s n i = s.modDie n fun d => { d with busyErr := true } :=
  if_pos (bne_iff_ne.2 h)

theorem postRecord_of_bad {s : State} {n i : Nat} (h : (s.record n i).st = .free) (hb : postOk s n (s.record n i).bytes = false) :
    postRecord s n i = s.modDie n fun d => { d with badrec := true } := by
  simp [postRecord, h, hb]

/-- R134: a record that obeys the rules takes the next sequence number and its class, and waits for rings or predecessors. -/
theorem postRecord_of_ok {s : State} {n i : Nat} (h : (s.record n i).st = .free) (hb : postOk s n (s.record n i).bytes = true) :
    postRecord s n i = (s.modDie n fun d => { d with nextSeq := d.nextSeq + 1 }).modRec n i fun r => { r with
      st := if field r.bytes 28 2 = 0 then .waitring else .blocked, seq := (s.die n).nextSeq, eclass := field r.bytes 30 1,
      pass := 0, errmark := false, cores := [], used := [], parked := [], async := 0, images := [], eval := false,
      foreign := false } := by
  have hs : (s.die n).nextSeq + 1 - 1 = (s.die n).nextSeq := BitVec.add_sub_cancel _ _
  simp only [postRecord, h, hb, bne_self_eq_false, Bool.not_true, Bool.false_eq_true, if_false, State.die_modDie_same, hs]
  apply modRec_congr
  rw [record_modDie _ _ _ _ rfl, postOk_class hb]
  rfl

/-- R135. -/
theorem predDec_eq (s : State) (n i : Nat) :
    predDec s n i =
      if (s.record n i).st = .free ∨ recPred (s.record n i).bytes = 0 then s.modDie n fun d => { d with under := true }
      else s.modRec n i fun r => { r with
        bytes := patch r.bytes 28 (leBytes 2 (recPred (s.record n i).bytes - 1)),
        st := if r.st = .blocked ∧ recPred (s.record n i).bytes = 1 then .waitring else r.st } := by
  simp only [predDec, Bool.or_eq_true, Bool.and_eq_true, beq_iff_eq, decide_eq_true_eq]

end Sys2Proof.Machine
end

section
/-! PROOFS. A write to a ring descriptor (R137, Table 7-4). -/

namespace Sys2Proof.Machine

/-- A record that is not FREE names the ring among its rings (R137). -/
def RingInUse (s : State) (n i : Nat) : Prop :=
  ∃ e ∈ (s.die n).records, e.2.st ≠ .free ∧ ∃ x ∈ recIn e.2.bytes ++ recOut e.2.bytes, x.map (·.1) = some i

def State.setRing (s : State) (n i : Nat) (g : Ring) : State := s.modDie n fun d => { d with rings := mapSet d.rings i g }

/-- A descriptor with its first 12 bytes as written, without effect. -/
def Ring.held (g : Ring) (b : List Byte) : Ring := { g with raw := slice b 0 12 }

/-- A descriptor whose first 12 bytes take effect. -/
def Ring.loaded (g : Ring) (b : List Byte) : Ring := { g.held b with
  hdr := BitVec.ofNat 64 (field b 0 8), slots := BitVec.ofNat 16 (field b 8 2), stride := BitVec.ofNat 16 (field b 10 2) }

/-- What a write does to the descriptor of a ring that is not in use, whose bytes become `b`: byte 16 holds VALID. -/
def writeUnused (s : State) (n i o k : Nat) (b : List Byte) : State :=
  let g := s.ring n i
  if 16 < o ∨ o + k ≤ 16 then s.setRing n i (g.held b)
  else if field b 16 1 % 2 = 0 then s.setRing n i { g.loaded b with valid := false }
  else if ringOk n b = true then s.setRing n i { g.loaded b with valid := true, cidx := 0, pidx := 0 }
  else (s.modDie n fun d => { d with badring := true }).setRing n i { g.loaded b with valid := false }

theorem writeRing_of_used {s : State} {n i : Nat} (h : RingInUse s n i) (o v k : Nat) :
    writeRing s n i o v k = s.modDie n fun d => { d with busyErr := true } := by
  obtain ⟨e, he, hst, x, hx, hi⟩ := h
  refine if_pos (List.any_eq_true.2 ⟨e, he, ?_⟩)
  rw [Bool.and_eq_true, bne_iff_ne, List.any_eq_true]
  refine ⟨hst, x, hx, ?_⟩
  cases x with
  | none => cases hi
  | some p => exact beq_iff_eq.2 (Option.some.inj hi)

theorem writeRing_of_unused {s : State} {n i : Nat} (h : ¬ RingInUse s n i) (o v k : Nat) :
    writeRing s n i o v k = writeUnused s n i o k (patch (ringBytes (s.ring n i)) o (leBytes k v)) := by
  rw [writeRing, if_neg ?_]
  · by_cases hc : 16 < o ∨ o + k ≤ 16
    · have hd : ¬ (o ≤ 16 ∧ 16 < o + k) := by omega
      simp only [hd, decide_false, Bool.not_false, if_true, writeUnused, if_pos hc]
      rfl
    · have hd : o ≤ 16 ∧ 16 < o + k := by omega
      simp only [hd, and_self, decide_true, Bool.not_true, Bool.false_eq_true, if_false, writeUnused, if_neg hc]
      rfl
  · intro hu
    obtain ⟨e, he, hu⟩ := List.any_eq_true.1 hu
    rw [Bool.and_eq_true, bne_iff_ne, List.any_eq_true] at hu
    obtain ⟨hst, x, hx, hi⟩ := hu
    refine h ⟨e, he, hst, x, hx, ?_⟩
    cases x with
    | none => cases hi
    | some p => exact congrArg some (beq_iff_eq.1 hi)

variable {s : State} {n i o k : Nat} {b : List Byte}

theorem writeUnused_of_uncovered (h : 16 < o ∨ o + k ≤ 16) : writeUnused s n i o k b = s.setRing n i ((s.ring n i).held b) :=
  if_pos h

theorem writeUnused_of_covered (ho : o ≤ 16) (hk : 16 < o + k) :
    (field b 16 1 % 2 = 0 → writeUnused s n i o k b = s.setRing n i { (s.ring n i).loaded b with valid := false }) ∧
    (field b 16 1 % 2 = 1 → ringOk n b = true →
      writeUnused s n i o k b = s.setRing n i { (s.ring n i).loaded b with valid := true, cidx := 0, pidx := 0 }) ∧
    (field b 16 1 % 2 = 1 → ringOk n b = false → writeUnused s n i o k b =
      (s.modDie n fun d => { d with badring := true }).setRing n i { (s.ring n i).loaded b with valid := false }) := by
  have hc : ¬ (16 < o ∨ o + k ≤ 16) := by omega
  refine ⟨fun h0 => ?_, fun h1 hr => ?_, fun h1 hr => ?_⟩
  · simp only [writeUnused, if_neg hc, h0, if_true]
  · simp only [writeUnused, if_neg hc, h1, Nat.one_ne_zero, if_false, hr, if_true]
  · simp only [writeUnused, if_neg hc, h1, Nat.one_ne_zero, hr, Bool.false_eq_true, if_false]

end Sys2Proof.Machine
end

section
/-! PROOFS. The fault queue's commands (R145, R146). -/

namespace Sys2Proof.Machine

variable {s : State} {n e : Nat} {f : FqEntry}

theorem fqCommand_of_empty (h : mapFind (s.die n).fq e = none) (op : Nat) : fqCommand s n e op = s := by
  rw [fqCommand, h]

/-- R145: a command for a fault of a core is carried out at once. -/
theorem fqCommand_of_fault (h : mapFind (s.die n).fq e = some f) (hk : f.kind = 0) :
    fqCommand s n e 0 = ((freeEntry s n e).modRec n f.task.toNat fun r => { r with
      st := if r.st = .faulted ∨ r.st = .running then .suspended else r.st, parked := r.parked.filter (· != f.core.toNat),
      images := r.images ++ [(n * 1024 + f.core.toNat, f.image.toNat)] }) ∧
    fqCommand s n e 1 = endRec s n f.task.toNat false ∧ fqCommand s n e 2 = endRec s n f.task.toNat true := by
  have h0 : f.kind.toNat = 0 := by rw [hk]; rfl
  refine ⟨?_, ?_, ?_⟩
  · simp only [fqCommand, h, h0, Bool.or_eq_true, beq_iff_eq]
  · simp only [fqCommand, h, h0]
  · simp only [fqCommand, h, h0]

/-- The kind of an entry for an error, as a number. -/
theorem kind_eq_succ (hk : f.kind ≠ 0) : ∃ m, f.kind.toNat = m + 1 :=
  Nat.exists_eq_succ_of_ne_zero fun h0 => hk (BitVec.eq_of_toNat_eq h0)

/-- An entry for an error of a record is in the queue, or held for it (R146). -/
def State.errorLeft (s : State) (n i : Nat) : Bool :=
  (s.die n).fq.any (fun x => x.2.task.toNat == i && x.2.kind != 0) || (s.die n).heldFaults.any (fun x => x.task.toNat == i && x.kind != 0)

/-- R146: RESUME of the last error of a record lets it end. -/
theorem fqCommand_resume_error (h : mapFind (s.die n).fq e = some f) (hk : f.kind ≠ 0) :
    ((freeEntry s n e).errorLeft n f.task.toNat = true → fqCommand s n e 0 = freeEntry s n e) ∧
    ((freeEntry s n e).errorLeft n f.task.toNat = false →
      fqCommand s n e 0 = settleRec ((freeEntry s n e).modRec n f.task.toNat fun r => { r with
        errmark := false, st := if r.st = .faulted then .draining else r.st }) n f.task.toNat) := by
  obtain ⟨m, hm⟩ := kind_eq_succ hk
  refine ⟨fun hl => ?_, fun hl => ?_⟩
  · simp only [fqCommand, h, hm]
    exact if_pos hl
  · simp only [fqCommand, h, hm, beq_iff_eq]
    exact if_neg (Bool.eq_false_iff.1 hl)

/-- R146: KILL and COMPLETE of an error are carried out on a FAULTED record. -/
theorem fqCommand_end_faulted (h : mapFind (s.die n).fq e = some f) (hk : f.kind ≠ 0)
    (hf : (s.record n f.task.toNat).st = .faulted) :
    fqCommand s n e 1 = endRec s n f.task.toNat false ∧ fqCommand s n e 2 = endRec s n f.task.toNat true := by
  obtain ⟨m, hm⟩ := kind_eq_succ hk
  constructor
  · simp only [fqCommand, h, hm, hf, beq_self_eq_true, if_true]
    rfl
  · simp only [fqCommand, h, hm, hf, beq_self_eq_true, if_true]

/-- R146: until its record is FAULTED a KILL or COMPLETE of an error is held in the entry. -/
theorem fqCommand_end_held (h : mapFind (s.die n).fq e = some f) (hk : f.kind ≠ 0)
    (hf : (s.record n f.task.toNat).st ≠ .faulted) :
    fqCommand s n e 1 = (s.modDie n fun d => { d with fq := mapSet d.fq e { f with held := 1 } }) ∧
    fqCommand s n e 2 = (s.modDie n fun d => { d with fq := mapSet d.fq e { f with held := 2 } }) := by
  obtain ⟨m, hm⟩ := kind_eq_succ hk
  constructor
  · simp only [fqCommand, h, hm, beq_iff_eq, if_neg hf]
    rfl
  · simp only [fqCommand, h, hm, beq_iff_eq, if_neg hf]
    rfl

end Sys2Proof.Machine
end

section
/-! PROOFS. A write to a register by a core (R9, R16, R158). -/

namespace Sys2Proof.Machine

/-- The piece of a core's write to a register: the address as it stands, in a page of class SC. -/
def registerPiece (a : Args) : Piece :=
  { pa := a.addr.toNat, len := a.size, cls := 1, defer := false, va := a.addr.zeroExtend 64, elem := 0, stash := false }

variable {s : State}

theorem exec_registerWrite_below (h : s.arg.addr.toNat < 0xFF0000000000) : exec .registerWrite s = .next s.settled := by
  show execRegisterWrite s = _
  rw [execRegisterWrite, event_modify, if_pos h]

theorem exec_registerWrite_control (h : 0xFF0000000000 ≤ s.arg.addr.toNat) :
    (s.arg.addr.toNat % s.arg.size ≠ 0 → exec .registerWrite s = .next (takeTrap s s.arg.n 0 0x12 (registerPiece s.arg).va
      (faultInfo aStore ⟨0x12, 0, 1⟩ (registerPiece s.arg))).settled) ∧
    (s.arg.addr.toNat % s.arg.size = 0 → s.arg.flag = true → ctlGuarded s.arg.addr.toNat = true →
      exec .registerWrite s = .next (takeTrap s s.arg.n 0 0x11 (registerPiece s.arg).va
        (faultInfo aStore fPerm (registerPiece s.arg))).settled) ∧
    (s.arg.addr.toNat % s.arg.size = 0 → s.arg.flag = false ∨ ctlGuarded s.arg.addr.toNat = false →
      exec .registerWrite s =
        .next (ctlWrite s s.arg.addr.toNat s.arg.size (s.arg.val.toNat % 2 ^ (8 * s.arg.size))).settled) := by
  have hl : ¬ s.arg.addr.toNat < 0xFF0000000000 := Nat.not_lt.2 h
  have he : exec .registerWrite s = execRegisterWrite s := rfl
  refine ⟨fun hm => ?_, fun hm hf hg => ?_, fun hm hu => ?_⟩
  · simp only [he, execRegisterWrite, event_modify, if_neg hl, if_pos hm, registerPiece]
  · simp only [he, execRegisterWrite, event_modify, if_neg hl, hm, ne_eq, not_true, if_false, hf, hg, Bool.and_self, if_true,
      registerPiece]
  · have hg : (s.arg.flag && ctlGuarded s.arg.addr.toNat) = false := Bool.and_eq_false_iff.2 hu
    simp only [he, execRegisterWrite, event_modify, if_neg hl, hm, ne_eq, not_true, hg, Bool.false_eq_true, if_false]

end Sys2Proof.Machine
end

section
/-! PROOFS. Giving a line back leaves every core as it is (R171, R172): what memory, caches of dies and power do, no core sees. -/

namespace Sys2Proof.Machine

/-- Updates that keep a core keep it in a row. -/
theorem core_foldl {α : Type} {f : State → α → State} {n : Nat} (h : ∀ s x, (f s x).core n = s.core n) (l : List α) (s : State) :
    (l.foldl f s).core n = s.core n := by
  induction l generalizing s with
  | nil => rfl
  | cons x l ih => rw [List.foldl_cons, ih, h]

@[simp] theorem core_writePhys (s : State) (pa : Nat) (b : Byte) (n : Nat) : (writePhys s pa b).core n = s.core n := by
  unfold writePhys writeAt
  split
  · split <;> rfl
  · rfl

@[simp] theorem core_cover (s : State) (pa : Nat) (bytes : BitVec 128) (n : Nat) : (s.cover pa bytes).core n = s.core n := by
  unfold State.cover
  split
  · rfl
  · dsimp only
    split <;> rfl

@[simp] theorem core_zeroLayer (s : State) (m l n : Nat) : (zeroLayer s m l).core n = s.core n := by
  rw [zeroLayer, core_foldl]
  intro s g
  rfl

@[simp] theorem core_startLayer (s : State) (m l : Nat) (t : BitVec 2) (n : Nat) : (startLayer s m l t).core n = s.core n := by
  simp only [startLayer, State.core_modDie]
  split
  · exact core_zeroLayer s m l n
  · rfl

@[simp] theorem core_endLayer (s : State) (m l n : Nat) : (endLayer s m l).core n = s.core n := by
  unfold endLayer
  dsimp only
  split
  · rw [core_startLayer, State.core_modDie]
  · rw [State.core_modDie]

@[simp] theorem core_wake (s : State) (pa n : Nat) : (wake s pa).core n = s.core n := by
  unfold wake
  split
  · dsimp only
    split
    · rfl
    · split
      · rfl
      · rw [State.core_modDie]
        split
        · exact core_endLayer s _ _ n
        · rfl
  · rfl

@[simp] theorem core_writeDirty (s : State) (l : Line) (n : Nat) : (writeDirty s l).core n = s.core n := by
  unfold writeDirty
  split
  · rfl
  · rw [core_cover, core_foldl, core_wake]
    intro s i
    split
    · exact core_writePhys s _ _ n
    · rfl

@[simp] theorem core_putNear (s : State) (site : Nat) (l : Line) (n : Nat) : (putNear s site l).core n = s.core n := by
  rw [putNear, core_foldl fun s x => core_writeDirty s x n, State.core_modDie]

@[simp] theorem core_readThrough (s : State) (site : Nat) (tick : BitVec 48) (a : Nat) (cls : BitVec 2) (n : Nat) :
    (readThrough s site tick a cls).2.core n = s.core n := by
  unfold readThrough
  split
  · rfl
  · dsimp only
    split
    · split
      · rfl
      · exact core_putNear s site _ n
    · rw [core_putNear]
      split
      · exact core_writeDirty s _ n
      · rfl

@[simp] theorem core_giveBack (s : State) (site : Nat) (far : Bool) (l : Line) (n : Nat) :
    (giveBack s site far l).core n = s.core n := by
  unfold giveBack
  split
  · rfl
  · split
    · rw [core_putNear, core_readThrough]
    · dsimp only
      split
      · rw [core_putNear, core_writeDirty]
      · exact core_writeDirty s l n

end Sys2Proof.Machine
end

section
/-! PROOFS. The stash CSRs (Table 8-4, R164, R165). -/

namespace Sys2Proof.Machine

/-- A granule that gives its lines back is no longer listed. -/
theorem granules_emptyGranule (s : State) (n g : Nat) :
    ((emptyGranule s n g).core n).granules = mapDel (s.core n).granules g := by
  simp only [emptyGranule, State.core_modCore_same]
  rw [core_foldl fun s l => core_giveBack s (siteOf n) true l n]

/-- Granules give their lines back in the order in which they are listed, so that each time the first one goes. -/
theorem granules_emptied (n : Nat) (l : Map Granule) (s : State) (h : (s.core n).granules = l) :
    ((l.foldl (fun s g => emptyGranule s n g.1) s).core n).granules = [] := by
  induction l generalizing s with
  | nil => exact h
  | cons g l ih =>
    apply ih
    rw [granules_emptyGranule, h]
    simp [mapDel]

/-- R165: once the whole stash of a core has been emptied, no granule holds a line. -/
theorem granules_emptyStash (s : State) (n : Nat) : ((emptyStash s n none).core n).granules = [] := by
  have hall : (s.core n).granules.filter (fun g => (Option.map (· == g.2.entry) none).getD true) = (s.core n).granules :=
    List.filter_eq_self.2 fun _ _ => rfl
  rw [emptyStash, hall]
  exact granules_emptied n _ s rfl

theorem core_fillTags (s : State) (n : Nat) (gs : List Nat) (m : Nat) : (fillTags s n gs).core m = s.core m := by
  rw [fillTags, core_foldl]
  intro s g
  rw [core_foldl]
  intro s i
  rfl

/-- STASHB after a write of it or of STASHN (R165). -/
def Core.baseAfter (c : Core) (isBase : Bool) (v : Nat) : Nat := if isBase = true then v % 16 else c.stashb

/-- STASHN after a write of it or of STASHB (R165). -/
def Core.sizeAfter (c : Core) (isBase : Bool) (v : Nat) : Nat := if isBase = true then c.stashn else v % 16

theorem stashConfig_of_over {s : State} {n : Nat} {isBase : Bool} {v : Nat}
    (h : 12 < (s.core n).baseAfter isBase v + (s.core n).sizeAfter isBase v) : stashConfig s n isBase v = none := if_pos h

/-- R165: a stash within the scratchpad takes its value, and begins empty. -/
theorem stashConfig_of_within {s : State} {n : Nat} {isBase : Bool} {v : Nat}
    (h : (s.core n).baseAfter isBase v + (s.core n).sizeAfter isBase v ≤ 12) :
    ∃ t, stashConfig s n isBase v = some t ∧ (t.core n).stashb = (s.core n).baseAfter isBase v ∧
      (t.core n).stashn = (s.core n).sizeAfter isBase v ∧ (t.core n).granules = [] := by
  refine ⟨_, if_neg (Nat.not_lt.2 h), ?_, ?_, ?_⟩
  · rw [State.core_modCore_same]
    rfl
  · rw [State.core_modCore_same]
    rfl
  · rw [State.core_modCore_same]
    show ((fillTags _ n _).core n).granules = []
    rw [core_fillTags, granules_emptyStash]

/-- The entry that a write of STMAPD gives (Table 8-4). -/
def stmapEntry (v : Nat) : StMap := { gran := v % 16, valid := v / 16 % 2 = 1, va := bits v 55 11 }

/-- Another valid entry of the core's stash map has the range of `e` (R165). -/
def Core.mapsTwice (c : Core) (e : StMap) : Prop := e.valid = true ∧ ∃ o ∈ c.stmap, o.1 ≠ c.stmapi ∧ o.2.valid = true ∧ o.2.va = e.va

theorem mapsTwice_iff (c : Core) (e : StMap) :
    (e.valid && c.stmap.any (fun o => o.1 != c.stmapi && o.2.valid && o.2.va == e.va)) = true ↔ c.mapsTwice e := by
  simp only [Core.mapsTwice, Bool.and_eq_true, List.any_eq_true, bne_iff_ne, beq_iff_eq, and_assoc]

variable {s : State} {n v : Nat}

theorem stmapWrite_of_refused (h : (s.core n).stashn ≤ (stmapEntry v).gran ∨ (s.core n).mapsTwice (stmapEntry v)) :
    stmapWrite s n v = none := by
  by_cases hg : (s.core n).stashn ≤ (stmapEntry v).gran
  · exact if_pos hg
  · exact (if_neg hg).trans (if_pos ((mapsTwice_iff _ _).2 (h.resolve_left hg)))

theorem stmapWrite_of_taken (hg : (stmapEntry v).gran < (s.core n).stashn) (ht : ¬ (s.core n).mapsTwice (stmapEntry v)) :
    stmapWrite s n v = some ((emptyStash s n (some (s.core n).stmapi)).modCore n fun c => { c with
      stmap := mapSet c.stmap c.stmapi (stmapEntry v) }) :=
  (if_neg (Nat.not_le.2 hg)).trans (if_neg (mt (mapsTwice_iff _ _).1 ht))

end Sys2Proof.Machine
end

section
/-! PROOFS. The obligation about register steps, from the rules above. -/

namespace Sys2Proof.Machine

/-- Settles O55: each step is one operation of the model, whose cases the rules above say. -/
theorem registerStepsPostRecordsSetRingsAndServeTheFaultQueue :
    Obligations.RegisterStepsPostRecordsSetRingsAndServeTheFaultQueue := by
  intro s
  refine ⟨?busy, ?bad, ?posted, ?decrement, ?ring, ?empty, ?entry, ?register, ?stash⟩
  case busy => exact fun h => exec_tkpost (postRecord_of_busy h)
  case bad => exact fun h hb => exec_tkpost (postRecord_of_bad h hb)
  case posted => exact fun h hb => exec_tkpost (postRecord_of_ok h hb)
  case decrement => exact exec_predDecrement (predDec_eq s _ _)
  case ring =>
    refine ⟨fun h => exec_ringDescriptorWrite (writeRing_of_used h _ _ _), fun h => ?_⟩
    have hw := writeRing_of_unused h s.arg.c s.arg.val.toNat s.arg.size
    refine ⟨fun ho => exec_ringDescriptorWrite (hw.trans (writeUnused_of_uncovered ho)), fun ho hk => ?_⟩
    obtain ⟨hinvalid, hvalid, hbad⟩ := writeUnused_of_covered ho hk
    exact ⟨fun h0 => exec_ringDescriptorWrite (hw.trans (hinvalid h0)),
      fun h1 hr => exec_ringDescriptorWrite (hw.trans (hvalid h1 hr)),
      fun h1 hr => exec_ringDescriptorWrite (hw.trans (hbad h1 hr))⟩
  case empty =>
    intro h
    exact ⟨exec_fqcmdResume (fqCommand_of_empty h 0), exec_fqcmdKill (fqCommand_of_empty h 1),
      exec_fqcmdComplete (fqCommand_of_empty h 2), exec_faultQueueTimeout_none h⟩
  case entry =>
    intro f h
    refine ⟨exec_faultQueueTimeout_some h, fun hk => ?_, fun hk => ⟨?_, fun hf => ?_, fun hf => ?_⟩⟩
    · obtain ⟨hresume, hkill, hcomplete⟩ := fqCommand_of_fault h hk
      exact ⟨exec_fqcmdResume hresume, exec_fqcmdKill hkill, exec_fqcmdComplete hcomplete⟩
    · obtain ⟨hmore, hlast⟩ := fqCommand_resume_error h hk
      exact ⟨fun hl => exec_fqcmdResume (hmore hl), fun hl => exec_fqcmdResume (hlast hl)⟩
    · obtain ⟨hkill, hcomplete⟩ := fqCommand_end_faulted h hk hf
      exact ⟨exec_fqcmdKill hkill, exec_fqcmdComplete hcomplete⟩
    · obtain ⟨hkill, hcomplete⟩ := fqCommand_end_held h hk hf
      exact ⟨exec_fqcmdKill hkill, exec_fqcmdComplete hcomplete⟩
  case register => exact ⟨exec_registerWrite_below, exec_registerWrite_control⟩
  case stash =>
    refine ⟨fun h => exec_stashConfigWrite_none (stashConfig_of_over h), fun h => ?_,
      fun h => exec_stmapdWrite_none (stmapWrite_of_refused h), fun hg ht => exec_stmapdWrite_some (stmapWrite_of_taken hg ht)⟩
    obtain ⟨t, ht, hfields⟩ := stashConfig_of_within h
    exact ⟨t, ht, exec_stashConfigWrite_some ht, hfields⟩

end Sys2Proof.Machine
end

section
/-! PROOFS. Sensors and their limits (R21 to R24, Table 1-6). -/

namespace Sys2Proof.Machine

/-- A die of site n once the samples `temps` have been stored (Table 1-5). -/
def Die.sampled (d : Die) (n : Nat) (temps : List (Nat × BitVec 16)) : Die :=
  { d with sensors := temps.foldl (sampleOne n) d.sensors }

/-- A bit of THSTAT goes from 0 to 1 (R24). -/
abbrev Die.Rises (was d : Die) : Prop :=
  (was.thWarn = false ∧ d.thWarn = true) ∨ (was.thThrot = false ∧ d.thThrot = true) ∨ was.thTrip = false ∧ d.thTrip = true

theorem rises_iff (was d : Die) :
    (((d.thWarn && !was.thWarn) || (d.thThrot && !was.thThrot) || (d.thTrip && !was.thTrip)) = true) ↔ was.Rises d := by
  simp only [Die.Rises, Bool.or_eq_true, Bool.and_eq_true, Bool.not_eq_true', or_assoc, and_comm]

theorem trips_iff (was d : Die) : (d.thTrip && !was.thTrip) = true ↔ was.thTrip = false ∧ d.thTrip = true := by
  rw [Bool.and_eq_true, Bool.not_eq_true', and_comm]

/-- Table 1-6: THROT clears at or below its limit less 2 °C, where it stands at 16 sensor units. -/
theorem judge_eq (d : Die) (t : Int) :
    judge d t = { d with
      thWarn := d.thWarn || decide (t > 8 * (d.warn : Int)),
      thThrot := decide (t > 8 * (d.throt : Int)) || (d.thThrot && decide (t > 8 * (d.throt : Int) - 16)),
      thTrip := d.thTrip || decide (t > 8 * (d.trip : Int)) } := by
  have h : 8 * ((d.throt : Int) - 2) = 8 * (d.throt : Int) - 16 := Int.mul_sub 8 _ 2
  rw [judge, h]

/-- What follows once the samples have made die `d` of site n: vector 3, and a trip fails the streams of its region (R24). -/
def State.withSampled (s : State) (n : Nat) (d : Die) : State :=
  let a := s.setDie n d
  let b := if (s.die n).Rises d then raiseMsix a 3 else a
  if (s.die n).thTrip = false ∧ d.thTrip = true then failStreams b (fun e => (tripSites n).any (hasWorkOn b e)) 0x0023 else b

/-- A die whose THSTAT stays as it was brings neither vector 3 nor a failure. -/
theorem withSampled_of_same {s : State} {n : Nat} {d : Die} (hw : d.thWarn = (s.die n).thWarn)
    (ht : d.thThrot = (s.die n).thThrot) (hr : d.thTrip = (s.die n).thTrip) : s.withSampled n d = s.setDie n d := by
  have htrip : ¬ ((s.die n).thTrip = false ∧ d.thTrip = true) := by simp [hr]
  have hrise : ¬ (s.die n).Rises d := by simp [Die.Rises, hw, ht, hr]
  rw [State.withSampled, if_neg htrip, if_neg hrise]

variable {s : State} {t : Int}

/-- The die of the step, once it has stored its samples. -/
def State.sampledDie (s : State) : Die := (s.die s.arg.n).sampled s.arg.n s.arg.temps

theorem exec_sensorSample (s : State) :
    exec .sensorSample s = .next (s.withSampled s.arg.n ((hottest s.sampledDie).elim s.sampledDie (judge s.sampledDie))).settled := by
  show execSensorSample s = _
  simp only [execSensorSample, event_modify, rises_iff, trips_iff]
  cases h : hottest s.sampledDie <;>
  · rw [State.sampledDie, Die.sampled] at h
    rw [h]
    rfl

theorem exec_sensorSample_of_hot (h : hottest s.sampledDie = some t) :
    exec .sensorSample s = .next (s.withSampled s.arg.n (judge s.sampledDie t)).settled := by
  rw [exec_sensorSample, h, Option.elim_some]

theorem exec_sensorSample_of_none (h : hottest s.sampledDie = none) :
    exec .sensorSample s = .next (s.setDie s.arg.n s.sampledDie).settled := by
  have hsame : s.withSampled s.arg.n s.sampledDie = s.setDie s.arg.n s.sampledDie := withSampled_of_same rfl rfl rfl
  rw [exec_sensorSample, h, Option.elim_none, hsame]

/-- R24: WARN stays while the hottest sensor is above its limit less 2 °C. -/
theorem exec_thstatWarnClear_of_hot (h : hottest (s.die s.arg.n) = some t) (ht : 8 * ((s.die s.arg.n).warn : Int) - 16 < t) :
    exec .thstatWarnClear s = .next (s.modDie s.arg.n fun d => d).settled := by
  have hot : t > 8 * (((s.die s.arg.n).warn : Int) - 2) := by omega
  show execThstatWarnClear s = _
  simp only [execThstatWarnClear, event_modify, clearWarn, State.modDie, h, hot, decide_true, if_true]

theorem exec_thstatWarnClear_of_cool (h : hottest (s.die s.arg.n) = some t) (ht : t ≤ 8 * ((s.die s.arg.n).warn : Int) - 16) :
    exec .thstatWarnClear s = .next (s.modDie s.arg.n fun d => { d with thWarn := false }).settled := by
  have cool : ¬ t > 8 * (((s.die s.arg.n).warn : Int) - 2) := by omega
  show execThstatWarnClear s = _
  simp only [execThstatWarnClear, event_modify, clearWarn, State.modDie, h, cool, decide_false, Bool.false_eq_true, if_false]

theorem bits_byte_zero (v : Nat) : bits v 7 0 = v % 256 := congrArg (· % 256) (Nat.div_one v)

theorem exec_tlimWrite (s : State) :
    exec .tlimWrite s = .next (setTlim s s.arg.n (s.arg.val.toNat % 256) (s.arg.val.toNat / 256 % 256)).settled := by
  show execTlimWrite s = _
  rw [execTlimWrite, event_modify, bits_byte_zero]
  rfl

end Sys2Proof.Machine
end

section
/-! PROOFS. Power states of DRAM layers (R25 to R27). -/

namespace Sys2Proof.Machine

/-- LPWR of layer l of site n. -/
def State.layer (s : State) (n l : Nat) : Lpwr := mapGet {} (s.die n).lpwr l

def State.setLayer (s : State) (n l : Nat) (p : Lpwr) : State := s.modDie n fun d => { d with lpwr := mapSet d.lpwr l p }

/-- A layer at the beginning of a transition to a target. -/
def Lpwr.toward (p : Lpwr) (t : BitVec 2) : Lpwr := { p with target := t, busy := p.state != t, queued := none }

variable {s : State} {n l : Nat} {t : BitVec 2}

theorem startLayer_of_kept (h : (s.layer n l).state ≠ 3 ∨ t = 3) : startLayer s n l t = s.setLayer n l ((s.layer n l).toward t) := by
  have hc : ¬ (((s.layer n l).state == 3 && t != 3) = true) := by
    rw [Bool.and_eq_true, beq_iff_eq, bne_iff_ne]
    exact fun ⟨hoff, hleaves⟩ => h.elim (· hoff) hleaves
  show State.setLayer (if ((s.layer n l).state == 3 && t != 3) = true then _ else _) n l _ = _
  rw [if_neg hc]
  rfl

/-- R26: a layer that leaves OFF is zeroed. -/
theorem startLayer_of_leaving_off (h : (s.layer n l).state = 3) (ht : t ≠ 3) :
    startLayer s n l t = (zeroLayer s n l).setLayer n l { s.layer n l with target := t, busy := true, queued := none } := by
  have hc : ((s.layer n l).state == 3 && t != 3) = true := by
    rw [Bool.and_eq_true, beq_iff_eq, bne_iff_ne]
    exact ⟨h, ht⟩
  have hmoves : ((s.layer n l).state != t) = true := by rwa [h, bne_iff_ne, ne_comm]
  show State.setLayer (if ((s.layer n l).state == 3 && t != 3) = true then _ else _) n l ((s.layer n l).toward t) = _
  rw [if_pos hc, Lpwr.toward, hmoves]

theorem setLpwr_of_busy (h : (s.layer n l).busy = true) :
    setLpwr s n l t = s.setLayer n l { s.layer n l with queued := some t } := if_pos h

theorem setLpwr_of_idle (h : (s.layer n l).busy = false) : setLpwr s n l t = startLayer s n l t :=
  if_neg (Bool.eq_false_iff.1 h)

/-- R27: with no target waiting, the layer is in the state that was its target. -/
theorem endLayer_of_none (h : (s.layer n l).queued = none) :
    endLayer s n l = s.setLayer n l { s.layer n l with state := (s.layer n l).target, busy := false, queued := none } := by
  have hq : (mapGet {} (s.die n).lpwr l).queued = none := h
  rw [endLayer, hq]
  rfl

theorem exec_lpwrWrite (h : isD s.arg.n = true) :
    exec .lpwrWrite s = .next (setLpwr s s.arg.n s.arg.k (BitVec.ofNat 2 (s.arg.val.toNat % 4))).settled := by
  have hv : s.arg.val.truncate 2 = BitVec.ofNat 2 (s.arg.val.toNat % 4) := by
    apply BitVec.eq_of_toNat_eq
    simp
  show execLpwrWrite s = _
  rw [execLpwrWrite, event_modify, if_pos h, hv]

theorem exec_layerTransitionDone (h : isD s.arg.n = true) (hb : (s.layer s.arg.n s.arg.k).busy = true) :
    exec .layerTransitionDone s = .next (endLayer s s.arg.n s.arg.k).settled := by
  show execLayerTransitionDone s = _
  rw [execLayerTransitionDone, event_modify, if_pos]
  exact (Bool.and_eq_true ..).mpr ⟨h, hb⟩

end Sys2Proof.Machine
end

section
/-! PROOFS. Power regions (R29 to R33). -/

namespace Sys2Proof.Machine

/-- The cap request after a ms of mean power `p`, in 0.25 W: above PCAP it falls, below 0.98 of PCAP it rises (R30). -/
def Region.cappedBy (r : Region) (p : Nat) : Nat :=
  if p > 4 * r.pcap.toNat then max 8 (r.capReq - 1)
  else if 25 * p < 98 * r.pcap.toNat then min 16 (r.capReq + 1) else r.capReq

theorem exec_capTick (s : State) :
    exec .capTick s = .next (s.modRegion s.arg.n fun r => { r with
      pmon := BitVec.ofNat 16 s.arg.val.toNat, capReq := r.cappedBy (s.arg.val.toNat % 65536) }).settled := by
  have hp : (s.arg.val.truncate 16).toNat = s.arg.val.toNat % 65536 := by simp
  have hlow (r : Region) (p : Nat) : (100 * p < 392 * r.pcap.toNat) = (25 * p < 98 * r.pcap.toNat) := by
    apply propext
    omega
  show execCapTick s = _
  simp only [execCapTick, event_modify, hp, hlow]
  rfl

/-- R31: DCOUNT counts to 255. -/
theorem dcount_counts (c : BitVec 8) : (if c == 255 then 255 else c + 1) = BitVec.ofNat 8 (min 255 (c.toNat + 1)) := by
  by_cases h : c = 255
  · subst h
    rfl
  · have hc : c.toNat ≠ 255 := fun hn => h (BitVec.eq_of_toNat_eq hn)
    have hm : min 255 (c.toNat + 1) = c.toNat + 1 := by omega
    rw [if_neg (by simpa using h), hm, BitVec.ofNat_add, BitVec.ofNat_toNat, BitVec.setWidth_eq]
    rfl

theorem exec_droopAlarm (s : State) :
    exec .droopAlarm s = .next (s.modRegion s.arg.n fun r => { r with
      alarm := true, active := true, dcount := BitVec.ofNat 8 (min 255 (r.dcount.toNat + 1)) }).settled := by
  show execDroopAlarm s = _
  simp only [execDroopAlarm, event_modify, dcount_counts]

theorem exec_droopHoldEnd (s : State) :
    exec .droopHoldEnd s = .next (s.modRegion s.arg.n fun r => { r with active := false }).settled := rfl

theorem exec_heldStartAdmit (s : State) :
    exec .heldStartAdmit s = .next (admitHeld s.arg.n 4096 (s.modRegion s.arg.n fun r => { r with recent := 0 })).2.settled := rfl

/-- A region below g has still to begin a start of the stream of `t` (R33). -/
def State.startsBelow (s : State) (g : Nat) (t : Nat × Nat) : Bool :=
  (List.range g).any fun k => (s.region k).staggered.any fun u =>
    recStream (s.record u.1 u.2).bytes == recStream (s.record t.1 t.2).bytes

theorem turnCome_eq (s : State) (g : Nat) (t : Nat × Nat) : turnCome s g t = !s.startsBelow g t := rfl

theorem exec_staggeredRegionStart (s : State) :
    exec .staggeredRegionStart s = .next (s.modRegion s.arg.n fun r => { r with
      staggered := r.staggered.filter (s.startsBelow s.arg.n) }).settled := by
  show execStaggeredRegionStart s = _
  simp only [execStaggeredRegionStart, event_modify, turnCome_eq, Bool.not_not]

end Sys2Proof.Machine
end

section
/-! PROOFS. The obligation about sensors, layers and regions, from the rules above. -/

namespace Sys2Proof.Machine

/-- Settles O44: each step is one operation of the model, whose cases the rules above say. -/
theorem sensorsLayersAndRegionsFollowTheirRules : Obligations.SensorsLayersAndRegionsFollowTheirRules := by
  intro s
  refine ⟨fun t h => ?hot, exec_sensorSample_of_none, fun t h => exec_thstatWarnClear_of_hot h,
    fun t h => exec_thstatWarnClear_of_cool h, exec_tlimWrite s, fun hd => ?layer, exec_capTick s, exec_droopAlarm s,
    exec_droopHoldEnd s, exec_heldStartAdmit s, exec_staggeredRegionStart s⟩
  case hot =>
    have hs := exec_sensorSample_of_hot h
    rw [judge_eq] at hs
    exact hs
  case layer =>
    refine ⟨fun hb => ?_, fun hb hk => ?_, fun hb h3 ht => ?_, fun hb hq => ?_, fun hb => exec_layerTransitionDone hd hb⟩
    · rw [exec_lpwrWrite hd, setLpwr_of_busy hb]
      rfl
    · rw [exec_lpwrWrite hd, setLpwr_of_idle hb, startLayer_of_kept hk]
      rfl
    · rw [exec_lpwrWrite hd, setLpwr_of_idle hb, startLayer_of_leaving_off h3 ht]
      rfl
    · rw [exec_layerTransitionDone hd hb, endLayer_of_none hq]
      rfl

end Sys2Proof.Machine
end

section
/-! PROOFS. The stages of a start (R85 to R91): what a stage that fails leaves, and which stage comes next. -/

namespace Sys2Proof.Machine

/-- The module after a reset that counts the attempt (R86). -/
def counted (s : State) : State :=
  (resetModule s).modFw fun f => { f with attempts := BitVec.ofNat 8 (min 255 (s.fw.attempts.toNat + 1)) }

def romDigest : List Byte := (List.range 64).map Config.romDigestByte

/-- Stage 1 has measured the ROM: the first item of the chain (R91). -/
def romMeasured (s : State) : State :=
  (counted s).modFw fun f => { f with items := [(1, romDigest)], chain := sha3 (List.replicate 64 0 ++ [1] ++ romDigest) }

theorem romMeasured_eq (s : State) : (counted s).modFw (measure · 1 romDigest) = romMeasured s := by
  have hi : (counted s).fw.items = [] := rfl
  have hc : (counted s).fw.chain = List.replicate 64 0 := rfl
  simp only [romMeasured, State.modFw, measure, hi, hc, List.nil_append]
  rfl

/-- A cause record of a stage is the newest of at most 16 (R88). -/
def noted (s : State) (stage code site : Nat) : State := s.modFw fun f => { f with
  causes := (([BitVec.ofNat 8 stage, f.attempts] ++ leBytes 2 code ++ [BitVec.ofNat 8 site, 0, 0, 0] ++
    leBytes 8 s.arg.addr.toNat ++ leBytes 8 s.arg.val.toNat ++ List.replicate 8 0) :: f.causes).take 16 }

theorem appendCause_eq (s : State) (stage code site : Nat) : appendCause s stage code site = noted s stage code site := rfl

/-- A stage has failed fatally: its record, and a reset to come (R85). -/
def failedAt (s : State) (stage code site : Nat) : State := (noted s stage code site).modFw fun f => { f with retryReset := true }

theorem fatal_eq (s : State) (stage : Nat) (f : Fatal) : fatal s stage f = failedAt s stage f.code f.site := rfl

/-- No copy of the configuration record verifies (R89). -/
def NoCopy (s : State) : Prop := s.fw.flash0.verifies = false ∧ s.fw.flash1.verifies = false

/-- The seed of the identity key, from the PUF and the record in use (R90). -/
def identitySeed (s : State) : List Byte :=
  keySeed ((List.range 64).map (Config.pufByte (slice (bodyInUse s.fw) 128 1024)))

/-- The record in use holds the digest of the public key (R90). -/
def KeyFits (s : State) : Prop := sha3 (publicKey (identitySeed s)) = s.fw.keyDigest

/-- Stage 5 has derived the key. -/
def identified (s : State) : State := s.modFw fun f => { f with idOk := true, seed := identitySeed s }

section
variable {ovr : Option Nat} {k : Nat} {r : Except Fatal State}

theorem overrun_same (h : ovr = some k) : overrun ovr k r = .error ⟨256 * k + 0xFF, 0xFF⟩ := if_pos h

theorem overrun_other (h : ovr ≠ some k) : overrun ovr k r = r := if_neg h

end

/-! ## Each stage alone -/

section
variable {s : State} {t : SelfTest}

theorem stage2_of_bad (h : 64 ∈ t.badSites) : stage2 s t = .error ⟨0x0201, 64⟩ :=
  if_pos (List.contains_iff_mem.2 h)

/-- R85: the one failure of stage 3 is a die that is cut off. -/
theorem stage3_error {e : Fatal} (h : stage3 s t = .error e) : e = ⟨0x0301, e.site⟩ := by
  unfold stage3 at h
  extract_lets at h
  split at h
  · rw [← Except.error.inj h]
  · cases h

theorem chooseCopy_of_noCopy (h : NoCopy s) : chooseCopy s.fw = none := by
  obtain ⟨h0, h1⟩ := h
  by_cases hs : s.fw.flash0.seq ≥ s.fw.flash1.seq
  · simp only [chooseCopy, hs, if_true, h0, h1, Bool.false_eq_true, if_false]
  · simp only [chooseCopy, hs, if_false, h0, h1, Bool.false_eq_true]

theorem stage4_of_noCopy (h : NoCopy s) : stage4 s = .error ⟨0x0401, 0xFF⟩ := by
  rw [stage4, chooseCopy_of_noCopy h]

theorem stage5_of_noPuf (h : t.pufOk = false) : stage5 s t = .error ⟨0x0501, 0xFF⟩ :=
  if_pos (by rw [h]; rfl)

theorem stage5_of_misfit (h : t.pufOk = true) (hk : ¬ KeyFits s) : stage5 s t = .error ⟨0x0502, 0xFF⟩ :=
  (if_neg (by simp [h])).trans (if_neg fun he => hk (eq_of_beq he))

theorem stage5_of_fit (h : t.pufOk = true) (hk : KeyFits s) : stage5 s t = .ok (identified s) :=
  (if_neg (by simp [h])).trans (if_pos (beq_iff_eq.2 hk))

end

/-! ## From stage to stage -/

section
variable {s s2 s3 s4 s5 : State} {t : SelfTest} {ovr : Option Nat} {code site : Nat}

theorem laterStages_fail2 (h2 : overrun ovr 2 (stage2 s t) = .error ⟨code, site⟩) : laterStages s t ovr = failedAt s 2 code site := by
  simp only [laterStages, h2, fatal_eq]

theorem laterStages_fail3 (h2 : overrun ovr 2 (stage2 s t) = .ok s2) (h3 : overrun ovr 3 (stage3 s2 t) = .error ⟨code, site⟩) :
    laterStages s t ovr = failedAt s2 3 code site := by
  simp only [laterStages, h2, h3, fatal_eq]

theorem laterStages_fail4 (h2 : overrun ovr 2 (stage2 s t) = .ok s2) (h3 : overrun ovr 3 (stage3 s2 t) = .ok s3)
    (h4 : overrun ovr 4 (stage4 s3) = .error ⟨code, site⟩) : laterStages s t ovr = failedAt s3 4 code site := by
  simp only [laterStages, h2, h3, h4, fatal_eq]

theorem laterStages_fail5 (h2 : overrun ovr 2 (stage2 s t) = .ok s2) (h3 : overrun ovr 3 (stage3 s2 t) = .ok s3)
    (h4 : overrun ovr 4 (stage4 s3) = .ok s4) (h5 : overrun ovr 5 (stage5 s4 t) = .error ⟨code, site⟩) :
    laterStages s t ovr = failedAt s4 5 code site := by
  simp only [laterStages, h2, h3, h4, h5, fatal_eq]

theorem laterStages_pass (h2 : overrun ovr 2 (stage2 s t) = .ok s2) (h3 : overrun ovr 3 (stage3 s2 t) = .ok s3)
    (h4 : overrun ovr 4 (stage4 s3) = .ok s4) (h5 : overrun ovr 5 (stage5 s4 t) = .ok s5) :
    laterStages s t ovr = s5.modFw fun f => { f with st := .noPlan } := by
  simp only [laterStages, h2, h3, h4, h5]

/-- The module in minimal mode, before it runs stages 4 and 5 (R87). -/
def enterMinimal (s : State) : State := s.modFw fun f => { f with st := .minimal }

theorem minimalMode_fail4 (h4 : stage4 (enterMinimal s) = .error ⟨code, site⟩) :
    minimalMode s t none = noted (enterMinimal s) 4 code site := by
  rw [enterMinimal] at h4 ⊢
  simp only [minimalMode, overrun_other (Option.some_ne_none _).symm, h4, appendCause_eq]

theorem minimalMode_fail5 (h4 : stage4 (enterMinimal s) = .ok s4) (h5 : stage5 s4 t = .error ⟨code, site⟩) :
    minimalMode s t none = noted s4 5 code site := by
  rw [enterMinimal] at h4
  simp only [minimalMode, overrun_other (Option.some_ne_none _).symm, h4, h5, appendCause_eq]

theorem minimalMode_pass (h4 : stage4 (enterMinimal s) = .ok s4) (h5 : stage5 s4 t = .ok s5) : minimalMode s t none = s5 := by
  rw [enterMinimal] at h4
  simp only [minimalMode, overrun_other (Option.some_ne_none _).symm, h4, h5]

theorem start_of_overrun (h : ovr = some 1) : start s t ovr = failedAt (counted s) 1 0x01FF 0xFF := by
  simp only [start, overrun_same h]
  rfl

theorem start_of_badRom (h : ovr ≠ some 1) (hr : t.romOk = false) : start s t ovr = failedAt (counted s) 1 0x0101 0xFF := by
  simp only [start, overrun_other h, hr]
  rfl

theorem start_of_goodRom (h : ovr ≠ some 1) (hr : t.romOk = true) :
    start s t ovr = if 3 ≤ s.fw.attempts.toNat then minimalMode (romMeasured s) t ovr else laterStages (romMeasured s) t ovr := by
  rw [← romMeasured_eq]
  simp only [start, overrun_other h, hr]
  rfl

end

end Sys2Proof.Machine
end

section
/-! PROOFS. What stage 4 brings into use (R89, Table 4-12). -/

namespace Sys2Proof.Machine

/-- Copy `c`, number `i`, verifies, and the other has no higher SEQ or does not verify; at equal SEQs copy 0 comes first. -/
def Preferred (f : Firmware) (i : Nat) (c : Flash) : Prop :=
  (i = 0 ∧ c = f.flash0 ∧ f.flash0.verifies = true ∧ (f.flash1.seq ≤ f.flash0.seq ∨ f.flash1.verifies = false)) ∨
    (i = 1 ∧ c = f.flash1 ∧ f.flash1.verifies = true ∧ (f.flash0.seq < f.flash1.seq ∨ f.flash0.verifies = false))

theorem chooseCopy_of_preferred {f : Firmware} {i : Nat} {c : Flash} (h : Preferred f i c) : chooseCopy f = some (i, c) := by
  by_cases hs : f.flash1.seq ≤ f.flash0.seq
  · obtain ⟨rfl, rfl, hv, -⟩ | ⟨rfl, rfl, hv, ho⟩ := h
    · simp only [chooseCopy, ge_iff_le, hs, if_true, hv]
    · have hv0 := ho.resolve_left (Nat.not_lt.2 hs)
      simp only [chooseCopy, ge_iff_le, hs, if_true, hv0, hv, Bool.false_eq_true, if_false]
  · obtain ⟨rfl, rfl, hv, ho⟩ | ⟨rfl, rfl, hv, -⟩ := h
    · have hv1 := ho.resolve_left hs
      simp only [chooseCopy, ge_iff_le, hs, if_false, hv1, hv, Bool.false_eq_true, if_true]
    · simp only [chooseCopy, ge_iff_le, hs, if_false, hv, if_true]

/-- The firmware with the fields of copy `i` in use, and CONFIG measured. -/
def configured (f : Firmware) (i : Nat) (c : Flash) : Firmware :=
  let f := measure { f with inUse := some i, cfgSeq := c.seq, modid := BitVec.ofNat 12 (field c.body 12 2),
                            dbg := field c.body 14 1 % 2 == 1, keyDigest := slice c.body 64 64 } 2 (sha3 c.body)
  { f with chainCfg := f.chain }

def tripLimited (s : State) (trip n : Nat) : State := s.modDie n fun d => { d with trip := trip }

def powerCapped (s : State) (b : List Byte) (g : Nat) : State :=
  s.modRegion g fun r => { r with pcap := BitVec.ofNat 16 (min 660 (field b (16 + 2 * g) 2)) }

theorem tripLimited_fw (s : State) (trip n : Nat) : (tripLimited s trip n).fw = s.fw := rfl

theorem powerCapped_fw (s : State) (b : List Byte) (g : Nat) : (powerCapped s b g).fw = s.fw := rfl

theorem powerCapped_die (s : State) (b : List Byte) (g n : Nat) : (powerCapped s b g).die n = s.die n := rfl

theorem stage4_of_preferred {s : State} {i : Nat} {c : Flash} (h : Preferred s.fw i c) :
    stage4 s = .ok ((List.range 16).foldl (powerCapped · c.body)
      ((List.range 68).foldl (tripLimited · (min 115 (field c.body 15 1))) (s.modFw fun f => configured f i c))) := by
  rw [stage4, chooseCopy_of_preferred h]
  rfl

/-- An update for each number below `k` in turn leaves each of them as its own update set it, where no other update undoes that. -/
theorem foldl_range_sets {σ : Type} {f : σ → Nat → σ} {P : Nat → σ → Prop} (hset : ∀ s n, P n (f s n))
    (hkeep : ∀ s n m, m ≠ n → P m s → P m (f s n)) {k n : Nat} (h : n < k) (s : σ) : P n ((List.range k).foldl f s) := by
  induction k with
  | zero => exact absurd h (Nat.not_lt_zero n)
  | succ k ih =>
    rw [List.range_succ, List.foldl_append, List.foldl_cons, List.foldl_nil]
    by_cases hn : n = k
    · rw [hn]
      exact hset _ k
    · exact hkeep _ k n hn (ih (by omega))

/-- Updates that keep a part of the state keep it in a row. -/
theorem foldl_keeps {σ α β : Type} {f : σ → α → σ} (part : σ → β) (h : ∀ s x, part (f s x) = part s) (l : List α)
    (s : σ) : part (l.foldl f s) = part s :=
  l.foldlRecOn f (motive := fun t => part t = part s) rfl fun t ht x _ => (h t x).trans ht

theorem region_modRegion_other (s : State) (g m : Nat) (f : Region → Region) (h : m ≠ g) :
    (s.modRegion g f).region m = s.region m :=
  mapGet_mapSet_other _ _ _ _ _ h

theorem trip_of_tripLimited (s : State) (trip : Nat) {k n : Nat} (h : n < k) :
    (((List.range k).foldl (tripLimited · trip) s).die n).trip = trip :=
  foldl_range_sets (P := fun n t => (t.die n).trip = trip) (fun s n => by rw [tripLimited, State.die_modDie_same])
    (fun s n m hm ht => by rwa [tripLimited, State.die_modDie_other _ _ _ _ hm]) h s

theorem pcap_of_powerCapped (s : State) (b : List Byte) {k g : Nat} (h : g < k) :
    (((List.range k).foldl (powerCapped · b) s).region g).pcap = BitVec.ofNat 16 (min 660 (field b (16 + 2 * g) 2)) :=
  foldl_range_sets (P := fun g t => (t.region g).pcap = BitVec.ofNat 16 (min 660 (field b (16 + 2 * g) 2)))
    (fun s g => by rw [powerCapped, State.region_modRegion_same])
    (fun s g m hm ht => by rwa [powerCapped, region_modRegion_other _ _ _ _ hm]) h s

/-- Stage 4 takes the preferred copy: its fields in the firmware, TRIP on every die and PCAP in every region. -/
theorem stage4_takes {s : State} {i : Nat} {c : Flash} (h : Preferred s.fw i c) :
    ∃ y, stage4 s = .ok y ∧ y.fw = configured s.fw i c ∧ (∀ n < 68, (y.die n).trip = min 115 (field c.body 15 1)) ∧
      ∀ g < 16, (y.region g).pcap = BitVec.ofNat 16 (min 660 (field c.body (16 + 2 * g) 2)) := by
  refine ⟨_, stage4_of_preferred h, ?_, fun n hn => ?_, fun g hg => pcap_of_powerCapped _ _ hg⟩
  · rw [foldl_keeps State.fw fun s g => powerCapped_fw s _ g, foldl_keeps State.fw fun s n => tripLimited_fw s _ n]
    rfl
  · rw [foldl_keeps (State.die · n) fun s g => powerCapped_die s _ g n]
    exact trip_of_tripLimited _ _ hn

end Sys2Proof.Machine
end

section
/-! PROOFS. The obligation about the stages of a start, from the rules above. -/

namespace Sys2Proof.Machine

/-- Settles O43: a start is its stages in order, each of which fails with its record or hands its state to the next. -/
theorem stagesOfAStartFailOrGoOnInOrder : Obligations.StagesOfAStartFailOrGoOnInOrder := by
  refine ⟨fun s t ovr => ⟨start_of_overrun, start_of_badRom, fun h1 hr ha => ?full, fun h hr ha => ?minimal⟩,
    fun x i c h => ?config⟩
  case full =>
    have hs : start s t ovr = laterStages (romMeasured s) t ovr := (start_of_goodRom h1 hr).trans (if_neg (Nat.not_le.2 ha))
    refine ⟨fun h2 => hs.trans (laterStages_fail2 (overrun_same h2)),
      fun h2 hb => hs.trans (laterStages_fail2 ((overrun_other h2).trans (stage2_of_bad hb))), fun h2 s2 e2 => ?_⟩
    replace e2 := (overrun_other h2).trans e2
    refine ⟨fun h3 => hs.trans (laterStages_fail3 e2 (overrun_same h3)), fun h3 e he => ?_, fun h3 s3 e3 => ?_⟩
    · have he3 := (overrun_other h3).trans he
      rw [stage3_error he] at he3
      exact hs.trans (laterStages_fail3 e2 he3)
    replace e3 := (overrun_other h3).trans e3
    refine ⟨fun h4 => hs.trans (laterStages_fail4 e2 e3 (overrun_same h4)),
      fun h4 hn => hs.trans (laterStages_fail4 e2 e3 ((overrun_other h4).trans (stage4_of_noCopy hn))), fun h4 s4 e4 => ?_⟩
    replace e4 := (overrun_other h4).trans e4
    exact ⟨fun h5 => hs.trans (laterStages_fail5 e2 e3 e4 (overrun_same h5)),
      fun h5 hp => hs.trans (laterStages_fail5 e2 e3 e4 ((overrun_other h5).trans (stage5_of_noPuf hp))),
      fun h5 hp hk => hs.trans (laterStages_fail5 e2 e3 e4 ((overrun_other h5).trans (stage5_of_misfit hp hk))),
      fun h5 hp hk => hs.trans (laterStages_pass e2 e3 e4 ((overrun_other h5).trans (stage5_of_fit hp hk)))⟩
  case minimal =>
    have hs : start s t none = minimalMode (romMeasured s) t none :=
      (start_of_goodRom (Option.some_ne_none _).symm hr).trans (if_pos ha)
    subst h
    exact ⟨fun hn => hs.trans (minimalMode_fail4 (stage4_of_noCopy hn)), fun s4 e4 =>
      ⟨fun hp => hs.trans (minimalMode_fail5 e4 (stage5_of_noPuf hp)),
        fun hp hk => hs.trans (minimalMode_fail5 e4 (stage5_of_misfit hp hk)),
        fun hp hk => hs.trans (minimalMode_pass e4 (stage5_of_fit hp hk))⟩⟩
  case config =>
    obtain ⟨y, hy, hf, htrip, hpcap⟩ := stage4_takes (s := x) h
    refine ⟨y, hy, ?_⟩
    rw [hf]
    exact ⟨rfl, rfl, rfl, rfl, rfl, rfl, rfl, htrip, hpcap⟩

end Sys2Proof.Machine
end

section
/-! PROOFS. A mailbox command that is accepted ends as its own work does (R77, R78). -/

namespace Sys2Proof.Machine

/-- The input payload of a command (R77). -/
def State.payload (s : State) : List Byte := s.arg.data.take 0x10000

/-- The mailbox takes up a command of layout `l`: none of the refusals of R77 to R79 is due. -/
structure Layout.Accepts (l : Layout) (s : State) : Prop where
  started : s.fw.started = true
  known : unknownOpcode s.arg.k = false
  idle : s.fw.background = none
  allowed : l.allowed s.fw.st = true
  long : l.len ≤ s.payload.length
  reserved : l.reserved s.payload = true

/-- What a command whose work left state `t` ends in. -/
def Reply.ends (t : State) : Reply → State
  | .done r out => complete t r out
  | .background => t.modFw fun f => { f with cxl := .background, out := [] }
  | .goesOn => t

section
variable {l : Layout} {work : State → List Byte → State × Reply} {s t : State}

theorem command_of_accepted {r : Reply} (h : l.Accepts s) (hw : work s s.payload = (t, r)) :
    command l work s = .next (r.ends t).settled := by
  obtain ⟨hstarted, hknown, hidle, hallowed, hlong, hreserved⟩ := h
  have hpayload : ¬ (decide (s.payload.length < l.len) || !l.reserved s.payload) = true := by
    simp [hreserved, Nat.not_lt.2 hlong]
  rw [State.payload] at hpayload hw
  rw [command, event_modify]
  simp only [hstarted, hknown, hidle, hallowed, hpayload, hw, Option.isSome_none, Bool.not_true, Bool.false_and,
    Bool.false_eq_true, if_false]
  cases r <;> rfl

theorem command_of_done {r : Result} {out : List Byte} (h : l.Accepts s) (hw : work s s.payload = (t, .done r out)) :
    command l work s = .next (complete t r out).settled := command_of_accepted h hw

theorem command_of_background (h : l.Accepts s) (hw : work s s.payload = (t, .background)) :
    command l work s = .next (t.modFw fun f => { f with cxl := .background, out := [] }).settled := command_of_accepted h hw

end

end Sys2Proof.Machine
end

section
/-! PROOFS. LEND, BORROW and RECLAIM, and the end of a reclaim at the lender (R59, R64, R65, Table 4-8). -/

namespace Sys2Proof.Machine

/-- The layout that LEND, BORROW and RECLAIM share, but for its length. -/
abbrev poolLayout (len : Nat) : Layout := { allowed := drainedOrServing, len := len, reserved := peerOk }

theorem poolLayout_accepts {s : State} {len : Nat} (hs : s.fw.started = true) (hk : unknownOpcode s.arg.k = false)
    (hst : s.fw.st = .drained ∨ s.fw.st = .serving) (hi : s.fw.background = none) (hl : len ≤ s.payload.length)
    (hp : field s.payload 0 2 < 4096) (hz : zeros s.payload 2 6 = true) : (poolLayout len).Accepts s where
  started := hs
  known := hk
  idle := hi
  allowed := by obtain h | h := hst <;> rw [h] <;> rfl
  long := hl
  reserved := by simp [peerOk, hp, hz]

theorem notePool_eq (s : State) (m : BitVec 64) : notePool s m = if m = 0 then s else raiseMsix s 4 := by
  simp only [notePool, beq_iff_eq]

/-- The dies that LEND lends (R64). -/
def lendable (s : State) (mask : BitVec 64) : BitVec 64 :=
  pickSites mask fun n => (s.die n).usable && (s.die n).pool == 0 && !holdsPlacement s n && cleared s n

/-- The dies of a mask that are lent to a module. -/
def lentSites (s : State) (peer : BitVec 12) (mask : BitVec 64) : BitVec 64 :=
  pickSites mask fun n => (s.die n).pool == 1 && (s.die n).peer == peer

/-- The fabric window that BORROW takes: the peer's own, else the first free one. -/
def windowFor (s : State) (peer : BitVec 12) : Option Nat :=
  let w (i : Nat) : Fwin := mapGet {} s.fw.fwin i
  ((List.range 16).find? fun i => (w i).valid && (w i).rmod == peer).orElse fun _ => (List.range 16).find? fun i => !(w i).valid

/-- Window `i` once it leads to the dies of `mask` as well, by the ports that the step names. -/
def widened (s : State) (peer : BitVec 12) (mask : BitVec 64) (i : Nat) : Fwin :=
  let w : Fwin := mapGet {} s.fw.fwin i
  { rmod := peer, valid := true, port := BitVec.ofNat 7 (s.arg.k % 72), altv := decide (s.arg.c < 72),
    altport := if s.arg.c < 72 then BitVec.ofNat 7 s.arg.c else 0, sites := (if w.valid then w.sites else 0) ||| mask }

section
variable {s : State}

theorem exec_lend_of_refused (h : (poolLayout 16).Accepts s) (hf : s.arg.flag = false) :
    exec .lend s = .next (complete s .peer []).settled := by
  show execLend s = _
  exact command_of_done h (if_pos (by simp [hf]))

theorem exec_lend_of_agreed (h : (poolLayout 16).Accepts s) (hf : s.arg.flag = true) :
    let m := lendable s (maskField s.payload)
    exec .lend s = .next (complete (notePool (setPool s m 1 (peerField s.payload)) m) .ok (leBytes 8 m.toNat)).settled := by
  show execLend s = _
  exact command_of_done h (if_neg (by simp [hf]))

theorem exec_borrow_of_refused (h : (poolLayout 16).Accepts s) (hf : s.arg.flag = false) :
    exec .borrow s = .next (complete s .peer []).settled := by
  show execBorrow s = _
  exact command_of_done h (if_pos (by simp [hf]))

theorem exec_borrow_of_full (h : (poolLayout 16).Accepts s) (hf : s.arg.flag = true)
    (hw : windowFor s (peerField s.payload) = none) : exec .borrow s = .next (complete s .noSpace []).settled := by
  show execBorrow s = _
  refine command_of_done h ((if_neg (by simp [hf])).trans ?_)
  rw [windowFor] at hw
  rw [hw]

theorem exec_borrow_of_window {i : Nat} (h : (poolLayout 16).Accepts s) (hf : s.arg.flag = true)
    (hw : windowFor s (peerField s.payload) = some i) :
    exec .borrow s = .next (complete (s.modFw fun f => { f with
      fwin := mapSet f.fwin i (widened s (peerField s.payload) (maskField s.payload) i) }) .ok [BitVec.ofNat 8 i]).settled := by
  show execBorrow s = _
  refine command_of_done h ((if_neg (by simp [hf])).trans ?_)
  rw [windowFor] at hw
  rw [hw]
  rfl

theorem exec_reclaim_of_none (h : (poolLayout 20).Accepts s)
    (hm : lentSites s (peerField s.payload) (maskField s.payload) = 0) :
    exec .reclaim s = .next (complete s .notFound []).settled := by
  show execReclaim s = _
  exact command_of_done h (if_pos (beq_iff_eq.2 hm))

theorem exec_reclaim_of_lent {m : BitVec 64} (h : (poolLayout 20).Accepts s)
    (hm : lentSites s (peerField s.payload) (maskField s.payload) = m) (h0 : m ≠ 0) :
    exec .reclaim s = .next ((raiseMsix ((setPool s m 2 (peerField s.payload)).modFw fun f => { f with
      background := some (.reclaim (peerField s.payload) m) }) 4).modFw fun f => { f with cxl := .background, out := [] }).settled := by
  subst hm
  show execReclaim s = _
  refine command_of_background h ((if_neg (mt beq_iff_eq.1 h0)).trans ?_)
  rw [notePool_eq]
  exact congrArg (·, Reply.background) (if_neg h0)

theorem exec_reclaimAnswer_of_reclaim {peer : BitVec 12} {m : BitVec 64} (h : s.fw.background = some (.reclaim peer m)) :
    exec .reclaimAnswer s = .next (endReclaim s m .ok).settled := by
  show execReclaimAnswer s = _
  rw [execReclaimAnswer, event_modify, h]

theorem exec_reclaimGraceExpire_at_lender {peer : BitVec 12} {m : BitVec 64} (hf : s.arg.flag = false)
    (h : s.fw.background = some (.reclaim peer m)) : exec .reclaimGraceExpire s = .next (endReclaim s m .peer).settled := by
  show execReclaimGraceExpire s = _
  rw [execReclaimGraceExpire, event_modify, hf, h]
  rfl

/-- R65: the dies are scrubbed before they are HOME and the host is told. -/
theorem endReclaim_eq (s : State) (m : BitVec 64) (r : Result) :
    let t := setPool ((maskSites m).foldl (fun t k => scrub (dropForeign t k) k) s) m 0 0
    endReclaim s m r = endBackground (if m = 0 then t else raiseMsix t 4) r (leBytes 8 m.toNat) := by
  rw [endReclaim, notePool_eq]

end

end Sys2Proof.Machine
end

section
/-! PROOFS. The borrower gives dies back (R59, R65). -/

namespace Sys2Proof.Machine

/-- A window that leads to no die still borrowed once those of `m` have gone back. -/
def Fwin.endsWith (w : Fwin) (peer : BitVec 12) (m : BitVec 64) : Bool := w.valid && w.rmod == peer && (w.sites &&& ~~~m) == 0

/-- A window once the dies of `m` have gone back. -/
def Fwin.without (w : Fwin) (peer : BitVec 12) (m : BitVec 64) : Fwin :=
  if w.valid && w.rmod == peer then { w with sites := w.sites &&& ~~~m, valid := !w.endsWith peer m } else w

theorem Fwin.without_eq (w : Fwin) (peer : BitVec 12) (m : BitVec 64) : w.without peer m =
    if w.valid && w.rmod == peer then { w with sites := w.sites &&& ~~~m, valid := (w.sites &&& ~~~m) != 0 } else w := by
  by_cases h : (w.valid && w.rmod == peer) = true
  · rw [Fwin.without, Fwin.endsWith, h, Bool.true_and, bne]
  · rw [Fwin.without, if_neg h, if_neg h]

theorem Fwin.valid_without (w : Fwin) (peer : BitVec 12) (m : BitVec 64) :
    (w.valid && !(w.without peer m).valid) = w.endsWith peer m := by
  by_cases h : (w.valid && w.rmod == peer) = true
  · have hv : w.valid = true := (Bool.and_eq_true _ _ ▸ h).1
    rw [Fwin.without, if_pos h, hv, Bool.true_and, Bool.not_not]
  · have he : w.endsWith peer m = false := by rw [Fwin.endsWith, eq_false_of_ne_true h, Bool.false_and]
    rw [he, Fwin.without, if_neg h, Bool.and_not_self]

/-- The fabric windows of the module once the dies of `m` have gone back. -/
def windowsWithout (s : State) (peer : BitVec 12) (m : BitVec 64) : State :=
  s.modFw fun f => { f with fwin := f.fwin.map fun w => (w.1, w.2.without peer m) }

theorem returnDies_eq (s : State) (peer : BitVec 12) (m : BitVec 64) :
    let t := windowsWithout s peer m
    returnDies s peer m = answerPeer (if s.fw.fwin.any (fun w => w.2.endsWith peer m) then raiseMsix t 4 else t) .ok m := by
  simp only [returnDies, ← Fwin.without_eq, Fwin.valid_without]
  rfl

section
variable {s : State}

theorem not_any_worksAt {peer : BitVec 12} (h : ∀ e ∈ s.fw.streams, worksAt s peer e.2 = false) :
    ¬ (s.fw.streams.any fun e => worksAt s peer e.2) = true := by
  simpa only [List.any_eq_true, not_exists, not_and, Bool.not_eq_true] using h

theorem settleReclaim_of_work {r : Reclaim} {peer : BitVec 12} (hp : r.peer = peer)
    (h : ∃ e ∈ s.fw.streams, worksAt s peer e.2 = true) : settleReclaim s r = s := by
  subst hp
  exact if_pos (List.any_eq_true.2 h)

theorem settleReclaim_of_idle {r : Reclaim} {peer : BitVec 12} (hp : r.peer = peer)
    (h : ∀ e ∈ s.fw.streams, worksAt s peer e.2 = false) : settleReclaim s r =
      returnDies (s.modFw fun f => { f with reclaims := f.reclaims.filter fun x => x.peer != peer }) peer r.sites := by
  subst hp
  exact if_neg (not_any_worksAt h)

/-- The module of the step. -/
def State.asker (s : State) : BitVec 12 := BitVec.ofNat 12 s.arg.n

/-- The reclaim that the module of the step has asked for and whose answer is due. -/
def State.asked (s : State) : Option Reclaim := s.fw.reclaims.find? fun r => r.peer == s.asker

/-- The grace time of the reclaims of a module has ended, and at its first end the streams that work there fail (R65). -/
def graceEnded (s : State) (peer : BitVec 12) (r : Reclaim) : State :=
  let t := s.modFw fun f => { f with reclaims := f.reclaims.map fun x => if x.peer == peer then { x with expired := true } else x }
  if r.expired then t else failStreams t (worksAt t peer) 0x0021

theorem exec_reclaimGraceExpire_of_none (hf : s.arg.flag = true) (h : s.asked = none) :
    exec .reclaimGraceExpire s = .next s.settled := by
  show execReclaimGraceExpire s = _
  rw [State.asked, State.asker] at h
  rw [execReclaimGraceExpire, event_modify, if_pos hf]
  extract_lets
  rw [h]

theorem exec_reclaimGraceExpire_of_asked {r : Reclaim} (hf : s.arg.flag = true) (h : s.asked = some r) :
    exec .reclaimGraceExpire s = .next (settleReclaim (graceEnded s s.asker r) r).settled := by
  show execReclaimGraceExpire s = _
  rw [State.asked, State.asker] at h
  rw [execReclaimGraceExpire, event_modify, if_pos hf]
  extract_lets
  rw [h]
  rfl

theorem peer_of_asked {r : Reclaim} (h : s.asked = some r) : r.peer = s.asker :=
  beq_iff_eq.1 (List.find?_some (p := fun r : Reclaim => r.peer == s.asker) h)

/-- While a stream still works at the peer, the answer is put off (R65). -/
theorem exec_reclaimGraceExpire_of_work {r : Reclaim} (hf : s.arg.flag = true) (hr : s.asked = some r)
    (h : ∃ e ∈ (graceEnded s s.asker r).fw.streams, worksAt (graceEnded s s.asker r) s.asker e.2 = true) :
    exec .reclaimGraceExpire s = .next (graceEnded s s.asker r).settled := by
  rw [exec_reclaimGraceExpire_of_asked hf hr, settleReclaim_of_work (peer_of_asked hr) h]

theorem exec_reclaimGraceExpire_of_idle {r : Reclaim} (hf : s.arg.flag = true) (hr : s.asked = some r)
    (h : ∀ e ∈ (graceEnded s s.asker r).fw.streams, worksAt (graceEnded s s.asker r) s.asker e.2 = false) :
    exec .reclaimGraceExpire s = .next (returnDies ((graceEnded s s.asker r).modFw fun f => { f with
      reclaims := f.reclaims.filter fun x => x.peer != s.asker }) s.asker r.sites).settled := by
  rw [exec_reclaimGraceExpire_of_asked hf hr, settleReclaim_of_idle (peer_of_asked hr) h]

end

end Sys2Proof.Machine
end

section
/-! PROOFS. What a pool peer asks and sends (R59, R64, R65). -/

namespace Sys2Proof.Machine

/-- What a request of a pool peer does, by what it asks. -/
def peerAsks (s : State) : PeerReq → State
  | .lend => answerPeer s .ok s.arg.val
  | .borrow =>
    let m := lentSites s s.asker s.arg.val
    answerPeer s (if m == 0 then .peer else .ok) m
  | .reclaim =>
    if s.fw.streams.any (fun e => worksAt s s.asker e.2) then
      s.modFw fun f => { f with reclaims := f.reclaims ++ [{ peer := s.asker, sites := s.arg.val }], peerAnswer := [] }
    else returnDies s s.asker s.arg.val
  | .post => postForeign s s.asker s.arg.k s.arg.c s.arg.data
  | .kill => killForeign s s.asker s.arg.k s.arg.c
  | .entry => installForeign s s.asker s.arg.k s.arg.data
  | .cancel =>
    if lentNow s s.asker s.arg.k then postSlot s (hoSlot 64 s.arg.k 0x62 (BitVec.ofNat 20 (field s.arg.data 0 4)) []) else s
  | .release => if lentNow s s.asker s.arg.k then dropEntry s s.arg.k (BitVec.ofNat 20 (field s.arg.data 0 4)) else s
  | .done => farGone s s.asker s.arg.k s.arg.c
  | .fault => failTask s (field s.arg.data 0 4) 0x0024
  | .report => farReport s s.asker s.arg.k s.arg.msg

section
variable {s : State} {peer : BitVec 12} {site i : Nat} {b : List Byte}

/-- A module that has started and is not in minimal mode hears its pool peers. -/
theorem exec_poolPeerRequest_of {q : PeerReq} (hs : s.fw.started = true) (hm : s.fw.st ≠ .minimal) (hq : s.arg.peer = q) :
    exec .poolPeerRequest s = .next (peerAsks s q).settled := by
  have hdeaf : ¬ (!s.fw.started || s.fw.st == .minimal) = true := by simp [hs, hm]
  show execPoolPeerRequest s = _
  rw [execPoolPeerRequest, event_modify]
  refine congrArg (fun t : State => Host.Outcome.next t.settled) ((if_neg hdeaf).trans ?_)
  rw [hq]
  cases q <;> rfl

theorem peerAsks_borrow (s : State) :
    let m := lentSites s s.asker s.arg.val
    peerAsks s .borrow = answerPeer s (if m = 0 then .peer else .ok) m := by
  simp only [peerAsks, beq_iff_eq]

theorem peerAsks_reclaim_of_work (h : ∃ e ∈ s.fw.streams, worksAt s s.asker e.2 = true) :
    peerAsks s .reclaim = s.modFw fun f => { f with
      reclaims := f.reclaims ++ [{ peer := s.asker, sites := s.arg.val }], peerAnswer := [] } :=
  if_pos (List.any_eq_true.2 h)

theorem peerAsks_reclaim_of_idle (h : ∀ e ∈ s.fw.streams, worksAt s s.asker e.2 = false) :
    peerAsks s .reclaim = returnDies s s.asker s.arg.val :=
  if_neg (not_any_worksAt h)

theorem postForeign_of_refused (h : (s.die site).pool ≠ 1 ∨ (s.die site).peer ≠ peer ∨ (s.record site i).st ≠ .free) :
    postForeign s peer site i b = answerPeer s .peer 0 := by
  refine if_pos ?_
  simpa only [Bool.or_eq_true, Bool.not_eq_true', Bool.and_eq_false_iff, beq_eq_false_iff_ne, bne_iff_ne, or_assoc] using h

theorem postForeign_of_taken (hl : (s.die site).pool = 1) (hp : (s.die site).peer = peer) (hr : (s.record site i).st = .free) :
    let t := postRecord (s.modRec site i fun r => { r with bytes := slice b 0 128 }) site i
    postForeign s peer site i b = answerPeer (t.modRec site i fun r => { r with foreign := r.st != .free }) .ok 0 :=
  if_neg (by simp [hl, hp, hr])

/-- A die is lent to a module, or being reclaimed from it. -/
def LentTo (s : State) (peer : BitVec 12) (n : Nat) : Prop := (s.die n).pool ≠ 0 ∧ (s.die n).peer = peer

theorem lentNow_iff (s : State) (peer : BitVec 12) (n : Nat) : lentNow s peer n = true ↔ LentTo s peer n := by
  simp only [lentNow, LentTo, Bool.and_eq_true, bne_iff_ne, beq_iff_eq]

theorem lentNow_eq_false (h : ¬ LentTo s peer site) : lentNow s peer site = false :=
  Bool.eq_false_iff.2 (mt (lentNow_iff s peer site).1 h)

/-- What is sent to a die acts on it only while it is lent to the sender. -/
theorem peerAsks_of_unlent {q : PeerReq} (h : ¬ LentTo s s.asker s.arg.k)
    (hq : q ∈ ([.kill, .entry, .cancel, .release] : List PeerReq)) : peerAsks s q = s := by
  have hl := lentNow_eq_false h
  simp only [List.mem_cons, List.not_mem_nil, or_false] at hq
  obtain rfl | rfl | rfl | rfl := hq
  case inl => rw [peerAsks, killForeign, hl, Bool.false_and, if_neg Bool.false_ne_true]
  case inr.inl => rw [peerAsks, installForeign, hl, Bool.not_false, if_pos rfl]
  all_goals rw [peerAsks, hl, if_neg Bool.false_ne_true]

theorem peerAsks_kill_of_lent (h : LentTo s s.asker s.arg.k) : peerAsks s .kill =
    if (s.record s.arg.k s.arg.c).foreign then endRec (stopTask s s.arg.k s.arg.c) s.arg.k s.arg.c false else s := by
  rw [peerAsks, killForeign, (lentNow_iff _ _ _).2 h, Bool.true_and]

theorem peerAsks_entry_of_lent (h : LentTo s s.asker s.arg.k) :
    let e := entryOfBytes s.arg.data
    peerAsks s .entry = modEntry s s.arg.k { e with
      bitmapAt := bitmapOf s s.arg.k (e.stream.toNat % 65536) ((e.layers * e.ntb + 63) / 64 * 8) } := by
  rw [peerAsks, installForeign, (lentNow_iff _ _ _).2 h]
  rfl

theorem peerAsks_cancel_of_lent (h : LentTo s s.asker s.arg.k) :
    peerAsks s .cancel = postSlot s (hoSlot 64 s.arg.k 0x62 (BitVec.ofNat 20 (field s.arg.data 0 4)) []) :=
  if_pos ((lentNow_iff _ _ _).2 h)

theorem peerAsks_release_of_lent (h : LentTo s s.asker s.arg.k) :
    peerAsks s .release = dropEntry s s.arg.k (BitVec.ofNat 20 (field s.arg.data 0 4)) :=
  if_pos ((lentNow_iff _ _ _).2 h)

theorem farReport_of_row {m : Slot} {row : Instr} (h : rowOf { m with src := farSite peer site, dst := 64 } = some row)
    (hop : m.op ≠ 0) : farReport s peer site m = arriveMsg s row { m with src := farSite peer site, dst := 64 } [] none := by
  refine (if_neg (mt beq_iff_eq.1 hop)).trans ?_
  rw [h]

end

end Sys2Proof.Machine
end

section
/-! PROOFS. The obligation about lending, borrowing and reclaiming, from the rules above. -/

namespace Sys2Proof.Machine

/-- Settles O52: each command, end of a reclaim and request is one operation of the model, whose cases the rules above say. -/
theorem lendingBorrowingAndReclaimingMoveDiesBetweenModules :
    Obligations.LendingBorrowingAndReclaimingMoveDiesBetweenModules := by
  intro s hs hk
  refine ⟨fun hst hi h16 hp hz => ?commands, fun peer m h => ?ended, ?grace, fun hm => ?asks⟩
  case commands =>
    have accepts {len : Nat} (hl : len ≤ s.payload.length) := poolLayout_accepts hs hk hst hi hl hp hz
    have h := accepts h16
    refine ⟨fun hf => ⟨exec_lend_of_refused h hf, exec_borrow_of_refused h hf⟩, fun hf => ⟨?lend, ?borrow⟩, fun h20 => ?reclaim⟩
    case lend =>
      rw [exec_lend_of_agreed h hf, notePool_eq]
      rfl
    case borrow => exact ⟨exec_borrow_of_full h hf, fun _ => exec_borrow_of_window h hf⟩
    case reclaim => exact ⟨exec_reclaim_of_none (accepts h20), exec_reclaim_of_lent (accepts h20) rfl⟩
  case ended =>
    refine ⟨?_, fun hf => ?_⟩
    · rw [exec_reclaimAnswer_of_reclaim h, endReclaim_eq]
      rfl
    · rw [exec_reclaimGraceExpire_at_lender hf h, endReclaim_eq]
      rfl
  case grace =>
    refine fun hf => ⟨exec_reclaimGraceExpire_of_none hf, fun r hr => ⟨exec_reclaimGraceExpire_of_work hf hr, fun hw => ?_⟩⟩
    refine (exec_reclaimGraceExpire_of_idle hf hr hw).trans ?_
    rw [returnDies_eq]
    rfl
  case asks =>
    have asks {q : PeerReq} (hq : s.arg.peer = q) {t : State} (ht : peerAsks s q = t) :
        exec .poolPeerRequest s = .next t.settled := ht ▸ exec_poolPeerRequest_of hs hm hq
    refine ⟨fun hq => asks hq rfl, fun hq => ?borrow, fun hq => ⟨?working, ?idle⟩, fun hq => ⟨?refused, ?posted⟩,
      fun hl hq => asks rfl (peerAsks_of_unlent hl hq), fun hl => ⟨?kill, ?entry, ?cancel, ?release⟩,
      fun hq => asks hq rfl, fun hq => asks hq rfl, ?report⟩
    case borrow =>
      rw [asks hq (peerAsks_borrow s), answerPeer, apply_ite Result.code]
      rfl
    case working => exact fun hw => asks hq (peerAsks_reclaim_of_work hw)
    case idle =>
      intro hw
      rw [asks hq ((peerAsks_reclaim_of_idle hw).trans (returnDies_eq s _ _))]
      rfl
    case refused => exact fun h => asks hq (postForeign_of_refused h)
    case posted => exact fun hl hp hr => asks hq (postForeign_of_taken hl hp hr)
    case kill => exact fun hq => asks hq (peerAsks_kill_of_lent hl)
    case entry => exact fun hq => asks hq (peerAsks_entry_of_lent hl)
    case cancel => exact fun hq => asks hq (peerAsks_cancel_of_lent hl)
    case release => exact fun hq => asks hq (peerAsks_release_of_lent hl)
    case report => exact fun hq row hrow hop => asks hq (farReport_of_row hrow hop)

end Sys2Proof.Machine
end

section
/-! PROOFS. The obligation about hand-off engines, refuted where it says which sites hold the frame counters (R3, R131). -/

namespace Sys2Proof.Machine

/-- The frame counters of a D-stack are read wherever the stack stands on the grid (R131). -/
theorem exec_frefopRead_of_stack {s : State} (h : isD s.arg.n = true) :
    exec .frefopRead s = .next (readFrame s s.arg.n s.arg.k).settled := by
  show execFrefopRead s = _
  rw [execFrefopRead, event_modify, if_pos h]

theorem frefOk_readFrame (s : State) (n i : Nat) : ((readFrame s n i).die n).ho.frefOk = true := by
  rw [readFrame, State.die_modDie_same]

/-- Refutes O54: it takes every site of an even number for one without frames, but by R3 a site holds a D-stack when the sum of its
column and its row is odd: site 8, at column 0 of row 1, does, and a FREFOP READ there sets FREFVAL.OK. -/
theorem not_handOffEnginesSendLandRetryAndCancelBlocks : ¬ Obligations.HandOffEnginesSendLandRetryAndCancelBlocks := by
  intro h
  let s : State := { State.reset with arg := { noArgs with n := 8 } }
  obtain ⟨⟨-, -, -, -, -, ⟨-, hidle⟩, -⟩, -⟩ := h s
  have hread : exec .frefopRead s = .next (readFrame s 8 0) :=
    (exec_frefopRead_of_stack (by decide)).trans (congrArg _ (settled_of_none rfl))
  have hstays : exec .frefopRead s = .next s := (hidle (.inr (show 8 % 2 = 0 from rfl))).2.trans (congrArg _ (settled_of_none rfl))
  have hsame : readFrame s 8 0 = s := Host.Outcome.next.inj (hread.symm.trans hstays)
  have hok : (s.die 8).ho.frefOk = true := hsame ▸ frefOk_readFrame s 8 0
  exact absurd hok (by decide)

end Sys2Proof.Machine
end

section
/-! PROOFS. What translating and launching leave as they were: what a hand-off word goes by outside its own core. -/

namespace Sys2Proof.Machine

/-- What a hand-off word goes by outside its context: whose turn it is, who owns a frame, where the stash of each core lies, and
the entries of each die. -/
structure Bearings where
  turn : Nat
  owners : Map (Option Nat)
  stash : Nat → Nat × Nat
  entries : Nat → Map HoEntry

def State.bearings (s : State) : Bearings :=
  { turn := s.turn, owners := s.owners, stash := fun n => ((s.core n).stashb, (s.core n).stashn), entries := fun n => (s.die n).entries }

theorem bearings_foldl {α : Type} {f : State → α → State} (h : ∀ s x, (f s x).bearings = s.bearings) (l : List α) (s : State) :
    (l.foldl f s).bearings = s.bearings := by
  induction l generalizing s with
  | nil => rfl
  | cons x l ih => rw [List.foldl_cons, ih, h]

theorem bearings_modDie (s : State) (n : Nat) {f : Die → Die} (h : ∀ d, (f d).entries = d.entries := by exact fun _ => rfl) :
    (s.modDie n f).bearings = s.bearings := by
  have he : (fun m => ((s.modDie n f).die m).entries) = fun m => (s.die m).entries := by
    funext m
    by_cases hm : m = n
    · rw [hm, State.die_modDie_same, h]
    · rw [State.die_modDie_other _ _ _ _ hm]
  simp only [State.bearings, he]
  rfl

theorem bearings_modCore (s : State) (n : Nat) {f : Core → Core}
    (h : ∀ c, (f c).stashb = c.stashb ∧ (f c).stashn = c.stashn := by exact fun _ => ⟨rfl, rfl⟩) :
    (s.modCore n f).bearings = s.bearings := by
  have he : (fun m => (((s.modCore n f).core m).stashb, ((s.modCore n f).core m).stashn)) =
      fun m => ((s.core m).stashb, (s.core m).stashn) := by
    funext m
    by_cases hm : m = n
    · rw [hm, State.core_modCore_same, (h _).1, (h _).2]
    · rw [State.core_modCore_other _ _ _ _ hm]
  simp only [State.bearings, he]
  rfl

@[simp] theorem bearings_setCtx (s : State) (c : Ctx) : (s.setCtx c).bearings = s.bearings :=
  bearings_modCore s _

@[simp] theorem bearings_used (s : State) (e : Eng) (n : Nat) : (s.used e n).bearings = s.bearings := bearings_setCtx s _

/-! ## Memory and its layers -/

@[simp] theorem bearings_writePhys (s : State) (pa : Nat) (b : Byte) : (writePhys s pa b).bearings = s.bearings := by
  unfold writePhys writeAt
  split
  · split <;> rfl
  · rfl

@[simp] theorem bearings_cover (s : State) (pa : Nat) (bytes : BitVec 128) : (s.cover pa bytes).bearings = s.bearings := by
  unfold State.cover
  split
  · rfl
  · dsimp only
    split <;> rfl

@[simp] theorem bearings_startLayer (s : State) (n l : Nat) (t : BitVec 2) : (startLayer s n l t).bearings = s.bearings := by
  refine (bearings_modDie _ n).trans ?_
  split
  · rw [zeroLayer, bearings_foldl]
    intro s g
    rfl
  · rfl

@[simp] theorem bearings_endLayer (s : State) (n l : Nat) : (endLayer s n l).bearings = s.bearings := by
  unfold endLayer
  dsimp only
  split
  · rw [bearings_startLayer]
    exact bearings_modDie s n
  · exact bearings_modDie s n

@[simp] theorem bearings_wake (s : State) (pa : Nat) : (wake s pa).bearings = s.bearings := by
  unfold wake
  split
  · dsimp only
    split
    · rfl
    · split
      · rfl
      · refine (bearings_modDie _ _).trans ?_
        split
        · exact bearings_endLayer s _ _
        · rfl
  · rfl

@[simp] theorem bearings_writeDirty (s : State) (l : Line) : (writeDirty s l).bearings = s.bearings := by
  unfold writeDirty
  split
  · rfl
  · rw [bearings_cover, bearings_foldl, bearings_wake]
    intro s i
    split
    · exact bearings_writePhys s _ _
    · rfl

/-! ## Translating a range -/

@[simp] theorem bearings_countPath (s : State) (src dst : Nat) : (countPath s src dst).bearings = s.bearings := by
  unfold countPath
  split
  · rfl
  · refine bearings_foldl (fun s l => ?_) _ s
    exact (bearings_modDie _ _).trans (bearings_modDie s _)

@[simp] theorem bearings_countAccess (s : State) (src pa : Nat) : (countAccess s src pa).bearings = s.bearings := by
  rw [countAccess, bearings_countPath, bearings_countPath]

@[simp] theorem bearings_wakeTables (s : State) (va : Word) : (wakeTables s va).bearings = s.bearings := by
  unfold wakeTables
  dsimp only
  split
  · rfl
  · split
    · rfl
    · exact bearings_foldl (fun s a => by rw [bearings_countAccess, bearings_wake]) _ s

@[simp] theorem bearings_noteLeaf (s : State) (va : Word) (l : Leaf) : (noteLeaf s va l).bearings = s.bearings :=
  calc (noteLeaf s va l).bearings = _ := bearings_modDie _ _
    _ = (wakeTables s va).bearings := bearings_modCore _ _
    _ = s.bearings := bearings_wakeTables s va

/-- The bytes of a range that lie in the page of its first. -/
def inPage (va : Word) (len : Nat) : Nat := min len (65536 - va.toNat % 65536)

theorem segsGo_empty (acc n : Nat) (va : Word) (s : State) : segsGo acc n va 0 s = .ok [] s := by
  cases n <;> rfl

theorem segsGo_of_leaf {acc n len : Nat} {va : Word} {s : State} {l : Leaf} (h0 : len ≠ 0) (h : translateHere s va acc = .ok l) :
    segsGo acc (n + 1) va len s =
      (do
        let rest ← segsGo acc n (va + BitVec.ofNat 64 (inPage va len)) (len - inPage va len)
        return ⟨l.pa, inPage va len, l.cls, l.defer⟩ :: rest : M (List Seg)) (noteLeaf s va l) := by
  rw [segsGo, if_neg h0, M.bind_ok (M.get_run s), h]
  rfl

theorem segsGo_of_error {acc n len : Nat} {va : Word} {s t : State} {e : MemErr} {gs : List Seg} (h0 : len ≠ 0)
    (h : translateHere s va acc = .error e) : segsGo acc (n + 1) va len s ≠ .ok gs t := by
  rw [segsGo, if_neg h0, M.bind_ok (M.get_run s), h]
  intro hok
  simp only [M.bind_run] at hok
  split at hok <;> cases hok

theorem bearings_segsGo {acc n len : Nat} {va : Word} {s t : State} {gs : List Seg} (h : segsGo acc n va len s = .ok gs t) :
    t.bearings = s.bearings := by
  induction n generalizing va len s t gs with
  | zero =>
    cases h
    rfl
  | succ n ih =>
    by_cases h0 : len = 0
    · subst h0
      cases h
      rfl
    · cases hl : translateHere s va acc with
      | error e => exact absurd h (segsGo_of_error h0 hl)
      | ok l =>
        rw [segsGo_of_leaf h0 hl] at h
        cases hr : segsGo acc n (va + BitVec.ofNat 64 (inPage va len)) (len - inPage va len) (noteLeaf s va l) with
        | error e t' =>
          rw [M.bind_error hr] at h
          cases h
        | ok rest t' =>
          rw [M.bind_ok hr] at h
          cases h
          exact (ih hr).trans (bearings_noteLeaf s va l)

/-- A range within one page is one part (R181). -/
theorem segsOf_of_page {acc len : Nat} {va : Word} {s : State} {l : Leaf} (h : translateHere s va acc = .ok l) (h0 : 0 < len)
    (hp : va.toNat % 65536 + len ≤ 65536) : segsOf va len acc s = .ok [⟨l.pa, len, l.cls, l.defer⟩] (noteLeaf s va l) := by
  have hk : inPage va len = len := Nat.min_eq_left (by omega)
  rw [segsOf, segsGo_of_leaf (Nat.ne_of_gt h0) h, hk, Nat.sub_self, M.bind_ok (segsGo_empty ..)]
  rfl

/-! ## Launching -/

@[simp] theorem bearings_dropRanges (s : State) (n : Nat) (gs : List Seg) : (dropRanges s n gs).bearings = s.bearings := by
  unfold dropRanges dropCopies
  dsimp only
  split
  · rfl
  · refine (bearings_modCore _ n).trans ?_
    rw [bearings_foldl bearings_writeDirty]
    refine (bearings_modDie _ _).trans ?_
    rw [bearings_foldl bearings_writeDirty]

@[simp] theorem bearings_launchOp (s : State) (o : Op) : (launchOp s o).bearings = s.bearings := by
  unfold launchOp
  dsimp only
  split
  · exact (bearings_modDie _ _).trans (bearings_dropRanges s _ _)
  · exact bearings_dropRanges s _ _

/-! ## What goes by the bearings alone -/

section
variable {s t : State}

theorem findEntry_of_bearings (h : s.bearings = t.bearings) (n : Nat) (stream : BitVec 20) :
    findEntry s n stream = findEntry t n stream := by
  have he : (s.die n).entries = (t.die n).entries := congrFun (congrArg Bearings.entries h) n
  rw [findEntry, findEntry, he]

theorem badSrc_of_bearings (h : s.bearings = t.bearings) : badSrc s = badSrc t := by
  have hturn : s.turn = t.turn := congrArg Bearings.turn h
  have howners : s.owners = t.owners := congrArg Bearings.owners h
  have hbase (n : Nat) : (s.core n).stashb = (t.core n).stashb := congrArg Prod.fst (congrFun (congrArg Bearings.stash h) n)
  have hsize (n : Nat) : (s.core n).stashn = (t.core n).stashn := congrArg Prod.snd (congrFun (congrArg Bearings.stash h) n)
  funext g
  simp only [badSrc, segStash, segPrivate, hturn, howners, hbase, hsize]

end

end Sys2Proof.Machine
end

section
/-! PROOFS. CHOFF (R121, R447): what it refuses, and how it ends. -/

namespace Sys2Proof.Machine

/-! ## Words of the M and C engines -/

theorem engWord_ok {e : Eng} {body : M Unit} {s t : State} (h : body (s.setCtx (s.ctx.noLit e)) = .ok () t) :
    engWord e body s = .next (t.retired e 1).settled :=
  mcWord_ok ((M.bind_ok (modCtx_run _ s)).trans h)

theorem topN_run {e : Eng} {n : Nat} {s : State} (h : n ≤ (s.ctx.eng e).params.length) :
    topN e n s = .ok ((s.ctx.eng e).params.take n) s := by
  rw [topN, M.bind_ok (show stackOf e s = .ok (s.ctx.eng e).params s from rfl), if_neg (Nat.not_lt.2 h)]
  rfl

theorem drop_run (e : Eng) (n : Nat) (s : State) : drop e n s = .ok () (s.used e n) := rfl

theorem newOp_used (s : State) (kind : OpKind) (e : Eng) (n count : Nat) : newOp (s.used e n) kind e count = newOp s kind e count := by
  simp [newOp, State.used]

/-! ## What CHOFF finds (R121) -/

/-- The BSN and the conversion that a handle names. -/
def handleBsn (handle : Nat) : Nat := handle / 2 ^ 20 % 2 ^ 16
def handleConv (handle : Nat) : Nat := handle / 2 ^ 36 % 2 ^ 8

/-- The byte count, and with a raw image the cell, are such as R121 takes. -/
def HoEntry.takesSize (h : HoEntry) (handle bytes cell : Nat) : Prop :=
  if handleConv handle = 0 then 0 < bytes ∧ bytes ≤ 0x400000 ∧ cell % 128 = 0 ∧
    cell / 0x400000 = (cell + (bytes + 127) / 128 * 128 - 1) / 0x400000
  else bytes = 2 * blockTokens h (handleBsn handle) * h.heads * 256

/-- The BSN is above every one that the engine has accepted. -/
def HoEntry.isNext (h : HoEntry) (bsn : Nat) : Prop := ∀ l ∈ h.lastBsn, l < bsn

/-- What of a handle R121 looks at first: its reserved bits, its BSN and its conversion. -/
def HoEntry.takesHandle (h : HoEntry) (handle : Nat) : Prop :=
  handle < 2 ^ 44 ∧ handleBsn handle < h.layers * h.ntb ∧ (handleConv handle = 0 ∨ handleConv handle = h.conv)

section
variable {s : State} {n handle bytes cell : Nat} {h : HoEntry}

theorem choffRefusal_of_none (he : findEntry s n (BitVec.ofNat 20 handle) = none) :
    choffRefusal s n handle bytes cell = some 4 := by
  rw [choffRefusal, he]

/-- The BSN that an engine has accepted last is not below another. -/
def HoEntry.late (h : HoEntry) (bsn : Nat) : Bool :=
  match h.lastBsn with
  | some l => decide (bsn ≤ l)
  | none => false

theorem HoEntry.late_eq_false {bsn : Nat} : h.late bsn = false ↔ h.isNext bsn := by
  unfold HoEntry.late HoEntry.isNext
  cases h.lastBsn <;> simp

/-- The checks of R121 on a stream that the die knows, in their order. -/
theorem choffRefusal_of_some (he : findEntry s n (BitVec.ofNat 20 handle) = some h) : choffRefusal s n handle bytes cell =
    if 2 ^ 44 ≤ handle then some 1
    else if h.layers * h.ntb ≤ handleBsn handle then some 0
    else if handleConv handle ≠ 0 ∧ handleConv handle ≠ h.conv then some 1
    else if handleConv handle ≠ 0 ∧ bytes ≠ 2 * blockTokens h (handleBsn handle) * h.heads * 256 then some 1
    else if handleConv handle = 0 ∧ (bytes = 0 ∨ 0x400000 < bytes ∨ cell % 128 ≠ 0 ∨
      cell / 0x400000 ≠ (cell + (bytes + 127) / 128 * 128 - 1) / 0x400000) then some 1
    else if h.late (handleBsn handle) then some 0
    else none := by
  rw [choffRefusal, he]
  rfl

theorem choffRefusal_of_reserved (he : findEntry s n (BitVec.ofNat 20 handle) = some h) (hr : 2 ^ 44 ≤ handle) :
    choffRefusal s n handle bytes cell = some 1 := by
  rw [choffRefusal_of_some he, if_pos hr]

theorem choffRefusal_of_range (he : findEntry s n (BitVec.ofNat 20 handle) = some h) (hr : handle < 2 ^ 44)
    (hb : h.layers * h.ntb ≤ handleBsn handle) : choffRefusal s n handle bytes cell = some 0 := by
  rw [choffRefusal_of_some he, if_neg (Nat.not_le.2 hr), if_pos hb]

theorem choffRefusal_of_conv (he : findEntry s n (BitVec.ofNat 20 handle) = some h) (hr : handle < 2 ^ 44)
    (hb : handleBsn handle < h.layers * h.ntb) (hc : handleConv handle ≠ 0 ∧ handleConv handle ≠ h.conv) :
    choffRefusal s n handle bytes cell = some 1 := by
  rw [choffRefusal_of_some he, if_neg (Nat.not_le.2 hr), if_neg (Nat.not_le.2 hb), if_pos hc]

/-- Of a handle that R121 takes, the byte count and the cell are looked at next, and then the order. -/
theorem choffRefusal_of_handle (he : findEntry s n (BitVec.ofNat 20 handle) = some h) (hh : h.takesHandle handle) :
    (¬ h.takesSize handle bytes cell → choffRefusal s n handle bytes cell = some 1) ∧
    (h.takesSize handle bytes cell → choffRefusal s n handle bytes cell = if h.late (handleBsn handle) then some 0 else none) := by
  obtain ⟨hr, hb, hc⟩ := hh
  have hbad : ¬ (handleConv handle ≠ 0 ∧ handleConv handle ≠ h.conv) := fun hn => hc.elim hn.1 hn.2
  rw [choffRefusal_of_some he, if_neg (Nat.not_le.2 hr), if_neg (Nat.not_le.2 hb), if_neg hbad, HoEntry.takesSize]
  by_cases h0 : handleConv handle = 0
  · simp only [h0, ne_eq, not_true, false_and, if_false, true_and, if_true]
    constructor
    · intro hs
      rw [if_pos]
      omega
    · intro hs
      rw [if_neg]
      omega
  · simp only [h0, ne_eq, not_false_iff, false_and, if_false, true_and]
    exact ⟨fun hs => if_pos hs, fun hs => if_neg fun hn => hn hs⟩

theorem choffRefusal_of_size (he : findEntry s n (BitVec.ofNat 20 handle) = some h) (hh : h.takesHandle handle)
    (hs : ¬ h.takesSize handle bytes cell) : choffRefusal s n handle bytes cell = some 1 :=
  (choffRefusal_of_handle he hh).1 hs

theorem choffRefusal_of_order (he : findEntry s n (BitVec.ofNat 20 handle) = some h) (hh : h.takesHandle handle)
    (hs : h.takesSize handle bytes cell) (hl : ¬ h.isNext (handleBsn handle)) : choffRefusal s n handle bytes cell = some 0 :=
  ((choffRefusal_of_handle he hh).2 hs).trans (if_pos (by simpa using mt HoEntry.late_eq_false.1 hl))

theorem choffRefusal_of_taken (he : findEntry s n (BitVec.ofNat 20 handle) = some h) (hh : h.takesHandle handle)
    (hs : h.takesSize handle bytes cell) (hl : h.isNext (handleBsn handle)) : choffRefusal s n handle bytes cell = none :=
  ((choffRefusal_of_handle he hh).2 hs).trans (if_neg (by simp [HoEntry.late_eq_false.2 hl]))

end

theorem choffRefusal_of_bearings {s t : State} (h : s.bearings = t.bearings) (n handle bytes cell : Nat) :
    choffRefusal s n handle bytes cell = choffRefusal t n handle bytes cell := by
  rw [choffRefusal, choffRefusal, findEntry_of_bearings h]

theorem setHerr_order (s : State) (n : Nat) :
    setHerr s n 0 = s.modDie n fun d => { d with ho := { d.ho with order := true } } := rfl

theorem setHerr_conv (s : State) (n : Nat) :
    setHerr s n 1 = s.modDie n fun d => { d with ho := { d.ho with conv := true } } := rfl

theorem setHerr_proto (s : State) (n : Nat) :
    setHerr s n 4 = s.modDie n fun d => { d with ho := { d.ho with proto := true } } := rfl

/-! ## Acceptance (R123) -/

theorem State.modDie_modDie (s : State) (n : Nat) (f g : Die → Die) : (s.modDie n f).modDie n g = s.modDie n fun d => g (f d) := by
  have hset (d e : Die) : (s.setDie n d).setDie n e = s.setDie n e := by simp [State.setDie]
  rw [State.modDie, State.die_modDie_same]
  exact hset _ _

theorem spaceOf_window {pa : Nat} (h : 0x700000000000 ≤ pa ∧ pa < 0xB00000000000) :
    spaceOf pa = .remote ((pa - 0x700000000000) / 0x40000000000) ((pa - 0x700000000000) % 0x40000000000) := by
  unfold spaceOf padBase
  iterate 8 rw [if_neg (by omega)]
  rw [if_pos h.2]

theorem of_ite_eq {α : Type} {c : Prop} [Decidable c] {a b x : α} (h : (if c then a else b) = x) (ha : a ≠ x) : ¬ c ∧ b = x := by
  by_cases hc : c
  · exact absurd ((if_pos hc).symm.trans h) ha
  · exact ⟨hc, (if_neg hc).symm.trans h⟩

theorem window_of_spaceOf {pa w o : Nat} (h : spaceOf pa = .remote w o) : 0x700000000000 ≤ pa ∧ pa < 0xB00000000000 := by
  unfold spaceOf at h
  iterate 7 replace h := (of_ite_eq h nofun).2
  obtain ⟨hlow, h⟩ := of_ite_eq h nofun
  by_cases hhigh : pa < 0xB00000000000
  · exact ⟨Nat.not_lt.1 hlow, hhigh⟩
  · rw [if_neg hhigh] at h
    exact absurd (of_ite_eq h nofun).2 nofun

/-- The destination of a block: the stack of its layer, or where its cell lies in remote window w, 128 + w (notes/assumptions/24.md). -/
def blockDestination (h : HoEntry) (bsn cell : Nat) : Nat :=
  if 0x700000000000 ≤ cell ∧ cell < 0xB00000000000 then 128 + (cell - 0x700000000000) / 0x40000000000
  else (h.dests.getD (bsn / h.ntb) (0, false)).1

theorem blockDst_eq_blockDestination (h : HoEntry) (bsn cell : Nat) : blockDst h bsn cell = blockDestination h bsn cell := by
  by_cases hw : 0x700000000000 ≤ cell ∧ cell < 0xB00000000000
  · rw [blockDst, spaceOf_window hw, blockDestination, if_pos hw]
  · rw [blockDst, blockDestination, if_neg hw]
    split
    case h_1 w o hs => exact absurd (window_of_spaceOf hs) hw
    case h_2 => rfl

/-- The block that a hand-off operation queues. -/
def queuedBlock (h : HoEntry) (handle cell op : Nat) : SrcBlock :=
  { stream := h.stream, bsn := handleBsn handle, st := .queued, dst := blockDestination h (handleBsn handle) cell, cell := cell,
    conv := handleConv handle, op := op }

theorem acceptBlock_of_entry {s : State} {n handle cell : Nat} {h : HoEntry} {o : Op}
    (he : findEntry s n (BitVec.ofNat 20 handle) = some h) (hc : h.cancelled = false) (hn : o.nums = [handle, cell]) :
    acceptBlock s n o = s.modDie n fun d => { d with
      entries := mapSet d.entries (h.stream.toNat % 65536) { h with lastBsn := some (handleBsn handle) },
      srcs := d.srcs ++ [queuedBlock h handle cell o.id] } := by
  rw [acceptBlock]
  simp only [hn, List.getD_cons_zero, List.getD_cons_succ, he, hc, Bool.false_eq_true, if_false, blockDst_eq_blockDestination]
  exact State.modDie_modDie s n _ _

/-! ## How CHOFF ends -/

theorem joinSegs_single (g : Seg) : joinSegs [g] = [g] := rfl

/-- Parameter `i` of the C engine as a number, the top first. -/
def State.param (s : State) (i : Nat) : Nat := (s.ctx.c.params.getD i 0).toNat

/-- The state as a word of C other than a literal finds it (R308). -/
def State.atC (s : State) : State := s.setCtx (s.ctx.noLit .c)

/-- The state after a CHOFF whose body leaves `t`. -/
def choffEnds (t : State) : Host.Outcome State Fault Refusal := .next (t.retired .c 1).settled

/-- The operation that a CHOFF of the turn forms with a source that has been translated. -/
def handOff (s t : State) (src : List Seg) : Op :=
  { newOp t .handoff .c (s.param 2) with src := src, nums := [s.param 0, s.param 3] }

theorem handOff_used (s t : State) (src : List Seg) (n : Nat) : handOff s (t.used .c n) src = handOff s t src := by
  rw [handOff, newOp_used, handOff]

@[simp] theorem bearings_atC (s : State) : s.atC.bearings = s.bearings := bearings_setCtx s _

section
variable {s : State}

theorem params_atC (s : State) : (s.atC.ctx.eng .c).params = s.ctx.c.params := by
  rw [State.atC, State.ctx_setCtx]
  rfl

theorem topN_atC (hp : 4 ≤ s.ctx.c.params.length) : topN .c 4 s.atC = .ok (s.ctx.c.params.take 4) s.atC := by
  rw [topN_run (by rwa [params_atC]), params_atC]

/-- Of the parameters that CHOFF takes off each is the C engine's. -/
theorem getD_take_params (s : State) :
    (s.ctx.c.params.take 4).getD 0 0 = s.ctx.c.params.getD 0 0 ∧ (s.ctx.c.params.take 4).getD 1 0 = s.ctx.c.params.getD 1 0 ∧
      (s.ctx.c.params.take 4).getD 2 0 = s.ctx.c.params.getD 2 0 ∧ (s.ctx.c.params.take 4).getD 3 0 = s.ctx.c.params.getD 3 0 := by
  simp [List.getD]

/-- The site whose hand-off engine takes a CHOFF of the turn. -/
def State.engineSite (s : State) : Nat := siteOf s.turn

/-- The entry of the stream that a CHOFF of the turn names. -/
def State.handOffEntry (s : State) : Option HoEntry := findEntry s s.engineSite (BitVec.ofNat 20 (s.param 0))

/-- What R121 finds of the parameters of a CHOFF of the turn. -/
def State.handOffFault (s : State) : Option Nat := choffRefusal s s.engineSite (s.param 0) (s.param 2) (s.param 3)

/-- The source of a CHOFF of the turn, translated. -/
def State.handOffSource (s : State) : M (List Seg) := segsOf (s.ctx.c.params.getD 1 0) (s.param 2) aSrc

/-- What CHOFF does with its parameters: refuses by R121 or for a source that R428 forbids, or launches and accepts. -/
def handOffBody (s : State) : M Unit :=
  match s.handOffFault with
  | some bit => do
    drop .c 4
    modify fun t => refuse (setHerr t s.engineSite bit) .c (s.param 2) 1
  | none => do
    let src ← s.handOffSource
    drop .c 4
    let t ← get
    if src.any (badSrc t) then modify fun t => refuse t .c (s.param 2) 1
    else modify fun u => acceptBlock (launchOp u (handOff s t (joinSegs src))) s.engineSite (handOff s t (joinSegs src))

theorem exec_choff_of_body {t : State} (hp : 4 ≤ s.ctx.c.params.length) (h : handOffBody s s.atC = .ok () t) :
    exec .choff s = choffEnds t := by
  obtain ⟨h0, h1, h2, h3⟩ := getD_take_params s
  show execChoff s = _
  refine engWord_ok ((M.bind_ok (topN_atC hp)).trans ?_)
  simp only [h0, h1, h2, h3]
  refine (M.bind_ok (M.get_run _)).trans ?_
  rw [choffRefusal_of_bearings (bearings_atC s)]
  exact h

theorem exec_choff_of_fault {bit : Nat} (hp : 4 ≤ s.ctx.c.params.length) (h : s.handOffFault = some bit) :
    exec .choff s = choffEnds (refuse (setHerr (s.atC.used .c 4) s.engineSite bit) .c (s.param 2) 1) := by
  refine exec_choff_of_body hp ?_
  rw [handOffBody, h]
  rfl

/-- A CHOFF that R121 refuses: its parameters are popped, an error bit is set, and its bytes arrive with the launch error. -/
def choffRefused (s : State) (f : HoRegs → HoRegs) : Host.Outcome State Fault Refusal :=
  choffEnds (refuse ((s.atC.used .c 4).modDie s.engineSite fun d => { d with ho := f d.ho }) .c (s.param 2) 1)

theorem exec_choff_of_orderFault (hp : 4 ≤ s.ctx.c.params.length) (h : s.handOffFault = some 0) :
    exec .choff s = choffRefused s fun r => { r with order := true } := by
  rw [exec_choff_of_fault hp h, setHerr_order, choffRefused]

theorem exec_choff_of_convFault (hp : 4 ≤ s.ctx.c.params.length) (h : s.handOffFault = some 1) :
    exec .choff s = choffRefused s fun r => { r with conv := true } := by
  rw [exec_choff_of_fault hp h, setHerr_conv, choffRefused]

theorem exec_choff_of_protoFault (hp : 4 ≤ s.ctx.c.params.length) (h : s.handOffFault = some 4) :
    exec .choff s = choffRefused s fun r => { r with proto := true } := by
  rw [exec_choff_of_fault hp h, setHerr_proto, choffRefused]

/-- A source that R428 forbids refuses the launch; else the operation starts, and its block is accepted. -/
theorem exec_choff_of_source {t : State} {src : List Seg} (hp : 4 ≤ s.ctx.c.params.length) (h : s.handOffFault = none)
    (hs : s.handOffSource s.atC = .ok src t) :
    exec .choff s = choffEnds (if src.any (badSrc t) then refuse (t.used .c 4) .c (s.param 2) 1
      else acceptBlock (launchOp (t.used .c 4) (handOff s t (joinSegs src))) s.engineSite (handOff s t (joinSegs src))) := by
  refine exec_choff_of_body hp ?_
  rw [handOffBody, h]
  refine (M.bind_ok hs).trans ?_
  rw [M.bind_ok (drop_run .c 4 t), M.bind_ok (M.get_run _), badSrc_of_bearings (bearings_used t .c 4), handOff_used]
  split <;> rfl

theorem exec_choff_of_badSource {t : State} {src : List Seg} (hp : 4 ≤ s.ctx.c.params.length) (h : s.handOffFault = none)
    (hs : s.handOffSource s.atC = .ok src t) (hb : src.any (badSrc t) = true) :
    exec .choff s = choffEnds (refuse (t.used .c 4) .c (s.param 2) 1) := by
  rw [exec_choff_of_source hp h hs, if_pos hb]

/-- The end of a CHOFF that launches its operation from the state `t`: its block is QUEUED, and its BSN the highest accepted. -/
def choffLaunched (s t : State) (h : HoEntry) (src : List Seg) : Host.Outcome State Fault Refusal :=
  choffEnds ((launchOp (t.used .c 4) (handOff s t src)).modDie s.engineSite fun d => { d with
    entries := mapSet d.entries (h.stream.toNat % 65536) { h with lastBsn := some (handleBsn (s.param 0)) },
    srcs := d.srcs ++ [queuedBlock h (s.param 0) (s.param 3) (handOff s t src).id] })

theorem exec_choff_of_goodSource {t : State} {src : List Seg} {h : HoEntry} (hp : 4 ≤ s.ctx.c.params.length)
    (hf : s.handOffFault = none) (hs : s.handOffSource s.atC = .ok src t) (hb : src.any (badSrc t) = false)
    (he : s.handOffEntry = some h) (hc : h.cancelled = false) : exec .choff s = choffLaunched s t h (joinSegs src) := by
  have hkept : (launchOp (t.used .c 4) (handOff s t (joinSegs src))).bearings = s.bearings := by
    rw [bearings_launchOp, bearings_used, bearings_segsGo hs, bearings_atC]
  rw [exec_choff_of_source hp hf hs, if_neg (by simp [hb]),
    acceptBlock_of_entry ((findEntry_of_bearings hkept _ _).trans he) hc rfl, choffLaunched]

/-- A source within one page needs no more than that the page translates and may be read. -/
theorem exec_choff_of_page {l : Leaf} {h : HoEntry} (hp : 4 ≤ s.ctx.c.params.length) (hf : s.handOffFault = none)
    (hl : translateHere s.atC (s.ctx.c.params.getD 1 0) aSrc = .ok l) (h0 : 0 < s.param 2)
    (h64 : s.param 1 % 65536 + s.param 2 ≤ 65536) (hb : badSrc s.atC ⟨l.pa, s.param 2, l.cls, l.defer⟩ = false)
    (he : s.handOffEntry = some h) (hc : h.cancelled = false) :
    exec .choff s = choffLaunched s (noteLeaf s.atC (s.ctx.c.params.getD 1 0) l) h [⟨l.pa, s.param 2, l.cls, l.defer⟩] := by
  have hgood : [⟨l.pa, s.param 2, l.cls, l.defer⟩].any (badSrc (noteLeaf s.atC (s.ctx.c.params.getD 1 0) l)) = false := by
    rw [badSrc_of_bearings (bearings_noteLeaf _ _ l), List.any_cons, hb, List.any_nil, Bool.or_false]
  rw [exec_choff_of_goodSource hp hf (segsOf_of_page hl h0 h64) hgood he hc, joinSegs_single]

end

theorem ok_of_got {α : Type} {m : M α} {s t : State} {a : α} (h : got m s = some (a, t)) : m s = .ok a t := by
  unfold got at h
  split at h
  · cases h
    assumption
  · cases h

end Sys2Proof.Machine
end

section
/-! PROOFS. The obligation about CHOFF, from the rules above. -/

namespace Sys2Proof.Machine

/-- Settles O41: what R121 finds sets its HERR bit and refuses the launch, and what it takes becomes a block of the engine. -/
theorem handOffWordLaunchesABlock : Obligations.HandOffWordLaunchesABlock := by
  refine fun s hp => ⟨fun he => ?unknown, fun h he => ⟨fun hr => ?reserved, fun hr hb => ?range,
    fun hr hb => ⟨fun hc => ?conv, fun hc => ?taken⟩⟩⟩
  case unknown => exact exec_choff_of_protoFault hp (choffRefusal_of_none he)
  case reserved => exact exec_choff_of_convFault hp (choffRefusal_of_reserved he hr)
  case range => exact exec_choff_of_orderFault hp (choffRefusal_of_range he hr hb)
  case conv => exact exec_choff_of_convFault hp (choffRefusal_of_conv he hr hb hc)
  case taken =>
    have hh : h.takesHandle (s.param 0) := ⟨hr, hb, hc⟩
    refine ⟨fun hs => ?size, fun hs => ⟨fun hl => ?order, fun hl => ?accepted⟩⟩
    case size => exact exec_choff_of_convFault hp (choffRefusal_of_size he hh hs)
    case order => exact exec_choff_of_orderFault hp (choffRefusal_of_order he hh hs hl)
    case accepted =>
      have hf : s.handOffFault = none := choffRefusal_of_taken he hh hs hl
      refine ⟨fun src t hgot => ⟨fun hg => ?forbidden, fun hg hc => ?launched⟩, fun l htr h0 h64 hg hc => ?page⟩
      case forbidden => exact exec_choff_of_badSource hp hf (ok_of_got hgot) hg
      case launched => exact exec_choff_of_goodSource hp hf (ok_of_got hgot) hg he hc
      case page => exact exec_choff_of_page hp hf htr h0 h64 hg he hc

end Sys2Proof.Machine
end

section
/-! PROOFS. T words that close the windows of T (R244): what they read and write when their registers are at hand. -/

namespace Sys2Proof.Machine

variable {s : State} {n : Nat}

@[simp] theorem ctx_closeWindow (s : State) : (closeWindow s).ctx = s.ctx.closed := State.ctx_setCtx s _

/-- Whether a trap waits goes by the core's accesses, not by its context (R254). -/
theorem awaits_setCtx (s : State) (c : Ctx) (e : Eng) : (s.setCtx c).awaits e = s.awaits e := by
  have h : ((s.setCtx c).core s.turn).ahead = (s.core s.turn).ahead := by rw [State.core_setCtx]
  rw [State.awaits, State.setCtx_turn, h]
  rfl

theorem tWordClosing_trap {k : Nat} {body : M Unit} {t : State} {c : Nat} {a i : Word}
    (h : body (closeWindow s) = .error (.trap c a i) t) (hw : s.awaits .t = false) :
    tWordClosing k body s = .next ((closeWindow s).trapped t 0 c a i).settled :=
  tWord_trap h ((awaits_setCtx s _ .t).trans hw)

theorem rdV_x_closed (h : s.ctx.xReady n = true) (b : Bool) :
    rdV.x n b (closeWindow s) = .ok (s.ctx.regX n).val (closeWindow s) := by
  have hr : (closeWindow s).ctx.xReady n = true := by rwa [ctx_closeWindow]
  refine (readX_ready hr).trans ?_
  rw [ctx_closeWindow]
  rfl

theorem xWritable_closed {c : Ctx} (h : c.xWritable n = true) : c.closed.xWritable n = true := h

theorem rdV_xprep (h : s.ctx.xWritable n = true) : rdV.xprep n s = .ok () s := by
  by_cases h0 : n = 0
  · rw [h0]
    rfl
  · exact (congrFun (if_neg h0) s).trans (prepWrite_ok (by simpa [Ctx.xWritable, h0] using h))

/-- A write to a scalar register, x0 or not, changes at most the context. -/
theorem writeX_sets {r : Nat → M Unit} {v : Word} (h : s.ctx.xWritable n = true) :
    ∃ t, writeX r n v s = .ok () t ∧ t.ctx = s.ctx.putX n v ∧ ∀ c, t.setCtx c = s.setCtx c := by
  by_cases h0 : n = 0
  · subst h0
    exact ⟨s, writeX_zero, rfl, fun _ => rfl⟩
  · exact ⟨_, writeX_ready h h0, State.ctx_setCtx s _, fun c => State.setCtx_setCtx s _ c⟩

theorem mem_recipes_unbind {c : Ctx} {k : Kind} {e : Nat × Recipe} (h : e ∈ (unbind c k n).recipes) : e ∈ c.recipes := by
  unfold unbind at h
  split at h
  · exact h
  · exact (List.mem_filter.1 h).1

/-- A register that has been written is FULL with no producer pending; the others are as they were. -/
theorem regX_putX (c : Ctx) (n m : Nat) (v : Word) :
    (c.putX n v).regX m = if n ≠ 0 ∧ m = n then { val := v } else c.regX m := by
  by_cases hn : n = 0
  · simp [Ctx.putX, hn]
  · by_cases hm : m = n
    · simp [Ctx.putX, Ctx.regX, hn, hm]
    · simp [Ctx.putX, Ctx.regX, hn, hm, mapGet_mapSet_other _ _ _ _ _ hm]

theorem fill_putX_dropped {c : Ctx} {v : Word} {k : Kind} {m : Nat} (h : (c.putX n v).fill k m = .dropped) :
    c.fill k m = .dropped := by
  cases k with
  | x =>
    rw [Ctx.fill, regX_putX] at h
    split at h
    · cases h
    · exact h
  | v =>
    rw [← h, Ctx.putX]
    split
    · rfl
    · rw [unbind]
      split <;> rfl
  | p =>
    rw [← h, Ctx.putX]
    split
    · rfl
    · rw [unbind]
      split <;> rfl

/-- A write of a scalar register takes from no other that it may be written at once. -/
theorem xWritable_putX {c : Ctx} {m : Nat} (v : Word) (h : c.xWritable m = true) : (c.putX n v).xWritable m = true := by
  by_cases hn : n = 0
  · rwa [hn, putX_zero]
  simp only [Ctx.xWritable, Ctx.writable, Bool.or_eq_true, Bool.and_eq_true, Bool.not_eq_true', beq_iff_eq] at h ⊢
  refine h.imp_right fun ⟨hpend, hpins⟩ => ⟨?_, ?_⟩
  · rw [Ctx.pending, regX_putX]
    split
    · rfl
    · exact hpend
  · rw [List.any_eq_false] at hpins ⊢
    intro e he hd
    simp only [Bool.and_eq_true, beq_iff_eq] at hd
    have he' : e ∈ c.recipes := mem_recipes_unbind (by rwa [Ctx.putX, if_neg hn] at he)
    exact hpins e he' (by rw [hd.1, fill_putX_dropped hd.2]; rfl)

end Sys2Proof.Machine
end

section
/-! PROOFS. Range units (R147, R422, R423). -/

namespace Sys2Proof.Machine

variable {f : VForm} {s : State}

/-- The die of the turn with a range unit set. -/
def State.setRange (s : State) (j : Nat) (u : RangeUnit) : State :=
  s.modDie (siteOf s.turn) fun k => { k with ranges := mapSet k.ranges j u }

/-- The range unit that RGINIT sets; a minimum and a divisor of 0 count as 1 (R422). -/
def rangeUnit (a b d : Word) : RangeUnit :=
  { next := a.truncate 48, remain := b.truncate 48, minc := if d.truncate 16 = (0 : BitVec 16) then 1 else d.truncate 16,
    pdiv := if d.extractLsb' 16 12 = 0 then 1 else d.extractLsb' 16 12, takes := 0 }

theorem ofNat_zero_counts_one {w : Nat} (x : BitVec w) :
    BitVec.ofNat w (if x.toNat = 0 then 1 else x.toNat) = if x = 0 then 1 else x := by
  by_cases h : x = 0
  · simp [h]
  · have hn : x.toNat ≠ 0 := fun h0 => h (BitVec.eq_of_toNat_eq h0)
    rw [if_neg h, if_neg hn, BitVec.ofNat_toNat, BitVec.setWidth_eq]

theorem rangeUnit_eq (a b d : Word) : rangeUnit a b d = ⟨a.truncate 48, b.truncate 48,
    BitVec.ofNat 16 (if bits d.toNat 15 0 = 0 then 1 else bits d.toNat 15 0),
    BitVec.ofNat 12 (if bits d.toNat 27 16 = 0 then 1 else bits d.toNat 27 16), 0⟩ := by
  have hlow : bits d.toNat 15 0 = (d.truncate 16).toNat := by simp [bits]
  have hhigh : bits d.toNat 27 16 = (d.extractLsb' 16 12).toNat := by simp [bits, Nat.shiftRight_eq_div_pow]
  rw [hlow, hhigh, ofNat_zero_counts_one, ofNat_zero_counts_one, rangeUnit]

/-- The operands of RGINIT lie in the range of R422. -/
def rangeOperandsOk (a b d : Word) : Prop := a.toNat < 2 ^ 48 ∧ b.toNat < 2 ^ 48 ∧ d.toNat < 2 ^ 28

theorem exec_rginit_of_ok (ha : s.ctx.xReady f.a.toNat = true) (hb : s.ctx.xReady f.b.toNat = true)
    (hd : s.ctx.xReady f.d.toNat = true)
    (hr : rangeOperandsOk (s.ctx.regX f.a.toNat).val (s.ctx.regX f.b.toNat).val (s.ctx.regX f.d.toNat).val) :
    exec (.rginit f) s = .next (((closeWindow s).setRange f.fn8.toNat
      (rangeUnit (s.ctx.regX f.a.toNat).val (s.ctx.regX f.b.toNat).val (s.ctx.regX f.d.toNat).val)).retired .t 4).settled := by
  obtain ⟨ha', hb', hd'⟩ := hr
  rw [rangeUnit_eq]
  show execRginit f s = _
  refine tWordClosing_ok ((M.bind_ok (rdV_x_closed ha _)).trans ((M.bind_ok (rdV_x_closed hb _)).trans
    ((M.bind_ok (rdV_x_closed hd _)).trans ?_)))
  rw [if_neg (by simp only [ge_iff_le, Bool.or_eq_true, decide_eq_true_eq]; omega)]
  rfl

theorem exec_rginit_of_bad (ha : s.ctx.xReady f.a.toNat = true) (hb : s.ctx.xReady f.b.toNat = true)
    (hd : s.ctx.xReady f.d.toNat = true) (hw : s.awaits .t = false)
    (hr : ¬ rangeOperandsOk (s.ctx.regX f.a.toNat).val (s.ctx.regX f.b.toNat).val (s.ctx.regX f.d.toNat).val) :
    exec (.rginit f) s = .next ((closeWindow s).trapped (closeWindow s) 0 0x03 0 5).settled := by
  rw [rangeOperandsOk] at hr
  show execRginit f s = _
  refine tWordClosing_trap ((M.bind_ok (rdV_x_closed ha _)).trans ((M.bind_ok (rdV_x_closed hb _)).trans
    ((M.bind_ok (rdV_x_closed hd _)).trans ?_))) hw
  rw [if_pos (by simp only [ge_iff_le, Bool.or_eq_true, decide_eq_true_eq]; omega)]
  rfl

/-- A take of a range unit: the greater of the minimum and the share, at most what remains (R147). -/
def RangeUnit.takeLen (u : RangeUnit) : Nat :=
  min (max u.minc.toNat ((u.remain.toNat + u.pdiv.toNat - 1) / u.pdiv.toNat)) u.remain.toNat

def RangeUnit.afterTake (u : RangeUnit) : RangeUnit :=
  { u with next := u.next + BitVec.ofNat 48 u.takeLen, remain := u.remain - BitVec.ofNat 48 u.takeLen, takes := u.takes + 1 }

theorem rangeTake_eq (u : RangeUnit) : rangeTake u = (u.next.toNat, u.takeLen, u.afterTake) := rfl

theorem exec_rgtake {u : RangeUnit} (hu : mapGet {} (s.die (siteOf s.turn)).ranges f.fn8.toNat = u)
    (hd : s.ctx.xWritable f.d.toNat = true) (hd' : s.ctx.xWritable (f.d.toNat + 1) = true) :
    exec (.rgtake f) s = .next (((closeWindow s).setRange f.fn8.toNat u.afterTake).wordDone 4
      ((s.ctx.closed.putX f.d.toNat (u.next.zeroExtend 64)).putX (f.d.toNat + 1) (BitVec.ofNat 64 u.takeLen))) := by
  have hprep (n : Nat) (h : s.ctx.xWritable n = true) : rdV.xprep n (closeWindow s) = .ok () (closeWindow s) :=
    rdV_xprep (by rw [ctx_closeWindow]; exact xWritable_closed h)
  have hctx : ((closeWindow s).setRange f.fn8.toNat u.afterTake).ctx = s.ctx.closed := ctx_closeWindow s
  have hu' : mapGet {} ((closeWindow s).die (siteOf (closeWindow s).turn)).ranges f.fn8.toNat = u := hu
  have hstart : BitVec.ofNat 64 u.next.toNat = u.next.zeroExtend 64 := by simp
  obtain ⟨t, ht, htctx, htset⟩ := writeX_sets (r := replay) (s := (closeWindow s).setRange f.fn8.toNat u.afterTake)
    (n := f.d.toNat) (v := BitVec.ofNat 64 u.next.toNat) (by rw [hctx]; exact xWritable_closed hd)
  have hlast : writeX replay (f.d.toNat + 1) (BitVec.ofNat 64 u.takeLen) t = .ok () (t.setCtx (t.ctx.putX _ _)) :=
    writeX_ready (by rw [htctx, hctx]; exact xWritable_putX _ (xWritable_closed hd')) (Nat.succ_ne_zero _)
  rw [htset, htctx, hctx, hstart] at hlast
  show execRgtake f s = _
  refine tWordClosing_ok ((M.bind_ok (hprep _ hd)).trans ((M.bind_ok (hprep _ hd')).trans ((M.bind_ok (M.get_run _)).trans ?_)))
  rw [hu', rangeTake_eq]
  exact (M.bind_ok (M.set_run _ _)).trans ((M.bind_ok ht).trans hlast)

end Sys2Proof.Machine
end

section
/-! PROOFS. Stream bindings (R424, R425, Table 17-9). -/

namespace Sys2Proof.Machine

variable {f : VForm} {s : State}

theorem exec_sunbind (f : VForm) (s : State) :
    exec (.sunbind f) s = .next (s.wordDone 4 { s.ctx.closed with streams := mapDel s.ctx.closed.streams f.fn8.toNat }) := by
  show execSunbind f s = _
  refine tWordClosing_ok ((modCtx_run _ _).trans ?_)
  rw [ctx_closeWindow, closeWindow, State.setCtx_setCtx]

/-- Table 17-9. -/
theorem streamState_some (q : Stream) : streamState (some q) =
    1 + (if q.write then 2 else 0) + (if q.pos = q.c0 * q.c1 * q.c2 then 4 else 0) + 256 * min q.pos (2 ^ 56 - 1) := by
  have hend : 4 * b2n (q.pos == q.total) = if q.pos = q.c0 * q.c1 * q.c2 then 4 else 0 := by
    rw [← Stream.total]
    by_cases h : q.pos = q.total <;> simp [h, b2n]
  have hdir : 2 * b2n q.write = if q.write then 2 else 0 := by cases q.write <;> rfl
  rw [streamState, hend, hdir]

theorem exec_sstat (h : s.ctx.xWritable f.d.toNat = true) :
    exec (.sstat f) s = .next (s.wordDone 4
      (s.ctx.closed.putX f.d.toNat (BitVec.ofNat 64 (streamState (mapFind s.ctx.closed.streams f.fn8.toNat))))) := by
  have hd : (closeWindow s).ctx.xWritable f.d.toNat = true := by rw [ctx_closeWindow]; exact xWritable_closed h
  obtain ⟨t, ht, hret⟩ := retired_writeX (r := replay)
    (v := BitVec.ofNat 64 (streamState (mapFind s.ctx.closed.streams f.fn8.toNat))) hd .t 4
  rw [ctx_closeWindow, closeWindow, State.setCtx_setCtx] at hret
  show execSstat f s = _
  rw [State.wordDone, ← hret]
  refine tWordClosing_ok ((M.bind_ok (curCtx_run _)).trans ?_)
  rw [ctx_closeWindow]
  exact ht

/-- What SBIND does with the bytes of a descriptor. -/
def bindPort (f : VForm) : Option Stream → M Unit
  | none => badValue 5
  | some q => modCtx fun c => { c with streams := mapSet c.streams f.fn8.toNat q }

/-- SBIND as it reads its descriptor (R424). -/
def sbindBody (f : VForm) : M Unit := do
  let a ← readXa rdV f
  if a.toNat ≥ 2 ^ 56 then trap 0x10 a 128
  if a.toNat % 16 != 0 then trap 0x12 a 0
  let ps ← descPieces a 3
  let bs ← tAccess 4 { act := .load, pieces := ps } .again
  bindPort f (streamOf bs)

theorem execSbind_eq (f : VForm) (s : State) : execSbind f s = tWordClosing 4 (sbindBody f) s := by
  rw [execSbind, sbindBody]
  rfl

/-- The descriptor of the SBIND `f` has been read: its bytes are `bs`, and reading it has left the state `t`. -/
structure SbindReads (f : VForm) (s : State) (bs : List Byte) (t : State) : Prop where
  ready : s.ctx.xReady f.a.toNat = true
  range : (s.ctx.regX f.a.toNat).val.toNat < 2 ^ 56
  aligned : (s.ctx.regX f.a.toNat).val.toNat % 16 = 0
  load : ∃ ps t0, descPieces (s.ctx.regX f.a.toNat).val 3 (closeWindow s) = .ok ps t0 ∧
    tAccess 4 { act := .load, pieces := ps } .again t0 = .ok bs t

theorem SbindReads.body {t : State} {bs : List Byte} (h : SbindReads f s bs t) :
    sbindBody f (closeWindow s) = bindPort f (streamOf bs) t := by
  obtain ⟨hready, hrange, haligned, ps, t0, hps, hbs⟩ := h
  refine (M.bind_ok (rdV_x_closed hready _)).trans ?_
  rw [if_neg (Nat.not_le.2 hrange), if_neg (by simp [haligned])]
  exact (M.bind_ok hps).trans (M.bind_ok hbs)

theorem exec_sbind_of_stream {t : State} {bs : List Byte} {q : Stream} (h : SbindReads f s bs t) (hq : streamOf bs = some q) :
    exec (.sbind f) s = .next (t.wordDone 4 { t.ctx with streams := mapSet t.ctx.streams f.fn8.toNat q }) := by
  show execSbind f s = _
  refine (execSbind_eq f s).trans (tWordClosing_ok (h.body.trans ?_))
  rw [hq, bindPort, modCtx_run]

theorem exec_sbind_of_malformed {t : State} {bs : List Byte} (h : SbindReads f s bs t) (hq : streamOf bs = none)
    (hw : s.awaits .t = false) : exec (.sbind f) s = .next ((closeWindow s).trapped t 0 0x03 0 5).settled := by
  show execSbind f s = _
  refine (execSbind_eq f s).trans (tWordClosing_trap (h.body.trans ?_) hw)
  rw [hq]
  rfl

end Sys2Proof.Machine
end

section
/-! PROOFS. The obligation about range units and stream bindings, from the rules above. -/

namespace Sys2Proof.Machine

/-- Settles O26: the operands or the bytes of the descriptor decide between the word's result and its trap. -/
theorem rangeAndStreamWordsUseTheirUnits : Obligations.RangeAndStreamWordsUseTheirUnits := by
  refine fun f s => ⟨fun ha hb hd => ⟨fun hr => exec_rginit_of_ok ha hb hd hr, fun hr hw => ?bad⟩,
    fun hd hd' => exec_rgtake rfl hd hd', exec_sunbind f s, fun h => ?state, fun ha h56 h16 ps bs t0 t hps hbs hc => ?bind⟩
  case bad =>
    refine exec_rginit_of_bad ha hb hd hw fun ⟨h1, h2, h3⟩ => ?_
    omega
  case state =>
    rw [exec_sstat h]
    cases hq : mapFind s.ctx.closed.streams f.fn8.toNat with
    | none => rfl
    | some q => rw [streamState_some]
  case bind =>
    have hread : SbindReads f s bs t := ⟨ha, h56, h16, ps, t0, ok_of_got hps, ok_of_got hbs⟩
    refine ⟨fun q hq => ?_, fun hq hw => exec_sbind_of_malformed hread hq hw⟩
    rw [exec_sbind_of_stream hread hq, hc]

end Sys2Proof.Machine
end

section
/-! PROOFS. Words of the M engine that go into the tile queue: how such a word starts and what stops it (R150, R428). -/

namespace Sys2Proof.Machine

theorem engWord_trap {e : Eng} {body : M Unit} {s t : State} {c : Nat} {a i : Word}
    (h : body (s.setCtx (s.ctx.noLit e)) = .error (.trap c a i) t) (hw : s.awaits e = false) :
    engWord e body s = .next (s.trapped t (engCode e) c a i).settled :=
  mcWord_trap ((M.bind_ok (modCtx_run _ s)).trans h) hw

theorem engWord_stall {e : Eng} {body : M Unit} {s t : State} (h : body (s.setCtx (s.ctx.noLit e)) = .error .stall t) :
    engWord e body s = .next (noteStall s) :=
  mcWord_stall ((M.bind_ok (modCtx_run _ s)).trans h)

theorem getD_take {n i : Nat} (l : List Word) (h : i < n) : (l.take n).getD i 0 = l.getD i 0 := by
  simp [List.getD, h]

end Sys2Proof.Machine
end

section
/-! PROOFS. MMMA and MMVA (R428, R432, R433, R436). -/

namespace Sys2Proof.Machine

/-- The state as MMMA and MMVA find it: SRSEED and SRCTR are those that T has committed (R254). -/
def State.atMatrix (s : State) : State := (s.setCtx (s.ctx.noLit .m)).modCore s.turn Core.unwind

theorem m_unwind (k : Core) : k.unwind.ctx.m = k.ctx.m := by
  unfold Core.unwind
  split <;> rfl

theorem params_atMatrix (s : State) : (s.atMatrix.ctx.eng .m).params = s.ctx.m.params := by
  have hk : s.atMatrix.ctx = ((s.setCtx (s.ctx.noLit .m)).core s.turn).unwind.ctx :=
    congrArg Core.ctx (State.core_modCore_same _ _ _)
  show s.atMatrix.ctx.m.params = _
  rw [hk, m_unwind, State.core_setCtx]
  rfl

/-- What MMMA and MMVA do with what their checks have found. -/
def TileVerdict.ends (t : State) (key : Nat) (g : Geo) : TileVerdict → State
  | .refused code => refuse (t.used .m 4) .m g.count code
  | .launch o r sr =>
    let t' := enterTile (launchOp (t.used .m 4) o) t.turn key r
    if sr then t'.setCtx { t'.ctx with srctr := t'.ctx.srctr + BitVec.ofNat 64 (g.m * g.n) } else t'

section
variable {mmma : Bool} {slot : BitVec 4} {ea mc acc : BitVec 1} {s : State}

theorem matrixWord_of_otherDie (h : isP (siteOf s.turn) ≠ mmma) (hw : s.awaits .m = false) :
    matrixWord mmma slot ea mc acc s = .next (s.trapped s.atMatrix 1 0x01 0 0).settled := by
  refine engWord_trap ((M.bind_ok (modCur_run _ _)).trans ((M.bind_ok (M.get_run _)).trans ?_)) hw
  have hd : (mmma != isP (siteOf s.atMatrix.turn)) = true := bne_iff_ne.2 h.symm
  exact congrFun (if_pos hd) s.atMatrix

theorem own_die (h : isP (siteOf s.turn) = mmma) : ¬ (mmma != isP (siteOf s.atMatrix.turn)) = true := by
  show ¬ (mmma != isP (siteOf s.turn)) = true
  simp [h]

theorem matrixWord_of_full (h : isP (siteOf s.turn) = mmma) (hf : freeTile s.atMatrix s.turn = none) :
    matrixWord mmma slot ea mc acc s = .next (noteStall s) := by
  refine engWord_stall (t := s.atMatrix) ((M.bind_ok (modCur_run _ _)).trans ((M.bind_ok (M.get_run _)).trans
    ((congrFun (if_neg (own_die h)) s.atMatrix).trans ?_)))
  split
  · rfl
  · next he => cases hf.symm.trans he

theorem matrixWord_of_verdict {key : Nat} {v : TileVerdict} {t : State} (h : isP (siteOf s.turn) = mmma)
    (hf : freeTile s.atMatrix s.turn = some key) (hp : 4 ≤ s.ctx.m.params.length)
    (hv : matrixChecks mmma slot ea mc acc key (s.ctx.m.params.take 4) s.atMatrix = .ok v t) :
    matrixWord mmma slot ea mc acc s =
      .next ((v.ends t key (geoOf mmma (s.ctx.m.params.getD 0 0))).retired .m 1).settled := by
  have htop : topN .m 4 s.atMatrix = .ok (s.ctx.m.params.take 4) s.atMatrix := by
    rw [topN_run (by rwa [params_atMatrix]), params_atMatrix]
  refine engWord_ok ((M.bind_ok (modCur_run _ _)).trans ((M.bind_ok (M.get_run _)).trans
    ((congrFun (if_neg (own_die h)) s.atMatrix).trans ?_)))
  split
  · next he => cases hf.symm.trans he
  · next key' he =>
    obtain rfl : key = key' := Option.some.inj (hf.symm.trans he)
    refine (M.bind_ok htop).trans ((M.bind_ok hv).trans ((M.bind_ok (drop_run .m 4 t)).trans ?_))
    rw [getD_take _ (Nat.zero_lt_succ 3)]
    cases v with
    | refused code => rfl
    | launch o r sr => cases sr <;> rfl

end

theorem exec_of_matrix {slot : BitVec 4} {ea mc acc : BitVec 1} {i : Instr} {mmma : Bool}
    (h : (i, mmma) ∈ [(Instr.mmma slot ea mc acc, true), (.mmva slot ea mc acc, false)]) (s : State) :
    exec i s = matrixWord mmma slot ea mc acc s := by
  simp only [List.mem_cons, List.not_mem_nil, or_false, Prod.mk.injEq] at h
  obtain ⟨rfl, rfl⟩ | ⟨rfl, rfl⟩ := h <;> rfl

end Sys2Proof.Machine
end

section
/-! PROOFS. MSWPW (R154, R428, R437). -/

namespace Sys2Proof.Machine

/-- The state as a word of M other than a literal finds it (R308). -/
def State.atM (s : State) : State := s.setCtx (s.ctx.noLit .m)

/-- The marker of MSWPW with pair `p`, barrier `bar` and the phase found there. -/
def markerTask (s : State) (p : Word) (bar : Option Nat) (phase : Bool) : TileTask :=
  { noTile with w := p, bar := bar, core := s.turn, task := BitVec.ofNat 12 (taskIndex s.ctx.taskid), kind := 2, phase := phase }

/-- The operands of MSWPW are bad as they stand: no such pair, or a misaligned address of a barrier. -/
def BadMarker (b p : Word) : Prop := 8 ≤ p.toNat ∨ (b ≠ 0 ∧ b.toNat < 2 ^ 56 ∧ b.toNat % 16 ≠ 0)

theorem taskid_used (t : State) (n : Nat) : (t.used .m n).ctx.taskid = t.ctx.taskid := by
  rw [State.used, State.ctx_setCtx]
  rfl

/-- The entry goes by the state after the arguments have been used up, whose task and memory are as before. -/
theorem markerTask_used (t : State) (n : Nat) (p : Word) (bar : Option Nat) (phase : Bool) :
    markerTask (t.used .m n) p bar phase = markerTask t p bar phase := by
  rw [markerTask, taskid_used]
  rfl

section
variable {s : State} {key : Nat}

theorem exec_mswpw_of_stack (h : isP (siteOf s.turn) = false) (hw : s.awaits .m = false) :
    exec .mswpw s = .next (s.trapped s.atM 1 0x01 0 0).settled := by
  show execMswpw s = _
  have hd : (!isP (siteOf s.atM.turn)) = true := by
    show (!isP (siteOf s.turn)) = true
    rw [h]
    rfl
  exact engWord_trap ((M.bind_ok (M.get_run _)).trans (congrFun (if_pos hd) s.atM)) hw

theorem prime_die (h : isP (siteOf s.turn) = true) : ¬ (!isP (siteOf s.atM.turn)) = true := by
  show ¬ (!isP (siteOf s.turn)) = true
  simp [h]

theorem exec_mswpw_of_full (h : isP (siteOf s.turn) = true) (hf : freeTile s.atM s.turn = none) :
    exec .mswpw s = .next (noteStall s) := by
  show execMswpw s = _
  refine engWord_stall (t := s.atM) ((M.bind_ok (M.get_run _)).trans ((congrFun (if_neg (prime_die h)) s.atM).trans ?_))
  split
  · rfl
  · next he => cases hf.symm.trans he

/-- MSWPW has a free entry and its arguments. -/
structure MarkerFits (s : State) (key : Nat) : Prop where
  die : isP (siteOf s.turn) = true
  room : freeTile s.atM s.turn = some key
  args : 2 ≤ s.ctx.m.params.length

/-- MSWPW with the object that it has found: none where there can be no barrier (notes/assumptions/33.md). -/
def enterMarker (key : Nat) (p : Word) : Option (Option Nat) → M Unit
  | none => do
    drop .m 2
    modify fun s => refuse s .m 0 1
  | some bar => do
    drop .m 2
    modify fun s => enterTile s s.turn key (markerTask s p bar ((bar.map (barPhase s)).getD false))

/-- The object at the place of a barrier. -/
def objectAt (t : State) (q : Piece) : Option (Option Nat) :=
  match spaceOf q.pa with
  | .pad c off => if coreOk c && off < 0x6000 && !inStash t c off then some (some q.pa) else none
  | _ => none

/-- What MSWPW does with its arguments where it has an entry for its marker. -/
def mswpwBody (key : Nat) (b p : Word) : M Unit := do
  if p.toNat ≥ 8 || (b != 0 && b.toNat < 2 ^ 56 && b.toNat % 16 != 0) then enterMarker key p none
  else
    let bar ← if b == 0 then pure (some none) else do
      let q ← placeOf b 16 aTagStore 0
      let s ← get
      match spaceOf q.pa with
      | .pad c off => pure (if coreOk c && off < 0x6000 && !inStash s c off then some (some q.pa) else none)
      | _ => pure none
    enterMarker key p bar

theorem exec_mswpw_of_body {t : State} (h : MarkerFits s key)
    (hb : mswpwBody key (s.ctx.m.params.getD 0 0) (s.ctx.m.params.getD 1 0) s.atM = .ok () t) :
    exec .mswpw s = .next (t.retired .m 1).settled := by
  have hparams : (s.atM.ctx.eng .m).params = s.ctx.m.params := by
    rw [State.atM, State.ctx_setCtx]
    rfl
  have htop : topN .m 2 s.atM = .ok (s.ctx.m.params.take 2) s.atM := by
    rw [topN_run (by rw [hparams]; exact h.args), hparams]
  show execMswpw s = _
  refine engWord_ok ((M.bind_ok (M.get_run _)).trans ((congrFun (if_neg (prime_die h.die)) s.atM).trans ?_))
  split
  · next he => cases h.room.symm.trans he
  · next key' he =>
    obtain rfl : key = key' := Option.some.inj (h.room.symm.trans he)
    refine (M.bind_ok htop).trans ?_
    rw [getD_take _ Nat.zero_lt_two, getD_take _ Nat.one_lt_two]
    exact hb

/-- The state that an entry of MSWPW leaves. -/
def markerEnds (t : State) (key : Nat) (p : Word) : Option (Option Nat) → State
  | none => refuse (t.used .m 2) .m 0 1
  | some bar => enterTile (t.used .m 2) t.turn key (markerTask t p bar ((bar.map (barPhase t)).getD false))

theorem enterMarker_run (key : Nat) (p : Word) (bar : Option (Option Nat)) (t : State) :
    enterMarker key p bar t = .ok () (markerEnds t key p bar) := by
  cases bar with
  | none => exact M.bind_ok (drop_run .m 2 t)
  | some bar =>
    refine (M.bind_ok (drop_run .m 2 t)).trans ((M.modify_run _ _).trans ?_)
    rw [markerTask_used]
    rfl

section
variable {b p : Word}

theorem mswpwBody_of_bad {t : State} (h : BadMarker b p) : mswpwBody key b p t = .ok () (markerEnds t key p none) := by
  refine (congrFun (if_pos ?_) t).trans (enterMarker_run key p none t)
  simpa [BadMarker, and_assoc] using h

theorem notBad_test (h : ¬ BadMarker b p) :
    ¬ (decide (p.toNat ≥ 8) || (b != 0 && decide (b.toNat < 2 ^ 56) && b.toNat % 16 != 0)) = true := by
  simpa [BadMarker, and_assoc] using h

theorem mswpwBody_of_noBarrier {t : State} (h : ¬ BadMarker 0 p) :
    mswpwBody key 0 p t = .ok () (markerEnds t key p (some none)) :=
  (congrFun (if_neg (notBad_test h)) t).trans ((congrFun (if_pos rfl) t).trans
    ((M.bind_ok (M.pure_run _ t)).trans (enterMarker_run key p _ t)))

theorem mswpwBody_of_place {t t' : State} {q : Piece} (h : ¬ BadMarker b p) (h0 : b ≠ 0)
    (hq : placeOf b 16 aTagStore 0 t = .ok q t') : mswpwBody key b p t = .ok () (markerEnds t' key p (objectAt t' q)) := by
  refine (congrFun (if_neg (notBad_test h)) t).trans ((congrFun (if_neg (mt beq_iff_eq.1 h0)) t).trans ((M.bind_ok hq).trans
    ((M.bind_ok (M.get_run _)).trans ?_)))
  rw [objectAt]
  cases spaceOf q.pa with
  | pad c off => exact (M.bind_ok (M.pure_run _ t')).trans (enterMarker_run key p _ t')
  | _ => exact (M.bind_ok (M.pure_run none t')).trans (enterMarker_run key p none t')

end

theorem exec_mswpw_of_bad (h : MarkerFits s key) (hb : BadMarker (s.ctx.m.params.getD 0 0) (s.ctx.m.params.getD 1 0)) :
    exec .mswpw s = .next ((refuse (s.atM.used .m 2) .m 0 1).retired .m 1).settled :=
  exec_mswpw_of_body h (mswpwBody_of_bad hb)

theorem exec_mswpw_of_noBarrier (h : MarkerFits s key) (hb : s.ctx.m.params.getD 0 0 = 0)
    (hp : (s.ctx.m.params.getD 1 0).toNat < 8) : exec .mswpw s =
      .next ((markerEnds s.atM key (s.ctx.m.params.getD 1 0) (some none)).retired .m 1).settled := by
  refine exec_mswpw_of_body h ?_
  rw [hb]
  exact mswpwBody_of_noBarrier fun hbad => hbad.elim (Nat.not_le.2 hp) fun h0 => h0.1 rfl

/-- An aligned address of a barrier decides by the object that stands there. -/
theorem exec_mswpw_of_place {q : Piece} {t : State} (h : MarkerFits s key) (hp : (s.ctx.m.params.getD 1 0).toNat < 8)
    (h0 : s.ctx.m.params.getD 0 0 ≠ 0) (h16 : (s.ctx.m.params.getD 0 0).toNat % 16 = 0)
    (hq : placeOf (s.ctx.m.params.getD 0 0) 16 aTagStore 0 s.atM = .ok q t) :
    exec .mswpw s = .next ((markerEnds t key (s.ctx.m.params.getD 1 0) (objectAt t q)).retired .m 1).settled :=
  exec_mswpw_of_body h (mswpwBody_of_place (fun hbad => hbad.elim (Nat.not_le.2 hp) fun hm => hm.2.2 h16) h0 hq)

theorem objectAt_of_pad {t : State} {q : Piece} {c off : Nat} (hs : spaceOf q.pa = .pad c off) (hc : coreOk c = true)
    (ho : off < 0x6000) (hi : inStash t c off = false) : objectAt t q = some (some q.pa) := by
  simp [objectAt, hs, hc, ho, hi]

theorem objectAt_of_other {t : State} {q : Piece} (hs : ∀ c off, spaceOf q.pa ≠ .pad c off) : objectAt t q = none := by
  unfold objectAt
  split
  · next c off he => exact absurd he (hs c off)
  · rfl

end

end Sys2Proof.Machine
end

section
/-! PROOFS. The obligation about the words of the tile queue, from the rules above. -/

namespace Sys2Proof.Machine

/-- Settles O36: the die, the queue, the arguments and the checks decide in this order what becomes of a word. -/
theorem matrixWordsEnterTheirRecord : Obligations.MatrixWordsEnterTheirRecord := by
  refine ⟨fun s slot ea mc acc i mmma hi => ?matrix, fun s => ⟨fun hd => ⟨fun hf => exec_mswpw_of_full hd hf,
    fun key hf hp => ?marker⟩, fun hd hw => exec_mswpw_of_stack hd hw⟩⟩
  case matrix =>
    rw [exec_of_matrix hi]
    refine ⟨fun hd => ⟨fun hf => matrixWord_of_full hd hf, fun key hf hp v t hv => ?_⟩,
      fun hd hw => matrixWord_of_otherDie hd hw⟩
    rw [matrixWord_of_verdict hd hf hp (ok_of_got hv)]
    cases v <;> rfl
  case marker =>
    have h : MarkerFits s key := ⟨hd, hf, hp⟩
    refine ⟨fun hb => exec_mswpw_of_bad h hb, fun hp hb => exec_mswpw_of_noBarrier h hb hp,
      fun hp h0 h56 h16 q t hq => ⟨fun c off hs hc ho hi => ?_, fun hs => ?_⟩⟩
    · rw [exec_mswpw_of_place h hp h0 h16 (ok_of_got hq), objectAt_of_pad hs hc ho hi]
      rfl
    · rw [exec_mswpw_of_place h hp h0 h16 (ok_of_got hq), objectAt_of_other hs]
      rfl

end Sys2Proof.Machine
end

section
/-! PROOFS. Module steps in more than one part: what each part leaves the next. -/

namespace Sys2Proof.Machine

variable {α β : Type}

@[simp] theorem H.run_bind (x : H α) (f : α → H β) (s : State) : (x >>= f).run s = (f (x.run s).1).run (x.run s).2 := rfl
@[simp] theorem H.run_get (s : State) : (get : H State).run s = (s, s) := rfl

theorem event_of_run {h : H Unit} {s t : State} (e : (h.run s).2 = t) : event h s = .next t.settled := e ▸ rfl

/-- A module step that goes by the state it finds. -/
theorem event_get {f : State → H Unit} {s t : State} (e : ((f s).run s).2 = t) : event (get >>= f) s = .next t.settled :=
  event_of_run e

/-- Updates in a row, all but some of a list's, are a fold. -/
theorem H.run_forM_modify (p : α → Prop) [DecidablePred p] (f : State → α → State) (l : List α) (s : State) :
    ((l.forM fun x => if p x then pure () else modify (f · x) : H PUnit).run s).2 =
      l.foldl (fun s x => if p x then s else f s x) s := by
  induction l generalizing s with
  | nil => rfl
  | cons x l ih =>
    rw [List.forM, H.run_bind, List.foldl_cons, ih]
    split <;> rfl

end Sys2Proof.Machine
end

section
/-! PROOFS. The choice among candidates (R139). -/

namespace Sys2Proof.Machine

/-- B is dispatched no later than R: its class is higher, or its class is R's and its post no later (R139). -/
def Leads (b r : Nat × Record) : Prop :=
  r.2.eclass < b.2.eclass ∨ (r.2.eclass = b.2.eclass ∧ b.2.seq.toNat ≤ r.2.seq.toNat)

theorem Leads.refl (b : Nat × Record) : Leads b b := .inr ⟨rfl, Nat.le_refl _⟩

theorem Leads.trans {a b c : Nat × Record} (h : Leads a b) (h' : Leads b c) : Leads a c := by
  unfold Leads at *
  omega

theorem leads_of_before {a b : Nat × Record} (h : before a b = true) : Leads a b := by
  simp only [before, Bool.or_eq_true, Bool.and_eq_true, decide_eq_true_eq, beq_iff_eq] at h
  unfold Leads
  omega

theorem leads_of_not_before {a b : Nat × Record} (h : before a b = false) : Leads b a := by
  simp only [before, Bool.or_eq_false_iff, Bool.and_eq_false_iff, decide_eq_false_iff_not, beq_eq_false_iff_ne] at h
  unfold Leads
  omega

/-- The better of a candidate found so far and another. -/
def better (m : Option (Nat × Record)) (r : Nat × Record) : Option (Nat × Record) :=
  match m with
  | none => some r
  | some b => if before r b then some r else some b

theorem best_eq (rs : List (Nat × Record)) : best rs = rs.foldl better none := rfl

theorem better_leads {c r b : Nat × Record} (h : better (some c) r = some b) : (b = c ∨ b = r) ∧ Leads b c ∧ Leads b r := by
  rw [better] at h
  split at h
  case isTrue hb =>
    cases h
    exact ⟨.inr rfl, leads_of_before hb, .refl r⟩
  case isFalse hb =>
    cases h
    exact ⟨.inl rfl, .refl c, leads_of_not_before (eq_false_of_ne_true hb)⟩

theorem foldl_better_leads {rs : List (Nat × Record)} {c b : Nat × Record} (h : rs.foldl better (some c) = some b) :
    (b = c ∨ b ∈ rs) ∧ Leads b c ∧ ∀ r ∈ rs, Leads b r := by
  induction rs generalizing c with
  | nil =>
    cases h
    exact ⟨.inl rfl, .refl _, nofun⟩
  | cons r rs ih =>
    obtain ⟨d, hd⟩ : ∃ d, better (some c) r = some d := by
      rw [better]
      split <;> exact ⟨_, rfl⟩
    rw [List.foldl_cons, hd] at h
    obtain ⟨hfrom, hdc, hdr⟩ := better_leads hd
    obtain ⟨hmem, hbd, hrest⟩ := ih h
    refine ⟨?_, hbd.trans hdc, ?_⟩
    · rw [List.mem_cons]
      obtain rfl | hmem := hmem
      · exact hfrom.imp_right .inl
      · exact .inr (.inr hmem)
    · rintro x (_ | ⟨_, hx⟩)
      · exact hbd.trans hdr
      · exact hrest x hx

/-- The best of some records is one of them, and leads each of them. -/
theorem best_leads {rs : List (Nat × Record)} {b : Nat × Record} (h : best rs = some b) : b ∈ rs ∧ ∀ r ∈ rs, Leads b r := by
  rw [best_eq] at h
  cases rs with
  | nil => cases h
  | cons r rs =>
    obtain ⟨hmem, hr, hrest⟩ := foldl_better_leads (c := r) h
    exact ⟨List.mem_cons.2 hmem, List.forall_mem_cons.2 ⟨hr, hrest⟩⟩

end Sys2Proof.Machine
end

section
/-! PROOFS. An opportunity of the dispatcher (R138 to R141). -/

namespace Sys2Proof.Machine

/-- The dispatcher sets the reservation of the head anew (R140). -/
def State.reserve (s : State) (n : Nat) : State := s.modDie n fun d => { d with reserved := reservation s n }

/-- Completions that had to wait for their release (R143). -/
def heldCompletions (s : State) (n : Nat) : State :=
  (s.die n).records.foldl (fun (s : State) r => if mayEnd s n r.1 r.2 then runHeld (settleRec s n r.1) n r.1 else s) s

/-- The state in which the dispatcher selects. -/
def selecting (s : State) (n : Nat) : State := (dropStale (heldCompletions s n) n).reserve n

/-- The candidates of a state that were passed over age (R139). -/
def agedBut (t : State) (n i : Nat) (u : State) : State :=
  (candidates t n).foldl (fun (u : State) e => if e.1 = i then u else ageRec u n e.1) u

/-- The end of an opportunity: the reservation again, the victim that the head needs, and its core's shadow bank (R140, R141, R264). -/
def selectionEnds (n : Nat) (u : State) : State :=
  let v := requestVictim (u.reserve n) n
  (((v.die n).requests.forM fun q =>
    if ((u.reserve n).die n).requests.contains q then pure () else prepareShadow q.core : H PUnit).run v).2

theorem exec_dispatchSelect_of_selected {s u : State} (h : ((selectOne s.arg.n).run (selecting s s.arg.n)).2 = u) :
    exec .dispatchSelect s = .next (selectionEnds s.arg.n u).settled := h ▸ rfl

section
variable {t : State} {n i : Nat} {r : Record}

theorem selectOne_of_none (h : best (candidates t n) = none) : ((selectOne n).run t).2 = t := by
  rw [selectOne, H.run_bind, H.run_get]
  dsimp only
  rw [h]
  rfl

theorem selectOne_of_eligible (h : best (candidates t n) = some (i, r)) (hr : recState t n r = .eligible) :
    ((selectOne n).run t).2 = agedBut t n i (dispatchOn t n i ((openCores t n i).take (recWidth r.bytes))) := by
  rw [selectOne, H.run_bind, H.run_get]
  dsimp only
  rw [h]
  dsimp only
  rw [hr]
  exact H.run_forM_modify (fun e : Nat × Record => e.1 = i) (fun u (e : Nat × Record) => ageRec u n e.1) _ _

theorem selectOne_of_suspended {core slot : Nat} (h : best (candidates t n) = some (i, r)) (hr : recState t n r ≠ .eligible)
    (ho : ownCore t n i r = some (core, slot)) : ((selectOne n).run t).2 = agedBut t n i ((resumeOn n i core slot).run t).2 := by
  rw [selectOne, H.run_bind, H.run_get]
  dsimp only
  rw [h]
  dsimp only
  split
  · next he => exact absurd he hr
  · rw [ho]
    exact H.run_forM_modify (fun e : Nat × Record => e.1 = i) (fun u (e : Nat × Record) => ageRec u n e.1) _ _

end

end Sys2Proof.Machine
end

section
/-! PROOFS. Swaps, spills and halts at a swap point (R141, R263, R264, R270). -/

namespace Sys2Proof.Machine

/-- The urgent request of a core (R141). -/
def State.urgentFor (t : State) (n : Nat) : Option PreReq := (t.die (siteOf n)).requests.find? fun q => q.core == n && q.urgent

/-- A request of core `n` is served where the core is at a swap point. -/
def serveAt (t : State) (n : Nat) : Option PreReq → H Unit
  | some q => if swapPoint t n then do let _ ← swapFor q else pure ()
  | none => pure ()

theorem serveAt_of_none {t : State} {n : Nat} {r : Option PreReq} (h : r = none ∨ swapPoint t n = false) :
    serveAt t n r = pure () := by
  cases r with
  | none => rfl
  | some q => rw [serveAt, h.resolve_left nofun, if_neg Bool.false_ne_true]

theorem exec_contextSwap (s : State) :
    let t := dropStale s (siteOf s.arg.n)
    exec .contextSwap s = .next ((serveAt t s.arg.n (t.urgentFor s.arg.n)).run t).2.settled := rfl

section
variable {s t : State}

theorem exec_contextSwap_of_idle (ht : dropStale s (siteOf s.arg.n) = t)
    (h : t.urgentFor s.arg.n = none ∨ swapPoint t s.arg.n = false) : exec .contextSwap s = .next t.settled := by
  rw [exec_contextSwap]
  rw [ht, serveAt_of_none h]
  rfl

theorem exec_contextSwap_of_urgent {q : PreReq} (ht : dropStale s (siteOf s.arg.n) = t) (hq : t.urgentFor s.arg.n = some q)
    (hp : swapPoint t s.arg.n = true) : exec .contextSwap s = .next ((swapFor q).run t).2.settled := by
  rw [exec_contextSwap]
  rw [ht, hq, serveAt, if_pos hp]
  rfl

theorem exec_backgroundSpillDone (s : State) : exec .backgroundSpillDone s = .next ((clearShadow s.arg.n).run s).2.settled := rfl

theorem clearShadow_of_clear {n : Nat} (h : (s.core n).shadow = none) : (clearShadow n).run s = (true, s) := by
  rw [clearShadow, H.run_bind, H.run_get]
  dsimp only
  rw [h]
  rfl

theorem exec_debugHaltTake_of_due (hr : (s.core s.arg.n).haltReq = true) (hp : swapPoint s s.arg.n = true) :
    exec .debugHaltTake s =
      .next ((takeTrap s s.arg.n 0 0x32 0 0).modCore s.arg.n fun c => { c with haltReq := false }).settled := by
  show execDebugHaltTake s = _
  rw [execDebugHaltTake, event_modify, if_pos (by rw [hr, hp]; rfl)]

theorem exec_debugHaltTake_of_idle (h : (s.core s.arg.n).haltReq = false ∨ swapPoint s s.arg.n = false) :
    exec .debugHaltTake s = .next s.settled := by
  show execDebugHaltTake s = _
  rw [execDebugHaltTake, event_modify, if_neg (Bool.eq_false_iff.1 (Bool.and_eq_false_iff.2 h))]

end

end Sys2Proof.Machine
end

section
/-! PROOFS. Issue and completion of tile-tasks (R151 to R153). -/

namespace Sys2Proof.Machine

/-- The queue that a step of the tile engine names: a P-die has one. -/
def State.tileQueueNo (s : State) : Nat := if isP s.arg.n = true then 0 else s.arg.k

/-- The program of a record is legal for its output type (R440). -/
def TileTask.legal (t : TileTask) : Bool := t.image.isEmpty || epiOk t.image (geoOf (t.kind == 0) t.g).cty

/-- What becomes of an eligible record once its operands' cells have been looked at: whether some are awaited, and an error. -/
def issueEnds (u : State) (n q key : Nat) (t : TileTask) (more : Bool) : Option (Nat × Nat) → State
  | some (c, x) => retireTile u n key t c x
  | none =>
    if more then u
    else match chooseArray u n q t with
      | none => u
      | some i =>
        if !t.legal then retireTile u n key t 1 0 else if pinsFull u (pinLines t) then u else startTile u n key t i

section
variable {s : State} {key : Nat} {t : TileTask}

theorem exec_tileTaskIssue_of_none (h : nextTile s s.arg.n [] (queueOf s s.arg.n s.tileQueueNo) = none) :
    exec .tileTaskIssue s = .next s.settled := by
  show execTileTaskIssue s = _
  refine event_get ?_
  rw [State.tileQueueNo] at h
  dsimp only
  rw [h]
  rfl

theorem exec_tileTaskIssue_of_refused (h : nextTile s s.arg.n [] (queueOf s s.arg.n s.tileQueueNo) = some (key, t, true)) :
    exec .tileTaskIssue s = .next (refuseTile s s.arg.n key t).settled := by
  show execTileTaskIssue s = _
  refine event_get ?_
  rw [State.tileQueueNo] at h
  dsimp only
  rw [h]
  rfl

theorem exec_tileTaskIssue_of_eligible {more : Bool} {bad : Option (Nat × Nat)} {w : (Bool × Option (Nat × Nat)) × State}
    {v : State} (h : nextTile s s.arg.n [] (queueOf s s.arg.n s.tileQueueNo) = some (key, t, false))
    (hw : (cellsReady (.op t.op) (startLines t)).run s = w) (hm : w.1.1 = more) (hb : w.1.2 = bad)
    (hv : issueEnds w.2 s.arg.n s.tileQueueNo key t more bad = v) : exec .tileTaskIssue s = .next v.settled := by
  obtain ⟨⟨more', bad'⟩, u⟩ := w
  obtain rfl : more' = more := hm
  obtain rfl : bad' = bad := hb
  subst hv
  show execTileTaskIssue s = _
  refine event_get ?_
  rw [State.tileQueueNo] at h ⊢
  dsimp only
  generalize (if isP s.arg.n = true then 0 else s.arg.k) = q at h ⊢
  rw [h]
  dsimp only
  rw [H.run_bind, hw]
  cases bad' with
  | some e => rfl
  | none =>
    cases more' with
    | true => rfl
    | false =>
      rw [H.run_bind, H.run_get]
      simp only [issueEnds, TileTask.legal, Bool.not_or, Bool.false_eq_true, if_false]
      cases chooseArray u s.arg.n q t with
      | none => rfl
      | some i =>
        dsimp only
        split
        · rfl
        · split <;> rfl

section
variable {u : State} {n q : Nat}

theorem issueEnds_of_waiting {more : Bool} (h : more = true ∨ chooseArray u n q t = none) :
    issueEnds u n q key t more none = u := by
  cases more with
  | true => rfl
  | false => rw [issueEnds, if_neg Bool.false_ne_true, h.resolve_left Bool.false_ne_true]

theorem issueEnds_of_array {i : Nat} (h : chooseArray u n q t = some i) :
    (t.legal = false → issueEnds u n q key t false none = retireTile u n key t 1 0) ∧
    (t.legal = true → pinsFull u (pinLines t) = true → issueEnds u n q key t false none = u) ∧
    (t.legal = true → pinsFull u (pinLines t) = false → issueEnds u n q key t false none = startTile u n key t i) := by
  refine ⟨fun hl => ?_, fun hl hp => ?_, fun hl hp => ?_⟩ <;> simp [issueEnds, *]

end

theorem exec_tileTaskComplete_of_none (h : mapFind (s.die s.arg.n).tiles (tileKey s) = none) :
    exec .tileTaskComplete s = .next s.settled := by
  show execTileTaskComplete s = _
  refine event_get ?_
  rw [h]
  rfl

theorem exec_tileTaskComplete_of_entry (h : mapFind (s.die s.arg.n).tiles (tileKey s) = some t) :
    exec .tileTaskComplete s = .next (if t.st = 2 then ((completeTile s.arg.n (tileKey s) t).run s).2
      else if t.st = 3 then retireTile s s.arg.n (tileKey s) t t.err.toNat 0 else s).settled := by
  show execTileTaskComplete s = _
  refine event_get ?_
  rw [h]
  dsimp only
  split
  · rfl
  · split <;> rfl

end

end Sys2Proof.Machine
end

section
/-! PROOFS. Swap markers (R154). -/

namespace Sys2Proof.Machine

theorem mapGet_default_or_mem {α : Type} (d : α) (m : Map α) (k : Nat) : mapGet d m k = d ∨ (k, mapGet d m k) ∈ m := by
  induction m with
  | nil => exact .inl rfl
  | cons e m ih =>
    rw [mapGet]
    split
    · exact .inl rfl
    · split
      case isTrue hk =>
        subst hk
        exact .inr (List.mem_cons_self ..)
      · exact ih.imp_right (List.mem_cons_of_mem _)

theorem mapGet_map {α β : Type} {f : α → β} {d : α} {d' : β} (hd : f d = d') (m : Map α) (k : Nat) :
    mapGet d' (m.map fun e => (e.1, f e.2)) k = f (mapGet d m k) := by
  induction m with
  | nil => exact hd.symm
  | cons e m ih =>
    simp only [List.map_cons, mapGet, ih]
    split
    · exact hd.symm
    · split <;> rfl

theorem mapFind_map {α β : Type} (f : α → β) (m : Map α) (k : Nat) :
    mapFind (m.map fun e => (e.1, f e.2)) k = (mapFind m k).map f := by
  induction m with
  | nil => rfl
  | cons e m ih =>
    simp only [List.map_cons, mapFind, ih]
    split
    · rfl
    · split <;> rfl

/-- An earlier record of a marker's pair has not issued (R154). -/
def Die.recordBefore (d : Die) (t : TileTask) : Prop :=
  ∃ e ∈ d.tiles, e.2.kind ≠ 2 ∧ e.2.st = 1 ∧ e.2.w.toNat % 8 = t.w.toNat % 8 ∧ e.2.qseq < t.qseq

/-- A marker's barrier, if it has one, has left the phase that MSWPW found (R154). -/
def TileTask.phased (s : State) (t : TileTask) : Prop := ∀ b ∈ t.bar, barPhase s b ≠ t.phase

theorem markerFree_iff (d : Die) (t : TileTask) : markerFree d t = true ↔ ¬ d.recordBefore t := by
  simp [markerFree, Die.recordBefore, and_assoc]

section
variable {s : State} {d : Die} {t : TileTask}

theorem noteMarker_of_settled (h : t.kind ≠ 2 ∨ t.due = true ∨ d.recordBefore t) : noteMarker s d t = t := by
  refine if_pos ?_
  rw [Bool.or_eq_true, Bool.or_eq_true, bne_iff_ne, Bool.not_eq_true', or_assoc]
  refine h.imp_right (Or.imp_right fun hb => ?_)
  exact eq_false_of_ne_true fun hf => (markerFree_iff d t).1 hf hb

theorem noteMarker_of_free (hk : t.kind = 2) (hd : t.due = false) (hb : ¬ d.recordBefore t) :
    (t.phased s → noteMarker s d t = { t with due := true }) ∧ (¬ t.phased s → noteMarker s d t = { t with late := true }) := by
  have hf : markerFree d t = true := (markerFree_iff d t).2 hb
  have hn : noteMarker s d t = match t.bar with
      | none => { t with due := true }
      | some b => if barPhase s b != t.phase then { t with due := true } else { t with late := true } := by
    refine (if_neg (by simp [hk, hd, hf])).trans ?_
    rfl
  rw [hn, TileTask.phased]
  cases t.bar with
  | none => simp
  | some b => simp +contextual

end

/-- A die once what its markers have seen has been noted. -/
def noteDie (s : State) (d : Die) : Die := { d with tiles := d.tiles.map fun e => (e.1, noteMarker s d e.2) }

/-- Every marker of a die is looked at, and no record. -/
theorem tiles_noteMarkers (s : State) (n : Nat) :
    ((noteMarkers s).die n).tiles = (s.die n).tiles.map fun e => (e.1, noteMarker s (s.die n) e.2) := by
  unfold noteMarkers
  split
  case isTrue h =>
    have hk : ∀ e ∈ (s.die n).tiles, e.2.kind ≠ 2 := by
      intro e he
      obtain hd | hd := mapGet_default_or_mem ({} : Die) s.dies n
      · rw [State.die, hd] at he
        cases he
      · simp only [Bool.not_eq_true', List.any_eq_false, List.any_eq_true, beq_iff_eq, not_exists, not_and] at h
        exact h _ hd e he
    have hid : ∀ e ∈ (s.die n).tiles, (e.1, noteMarker s (s.die n) e.2) = id e := fun e he => by
      rw [noteMarker_of_settled (.inl (hk e he))]
      rfl
    rw [List.map_congr_left hid, List.map_id]
  case isFalse h =>
    exact congrArg Die.tiles (mapGet_map (f := noteDie s) (d := {}) rfl s.dies n)

theorem find_noteMarkers {s : State} {n key : Nat} {t : TileTask} (h : mapFind (s.die n).tiles key = some t) :
    mapFind ((noteMarkers s).die n).tiles key = some (noteMarker s (s.die n) t) := by
  rw [tiles_noteMarkers, mapFind_map, h]
  rfl

/-- The first marker of pair `p` in the queue of a P-die, once what every marker has seen has been noted. -/
def State.markerFor (s : State) (n p : Nat) : Option (Nat × TileTask) := firstMarker p (queueOf (noteMarkers s) n 0)

/-- A P-die whose halves of pair `p` have been exchanged for the marker at `key` (R154). -/
def pairSwapped (s : State) (n p key late : Nat) : State :=
  (delTile (noteMarkers s) n key).modDie n fun d =>
    let w := mapGet {} d.wpairs p
    { d with wpairs := mapSet d.wpairs p { act := w.act + 1, epoch := w.epoch + 1 }, wlate := d.wlate + BitVec.ofNat 32 late }

section
variable {s : State} {n p key : Nat} {t : TileTask}

theorem exec_bankPairSwap (s : State) : exec .bankPairSwap s = .next (bankSwap s s.arg.n s.arg.k).settled := rfl

theorem bankSwap_of_none (h : s.markerFor n p = none) : bankSwap s n p = s := by
  rw [State.markerFor] at h
  rw [bankSwap, h]

theorem bankSwap_of_waiting (h : s.markerFor n p = some (key, t)) (hw : t.due = false ∨ swapWaits s n t = true) :
    bankSwap s n p = noteMarkers s := by
  rw [State.markerFor] at h
  rw [bankSwap, h]
  exact if_pos (by simpa using hw)

theorem bankSwap_of_due (h : s.markerFor n p = some (key, t)) (hd : t.due = true) (hw : swapWaits s n t = false) :
    (t.late = true → bankSwap s n p = (pairSwapped s n p key 1).modCore t.core fun c => { c with wlate := c.wlate + 1 }) ∧
    (t.late = false → bankSwap s n p = pairSwapped s n p key 0) := by
  rw [State.markerFor] at h
  have hn : ¬ (!t.due || swapWaits s n t) = true := by simp [hd, hw]
  refine ⟨fun hl => ?_, fun hl => ?_⟩
  · rw [bankSwap, h]
    simp only [if_neg hn, hl, if_true]
    rfl
  · rw [bankSwap, h]
    simp only [if_neg hn, hl, Bool.false_eq_true, if_false, pairSwapped, BitVec.ofNat_eq_ofNat, BitVec.add_zero]

end

end Sys2Proof.Machine
end

section
/-! PROOFS. Operations and evaluations that run on or retire (R143, R192). -/

namespace Sys2Proof.Machine

section
variable {s : State} {o : Op}

theorem exec_asyncRetire_of_none (h : s.ops.find? (fun o => o.id == s.arg.n) = none) : exec .asyncRetire s = .next s.settled := by
  show execAsyncRetire s = _
  refine event_get ?_
  rw [h]
  rfl

/-- What the step of an operation does, by its kind. -/
def opStep (s : State) (o : Op) : H Unit :=
  match o.kind with
  | .copy | .gather | .fill | .decomp => runCopy o
  | .flush => if o.nums.isEmpty then runCopy o else set (retireOp s o (o.nums.getD 0 0) (o.nums.getD 1 0))
  | .coll => runColl o
  | .tile | .handoff | .eval => pure ()

theorem exec_asyncRetire_of_op (h : s.ops.find? (fun o => o.id == s.arg.n) = some o) :
    exec .asyncRetire s = .next ((opStep s o).run s).2.settled := by
  show execAsyncRetire s = _
  refine event_get ?_
  rw [h]
  rfl

theorem opStep_flush {c : Nat} {r : List Nat} (hk : o.kind = .flush) (hn : o.nums = c :: r) :
    ((opStep s o).run s).2 = retireOp s o c (r.headD 0) := by
  have hcode : o.nums.getD 0 0 = c := by rw [hn]; rfl
  have haddr : o.nums.getD 1 0 = r.headD 0 := by rw [hn]; cases r <;> rfl
  rw [opStep, hk]
  dsimp only
  rw [hcode, haddr, hn]
  rfl

theorem opStep_copy
    (h : o.kind = .copy ∨ o.kind = .gather ∨ o.kind = .fill ∨ o.kind = .decomp ∨ (o.kind = .flush ∧ o.nums = [])) :
    opStep s o = runCopy o := by
  unfold opStep
  obtain hk | hk | hk | hk | ⟨hk, hn⟩ := h
  case inr.inr.inr.inr => rw [hk, hn]; rfl
  all_goals rw [hk]

theorem opStep_coll (h : o.kind = .coll) : opStep s o = runColl o := by
  rw [opStep, h]

/-- Tile-tasks, hand-offs and evaluations have steps of their own. -/
theorem opStep_other (h : o.kind = .tile ∨ o.kind = .handoff ∨ o.kind = .eval) : opStep s o = pure () := by
  unfold opStep
  obtain hk | hk | hk := h <;> rw [hk]

/-- The ENGINE evaluation that a step names: its site and entry (R192). -/
def State.engineEval (s : State) : Option Op :=
  s.ops.find? fun o => o.kind == .eval && o.nums.getD 0 0 == s.arg.n && o.nums.getD 1 0 == s.arg.k

theorem exec_engineEvalEnd_of_none (h : s.engineEval = none) : exec .engineEvalEnd s = .next s.settled := by
  rw [State.engineEval] at h
  show execEngineEvalEnd s = _
  refine event_get ?_
  rw [h]
  rfl

theorem exec_engineEvalEnd_of_eval (h : s.engineEval = some o) :
    exec .engineEvalEnd s = .next ((runEngine o).run s).2.settled := by
  rw [State.engineEval] at h
  show execEngineEvalEnd s = _
  refine event_get ?_
  rw [h]

end

end Sys2Proof.Machine
end

section
/-! PROOFS. Retries of what found a table full (R162, R193, R194). -/

namespace Sys2Proof.Machine

theorem retryGo_of_none {sel : Waiter → Bool} {ws : List Waiter} (h : ∀ w ∈ ws, w.retry = true → sel w = false) (s : State) :
    (retryGo sel ws).run s = ((), s) := by
  induction ws with
  | nil => rfl
  | cons w ws ih =>
    obtain ⟨hw, hws⟩ := List.forall_mem_cons.1 h
    have hn : ¬ (w.retry && sel w) = true := by simpa using hw
    rw [retryGo, if_neg hn]
    exact ih hws

theorem retryWaiters_of_none {sel : Waiter → Bool} {s : State} (h : ∀ w ∈ s.waiters, w.retry = true → sel w = false) :
    (retryWaiters sel).run s = ((), s) :=
  retryGo_of_none h s

end Sys2Proof.Machine
end

section
/-! PROOFS. The obligation about dispatchers, tile-tasks, evaluations and retries, from the rules above. -/

namespace Sys2Proof.Machine

/-- Settles O56: each step is one operation of the model, whose cases the rules above say. -/
theorem dispatchersTilesEvaluationsAndRetriesAdvance : Obligations.DispatchersTilesEvaluationsAndRetriesAdvance := by
  refine ⟨fun rs b h => best_leads h, fun s => ⟨
    ⟨fun h => ?none, fun i r h => ⟨fun hr => ?eligible, fun hr core slot ho => ?suspended⟩⟩,
    ⟨fun h => exec_contextSwap_of_idle rfl h, fun q hq hp => exec_contextSwap_of_urgent rfl hq hp⟩, exec_backgroundSpillDone s,
    fun h => ?clear, fun hr hp => exec_debugHaltTake_of_due hr hp, fun h => exec_debugHaltTake_of_idle h,
    ?issue, ?complete, ?marker,
    ⟨fun h => exec_asyncRetire_of_none h, fun o h => ?operation⟩,
    ⟨fun h => exec_engineEvalEnd_of_none h, fun o h => exec_engineEvalEnd_of_eval h⟩, rfl, rfl, rfl,
    fun h => ?sites, fun h => ?pads, rfl⟩⟩
  case none => exact exec_dispatchSelect_of_selected (selectOne_of_none h)
  case eligible => exact exec_dispatchSelect_of_selected (selectOne_of_eligible h hr)
  case suspended => exact exec_dispatchSelect_of_selected (selectOne_of_suspended h hr ho)
  case clear => rw [exec_backgroundSpillDone, clearShadow_of_clear h]
  case issue =>
    refine ⟨fun h => exec_tileTaskIssue_of_none h, fun key t refused h => ⟨fun hr => ?_, fun hr => ?_⟩⟩
    · exact exec_tileTaskIssue_of_refused (hr ▸ h)
    · subst hr
      refine ⟨fun c x hb => exec_tileTaskIssue_of_eligible h rfl rfl hb rfl,
        fun hb hm => exec_tileTaskIssue_of_eligible h rfl rfl hb (issueEnds_of_waiting hm), fun hb hm i hi => ?_⟩
      obtain ⟨hillegal, hfull, hstart⟩ := issueEnds_of_array hi
      exact ⟨fun hl => exec_tileTaskIssue_of_eligible h rfl hm hb (hillegal hl),
        fun hl hp => exec_tileTaskIssue_of_eligible h rfl hm hb (hfull hl hp),
        fun hl hp => exec_tileTaskIssue_of_eligible h rfl hm hb (hstart hl hp)⟩
  case complete =>
    refine ⟨fun h => exec_tileTaskComplete_of_none h, fun t h => ?_⟩
    rw [exec_tileTaskComplete_of_entry h]
    refine ⟨fun h2 => by rw [if_pos h2]; rfl, fun h3 => ?_, fun h2 h3 => by rw [if_neg h2, if_neg h3]⟩
    rw [if_neg (by omega), if_pos h3]
    rfl
  case marker =>
    refine ⟨fun key t h => ?_, fun h => ?_, fun key t h => ⟨fun hw => ?_, fun hd hw => ?_⟩⟩
    · refine ⟨fun hk hd hb hp => ?_, fun hk hd hb hp => ?_, fun hs => ?_⟩
      · exact (find_noteMarkers h).trans (congrArg some ((noteMarker_of_free hk hd hb).1 hp))
      · exact (find_noteMarkers h).trans (congrArg some ((noteMarker_of_free hk hd hb).2 hp))
      · exact (find_noteMarkers h).trans (congrArg some (noteMarker_of_settled hs))
    · rw [exec_bankPairSwap, bankSwap_of_none h]
    · rw [exec_bankPairSwap, bankSwap_of_waiting h hw]
    · obtain ⟨hlate, hnot⟩ := bankSwap_of_due h hd hw
      rw [exec_bankPairSwap]
      refine ⟨fun hl => ?_, fun hl => ?_⟩
      · rw [hlate hl, hl]
        rfl
      · rw [hnot hl, hl]
        rfl
  case operation =>
    rw [exec_asyncRetire_of_op h]
    exact ⟨fun hk => by rw [opStep_copy hk], fun hk c r hn => by rw [opStep_flush hk hn], fun hk => by rw [opStep_coll hk],
      fun hk => by rw [opStep_other hk]; rfl⟩
  case sites =>
    have hr := retryWaiters_of_none h
    exact ⟨event_of_run (congrArg Prod.snd hr), event_of_run (congrArg Prod.snd hr)⟩
  case pads => exact event_of_run (congrArg Prod.snd (retryWaiters_of_none h))

end Sys2Proof.Machine
end

section
/-! PROOFS. Bytes of DRAM (R156): where they are stored, and what writing some of them leaves of the others. -/

namespace Sys2Proof.Machine

variable {s : State} {a pa : Nat} {b : Byte} {bs : List Byte}

theorem spaceOf_dram (h : isDram a = true) : spaceOf a = .dram (a / 0x000C00000000) := by
  rw [spaceOf, if_pos (of_decide_eq_true h)]

/-- A DRAM byte is stored under its own address, where its granule is inside the stack and its layer is on (R25, R156). -/
theorem locate_dram (h : isDram a = true) {q : Place} (hq : locate s a = .ok q) : q = ⟨false, a⟩ := by
  simp only [locate, spaceOf_dram h] at hq
  split at hq
  · cases hq
  · split at hq
    · exact (Except.ok.inj hq).symm
    · split at hq
      · cases hq
      · exact (Except.ok.inj hq).symm

/-- A granule of a stack none of whose layers has been switched is there. -/
theorem locate_dram_of_unswitched (h : isDram a = true)
    (hcap : a % 0x000C00000000 / 0x400000 < (s.die (dSite (a / 0x000C00000000))).stackCap)
    (hon : (s.die (dSite (a / 0x000C00000000))).lpwr = []) : locate s a = .ok ⟨false, a⟩ := by
  simp only [locate, spaceOf_dram h, hon, List.isEmpty_nil, if_true, if_neg (Nat.not_le.2 hcap)]

/-! ## One byte -/

@[simp] theorem locate_writePhys (s : State) (pa : Nat) (b : Byte) (a : Nat) : locate (writePhys s pa b) a = locate s a := by
  unfold writePhys writeAt
  split
  · split <;> rfl
  · rfl

@[simp] theorem cellTags_writePhys (s : State) (pa : Nat) (b : Byte) : (writePhys s pa b).cellTags = s.cellTags := by
  unfold writePhys writeAt
  split
  · split <;> rfl
  · rfl

theorem readPhys_writePhys_same (h : Memory.wf s = true) {q : Place} (hq : locate s pa = .ok q) :
    readPhys (writePhys s pa b) pa = b := by
  rw [readPhys, locate_writePhys, writePhys, hq]
  exact (readAt_writeAt h q q b).trans (if_pos rfl)

theorem readPhys_writePhys_other (h : Memory.wf s = true) (hpa : isDram pa = true) (ha : isDram a = true) (hne : a ≠ pa) :
    readPhys (writePhys s pa b) a = readPhys s a := by
  rw [readPhys, locate_writePhys, readPhys]
  cases hq : locate s a with
  | error e => rfl
  | ok q =>
    cases hp : locate s pa with
    | error e => rw [writePhys, hp]
    | ok p =>
      rw [writePhys, hp, locate_dram ha hq, locate_dram hpa hp]
      exact (readAt_writeAt h _ _ b).trans (if_neg fun e => hne (congrArg Place.key e))

/-! ## Bytes in a row -/

@[simp] theorem locate_writeBytes (s : State) (pa : Nat) (bs : List Byte) (a : Nat) : locate (writeBytes s pa bs) a = locate s a := by
  induction bs generalizing s pa with
  | nil => rfl
  | cons b bs ih => rw [writeBytes, ih, locate_writePhys]

@[simp] theorem cellTags_writeBytes (s : State) (pa : Nat) (bs : List Byte) : (writeBytes s pa bs).cellTags = s.cellTags := by
  induction bs generalizing s pa with
  | nil => rfl
  | cons b bs ih => rw [writeBytes, ih, cellTags_writePhys]

/-- `n` bytes from `pa` lie in DRAM, and their storage is there. -/
def Stored (s : State) (pa n : Nat) : Prop := ∀ i < n, isDram (pa + i) = true ∧ ∃ q, locate s (pa + i) = .ok q

theorem Stored.part {m n : Nat} (h : Stored s pa n) (o : Nat) (hle : o + m ≤ n) : Stored s (pa + o) m := fun i hi => by
  have := h (o + i) (by omega)
  rwa [← Nat.add_assoc] at this

theorem Stored.writePhys {n : Nat} (h : Stored s pa n) (a : Nat) (b : Byte) : Stored (writePhys s a b) pa n := fun i hi => by
  rw [locate_writePhys]
  exact h i hi

/-- The bytes that a store does not name stay as they were. -/
theorem readPhys_writeBytes_outside (h : Memory.wf s = true) (hs : Stored s pa bs.length) (ha : isDram a = true)
    (hout : a < pa ∨ pa + bs.length ≤ a) : readPhys (writeBytes s pa bs) a = readPhys s a := by
  induction bs generalizing s pa with
  | nil => rfl
  | cons b bs ih =>
    rw [List.length_cons] at hs hout
    have hhead : isDram pa = true := (hs 0 (by omega)).1
    calc readPhys (writeBytes s pa (b :: bs)) a
      _ = readPhys (writePhys s pa b) a :=
        ih (wf_writePhys h pa b) ((hs.part 1 (by omega)).writePhys pa b) (by omega)
      _ = readPhys s a := readPhys_writePhys_other h hhead ha (by omega)

theorem readBytes_succ (s : State) (pa n : Nat) : readBytes s pa (n + 1) = readPhys s pa :: readBytes s (pa + 1) n := by
  simp only [readBytes, List.range_succ_eq_map, List.map_cons, List.map_map, Nat.add_zero, List.cons.injEq, true_and]
  exact List.map_congr_left fun i _ => congrArg (readPhys s) (by simp only [Nat.succ_eq_add_one]; omega)

/-- Bytes that have been stored read as stored. -/
theorem readBytes_writeBytes (h : Memory.wf s = true) (hs : Stored s pa bs.length) :
    readBytes (writeBytes s pa bs) pa bs.length = bs := by
  induction bs generalizing s pa with
  | nil => rfl
  | cons b bs ih =>
    rw [List.length_cons] at hs ⊢
    obtain ⟨hdram, q, hq⟩ := hs 0 (by omega)
    have hw : Memory.wf (writePhys s pa b) = true := wf_writePhys h pa b
    have htail : Stored (writePhys s pa b) (pa + 1) bs.length := (hs.part 1 (by omega)).writePhys pa b
    have hhead : readPhys (writeBytes (writePhys s pa b) (pa + 1) bs) pa = b :=
      (readPhys_writeBytes_outside hw htail hdram (by omega)).trans (readPhys_writePhys_same h hq)
    rw [readBytes_succ, writeBytes, hhead, ih hw htail]

/-! ## Numbers as bytes -/

theorem length_leBytes (n v : Nat) : (leBytes n v).length = n := by
  induction n generalizing v with
  | zero => rfl
  | succ n ih => rw [leBytes, List.length_cons, ih]

theorem leNat_leBytes (n v : Nat) : leNat (leBytes n v) = v % 256 ^ n := by
  induction n generalizing v with
  | zero => rw [Nat.pow_zero, Nat.mod_one]; rfl
  | succ n ih => rw [leBytes, leNat, ih, BitVec.toNat_ofNat, Nat.pow_succ' (n := n), Nat.mod_mul]

/-! ## What counting at a die leaves -/

section
variable {d e : Die} (h : d.carve = e.carve)
include h

theorem segfail_of_carve : d.segfail = e.segfail := by
  funext c l
  rw [Die.segfail, h, Die.segfail]

theorem banks_of_carve : d.banks = e.banks := by
  funext c l
  rw [Die.banks, segfail_of_carve h, Die.banks]

theorem colGran_of_carve : d.colGran = e.colGran := by
  funext c
  simp only [Die.colGran, banks_of_carve h, h]

theorem stackCap_of_carve : d.stackCap = e.stackCap := by
  simp only [Die.stackCap, Die.colBase, colGran_of_carve h, h]

theorem layerOf_of_carve : d.layerOf = e.layerOf := by
  funext g
  simp only [Die.layerOf, Die.colOf, Die.remap, Die.bankList, banks_of_carve h, segfail_of_carve h, colGran_of_carve h, h]

end

/-- Of a die, the bytes of DRAM go by its carving and the power of its layers alone (R17, R25). -/
theorem readPhys_modDie (s : State) (n : Nat) (f : Die → Die) (hcarve : ∀ d, (f d).carve = d.carve := by exact fun _ => rfl)
    (hon : ∀ d, (f d).lpwr = d.lpwr := by exact fun _ => rfl) (ha : isDram a = true) :
    readPhys (s.modDie n f) a = readPhys s a := by
  have hloc : locate (s.modDie n f) a = locate s a := by
    simp only [locate, spaceOf_dram ha]
    by_cases hm : dSite (a / 0x000C00000000) = n
    · rw [hm, State.die_modDie_same, stackCap_of_carve (hcarve _), hon, layerOf_of_carve (hcarve _)]
    · rw [State.die_modDie_other _ _ _ _ hm]
  rw [readPhys, hloc]
  rfl

theorem readBytes_congr {t : State} {n : Nat} (h : ∀ i < n, readPhys t (pa + i) = readPhys s (pa + i)) :
    readBytes t pa n = readBytes s pa n :=
  List.map_congr_left fun i hi => h i (List.mem_range.1 hi)

end Sys2Proof.Machine
end

section
/-! PROOFS. Cell operations at the home (R196, Table 9-3): what each answers and makes of its cell, in canonical memory. -/

namespace Sys2Proof.Machine

variable {s : State} {line a reason : Nat} {data : List Byte}

theorem lineOf_of_aligned (h : line % 128 = 0) : lineOf line = line := by
  rw [lineOf]
  omega

theorem toNat_eq_zero_iff {t : BitVec 2} : t.toNat = 0 ↔ t = 0 := BitVec.toNat_inj (y := 0)

theorem toNat_eq_three_iff {t : BitVec 2} : t.toNat = 3 ↔ t = 3 := BitVec.toNat_inj (y := 3)

/-! ## What an operation comes to -/

/-- A line that has been written and is VALUE, unmarked and bound to no evaluation (R185, R194). -/
def asValue (s : State) (line : Nat) (data : List Byte) : State :=
  ({ writeBytes s line data with bound := mapDel s.bound line }.setCellTag line 0).setPoison line false

/-- A line that is POISON with its reason at byte 34, bound to no evaluation (R186, Table 9-4). -/
def asPoison (s : State) (line reason : Nat) : State :=
  let t := writeBytes s (line + 34) (leBytes 2 reason)
  { t.setCellTag line 3 with bound := mapDel t.bound line }

def countResolved (d : Die) : Die := { d with resolved := d.resolved + 1 }

def countPoisoned (reason : Nat) (d : Die) : Die :=
  { d with poisonedCnt := d.poisonedCnt + 1, media := d.media || reason == 3 }

/-- The state after a resolving write, which counts where a cell has become VALUE that was not (R194). -/
def resolved (s : State) (line : Nat) (data : List Byte) : State :=
  if s.cellTag line == 1 || s.cellTag line == 2 then (asValue s line data).modDie (homeSite line) countResolved
  else asValue s line data

/-- The state after a cell has become POISON. -/
def spoilt (s : State) (line reason : Nat) : State := (asPoison s line reason).modDie (homeSite line) (countPoisoned reason)

theorem run_resolveCell (s : State) (line : Nat) (data : List Byte) :
    (resolveCell line data).run s = ((), resolved s (lineOf line) data) := rfl

theorem run_poisonCell (s : State) (line reason : Nat) :
    (poisonCell line reason).run s = ((), spoilt s (lineOf line) reason) := rfl

section
variable (who : Who) (arg : Word) (p : Piece)

theorem cellOp_stat : cellOp 1 line who data arg p s = (.done (leBytes 8 (cellWord s line true)), s) := rfl

theorem cellOp_defer_of_changes (h : cellChanges s 2 line = true) :
    cellOp 2 line who data arg p s = (.done (leBytes 8 1), (writeBytes s (lineOf line) data).setCellTag line 1) := by
  show (if cellChanges s 2 line = true then _ else _ : H Res).run s = _
  rw [if_pos h]
  rfl

theorem cellOp_defer_of_refused (h : cellChanges s 2 line = false) :
    cellOp 2 line who data arg p s = (.done (leBytes 8 (s.cellTag line).toNat), s) := by
  show (if cellChanges s 2 line = true then _ else _ : H Res).run s = _
  rw [if_neg (Bool.eq_false_iff.1 h)]
  rfl

theorem cellOp_resolve (h : s.cellTag line ≠ 3) :
    cellOp 3 line who data arg p s = (.done (leBytes 8 0), resolved s (lineOf line) data) := by
  show (if (s.cellTag line).toNat = 3 then _ else _ : H Res).run s = _
  rw [if_neg (mt toNat_eq_three_iff.1 h)]
  rfl

theorem cellOp_resolve_of_poison (h : s.cellTag line = 3) :
    cellOp 3 line who data arg p s = (.fault ⟨0x15, leNat (readBytes s (lineOf line + 34) 2) * 65536, 1⟩ p, s) := by
  show (if (s.cellTag line).toNat = 3 then _ else _ : H Res).run s = _
  rw [if_pos (toNat_eq_three_iff.2 h)]
  rfl

theorem cellOp_poison (h : s.cellTag line ≠ 3) :
    cellOp 4 line who data arg p s = (.done (leBytes 8 3), spoilt s (lineOf line) (arg.toNat % 65536)) := by
  show (if (s.cellTag line).toNat = 3 then _ else _ : H Res).run s = _
  rw [if_neg (mt toNat_eq_three_iff.1 h)]
  rfl

theorem cellOp_poison_of_poison (h : s.cellTag line = 3) :
    cellOp 4 line who data arg p s = (.done (leBytes 8 3), s) := by
  show (if (s.cellTag line).toNat = 3 then _ else _ : H Res).run s = _
  rw [if_pos (toNat_eq_three_iff.2 h)]
  rfl

end

/-- DEFER takes a cell that is VALUE or POISON and no FOLLOW record. -/
theorem cellChanges_defer_iff :
    cellChanges s 2 line = true ↔ (s.cellTag line = 0 ∨ s.cellTag line = 3) ∧ isFollow s line = false := by
  simp only [cellChanges, Bool.and_eq_true, Bool.or_eq_true, beq_iff_eq, Bool.not_eq_true', toNat_eq_three_iff, toNat_eq_zero_iff]

/-- The tag stands in bits 1 and 0 of the word that CSTAT answers. -/
theorem cellWord_mod_four (s : State) (line : Nat) (stat : Bool) : cellWord s line stat % 4 = (s.cellTag line).toNat := by
  have := (s.cellTag line).isLt
  unfold cellWord
  extract_lets t
  have ht : t < 4 := this
  split
  · omega
  · split <;> split <;> omega

/-! ## What becomes of the cell -/

theorem cellTag_of_cellSet {t : State} {v : BitVec 2} (h : Memory.wf s = true)
    (ht : t.cellTags = cellSet 0 s.cellTags (lineOf line) v) : t.cellTag line = v := by
  obtain ⟨-, -, -, htags, -⟩ := (wf_iff s).1 h
  rw [State.cellTag, ht, mapGet_cellSet 0 s.cellTags _ _ v htags, if_pos rfl]

theorem poisonLine_dram (h : isDram line = true) : poisonLine s line = lineOf line := by
  rw [poisonLine, spaceOf_dram h]

theorem poisoned_setPoison (h : Memory.wf s = true) (hl : isDram line = true) (b : Bool) :
    (s.setPoison line b).poisoned line = b := by
  obtain ⟨-, -, -, -, hpoison⟩ := (wf_iff s).1 h
  rw [State.poisoned, poisonLine_dram hl, State.setPoison, poisonLine_dram hl]
  exact (mapGet_cellSet false s.poison _ _ b hpoison).trans (if_pos rfl)

/-- A resolving write empties the entry of its line in the list of tags. -/
theorem cellTags_resolved (s : State) (line : Nat) (data : List Byte) :
    (resolved s line data).cellTags = cellSet 0 s.cellTags (lineOf line) 0 := by
  rw [← cellTags_writeBytes s line data, resolved]
  split <;> rfl

theorem poisoned_resolved (h : Memory.wf s = true) (hl : isDram line = true) : (resolved s line data).poisoned line = false := by
  have hw : Memory.wf ({ writeBytes s line data with bound := mapDel s.bound line }.setCellTag line 0) = true :=
    wf_setCellTag (s := { writeBytes s line data with bound := mapDel s.bound line }) (wf_writeBytes h line data) line 0
  have hv : (asValue s line data).poisoned line = false := poisoned_setPoison hw hl false
  rw [State.poisoned, poisonLine_dram hl] at hv ⊢
  rw [resolved]
  split <;> exact hv

theorem readPhys_resolved (s : State) (line : Nat) (data : List Byte) (ha : isDram a = true) :
    readPhys (resolved s line data) a = readPhys (writeBytes s line data) a := by
  rw [resolved]
  split
  · exact readPhys_modDie (asValue s line data) _ countResolved (ha := ha)
  · rfl

theorem cellTags_spoilt (s : State) (line reason : Nat) :
    (spoilt s line reason).cellTags = cellSet 0 s.cellTags (lineOf line) 3 := by
  rw [← cellTags_writeBytes s (line + 34) (leBytes 2 reason), spoilt, asPoison, State.modDie_cellTags]
  rfl

theorem readPhys_spoilt (s : State) (line reason : Nat) (ha : isDram a = true) :
    readPhys (spoilt s line reason) a = readPhys (writeBytes s (line + 34) (leBytes 2 reason)) a := by
  rw [spoilt, readPhys_modDie _ _ (countPoisoned reason) (ha := ha), asPoison]
  generalize writeBytes s (line + 34) (leBytes 2 reason) = t
  rfl

section
variable (h : Memory.wf s = true) (hl : line % 128 = 0) (hs : Stored s line 128) (hd : data.length = 128)
include h hl hs hd

theorem readLine_writeBytes : readLine (writeBytes s line data) line = data := by
  rw [readLine, lineOf_of_aligned hl, ← hd]
  exact readBytes_writeBytes h (hd ▸ hs)

/-- DEFER: the record stands in the line, and the tag is DEFERRED. -/
theorem cellOp_defer_writes_record (who : Who) (arg : Word) (p : Piece) (ht : s.cellTag line = 0 ∨ s.cellTag line = 3)
    (hf : isFollow s line = false) :
    (cellOp 2 line who data arg p s).1 = .done (leBytes 8 1) ∧ (cellOp 2 line who data arg p s).2.cellTag line = 1 ∧
      readLine (cellOp 2 line who data arg p s).2 line = data := by
  rw [cellOp_defer_of_changes who arg p (cellChanges_defer_iff.2 ⟨ht, hf⟩), lineOf_of_aligned hl]
  exact ⟨rfl, cellTag_of_cellSet (wf_writeBytes h _ _) rfl, readLine_writeBytes h hl hs hd⟩

/-- RESOLVE: the data stand in the line, which is VALUE and unmarked. -/
theorem cellOp_resolve_writes_value (who : Who) (arg : Word) (p : Piece) (ht : s.cellTag line ≠ 3) :
    (cellOp 3 line who data arg p s).1 = .done (leBytes 8 0) ∧ (cellOp 3 line who data arg p s).2.cellTag line = 0 ∧
      readLine (cellOp 3 line who data arg p s).2 line = data ∧ (cellOp 3 line who data arg p s).2.poisoned line = false := by
  rw [cellOp_resolve who arg p ht, lineOf_of_aligned hl]
  refine ⟨rfl, cellTag_of_cellSet h (cellTags_resolved s line data), ?_, poisoned_resolved h (hs 0 (by omega)).1⟩
  refine Eq.trans ?_ (readLine_writeBytes h hl hs hd)
  rw [readLine, readLine, lineOf_of_aligned hl]
  exact readBytes_congr fun i hi => readPhys_resolved s line data (hs i hi).1

omit hd in
/-- POISON: the reason stands at byte 34, and the tag is POISON. -/
theorem cellOp_poison_writes_reason (who : Who) (arg : Word) (p : Piece) (ht : s.cellTag line ≠ 3) :
    (cellOp 4 line who data arg p s).1 = .done (leBytes 8 3) ∧ (cellOp 4 line who data arg p s).2.cellTag line = 3 ∧
      leNat (readBytes (cellOp 4 line who data arg p s).2 (line + 34) 2) = arg.toNat % 65536 := by
  rw [cellOp_poison who arg p ht, lineOf_of_aligned hl]
  refine ⟨rfl, cellTag_of_cellSet h (cellTags_spoilt s line _), ?_⟩
  have hreason : Stored s (line + 34) 2 := hs.part 34 (by omega)
  calc leNat (readBytes (spoilt s line (arg.toNat % 65536)) (line + 34) 2)
    _ = leNat (readBytes (writeBytes s (line + 34) (leBytes 2 (arg.toNat % 65536))) (line + 34) 2) :=
      congrArg leNat (readBytes_congr fun i hi => readPhys_spoilt s line _ (hreason i hi).1)
    _ = leNat (leBytes 2 (arg.toNat % 65536)) := congrArg leNat (readBytes_writeBytes h hreason)
    _ = arg.toNat % 65536 := (leNat_leBytes 2 _).trans (Nat.mod_mod _ _)

/-- An operation on a cell leaves the bytes of every other line. -/
theorem readPhys_cellOp_outside (who : Who) (arg : Word) (p : Piece) {k : Nat} (hk : k = 2 ∨ k = 3 ∨ k = 4)
    (ha : isDram a = true) (hout : a < line ∨ line + 128 ≤ a) :
    readPhys (cellOp k line who data arg p s).2 a = readPhys s a := by
  have hline : readPhys (writeBytes s line data) a = readPhys s a :=
    readPhys_writeBytes_outside h (hd ▸ hs) ha (hd ▸ hout)
  obtain rfl | rfl | rfl := hk
  case inl =>
    cases hc : cellChanges s 2 line with
    | false => rw [cellOp_defer_of_refused who arg p hc]
    | true =>
      rw [cellOp_defer_of_changes who arg p hc, lineOf_of_aligned hl]
      exact hline
  case inr.inl =>
    by_cases ht : s.cellTag line = 3
    · rw [cellOp_resolve_of_poison who arg p ht]
    · rw [cellOp_resolve who arg p ht, lineOf_of_aligned hl, readPhys_resolved s line data ha, hline]
  case inr.inr =>
    by_cases ht : s.cellTag line = 3
    · rw [cellOp_poison_of_poison who arg p ht]
    · rw [cellOp_poison who arg p ht, lineOf_of_aligned hl, readPhys_spoilt s line _ ha]
      have hout : a < line + 34 ∨ line + 34 + 2 ≤ a := by omega
      exact readPhys_writeBytes_outside h (hs.part 34 (show 34 + 2 ≤ 128 by omega)) ha hout

end

end Sys2Proof.Machine
end

section
/-! PROOFS. The obligation about cell operations, refuted where it speaks of memory that is not in canonical form (R184, Table 9-3). -/

namespace Sys2Proof.Machine

/-- A module whose list of tags lists one cell twice, first as DEFERRED and then as RUNNING: not in canonical form. -/
def twiceTagged : State := { State.reset with cellTags := [(0x600000, 1), (0x600000, 2)] }

theorem stored_twiceTagged : Stored twiceTagged 0x600000 128 := fun i hi => by
  have hdram : isDram (0x600000 + i) = true := decide_eq_true (by omega)
  have hstack : (0x600000 + i) / 0x000C00000000 = 0 := by omega
  have hgranule : (0x600000 + i) % 0x000C00000000 / 0x400000 = 1 := by omega
  have hcap : 1 < (twiceTagged.die (dSite 0)).stackCap := by decide
  exact ⟨hdram, _, locate_dram_of_unswitched hdram (by rw [hstack, hgranule]; exact hcap) (by rw [hstack]; rfl)⟩

/-- Refutes O23: it speaks of every state, also of those whose lists of tags and bytes are not in canonical form (`Memory.wf`), the form
that reset has and that writing keeps. Where the list of tags lists a cell twice, RESOLVE takes out the first entry, and the tag then
reads as the second says, RUNNING and not VALUE. In canonical memory each row of the table holds: `cellOp_defer_writes_record`,
`cellOp_defer_of_refused` with `cellChanges_defer_iff`, `cellOp_resolve_writes_value`, `cellOp_resolve_of_poison`,
`cellOp_poison_writes_reason`, `cellOp_poison_of_poison`, `cellOp_stat` with `cellWord_mod_four`, and `readPhys_cellOp_outside`. -/
theorem not_cellOperationsFollowTheTable : ¬ Obligations.CellOperationsFollowTheTable := by
  intro h
  have htag : twiceTagged.cellTag 0x600000 ≠ 3 := by decide
  obtain ⟨-, -, hresolve, -⟩ :=
    h twiceTagged (.core 0 .t) 0x600000 (leBytes 128 0) 0 noPiece rfl (length_leBytes 128 0) stored_twiceTagged
  obtain ⟨-, hvalue, -⟩ := hresolve htag
  have hrunning : (cellOp 3 0x600000 (.core 0 .t) (leBytes 128 0) 0 noPiece twiceTagged).2.cellTag 0x600000 = 2 := by
    rw [cellOp_resolve (.core 0 .t) 0 noPiece htag, State.cellTag, cellTags_resolved]
    rfl
  exact absurd (hrunning.symm.trans hvalue) (by decide)

end Sys2Proof.Machine
end

section
/-! PROOFS. Placing an operand leaves the context as it was (R392): a translation changes caches of addresses, layers and counters. -/

namespace Sys2Proof.Machine

/-- A part that answers answers in its first step, and then in the rest. -/
theorem M.ok_of_bind {α β : Type} {x : M α} {f : α → M β} {s t : State} {b : β} (h : (x >>= f) s = .ok b t) :
    ∃ a u, x s = .ok a u ∧ f a u = .ok b t := by
  cases hx : x s with
  | ok a u => exact ⟨a, u, rfl, (M.bind_ok hx).symm.trans h⟩
  | error e u => cases (M.bind_error hx).symm.trans h

/-- A part that answers has passed the check before it. -/
theorem M.ok_of_check {α β : Type} {c : Prop} [Decidable c] {e : Stop} {f : α → M β} {x : M β} {s t : State} {b : β}
    (h : (if c then throw e >>= f else x) s = .ok b t) : x s = .ok b t := by
  split at h
  · cases h
  · exact h

@[simp] theorem core_countPath (s : State) (src dst n : Nat) : (countPath s src dst).core n = s.core n := by
  unfold countPath
  split
  · rfl
  · exact core_foldl (fun s l => (State.core_modDie _ _ _ _).trans (State.core_modDie _ _ _ _)) _ s

@[simp] theorem core_wakeTables (s : State) (va : Word) (n : Nat) : (wakeTables s va).core n = s.core n := by
  unfold wakeTables
  dsimp only
  split
  · rfl
  · split
    · rfl
    · exact core_foldl (fun s a => by rw [countAccess, core_countPath, core_countPath, core_wake]) _ s

/-- An update of a core that keeps its context keeps the context of the turn. -/
theorem ctx_modCore (s : State) (n : Nat) {f : Core → Core} (h : ∀ k, (f k).ctx = k.ctx := by exact fun _ => rfl) :
    (s.modCore n f).ctx = s.ctx := by
  show ((s.modCore n f).core s.turn).ctx = (s.core s.turn).ctx
  by_cases hn : s.turn = n
  · rw [hn, State.core_modCore_same, h]
  · rw [State.core_modCore_other _ _ _ _ hn]

@[simp] theorem ctx_noteLeaf (s : State) (va : Word) (l : Leaf) : (noteLeaf s va l).ctx = s.ctx := by
  have hturn : (wakeTables s va).turn = s.turn := congrArg Bearings.turn (bearings_wakeTables s va)
  calc (noteLeaf s va l).ctx
    _ = ((wakeTables s va).modCore (wakeTables s va).turn fun c =>
        { c with tlb := putEntry (tlbOf (wakeTables s va) va.toNat l) c.tlb }).ctx := rfl
    _ = (wakeTables s va).ctx := ctx_modCore _ _
    _ = s.ctx := by rw [State.ctx, hturn, core_wakeTables, State.ctx]

theorem ctx_placeOf {va : Word} {len acc elem : Nat} {s t : State} {p : Piece} (h : placeOf va len acc elem s = .ok p t) :
    t.ctx = s.ctx := by
  obtain ⟨s', u, hget, h⟩ := M.ok_of_bind h
  cases hget
  cases hl : translateHere s va acc with
  | error e =>
    simp only [hl] at h
    obtain ⟨_, u, -, h⟩ := M.ok_of_bind h
    cases h
  | ok l =>
    simp only [hl] at h
    obtain ⟨_, u, hnote, h⟩ := M.ok_of_bind h
    cases hnote
    cases M.ok_of_check h
    exact ctx_noteLeaf s va l

theorem ctx_placeAligned {va : Word} {len align acc : Nat} {s t : State} {p : Piece}
    (h : placeAligned va len align acc s = .ok p t) : t.ctx = s.ctx :=
  ctx_placeOf (M.ok_of_check (M.ok_of_check h))

end Sys2Proof.Machine
end

section
/-! PROOFS. The words of barrier objects, from the place of their object on (R418 to R421). -/

namespace Sys2Proof.Machine

variable {f : VForm} {s t t' : State} {p : Piece} {tagged : Bool} {acc : Nat}

theorem ctx_barrierPlace {a : Word} (h : barrierPlace a acc tagged s = .ok p t) : t.ctx = s.ctx := by
  obtain ⟨q, u, hq, h⟩ := M.ok_of_bind h
  obtain ⟨u', v, hget, h⟩ := M.ok_of_bind h
  cases hget
  rw [← ctx_placeAligned hq]
  cases ho : ownPad u.turn q with
  | none =>
    simp only [ho] at h
    cases h
  | some off =>
    simp only [ho] at h
    cases M.ok_of_check (M.ok_of_check (M.ok_of_check h))
    rfl

/-- The word `f` has its address at hand and has found the object `p` there, which has left the state `t`. -/
structure AtObject (f : VForm) (s : State) (acc : Nat) (tagged : Bool) (p : Piece) (t : State) : Prop where
  ready : s.ctx.xReady f.a.toNat = true
  place : barrierPlace (s.ctx.regX f.a.toNat).val acc tagged (closeWindow s) = .ok p t

theorem AtObject.ctx (h : AtObject f s acc tagged p t) : t.ctx = s.ctx.closed :=
  (ctx_barrierPlace h.place).trans (ctx_closeWindow s)

theorem exec_binit (h : AtObject f s aTagStore false p t) (hb : s.ctx.xReady f.b.toNat = true) :
    exec (.binit f) s = .next ((binit t p.pa ((s.ctx.regX f.b.toNat).val.toNat % 2 ^ 32)).retired .t 4).settled :=
  tWordClosing_ok ((M.bind_ok (rdV_x_closed h.ready _)).trans ((M.bind_ok (rdV_x_closed hb _)).trans (M.bind_ok h.place)))

theorem exec_bexp (h : AtObject f s aTagStore true p t) (hb : s.ctx.xReady f.b.toNat = true) :
    exec (.bexp f) s = .next ((bexp t p.pa ((s.ctx.regX f.b.toNat).val.toNat % 2 ^ 32)).retired .t 4).settled :=
  tWordClosing_ok ((M.bind_ok (rdV_x_closed h.ready _)).trans ((M.bind_ok (rdV_x_closed hb _)).trans (M.bind_ok h.place)))

theorem exec_binv (h : AtObject f s aTagStore true p t) : exec (.binv f) s = .next ((binv t p.pa).retired .t 4).settled :=
  tWordClosing_ok ((M.bind_ok (rdV_x_closed h.ready _)).trans (M.bind_ok h.place))

/-- A closing T word whose body ends with a scalar result. -/
theorem tWordClosing_writes {k n : Nat} {v : Word} {body : M Unit} (h : body (closeWindow s) = rdV.xw n v t)
    (hd : t.ctx.xWritable n = true) : tWordClosing k body s = .next (t.wordDone k (t.ctx.putX n v)) := by
  obtain ⟨u, hu, hret⟩ := retired_writeX (r := replay) (v := v) hd .t k
  rw [State.wordDone, ← hret]
  exact tWordClosing_ok (h.trans hu)

theorem exec_btest (h : AtObject f s aTagLoad true p t) (hd : s.ctx.xWritable f.d.toNat = true) :
    exec (.btest f) s = .next (t.wordDone 4 (t.ctx.putX f.d.toNat (wordOf 8 false (readBytes t (p.pa + 8) 8)))) :=
  tWordClosing_writes ((M.bind_ok (rdV_x_closed h.ready _)).trans ((M.bind_ok h.place).trans (M.bind_ok (M.get_run t))))
    (h.ctx ▸ xWritable_closed hd)

@[simp] theorem ctx_acquire (s : State) (n : Nat) : (acquire s n).ctx = s.ctx :=
  ctx_modCore s n (h := fun k => by
    show k.nextGen.ctx = k.ctx
    unfold Core.nextGen
    dsimp only
    split <;> rfl)

/-- An acquire changes generations and the tick of its core, not its context (R218). -/
@[simp] theorem ctx_acquireAt (s : State) (n b : Nat) : (acquireAt s n b).ctx = s.ctx := by
  rw [acquireAt, acquireBar, ctx_modCore]
  split
  · exact ctx_acquire s n
  · exact ctx_acquire s n

/-- BWAIT whose phase has been left acquires and answers word 3. -/
theorem exec_bwait {bs : List Byte} (h : AtObject f s aTagLoad true p t) (hd : s.ctx.xWritable f.d.toNat = true)
    (hw : tAccess 4 { act := .barWait (f.imm.getLsbD 0), pieces := [p] } (.x f.d.toNat 4 false) t = .ok bs t')
    (hc : t'.ctx = s.ctx.closed) :
    exec (.bwait f) s = .next ((acquireAt t' t'.turn p.pa).wordDone 4 (t'.ctx.putX f.d.toNat (wordOf 4 false bs))) := by
  have hctx : (acquireAt t' t'.turn p.pa).ctx = t'.ctx := ctx_acquireAt _ _ _
  rw [← hctx]
  exact tWordClosing_writes ((M.bind_ok (rdV_x_closed h.ready _)).trans ((M.bind_ok h.place).trans
    ((M.bind_ok (rdV_xprep (h.ctx ▸ xWritable_closed hd))).trans ((M.bind_ok hw).trans (M.bind_ok (M.modify_run _ t'))))))
    (by rw [hctx, hc]; exact xWritable_closed hd)

end Sys2Proof.Machine
end

section
/-! PROOFS. The four words of a barrier object in canonical memory (R215, R216): what one of them reads after a write to one. -/

namespace Sys2Proof.Machine

variable {s : State} {pa b : Nat}

/-- `n` bytes from `pa` are stored under their own addresses, whatever the state: bytes of scratchpads. -/
def PadStored (pa n : Nat) : Prop := ∀ i < n, ∀ s, locate s (pa + i) = .ok ⟨false, pa + i⟩

theorem PadStored.part {m n : Nat} (h : PadStored pa n) (o : Nat) (hle : o + m ≤ n) : PadStored (pa + o) m := fun i hi s => by
  rw [Nat.add_assoc]
  exact h (o + i) (by omega) s

theorem coreOk_lt {core : Nat} (h : coreOk core = true) : core < 65536 := by
  simp only [coreOk, Bool.and_eq_true, decide_eq_true_eq] at h
  omega

/-- The bytes of an object: it is aligned and lies below 0x6000 (R215). -/
theorem padStored_object {core off : Nat} (hoff : off % 16 = 0) (hlt : off < 0x6000) (hcore : coreOk core = true) :
    PadStored (padAddr core off) 16 := fun i hi s => by
  have := coreOk_lt hcore
  have hspace : spaceOf (padAddr core off + i) = .pad core (off + i) := by
    have hdiv : (padAddr core off + i - padBase) / 0x8000 = core := by simp only [padAddr]; omega
    have hmod : (padAddr core off + i - padBase) % 0x8000 = off + i := by simp only [padAddr]; omega
    have hlo : padBase ≤ padAddr core off + i := by simp only [padAddr]; omega
    have hhi : padAddr core off + i < 0x030080000000 := by simp only [padAddr, padBase]; omega
    have hbase : padBase = 0x030000000000 := rfl
    rw [spaceOf, hdiv, hmod, if_neg (by omega), if_neg (by omega), if_neg (by omega), if_neg (by omega), if_pos hhi]
  simp only [locate, hspace, hcore, Bool.not_true, Bool.false_eq_true, if_false, if_neg (show ¬ off + i ≥ 0x6000 by omega)]

/-- A byte after a write of bytes. -/
theorem readPhys_writeBytes_pad {a : Nat} {bs : List Byte} (h : Memory.wf s = true) (hs : PadStored pa bs.length)
    (ha : PadStored a 1) :
    readPhys (writeBytes s pa bs) a = if pa ≤ a then bs.getD (a - pa) (readPhys s a) else readPhys s a := by
  induction bs generalizing s pa with
  | nil => simp [writeBytes]
  | cons x bs ih =>
    rw [List.length_cons] at hs
    have hpa : ∀ s, locate s pa = .ok ⟨false, pa⟩ := hs 0 (by omega)
    have ha' : ∀ s, locate s a = .ok ⟨false, a⟩ := ha 0 (by omega)
    have hhead : readPhys (writePhys s pa x) a = if a = pa then x else readPhys s a := by
      rw [readPhys, ha', writePhys, hpa, readPhys, ha']
      simpa using readAt_writeAt h ⟨false, pa⟩ ⟨false, a⟩ x
    rw [writeBytes, ih (wf_writePhys h pa x) (hs.part 1 (by omega)), hhead]
    rcases Nat.lt_trichotomy a pa with hlt | rfl | hgt
    · rw [if_neg (by omega), if_neg (by omega), if_neg (by omega)]
    · rw [if_neg (by omega), if_pos rfl, if_pos (Nat.le_refl a), Nat.sub_self, List.getD_cons_zero]
    · have hk : a - pa = a - (pa + 1) + 1 := by omega
      rw [if_pos (Nat.succ_le_of_lt hgt), if_neg (Nat.ne_of_gt hgt), if_pos (Nat.le_of_lt hgt), hk, List.getD_cons_succ]

/-- Words 0 to 3 of an object: expected, arrived, phase with waiters, status. -/
def objectWords (s : State) (b : Nat) : List Nat := (List.range 4).map (barWord s b)

theorem objectWords_eq (s : State) (b : Nat) :
    objectWords s b = [barWord s b 0, barWord s b 1, barWord s b 2, barWord s b 3] := rfl

theorem barWord_setBarWord_same (h : Memory.wf s = true) (hb : PadStored b 16) {i : Nat} (hi : i < 4) (v : Nat) :
    barWord (setBarWord s b i v) b i = v % 2 ^ 32 := by
  have hs : PadStored (b + 4 * i) (leBytes 4 v).length := hb.part _ (by rw [length_leBytes]; omega)
  have hread : readBytes (setBarWord s b i v) (b + 4 * i) 4 = leBytes 4 v := by
    refine List.ext_getElem (by simp [readBytes, length_leBytes]) fun k hk hk' => ?_
    have hk4 : k < 4 := by simpa [readBytes] using hk
    have ha : PadStored (b + 4 * i + k) 1 := (hb.part (4 * i) (m := 4) (by omega)).part k (by omega)
    simp only [readBytes, List.getElem_map, List.getElem_range]
    rw [setBarWord, readPhys_writeBytes_pad h hs ha, if_pos (Nat.le_add_right _ _), Nat.add_sub_cancel_left,
      List.getD_eq_getElem?_getD, List.getElem?_eq_getElem hk', Option.getD_some]
  exact (congrArg leNat hread).trans (leNat_leBytes 4 v)

theorem barWord_setBarWord_other (h : Memory.wf s = true) (hb : PadStored b 16) {i j : Nat} (hi : i < 4) (hj : j < 4)
    (hne : j ≠ i) (v : Nat) : barWord (setBarWord s b i v) b j = barWord s b j := by
  have hs : PadStored (b + 4 * i) (leBytes 4 v).length := hb.part _ (by rw [length_leBytes]; omega)
  refine congrArg leNat (readBytes_congr fun k hk => ?_)
  have ha : PadStored (b + 4 * j + k) 1 := (hb.part (4 * j) (m := 4) (by omega)).part k (by omega)
  rw [setBarWord, readPhys_writeBytes_pad h hs ha]
  split
  · rw [List.getD_eq_getElem?_getD, List.getElem?_eq_none (by rw [length_leBytes]; omega), Option.getD_none]
  · rfl

/-- A write to a word of an object sets this word alone. -/
theorem objectWords_setBarWord (h : Memory.wf s = true) (hb : PadStored b 16) {i : Nat} (hi : i < 4) (v : Nat) :
    objectWords (setBarWord s b i v) b = (objectWords s b).set i (v % 2 ^ 32) := by
  refine List.ext_getElem (by simp [objectWords]) fun j hj _ => ?_
  have hj4 : j < 4 := by simpa [objectWords] using hj
  simp only [objectWords, List.getElem_map, List.getElem_range, List.getElem_set]
  split
  · next hij => rw [← hij, barWord_setBarWord_same h hb hi]
  · next hij => exact barWord_setBarWord_other h hb hi hj4 (Ne.symm hij) v

theorem leNat_lt (bs : List Byte) : leNat bs < 256 ^ bs.length := by
  induction bs with
  | nil => exact Nat.one_pos
  | cons x bs ih =>
    have := x.isLt
    rw [leNat, List.length_cons, Nat.pow_succ]
    omega

theorem barWord_lt (s : State) (b i : Nat) : barWord s b i < 2 ^ 32 := by
  simpa [readBytes, barWord] using leNat_lt (readBytes s (b + 4 * i) 4)

end Sys2Proof.Machine
end

section
/-! PROOFS. What an arrival, and BINIT on no object, make of the words of an object (R216, R217, R418), in canonical memory. -/

namespace Sys2Proof.Machine

variable {s : State} {b : Nat}

/-- Memory is in canonical form, no access waits, and `b` is the place of an object. -/
structure Quiet (s : State) (b : Nat) : Prop where
  canonical : Memory.wf s = true
  idle : s.waiters = []
  stored : PadStored b 16

theorem Quiet.object {core off : Nat} (h : Memory.wf s = true) (hidle : s.waiters = []) (hoff : off % 16 = 0) (hlt : off < 0x6000)
    (hcore : coreOk core = true) : Quiet s (padAddr core off) := ⟨h, hidle, padStored_object hoff hlt hcore⟩

/-- A reset module is such a state at the start of the first scratchpad. -/
theorem quiet_reset : Quiet State.reset (padAddr 0 0) := .object wf_reset rfl rfl (by decide) rfl

@[simp] theorem waiters_writeBytes (s : State) (pa : Nat) (bs : List Byte) : (writeBytes s pa bs).waiters = s.waiters := by
  induction bs generalizing s pa with
  | nil => rfl
  | cons x bs ih =>
    rw [writeBytes, ih, writePhys]
    split
    · unfold writeAt
      split <;> rfl
    · rfl

@[simp] theorem tags_writeBytes (s : State) (pa : Nat) (bs : List Byte) : (writeBytes s pa bs).tags = s.tags := by
  induction bs generalizing s pa with
  | nil => rfl
  | cons x bs ih =>
    rw [writeBytes, ih, writePhys]
    split
    · unfold writeAt
      split <;> rfl
    · rfl

theorem Quiet.setBarWord (h : Quiet s b) (i v : Nat) : Quiet (setBarWord s b i v) b :=
  ⟨wf_writeBytes h.canonical _ _, (waiters_writeBytes s _ _).trans h.idle, h.stored⟩

theorem Quiet.words_set (h : Quiet s b) {i : Nat} (hi : i < 4) (v : Nat) :
    objectWords (Machine.setBarWord s b i v) b = (objectWords s b).set i (v % 2 ^ 32) :=
  objectWords_setBarWord h.canonical h.stored hi v

/-- Looking at the markers changes dies alone. -/
theorem noteMarkers_eq (s : State) : ∃ d, noteMarkers s = { s with dies := d } := by
  unfold noteMarkers
  split
  · exact ⟨s.dies, rfl⟩
  · exact ⟨_, rfl⟩

theorem Quiet.noteMarkers (h : Quiet s b) : Quiet (noteMarkers s) b := by
  obtain ⟨d, hd⟩ := noteMarkers_eq s
  rw [hd]
  exact ⟨h.canonical, h.idle, h.stored⟩

theorem objectWords_noteMarkers (hb : PadStored b 16) (s : State) : objectWords (noteMarkers s) b = objectWords s b := by
  obtain ⟨d, hd⟩ := noteMarkers_eq s
  rw [hd]
  refine List.map_congr_left fun i hi => congrArg leNat (readBytes_congr fun k hk => ?_)
  have hi4 : i < 4 := List.mem_range.1 hi
  have hplace := hb.part (4 * i) (m := 4) (by omega) k hk
  rw [readPhys, hplace, readPhys, hplace]
  rfl

/-- With no access waiting, a release writes word 2 as it stands. -/
theorem release_of_idle (h : s.waiters = []) (acq : Bool) (sel : Bool → Bool) :
    release s b acq sel = setBarWord s b 2 (barWord s b 2) := by
  have hs : { s with waiters := [] } = s := by rw [← h]
  simp only [release, h, List.filter_nil, List.length_nil, Nat.sub_zero, List.foldl_nil, hs]
  rw [Nat.mul_comm, Nat.mod_add_div]

theorem barWord_of_words {e a p w : Nat} (h : objectWords s b = [e, a, p, w]) :
    barWord s b 0 = e ∧ barWord s b 1 = a ∧ barWord s b 2 = p ∧ barWord s b 3 = w := by
  simpa [objectWords_eq] using h

/-- A word that is written as it stands stays. -/
theorem Quiet.words_rewrite (h : Quiet s b) {i : Nat} (hi : i < 4) :
    objectWords (Machine.setBarWord s b i (barWord s b i)) b = objectWords s b := by
  have hsame : barWord s b i % 2 ^ 32 = (objectWords s b)[i]'(by simpa [objectWords] using hi) := by
    rw [Nat.mod_eq_of_lt (barWord_lt s b i)]
    simp [objectWords]
  rw [h.words_set hi, hsame, List.set_getElem_self]

/-! ## check_phase -/

/-- Word 2 with the phase in bit 0 turned. -/
def turned (p : Nat) : Nat := if p % 2 = 0 then p + 1 else p - 1

theorem turned_eq (p : Nat) : p - p % 2 + b2n (p % 2 == 0) = turned p := by
  by_cases h : p % 2 = 0
  · simp [turned, b2n, h]
  · simp [turned, b2n, Nat.mod_two_ne_zero.1 h]

theorem turned_lt {p : Nat} (h : p < 2 ^ 32) : turned p < 2 ^ 32 := by
  unfold turned
  split <;> omega

/-- Word 3 when a phase ends with `a` arrivals of `e`: OVER is set where some remain (R216). -/
def overMarked (e a w : Nat) : Nat := if e < a then Nat.lor w 1 else w

theorem overMarked_lt {e a w : Nat} (h : w < 2 ^ 32) : overMarked e a w < 2 ^ 32 := by
  unfold overMarked
  split
  · exact Nat.or_lt_two_pow h (by decide)
  · exact h

/-- What check_phase makes of the words of an object. -/
def phaseChecked (e a p w : Nat) : List Nat :=
  if 0 < e ∧ e ≤ a then [e, a - e, turned p, overMarked e a w] else [e, a, p, w]

/-- The arrivals of a phase that ends are taken off, and OVER is set where some remain. -/
def arrivalsTaken (s : State) (b e a : Nat) : State :=
  let t := setBarWord s b 1 (a - e)
  if a - e > 0 then setBarWord t b 3 (Nat.lor (barWord t b 3) 1) else t

/-- The phase of an object turns, and those that wait for it go on. -/
def phaseTurned (s : State) (b : Nat) : State :=
  let p := barWord s b 2
  release (noteMarkers (setBarWord s b 2 (p - p % 2 + b2n (p % 2 == 0)))) b true fun k => k != (p % 2 == 0)

theorem checkPhase_of_due (h : 0 < barWord s b 0 ∧ barWord s b 0 ≤ barWord s b 1) :
    checkPhase s b = phaseTurned (arrivalsTaken s b (barWord s b 0) (barWord s b 1)) b := if_pos h

theorem checkPhase_of_running (h : ¬ (0 < barWord s b 0 ∧ barWord s b 0 ≤ barWord s b 1)) : checkPhase s b = s := if_neg h

variable {e a p w : Nat}

theorem Quiet.arrivalsTaken (h : Quiet s b) : Quiet (arrivalsTaken s b e a) b := by
  unfold Machine.arrivalsTaken
  dsimp only
  split
  · exact (h.setBarWord 1 _).setBarWord 3 _
  · exact h.setBarWord 1 _

theorem objectWords_arrivalsTaken (h : Quiet s b) (hw : objectWords s b = [e, a, p, w]) :
    objectWords (arrivalsTaken s b e a) b = [e, a - e, p, overMarked e a w] := by
  obtain ⟨-, ha, -, hstat⟩ := barWord_of_words hw
  have ha' : a < 2 ^ 32 := ha ▸ barWord_lt s b 1
  have hlt : a - e < 2 ^ 32 := by omega
  have hover : overMarked e a w < 2 ^ 32 := overMarked_lt (hstat ▸ barWord_lt s b 3)
  have htaken : objectWords (setBarWord s b 1 (a - e)) b = [e, a - e, p, w] := by
    rw [h.words_set (by decide), hw, Nat.mod_eq_of_lt hlt]
    rfl
  unfold arrivalsTaken
  dsimp only
  by_cases hc : e < a
  · obtain ⟨-, -, -, hstat'⟩ := barWord_of_words htaken
    rw [overMarked, if_pos hc] at hover ⊢
    rw [if_pos (by omega), hstat', (h.setBarWord 1 _).words_set (by decide), htaken, Nat.mod_eq_of_lt hover]
    rfl
  · rw [if_neg (by omega), htaken, overMarked, if_neg hc]

theorem objectWords_phaseTurned (h : Quiet s b) (hw : objectWords s b = [e, a, p, w]) :
    objectWords (phaseTurned s b) b = [e, a, turned p, w] := by
  obtain ⟨-, -, hp, -⟩ := barWord_of_words hw
  have hlt : turned p < 2 ^ 32 := turned_lt (hp ▸ barWord_lt s b 2)
  have hq : Quiet (noteMarkers (setBarWord s b 2 (turned p))) b := (h.setBarWord 2 _).noteMarkers
  rw [phaseTurned, hp, turned_eq, release_of_idle hq.idle, hq.words_rewrite (by decide), objectWords_noteMarkers h.stored,
    h.words_set (by decide), hw, Nat.mod_eq_of_lt hlt]
  rfl

theorem objectWords_checkPhase (h : Quiet s b) (hw : objectWords s b = [e, a, p, w]) :
    objectWords (checkPhase s b) b = phaseChecked e a p w := by
  obtain ⟨he, ha, -, -⟩ := barWord_of_words hw
  by_cases hc : 0 < e ∧ e ≤ a
  · rw [checkPhase_of_due (by rwa [he, ha]), he, ha, phaseChecked, if_pos hc]
    exact objectWords_phaseTurned h.arrivalsTaken (objectWords_arrivalsTaken h hw)
  · rw [checkPhase_of_running (by rwa [he, ha]), hw, phaseChecked, if_neg hc]

/-! ## Arrivals -/

theorem arrive_of_none (h : isBarrier s b = false) (n : Nat) (launch : Bool) (code : Nat) :
    arrive s b n launch code = (s, false) := by
  simp [arrive, h]

/-- Arrivals as counted, 2^32 - 1 at most. -/
def arrivals (a n : Nat) : Nat := min (a + n) (2 ^ 32 - 1)

theorem arrivals_eq (a n : Nat) : (if a + n ≥ 2 ^ 32 then 2 ^ 32 - 1 else a + n) = arrivals a n := by
  unfold arrivals
  split <;> omega

/-- A plain arrival writes word 3 as it stands, counts, and ends the phase where that is due. -/
theorem arrive_of_object (h : isBarrier s b = true) (n : Nat) : arrive s b n false 0 =
    (checkPhase (setBarWord (setBarWord s b 3 (barWord s b 3)) b 1
      (arrivals (barWord (setBarWord s b 3 (barWord s b 3)) b 1) n)) b, true) := by
  simp [arrive, h, ← arrivals_eq]

/-- R216: an arrival at an object without waiters, in canonical memory. -/
theorem objectWords_arrive (h : Quiet s b) (hb : isBarrier s b = true) (n : Nat) :
    objectWords (arrive s b n false 0).1 b =
      phaseChecked (barWord s b 0) (arrivals (barWord s b 1) n) (barWord s b 2) (barWord s b 3) := by
  have hq := h.setBarWord 3 (barWord s b 3)
  have hw : objectWords (setBarWord s b 3 (barWord s b 3)) b = _ := (h.words_rewrite (by decide)).trans (objectWords_eq s b)
  obtain ⟨-, ha, -, -⟩ := barWord_of_words hw
  have hlt : arrivals (barWord s b 1) n < 2 ^ 32 := Nat.lt_of_le_of_lt (Nat.min_le_right _ _) (by decide)
  rw [arrive_of_object hb, ha]
  refine objectWords_checkPhase (hq.setBarWord 1 _) ?_
  rw [hq.words_set (by decide), hw, Nat.mod_eq_of_lt hlt]
  rfl

/-! ## BINIT on no object -/

/-- The state with the four words at `b` tagged BARRIER. -/
def madeObject (s : State) (b : Nat) : State := (List.range 4).foldl (fun (s : State) i => s.setTag (b + 4 * i) 2) s

/-- The state with words 0 to 2 of an object at the start of its first phase. -/
def phaseBegun (s : State) (b n : Nat) : State := setBarWord (setBarWord (setBarWord s b 0 n) b 1 0) b 2 0

theorem binit_of_none (h : isBarrier s b = false) (n : Nat) :
    binit s b n = setBarWord (noteMarkers (phaseBegun (madeObject s b) b n)) b 3 0 := by
  simp only [binit, h, Bool.false_and, Bool.false_eq_true, if_false]
  rfl

theorem Quiet.madeObject (h : Quiet s b) : Quiet (madeObject s b) b :=
  ⟨wf_setTag (wf_setTag (wf_setTag (wf_setTag h.canonical _ _) _ _) _ _) _ _, h.idle, h.stored⟩

theorem Quiet.phaseBegun (h : Quiet s b) (n : Nat) : Quiet (phaseBegun s b n) b :=
  ((h.setBarWord 0 n).setBarWord 1 0).setBarWord 2 0

/-- The object that BINIT makes: `n` arrivals expected, none counted, phase 0, no status. -/
theorem objectWords_binit (h : Quiet s b) (hb : isBarrier s b = false) {n : Nat} (hn : n < 2 ^ 32) :
    objectWords (binit s b n) b = [n, 0, 0, 0] := by
  have hq := h.madeObject
  have hbegun : objectWords (phaseBegun (madeObject s b) b n) b = [n, 0, 0, barWord (madeObject s b) b 3] := by
    rw [Machine.phaseBegun, ((hq.setBarWord 0 n).setBarWord 1 0).words_set (by decide),
      (hq.setBarWord 0 n).words_set (by decide), hq.words_set (by decide), objectWords_eq, Nat.mod_eq_of_lt hn]
    rfl
  rw [binit_of_none hb, (hq.phaseBegun n).noteMarkers.words_set (by decide), objectWords_noteMarkers h.stored, hbegun]
  rfl

theorem tag_setTag (h : Memory.wf s = true) (pa x : Nat) (t : BitVec 2) :
    (s.setTag pa t).tag x = if x / 4 = pa / 4 then t else s.tag x := by
  obtain ⟨-, -, htags, -⟩ := (wf_iff s).1 h
  exact mapGet_cellSet 1 s.tags _ _ t htags

theorem isBarrier_of_tags {t : State} (h : t.tags = s.tags) : isBarrier t b = isBarrier s b := by
  simp only [isBarrier, State.tag, h]

theorem isBarrier_madeObject (h : Memory.wf s = true) : isBarrier (madeObject s b) b = true := by
  have h0 := wf_setTag h (b + 4 * 0) 2
  have h1 := wf_setTag h0 (b + 4 * 1) 2
  have h2 := wf_setTag h1 (b + 4 * 2) 2
  have htag (x : Nat) : (madeObject s b).tag x =
      if x / 4 = (b + 4 * 3) / 4 then 2 else if x / 4 = (b + 4 * 2) / 4 then 2 else
        if x / 4 = (b + 4 * 1) / 4 then 2 else if x / 4 = (b + 4 * 0) / 4 then 2 else s.tag x := by
    rw [← tag_setTag h, ← tag_setTag h0, ← tag_setTag h1, ← tag_setTag h2]
    rfl
  simp only [isBarrier, List.all_eq_true, List.mem_range, beq_iff_eq]
  intro i hi
  rw [htag]
  obtain rfl | rfl | rfl | rfl : i = 0 ∨ i = 1 ∨ i = 2 ∨ i = 3 := by omega
  all_goals simp

theorem isBarrier_binit (h : Quiet s b) (hb : isBarrier s b = false) (n : Nat) : isBarrier (binit s b n) b = true := by
  have hnoted (t : State) : (noteMarkers t).tags = t.tags := by
    obtain ⟨d, hd⟩ := noteMarkers_eq t
    rw [hd]
  have htags : (binit s b n).tags = (madeObject s b).tags := by
    simp only [binit_of_none hb, phaseBegun, setBarWord, tags_writeBytes, hnoted]
  rw [isBarrier_of_tags htags, isBarrier_madeObject h.canonical]

end Sys2Proof.Machine
end

section
/-! PROOFS. The obligation about barrier words, refuted where it speaks of memory that is not in canonical form (R216, R418). -/

namespace Sys2Proof.Machine

/-- A module whose list of bytes lists the first byte of a scratchpad twice: not in canonical form. -/
def twiceStored : State := { State.reset with mem := [(padAddr 0 0, 5), (padAddr 0 0, 5)] }

theorem binit_twiceStored : barWord (binit twiceStored (padAddr 0 0) 0) (padAddr 0 0) 0 = 5 := by decide

/-- Refutes O25: it speaks of every state, also of those whose list of bytes is not in canonical form (`Memory.wf`), the form that reset
has and that writing keeps. Where that list lists a byte twice, a write of 0 takes out the first entry, and the byte then reads as the
second says: an object that BINIT has set up for 0 arrivals expects 5. The rest stands. In every state the words do as is said:
`exec_binit`, `exec_bexp`, `exec_binv`, `exec_btest`, `exec_bwait`; in canonical memory the object does too: `objectWords_arrive`,
`arrive_of_none`, `isBarrier_binit`, `objectWords_binit`. -/
theorem not_barrierWordsActOnTheirObject : ¬ Obligations.BarrierWordsActOnTheirObject := by
  intro h
  obtain ⟨-, -, hbinit⟩ := h
  have hnone : isBarrier twiceStored (padAddr 0 0) = false := by decide
  obtain ⟨-, hmade⟩ := hbinit twiceStored 0 0 0 rfl (by decide) rfl rfl hnone
  obtain ⟨-, hwords⟩ := hmade (by decide)
  have hexpected : barWord (binit twiceStored (padAddr 0 0) 0) (padAddr 0 0) 0 = 0 := List.head_eq_of_cons_eq hwords
  exact absurd (binit_twiceStored.symm.trans hexpected) (by decide)

end Sys2Proof.Machine
end

section
/-! PROOFS. A-words (R222 to R226): how an engine begins one, what stops it there, and how it ends. -/

namespace Sys2Proof.Machine

@[simp] theorem M.map_run {α β : Type} (f : α → β) (x : M α) (s : State) :
    (f <$> x) s = match x s with
      | .ok a s' => .ok (f a) s'
      | .error e s' => .error e s' := by
  rw [map_eq_pure_bind, M.bind_run]
  rfl

@[simp] theorem modEng_run (e : Eng) (f : EngCtx → EngCtx) (s : State) :
    modEng e f s = .ok () (s.setCtx (s.ctx.setEng e (f (s.ctx.eng e)))) := rfl

@[simp] theorem pcOf_run (e : Eng) (s : State) : pcOf e s = .ok ((s.ctx.eng e).pc.zeroExtend 64) s := rfl

/-! ## Where a word that traps leaves the core -/

/-- A core is put back as it was before its word but for its caches, whatever context the word has left. -/
theorem undone_setCtx {s u : State} (h : u.turn = s.turn) (c : Ctx) : s.undone (u.setCtx c) = s.undone u := by
  have hk : (u.setCtx c).core s.turn = { u.core s.turn with ctx := c } := h ▸ State.core_setCtx u c
  rw [State.undone, hk, State.setCtx, State.modCore, h, State.setCore_setCore]
  rfl

theorem trapped_setCtx {s u : State} (h : u.turn = s.turn) (c : Ctx) (eng cause : Nat) (a i : Word) :
    s.trapped (u.setCtx c) eng cause a i = s.trapped u eng cause a i := by
  have hu : (dropArrived u).goOn.turn = s.turn := by
    rw [← h]
    unfold dropArrived
    split <;> rfl
  have hc : (dropArrived (u.setCtx c)).goOn = (dropArrived u).goOn.setCtx c := by
    rw [dropArrived_setCtx]
    rfl
  rw [State.trapped, hc, undone_setCtx hu, State.trapped]

/-! ## Beginning -/

/-- The state in which an engine begins an A-word: T's windows are closed (R244). -/
def State.aStart (s : State) : State := if s.eng = .t then s.setCtx s.ctx.closed else s

theorem aStart_eq (s : State) : (if s.eng == .t then closeWindow s else s) = s.aStart := by
  rw [State.aStart]
  cases s.eng <;> rfl

theorem aStart_awaits (s : State) (e : Eng) : s.aStart.awaits e = s.awaits e := by
  unfold State.aStart
  split
  · exact awaits_setCtx s _ e
  · rfl

theorem aStart_setCtx (s : State) (c : Ctx) : s.aStart.setCtx c = s.setCtx c := by
  unfold State.aStart
  split
  · exact State.setCtx_setCtx s _ c
  · rfl

theorem aStart_of_other {s : State} (h : s.eng ≠ .t) : s.aStart = s := if_neg h

/-- The literal run and the skip end with an A-word. -/
theorem modEng_aStart (s : State) :
    modEng s.eng (fun g => { g with litRun := 0, skip := 0 }) s.aStart = .ok () (s.setCtx (s.ctx.atA s.eng)) := by
  rw [modEng, modCtx_run, aStart_setCtx, Ctx.atA]
  unfold State.aStart
  cases he : s.eng <;> simp

theorem leastCount_eq (c : Ctx) : leastCount c = (activeEngs c).foldl (fun m e => match m with
    | none => some (c.eng e).acount
    | some k => some (min k (c.eng e).acount)) none := by
  have h : [c.t, c.m, c.c] = [Eng.t, .m, .c].map c.eng := rfl
  rw [leastCount, h, List.filter_map, List.foldl_map]
  rfl

theorem leastCount_congr {c d : Ctx} (hh : ∀ e, (d.eng e).halted = (c.eng e).halted)
    (ha : ∀ e, (d.eng e).acount = (c.eng e).acount) : leastCount d = leastCount c := by
  simp only [leastCount_eq, activeEngs, hh, ha]

section
variable (c : Ctx) (e : Eng)

@[simp] theorem acount_atA (g : Eng) : ((c.atA e).eng g).acount = (c.eng g).acount := by cases e <;> cases g <;> rfl
@[simp] theorem halted_atA (g : Eng) : ((c.atA e).eng g).halted = (c.eng g).halted := by cases e <;> cases g <;> rfl
@[simp] theorem pc_atA : ((c.atA e).eng e).pc = (c.eng e).pc := by cases e <;> rfl
@[simp] theorem logAt_atA (k : Nat) : logAt (c.atA e) k = logAt c k := by cases e <;> rfl
@[simp] theorem slipHolds_atA : slipHolds (c.atA e) e = slipHolds c e := by
  have hl : leastCount (c.atA e) = leastCount c := leastCount_congr (halted_atA c e) (acount_atA c e)
  have hs : (c.atA e).slipw = c.slipw := by cases e <;> rfl
  rw [slipHolds, slipHolds, hl, hs, acount_atA]

@[simp] theorem logged_atA : (c.atA e).logged e = c.logged e := by
  rw [Ctx.logged, acount_atA, logAt_atA, Ctx.logged]

end

/-- The engine `s.eng` executes its next A-word: it has entered it with the outcome `o`, which has left the context `c`. -/
def Enters (s : State) (dec : Option (M (Bool × Word))) (o : Bool × Word) (c : Ctx) : Prop :=
  enterA s.eng dec s.aStart = .ok o (s.setCtx c)

variable {s : State} {dec : Option (M (Bool × Word))}

theorem enterA_of_slip (h : slipHolds s.ctx s.eng = true) :
    enterA s.eng dec s.aStart = .error .stall (s.setCtx (s.ctx.atA s.eng)) := by
  rw [enterA, M.bind_ok (modEng_aStart s), M.bind_ok (curCtx_run _)]
  simp [h]

theorem enterA_of_other {a : ALog} (h : slipHolds s.ctx s.eng = false) (ha : logAt s.ctx ((s.ctx.eng s.eng).acount + 1) = some a)
    (hpc : a.addr ≠ (s.ctx.eng s.eng).pc) :
    enterA s.eng dec s.aStart =
      .error (.trap 0x06 (a.addr.zeroExtend 64) (divergeInfo s.eng)) (s.setCtx (s.ctx.atA s.eng)) := by
  rw [enterA, M.bind_ok (modEng_aStart s), M.bind_ok (curCtx_run _)]
  simp [h, ha, hpc]

/-- Within the slip bound and at the address that the log has, an engine goes on to what its word decides by. -/
theorem enters_none (h : s.ctx.mayA s.eng = true) : Enters s none (true, 0) (s.ctx.entered s.eng none) := by
  obtain ⟨hs, hl⟩ := Bool.and_eq_true_iff.1 h
  rw [Enters, enterA, M.bind_ok (modEng_aStart s), M.bind_ok (curCtx_run _), Ctx.entered]
  cases hn : logAt s.ctx ((s.ctx.eng s.eng).acount + 1) with
  | none => simp_all
  | some a => simp_all

variable {d : M (Bool × Word)} {o : Bool × Word}

theorem enters_logged (h : s.ctx.mayA s.eng = true) (ho : s.ctx.logged s.eng = some o) :
    Enters s (some d) o (s.ctx.entered s.eng (some o)) := by
  obtain ⟨hs, hl⟩ := Bool.and_eq_true_iff.1 h
  obtain ⟨a, ha, hao⟩ := Option.bind_eq_some_iff.1 ho
  rw [Enters, enterA, M.bind_ok (modEng_aStart s), M.bind_ok (curCtx_run _), Ctx.entered]
  simp_all

theorem enters_decided (h : s.ctx.mayA s.eng = true) (ho : s.ctx.logged s.eng = none) (he : s.eng = .t)
    (hd : d (s.setCtx (s.ctx.atA s.eng)) = .ok o (s.setCtx (s.ctx.atA s.eng))) :
    Enters s (some d) o (s.ctx.entered s.eng (some o)) := by
  obtain ⟨hs, hl⟩ := Bool.and_eq_true_iff.1 h
  rw [Enters, enterA, M.bind_ok (modEng_aStart s), M.bind_ok (curCtx_run _), Ctx.entered]
  simp only [logged_atA, ho]
  rw [Ctx.logged] at ho
  cases hn : logAt s.ctx ((s.ctx.eng s.eng).acount + 1) with
  | none => simp_all
  | some a => simp_all

theorem enterA_of_undecided (h : s.ctx.mayA s.eng = true) (ho : s.ctx.logged s.eng = none) (he : s.eng ≠ .t) :
    enterA s.eng (some d) s.aStart = .error .stall (s.setCtx (s.ctx.atA s.eng)) := by
  obtain ⟨hs, hl⟩ := Bool.and_eq_true_iff.1 h
  rw [enterA, M.bind_ok (modEng_aStart s), M.bind_ok (curCtx_run _)]
  rw [Ctx.logged] at ho
  cases hn : logAt s.ctx ((s.ctx.eng s.eng).acount + 1) with
  | none => simp_all
  | some a => simp_all

/-! ## Ending -/

variable {n : Nat} {body : Eng → Bool × Word → M (Option Word)} {c c' : Ctx}

theorem leaveA_run (e : Eng) (s : State) : leaveA e s = .ok () (s.setCtx (s.ctx.left e)) := by
  rw [leaveA, modEng, M.bind_ok (modCtx_run _ s), modCtx_run, State.ctx_setCtx, State.setCtx_setCtx, Ctx.left]

/-- A branch to a place that is an address, from an engine of any number, is no trap. -/
theorem goTo_address {t : Word} (ht : t.toNat < 2 ^ 56) (s : State) (e : Eng) (eng k : Nat) :
    goTo (s.retired e k) e eng t = s.branched e k (t.truncate 56) := by
  rw [goTo, if_neg (Nat.not_le.2 ht)]
  rfl

theorem aWord_of_stall {u : State} (h : enterA s.eng dec s.aStart = .error .stall u) :
    aWord n dec body s = .next (noteStall s.aStart) := by
  rw [aWord, aStart_eq]
  exact runWord_stall (M.bind_error h)

theorem aWord_of_trap {u : State} {cause : Nat} {a i : Word} (h : enterA s.eng dec s.aStart = .error (.trap cause a i) u)
    (hw : s.awaits s.eng = false) : aWord n dec body s = .next (s.aStart.trapped u 3 cause a i).settled := by
  rw [aWord, aStart_eq]
  exact runWord_trap (M.bind_error h) ((aStart_awaits s s.eng).trans hw)

theorem Enters.goes (h : Enters s dec o c) (hb : body s.eng o (s.setCtx c) = .ok none (s.setCtx c')) :
    aWord n dec body s = .next (s.aDone n c') := by
  have hl : leaveA s.eng (s.setCtx c') = .ok () (s.setCtx (c'.left s.eng)) := by
    rw [leaveA_run, State.ctx_setCtx, State.setCtx_setCtx]
  rw [aWord, aStart_eq]
  exact runWord_ok ((M.bind_ok h).trans ((M.bind_ok hb).trans (M.bind_ok hl)))

theorem Enters.jumps {t : Word} (h : Enters s dec o c) (hb : body s.eng o (s.setCtx c) = .ok (some t) (s.setCtx c'))
    (ht : t.toNat < 2 ^ 56) : aWord n dec body s = .next (s.aJump n c' t) := by
  have hl : leaveA s.eng (s.setCtx c') = .ok () (s.setCtx (c'.left s.eng)) := by
    rw [leaveA_run, State.ctx_setCtx, State.setCtx_setCtx]
  rw [aWord, aStart_eq, State.aJump, ← goTo_address ht _ _ 3]
  exact runWord_to ((M.bind_ok h).trans ((M.bind_ok hb).trans (M.bind_ok hl))) fun hc => absurd hc (Nat.not_le.2 ht)

theorem Enters.traps {u : State} {cause : Nat} {a i : Word} (h : Enters s dec o c)
    (hb : body s.eng o (s.setCtx c) = .error (.trap cause a i) u) (hw : s.awaits s.eng = false) :
    aWord n dec body s = .next (s.aStart.trapped u 3 cause a i).settled := by
  rw [aWord, aStart_eq]
  exact runWord_trap ((M.bind_ok h).trans (M.bind_error hb)) ((aStart_awaits s s.eng).trans hw)

/-- Whatever context a word that traps has left, the core is as it was when the word began. -/
theorem aStart_trapped (s : State) (c : Ctx) (cause : Nat) (a i : Word) :
    s.aStart.trapped (s.setCtx c) 3 cause a i = s.aStart.trapped s.aStart 3 cause a i := by
  rw [← aStart_setCtx, trapped_setCtx rfl]

end Sys2Proof.Machine
end

section
/-! PROOFS. The rendezvous words and HALT (R203, R225 to R227, R267). -/

namespace Sys2Proof.Machine

variable {s : State} {commit : State → State}

/-- The context in which an engine has reached a rendezvous word. -/
def Ctx.reached (c : Ctx) (e : Eng) : Ctx := (c.entered e none).setEng e { (c.entered e none).eng e with atMeet := true }

/-- The state in which an engine begins an A-word has the context as it was, or with T's windows closed. -/
theorem ctx_aStart (s : State) : s.eng = .t ∧ s.aStart.ctx = s.ctx.closed ∨ s.eng ≠ .t ∧ s.aStart.ctx = s.ctx := by
  unfold State.aStart
  split
  · next h => exact .inl ⟨h, State.ctx_setCtx s _⟩
  · next h => exact .inr ⟨h, rfl⟩

@[simp] theorem slipHolds_aStart (s : State) (e : Eng) : slipHolds s.aStart.ctx e = slipHolds s.ctx e := by
  obtain ⟨-, h⟩ | ⟨-, h⟩ := ctx_aStart s
  · rw [h]
    cases e <;> rfl
  · rw [h]

@[simp] theorem logAt_aStart (s : State) (k : Nat) : logAt s.aStart.ctx k = logAt s.ctx k := by
  obtain ⟨-, h⟩ | ⟨-, h⟩ := ctx_aStart s
  · rw [h]
    rfl
  · rw [h]

@[simp] theorem eng_aStart (s : State) (e : Eng) : s.aStart.ctx.eng e = s.ctx.eng e := by
  obtain ⟨-, h⟩ | ⟨-, h⟩ := ctx_aStart s
  · rw [h]
    cases e <;> rfl
  · rw [h]

/-- An engine reaches a rendezvous word as it begins another A-word, and stays there. -/
theorem reached_eq (s : State) : s.ctx.reached s.eng =
    (let c := match logAt s.ctx ((s.ctx.eng s.eng).acount + 1) with
      | some _ => s.aStart.ctx
      | none => logPut s.aStart.ctx ⟨(s.ctx.eng s.eng).acount + 1, (s.ctx.eng s.eng).pc, none⟩
     c.setEng s.eng { c.eng s.eng with atMeet := true, litRun := 0, skip := 0 }) := by
  obtain ⟨he, h⟩ | ⟨he, h⟩ := ctx_aStart s
  · rw [h, he]
    simp only [Ctx.reached, Ctx.entered, acount_atA, pc_atA, logAt_atA]
    cases logAt s.ctx ((s.ctx.eng .t).acount + 1) <;> rfl
  · rw [h]
    simp only [Ctx.reached, Ctx.entered, acount_atA, pc_atA, logAt_atA]
    generalize s.eng = e at he
    cases e with
    | t => exact absurd rfl he
    | m => cases logAt s.ctx ((s.ctx.eng .m).acount + 1) <;> rfl
    | c => cases logAt s.ctx ((s.ctx.eng .c).acount + 1) <;> rfl

theorem meet_of_slip (h : slipHolds s.ctx s.eng = true) : meet commit s = .next (noteStall s) := by
  rw [meet, aStart_eq]
  exact if_pos ((slipHolds_aStart s s.eng).trans h)

theorem meet_of_other {a : ALog} (h : slipHolds s.ctx s.eng = false) (ha : logAt s.ctx ((s.ctx.eng s.eng).acount + 1) = some a)
    (hpc : a.addr ≠ (s.ctx.eng s.eng).pc) (hw : s.awaits s.eng = false) :
    meet commit s = .next (s.aStart.trapped s.aStart 3 0x06 (a.addr.zeroExtend 64) (divergeInfo s.eng)).settled := by
  simp only [meet, aStart_eq, slipHolds_aStart, eng_aStart, logAt_aStart, h, ha, bne_iff_ne, hpc, ne_eq, not_false_eq_true, if_true,
    Bool.false_eq_true, if_false]
  exact runWord_trap rfl ((aStart_awaits s s.eng).trans hw)

/-- An engine that may execute its next A-word reaches the rendezvous. -/
theorem meet_of_may (h : s.ctx.mayA s.eng = true) : meet commit s =
    if allMet (s.ctx.reached s.eng) then .next (commit ((s.setCtx (s.ctx.reached s.eng)).disarmed (s.ctx.reached s.eng))).goOn.settled
    else .next (noteStall (s.setCtx (s.ctx.reached s.eng))) := by
  obtain ⟨hs, hl⟩ := Bool.and_eq_true_iff.1 h
  have hs' : slipHolds s.ctx s.eng = false := by simpa using hs
  rw [reached_eq]
  simp only [meet, aStart_eq, slipHolds_aStart, eng_aStart, logAt_aStart, hs', Bool.false_eq_true, if_false, meet.go, aStart_setCtx]
  cases ha : logAt s.ctx ((s.ctx.eng s.eng).acount + 1) with
  | none => rfl
  | some a =>
    rw [ha] at hl
    have hpc : (a.addr != (s.ctx.eng s.eng).pc) = false := bne_eq_false_iff_eq.2 (eq_of_beq hl)
    simp only [hpc, Bool.false_eq_true, if_false, eng_aStart]
    rfl

/-! ## HALT -/

/-- HALT up to the end of its engine. -/
def haltWord (s : State) : Host.Outcome State Fault Refusal :=
  aWord 1 none (fun e _ => do
    let pc ← pcOf e
    modEng e fun g => { g with halted := true }
    return some pc) s

/-- The core leaves its task with its last engine, but for one inside a trap (R136, R227). -/
def State.engineStopped (u : State) : State :=
  if activeEngs u.ctx = [] ∧ (u.core u.turn).intrap = false then leaveTask u u.turn else u

theorem exec_halt {u : State} (h : haltWord s = .next u) : exec .halt s = .next u.engineStopped := by
  have hm : exec .halt s = match haltWord s with
      | .next s' => if (activeEngs s'.ctx).isEmpty && !(s'.core s'.turn).intrap then .next (leaveTask s' s'.turn) else .next s'
      | r => r := rfl
  rw [hm, h, State.engineStopped]
  simp only [Bool.and_eq_true, List.isEmpty_iff, Bool.not_eq_true']
  split <;> rfl

theorem haltWord_of_may (h : s.ctx.mayA s.eng = true) : haltWord s = .next (s.aJump 1
    ((s.ctx.entered s.eng none).setEng s.eng { (s.ctx.entered s.eng none).eng s.eng with halted := true })
    (((s.ctx.entered s.eng none).eng s.eng).pc.zeroExtend 64)) := by
  refine (enters_none h).jumps ?_ ?_
  · simp
  · simp
    omega

end Sys2Proof.Machine
end

section
/-! PROOFS. The obligation about rendezvous words, from the rules above. -/

namespace Sys2Proof.Machine

/-- T waits at SYNC for a TOUCH of its core that is on its way (R203). -/
def State.awaitsTouch (s : State) : Bool := s.eng == .t && touchOut s s.turn

theorem exec_sync_of_touch {s : State} (h : s.awaitsTouch = true) : exec .sync s = .next (noteStall s) := if_pos h

theorem exec_sync_of_none {s : State} (h : s.awaitsTouch = false) :
    exec .sync s = meet (fun s => s.setCtx (passMeet s.ctx id)) s := if_neg (by rw [← State.awaitsTouch, h]; exact Bool.false_ne_true)

/-- The rendezvous words that wait for no TOUCH. -/
def meetWords (s : State) : List Instr := if s.awaitsTouch then [.next, .abrk] else [.sync, .next, .abrk]

theorem exec_of_meetWord {s : State} {i : Instr} (h : i ∈ meetWords s) : ∃ commit, exec i s = meet commit s := by
  unfold meetWords at h
  split at h
  · simp only [List.mem_cons, List.not_mem_nil, or_false] at h
    obtain rfl | rfl := h <;> exact ⟨_, rfl⟩
  · next ht =>
    simp only [List.mem_cons, List.not_mem_nil, or_false] at h
    obtain rfl | rfl | rfl := h
    · exact ⟨_, exec_sync_of_none (by simpa using ht)⟩
    · exact ⟨_, rfl⟩
    · exact ⟨_, rfl⟩

/-- ABRK traps for all engines, at the address of the first active one (R267). -/
def breakAll (t : State) : State :=
  takeTrap t t.turn 3 0x30
    (match activeEngs t.ctx with
      | e :: _ => (t.ctx.eng e).pc.zeroExtend 64
      | [] => 0) 0

theorem exec_abrk (s : State) : exec .abrk s = meet breakAll s := by
  refine congrArg (fun f : State → State => meet f s) (funext fun t => congrArg (fun a => takeTrap t t.turn 3 0x30 a 0) ?_)
  cases activeEngs t.ctx <;> rfl

/-- Settles O38: a rendezvous word does what its engine's place in the log and the other engines' allow. -/
theorem rendezvousWordsWaitForEveryEngine : Obligations.RendezvousWordsWaitForEveryEngine := by
  intro s
  have hstart : s.aStart.setCtx (s.ctx.reached s.eng) = s.setCtx (s.ctx.reached s.eng) := aStart_setCtx s _
  refine ⟨exec_sync_of_touch, fun hmay => ⟨fun hk i hi => ?waits, fun hk => ?all, ?halt⟩,
    fun hslip i hi => ?slip, fun hslip hw a ha hpc i hi => ?other⟩
  case waits =>
    obtain ⟨commit, he⟩ := exec_of_meetWord hi
    show exec i s = .next { s.aStart.setCtx (s.ctx.reached s.eng) with stalls := s.stalls + 1 }
    rw [he, meet_of_may hmay, hstart]
    exact if_neg fun h => Bool.false_ne_true (hk.symm.trans h)
  case all =>
    have hmet (commit : State → State) : meet commit s =
        .next (commit ((s.aStart.setCtx (s.ctx.reached s.eng)).disarmed (s.ctx.reached s.eng))).goOn.settled := by
      rw [meet_of_may hmay, hstart]
      exact if_pos hk
    exact ⟨fun ht => (exec_sync_of_none ht).trans (hmet _), hmet _, (exec_abrk s).trans (hmet _)⟩
  case halt => exact exec_halt (haltWord_of_may hmay)
  case slip =>
    simp only [List.mem_cons, List.not_mem_nil, or_false] at hi
    obtain rfl | rfl | rfl := hi
    · cases ht : s.awaitsTouch with
      | true => exact exec_sync_of_touch ht
      | false => exact (exec_sync_of_none ht).trans (meet_of_slip hslip)
    · exact meet_of_slip hslip
    · exact meet_of_slip hslip
  case other =>
    obtain ⟨commit, he⟩ := exec_of_meetWord hi
    rw [he]
    exact meet_of_other hslip ha hpc hw

end Sys2Proof.Machine
end

section
/-! PROOFS. Loops, calls and branches (R240, R241, R450, R451): what each does once its engine has entered it. -/

namespace Sys2Proof.Machine

/-! ## What stops every A-word -/

/-- The A-words that are no rendezvous and no HALT. -/
def IsPlainA (i : Instr) : Prop :=
  i = .anop ∨ (∃ n, i = .loop n) ∨ (∃ x, i = .loopX x) ∨ (∃ r, i = .endl r) ∨ (∃ k r, i = .leave k r) ∨
    (∃ k r o, i = .abr k r o) ∨ (∃ o, i = .acall o) ∨ i = .aret ∨ ∃ n, i = .slip n

theorem exec_of_plainA {i : Instr} (h : IsPlainA i) (s : State) : ∃ n dec body, exec i s = aWord n dec body s := by
  obtain rfl | ⟨n, rfl⟩ | ⟨x, rfl⟩ | ⟨r, rfl⟩ | ⟨k, r, rfl⟩ | ⟨k, r, o, rfl⟩ | ⟨o, rfl⟩ | rfl | ⟨n, rfl⟩ := h
  · exact ⟨_, _, _, show execAnop s = _ from rfl⟩
  · exact ⟨_, _, _, show execLoop n s = _ from rfl⟩
  · exact ⟨_, _, _, show execLoopX x s = _ from rfl⟩
  · exact ⟨_, _, _, show execEndl r s = _ from rfl⟩
  · exact ⟨_, _, _, show execLeave k r s = _ from rfl⟩
  · exact ⟨_, _, _, show execAbr k r o s = _ from rfl⟩
  · exact ⟨_, _, _, show execAcall o s = _ from rfl⟩
  · exact ⟨_, _, _, show execAret s = _ from rfl⟩
  · show ∃ k dec body, execSlip n s = aWord k dec body s
    unfold execSlip
    exact ⟨_, _, _, rfl⟩

theorem mem_activeEngs {c : Ctx} {e : Eng} : e ∈ activeEngs c ↔ (c.eng e).halted = false := by
  cases e <;> simp [activeEngs]

theorem noteStall_aStart (s : State) : noteStall s.aStart = { s.aStart with stalls := s.stalls + 1 } := by
  unfold State.aStart
  split <;> rfl

/-- A core whose engine waits has that engine still to run. -/
theorem engineStopped_of_active {u : State} {e : Eng} (h : (u.ctx.eng e).halted = false) : u.engineStopped = u := by
  refine if_neg fun hu => ?_
  have he : e ∈ activeEngs u.ctx := mem_activeEngs.2 h
  rw [hu.1] at he
  cases he

variable {s : State} {dec : Option (M (Bool × Word))} {o : Bool × Word} {c : Ctx} {n : Nat}
  {body : Eng → Bool × Word → M (Option Word)}

/-! ## The matching ENDL -/

@[simp] theorem pc_entered (c : Ctx) (e : Eng) (o : Option (Bool × Word)) : ((c.entered e o).eng e).pc = (c.eng e).pc := by
  unfold Ctx.entered
  cases o <;> dsimp only <;> split <;> cases e <;> rfl

/-- What the walk from the A-word of the engine `s.eng` finds, once that has left the context `c` (R451). -/
def endlFrom (s : State) (c : Ctx) (pc : TextAddr) : Except (MemErr × Word) (Option Nat) :=
  matchEndl (s.setCtx c) walkLimit 0 ((pc.zeroExtend 64 : Word).toNat + 2)

variable {pc : TextAddr}

theorem afterEndl_run (hpc : (c.eng s.eng).pc = pc) : afterEndl s.eng (s.setCtx c) = (match endlFrom s c pc with
    | .ok (some a) => pure (BitVec.ofNat 64 a)
    | .ok none => illegal
    | .error (x, va) => meetFault (s.setCtx c) s.eng x va : M Word) (s.setCtx c) := by
  rw [afterEndl, M.bind_ok (pcOf_run _ _), M.bind_ok (M.get_run _), State.ctx_setCtx, hpc]
  rfl

/-- A fetch fault of text whose place is known, in this module, is a trap. -/
theorem meetFault_run {α : Type} {x : MemErr} {va : Word} (hx : x.entryAt = none) (hr : x ≠ errRemote 0) (t u : State) (e : Eng) :
    meetFault (α := α) u e x va t = .error (.trap x.cause va (fetchInfo x)) (wakeTables t va) := by
  have hheld : (x == fHeld) = false := beq_eq_false_iff_ne.2 fun h => by rw [h] at hx; exact absurd hx (by decide)
  have hask : askEntry va x t = .ok () (wakeTables t va) := by
    simp [askEntry, hheld, hx]
  have htext : askText u e x va (wakeTables t va) = .ok () (wakeTables t va) := by
    simp [askText, hr]
  rw [meetFault, M.bind_ok hask, M.bind_ok htext, M.trap_run]

/-- The A-word of the engine `s.eng` traps, with nothing of its context changed. -/
def TrapsA (s : State) (r : Host.Outcome State Fault Refusal) (cause : Nat) : Prop :=
  s.awaits s.eng = false → r = .next (s.aStart.trapped s.aStart 3 cause 0 0).settled

/-- An A-word that looks for its ENDL from `pc` finds none, or text that cannot be read. -/
def LostA (s : State) (r : Host.Outcome State Fault Refusal) (c : Ctx) (pc : TextAddr) : Prop :=
  (endlFrom s c pc = .ok none → TrapsA s r 0x01) ∧
  (∀ x va, endlFrom s c pc = .error (x, va) → x.entryAt = none → x ≠ errRemote 0 → s.awaits s.eng = false →
    r = .next (s.aStart.trapped (wakeTables (s.setCtx c) va) 3 x.cause va (BitVec.ofNat 64 (2 + x.info))).settled)

theorem Enters.trapsA {u : Ctx} {cause : Nat} (h : Enters s dec o c)
    (hb : body s.eng o (s.setCtx c) = .error (.trap cause 0 0) (s.setCtx u)) : TrapsA s (aWord n dec body s) cause :=
  fun hw => (h.traps hb hw).trans (by rw [aStart_trapped])

/-- A word that goes on from its ENDL is lost where there is none. -/
theorem Enters.lostA {k : Word → M (Option Word)} (h : Enters s dec o c) (hpc : (c.eng s.eng).pc = pc)
    (hb : body s.eng o (s.setCtx c) = (afterEndl s.eng >>= k) (s.setCtx c)) : LostA s (aWord n dec body s) c pc := by
  refine ⟨fun hend => ?_, fun x va hend hx hr hw => ?_⟩
  · have ha : afterEndl s.eng (s.setCtx c) = .error (.trap 0x01 0 0) (s.setCtx c) := by
      rw [afterEndl_run hpc, hend]
      rfl
    exact h.trapsA (hb.trans (M.bind_error ha))
  · have ha : afterEndl s.eng (s.setCtx c) = .error (.trap x.cause va (fetchInfo x)) (wakeTables (s.setCtx c) va) := by
      rw [afterEndl_run hpc, hend]
      exact meetFault_run hx hr _ _ _
    exact h.traps (hb.trans (M.bind_error ha)) hw

theorem afterEndl_found {a : Nat} (hpc : (c.eng s.eng).pc = pc) (ha : endlFrom s c pc = .ok (some a)) :
    afterEndl s.eng (s.setCtx c) = .ok (BitVec.ofNat 64 a) (s.setCtx c) := by
  rw [afterEndl_run hpc, ha]
  rfl

theorem toNat_ofNat_address {a : Nat} (h : a < 2 ^ 56) : (BitVec.ofNat 64 a).toNat < 2 ^ 56 := by
  rw [BitVec.toNat_ofNat, Nat.mod_eq_of_lt (by omega)]
  exact h

/-! ## LOOP -/

/-- What LOOP with the count `m` does from the context `c` on. -/
def LoopsA (s : State) (r : Host.Outcome State Fault Refusal) (c : Ctx) (pc : TextAddr) (m : Word) : Prop :=
  (m ≠ 0 → 4 ≤ (c.eng s.eng).loops.length → TrapsA s r 0x04) ∧ (m = 0 → LostA s r c pc) ∧
  (m ≠ 0 → (c.eng s.eng).loops.length < 4 →
    r = .next (s.aDone 1 (c.setEng s.eng { c.eng s.eng with loops := ⟨m, (c.eng s.eng).pc + 2⟩ :: (c.eng s.eng).loops }))) ∧
  (m = 0 → ∀ a, endlFrom s c pc = .ok (some a) → a < 2 ^ 56 → r = .next (s.aJump 1 c (BitVec.ofNat 64 a)))

theorem Enters.loopsA {m : Word} (h : Enters s dec o c) (hpc : (c.eng s.eng).pc = pc)
    (hb : ∀ t, body s.eng o t = loopWord s.eng m t) : LoopsA s (aWord 1 dec body s) c pc m := by
  have hpush (hm : m ≠ 0) : loopWord s.eng m (s.setCtx c) = (do
      if (c.eng s.eng).loops.length ≥ 4 then trap 0x04 0 0
      modEng s.eng fun g => { g with loops := ⟨m, g.pc + 2⟩ :: g.loops }
      return none : M (Option Word)) (s.setCtx c) := by
    rw [loopWord, if_neg (by simpa using hm), M.bind_ok (curCtx_run _), State.ctx_setCtx]
  have hpass (hm : m = 0) : loopWord s.eng m (s.setCtx c) = (afterEndl s.eng >>= fun a => pure (some a)) (s.setCtx c) := by
    rw [loopWord, if_pos (by simpa using hm)]
  refine ⟨fun hm hl => h.trapsA (u := c) ?_, fun hm => h.lostA hpc ((hb _).trans (hpass hm)),
    fun hm hl => h.goes ?_, fun hm a ha h56 => h.jumps ?_ (toNat_ofNat_address h56)⟩
  · rw [hb, hpush hm, if_pos hl]
    rfl
  · rw [hb, hpush hm, if_neg (Nat.not_le.2 hl)]
    simp
  · rw [hb, hpass hm, M.bind_ok (afterEndl_found hpc ha), M.pure_run]

theorem loopsA_loop (h : s.ctx.mayA s.eng = true) (m : BitVec 7) : LoopsA s (exec (.loop m) s) (s.ctx.entered s.eng none)
    ((s.ctx.entered s.eng none).eng s.eng).pc (m.zeroExtend 64) :=
  show LoopsA s (execLoop m s) _ _ _ from (enters_none h).loopsA rfl fun _ => rfl

/-! ## LEAVE and ABR -/

/-- What LEAVE of the outcome `o` does from the context `c` on. -/
def LeavesA (s : State) (r : Host.Outcome State Fault Refusal) (o : Bool × Word) (c : Ctx) (pc : TextAddr) : Prop :=
  (o.1 = false → r = .next (s.aDone 1 c)) ∧ (o.1 = true → (c.eng s.eng).loops = [] → TrapsA s r 0x05) ∧
  (o.1 = true → (c.eng s.eng).loops ≠ [] → LostA s r c pc) ∧
  (o.1 = true → (c.eng s.eng).loops ≠ [] → ∀ a, endlFrom s c pc = .ok (some a) → a < 2 ^ 56 →
    r = .next (s.aJump 1 (c.setEng s.eng { c.eng s.eng with loops := (c.eng s.eng).loops.tail }) (BitVec.ofNat 64 a)))

theorem leavesA {cond : BitVec 2} {x : BitVec 6} (h : Enters s (condOf cond x) o c) (hpc : (c.eng s.eng).pc = pc) :
    LeavesA s (exec (.leave cond x) s) o c pc := by
  show LeavesA s (execLeave cond x s) o c pc
  rw [execLeave]
  have hne {l : List LoopEntry} (hl : l ≠ []) : ¬ l.isEmpty = true := by simpa using hl
  refine ⟨fun ho => h.goes ?_, fun ho hl => h.trapsA (u := c) ?_, fun ho hl => h.lostA hpc (k := fun a => do
      modEng s.eng fun g => { g with loops := g.loops.tail }
      return some a) ?_, fun ho hl a ha h56 => h.jumps ?_ (toNat_ofNat_address h56)⟩
  · simp [ho]
  · simp [ho, hl]
  · simp [ho, hl]
  · simp [ho, hl, afterEndl_found hpc ha]

/-- What ABR of the outcome `o` does from the context `c` on. -/
def BranchesA (s : State) (r : Host.Outcome State Fault Refusal) (off : BitVec 16) (o : Bool × Word) (c : Ctx)
    (pc : TextAddr) : Prop :=
  (o.1 = false → r = .next (s.aDone 2 c)) ∧
  (o.1 = true → (offsetBy (pc.zeroExtend 64) off.toInt).toNat < 2 ^ 56 →
    r = .next (s.aJump 2 c (offsetBy (pc.zeroExtend 64) off.toInt)))

theorem branchesA {cond : BitVec 2} {x : BitVec 6} {off : BitVec 16} (h : Enters s (condOf cond x) o c)
    (hpc : (c.eng s.eng).pc = pc) : BranchesA s (exec (.abr cond x off) s) off o c pc := by
  show BranchesA s (execAbr cond x off s) off o c pc
  rw [execAbr]
  refine ⟨fun ho => h.goes ?_, fun ho h56 => h.jumps ?_ h56⟩
  · simp [ho]
  · simp [ho, hpc]

/-! ## Where the outcome comes from (R223) -/

/-- A decision word goes by the outcome that T has logged; T itself by the outcome `look`, where that is at hand; another engine waits
for T's. -/
def DecidesA (s : State) (r : Host.Outcome State Fault Refusal) (look : Option (Bool × Word))
    (p : Bool × Word → Ctx → Prop) : Prop :=
  (∀ o, s.ctx.logged s.eng = some o → p o (s.ctx.entered s.eng (some o))) ∧
  (s.ctx.logged s.eng = none → s.eng = .t → ∀ o, look = some o → p o (s.ctx.entered s.eng (some o))) ∧
  (s.ctx.logged s.eng = none → s.eng ≠ .t → r = .next (noteStall s))

theorem decidesA {d : M (Bool × Word)} {look : Option (Bool × Word)} {p : Bool × Word → Ctx → Prop} (h : s.ctx.mayA s.eng = true)
    (hd : ∀ o, look = some o → d (s.setCtx (s.ctx.atA s.eng)) = .ok o (s.setCtx (s.ctx.atA s.eng)))
    (hp : ∀ o c, (c.eng s.eng).pc = (s.ctx.eng s.eng).pc → Enters s (some d) o c → p o c) :
    DecidesA s (aWord n (some d) body s) look p :=
  ⟨fun o ho => hp o _ (pc_entered _ _ _) (enters_logged h ho),
    fun ho he o hl => hp o _ (pc_entered _ _ _) (enters_decided h ho he (hd o hl)),
    fun ho he => (aWord_of_stall (enterA_of_undecided h ho he)).trans (by rw [aStart_of_other he])⟩

/-- The outcome that T finds for a condition of LEAVE or ABR, where its register is at hand. -/
def Ctx.looksAt (c : Ctx) (cond : BitVec 2) (r : BitVec 6) : Option (Bool × Word) :=
  let v := (c.regX r.toNat).val
  if cond = 3 then (if c.pReady r.toNat then some (c.pVal r.toNat != 0, 0) else none)
  else if c.xReady r.toNat then some (if cond = 1 then v == 0 else v != 0, 0) else none

theorem looksAt_x {c : Ctx} {cond : BitVec 2} {r : BitVec 6} (h3 : cond ≠ 3) (h : c.looksAt cond r = some o) :
    c.xReady r.toNat = true ∧ o = (if cond = 1 then (c.regX r.toNat).val == 0 else (c.regX r.toNat).val != 0, 0) := by
  simp only [Ctx.looksAt, if_neg h3] at h
  split at h
  · next hr => exact ⟨hr, (Option.some.inj h).symm⟩
  · cases h

theorem looksAt_p {c : Ctx} {r : BitVec 6} (h : c.looksAt 3 r = some o) :
    c.pReady r.toNat = true ∧ o = (c.pVal r.toNat != 0, 0) := by
  simp only [Ctx.looksAt, if_true] at h
  split at h
  · next hr => exact ⟨hr, (Option.some.inj h).symm⟩
  · cases h

/-- A conditional word looks at its register, and finds the outcome there where the register is at hand. -/
theorem condOf_looks {cond : BitVec 2} (hc : cond ≠ 0) (r : BitVec 6) : ∃ d, condOf cond r = some d ∧
    ∀ (t : State) o, t.ctx.looksAt cond r = some o → d t = .ok o t := by
  obtain rfl | rfl | rfl : cond = 1 ∨ cond = 2 ∨ cond = 3 := by revert hc; revert cond; decide
  · refine ⟨_, rfl, fun t o ho => ?_⟩
    obtain ⟨hr, rfl⟩ := looksAt_x (by decide) ho
    exact M.bind_ok (readX_ready hr)
  · refine ⟨_, rfl, fun t o ho => ?_⟩
    obtain ⟨hr, rfl⟩ := looksAt_x (by decide) ho
    exact M.bind_ok (readX_ready hr)
  · refine ⟨_, rfl, fun t o ho => ?_⟩
    obtain ⟨hr, rfl⟩ := looksAt_p ho
    exact M.bind_ok (readP_ready hr)

/-- A LEAVE or ABR with a condition decides as its register says. -/
theorem decidesA_cond {cond : BitVec 2} {x : BitVec 6} {p : Bool × Word → Ctx → Prop} (hc : cond ≠ 0) (h : s.ctx.mayA s.eng = true)
    (hp : ∀ o c, (c.eng s.eng).pc = (s.ctx.eng s.eng).pc → Enters s (condOf cond x) o c → p o c) :
    DecidesA s (aWord n (condOf cond x) body s) ((s.ctx.atA s.eng).looksAt cond x) p := by
  obtain ⟨d, hd, hlook⟩ := condOf_looks hc x
  rw [hd] at hp ⊢
  exact decidesA h (fun o ho => hlook _ o (by rwa [State.ctx_setCtx])) hp

/-- LOOP with a register passes on what that holds. -/
theorem decidesA_loopX (h : s.ctx.mayA s.eng = true) (hpc : (s.ctx.eng s.eng).pc = pc) (x : BitVec 6) :
    DecidesA s (exec (.loopX x) s) (if s.ctx.xReady x.toNat then some (true, (s.ctx.regX x.toNat).val) else none)
      fun o c => LoopsA s (exec (.loopX x) s) c pc o.2 := by
  have hx : (s.ctx.atA s.eng).xReady x.toNat = s.ctx.xReady x.toNat ∧ (s.ctx.atA s.eng).regX x.toNat = s.ctx.regX x.toNat := by
    cases s.eng <;> exact ⟨rfl, rfl⟩
  show DecidesA s (execLoopX x s) _ fun o c => LoopsA s (execLoopX x s) c _ _
  refine decidesA h (fun o ho => ?_) fun o c hc he => he.loopsA (hc.trans hpc) fun _ => rfl
  split at ho
  · next hr =>
    rw [← Option.some.inj ho, ← hx.2]
    refine (M.bind_ok (readX_ready (by rwa [State.ctx_setCtx, hx.1]))).trans ?_
    rw [State.ctx_setCtx, M.pure_run]
  · cases ho

theorem decidesA_leave {cond : BitVec 2} (hc : cond ≠ 0) (h : s.ctx.mayA s.eng = true) (hpc : (s.ctx.eng s.eng).pc = pc)
    (x : BitVec 6) : DecidesA s (exec (.leave cond x) s) ((s.ctx.atA s.eng).looksAt cond x)
      fun o c => LeavesA s (exec (.leave cond x) s) o c pc :=
  show DecidesA s (execLeave cond x s) _ _ from decidesA_cond hc h fun _ _ hc he => leavesA he (hc.trans hpc)

theorem decidesA_abr {cond : BitVec 2} (hc : cond ≠ 0) (h : s.ctx.mayA s.eng = true) (hpc : (s.ctx.eng s.eng).pc = pc)
    (x : BitVec 6) (off : BitVec 16) : DecidesA s (exec (.abr cond x off) s) ((s.ctx.atA s.eng).looksAt cond x)
      fun o c => BranchesA s (exec (.abr cond x off) s) off o c pc :=
  show DecidesA s (execAbr cond x off s) _ _ from decidesA_cond hc h fun _ _ hc he => branchesA he (hc.trans hpc)

/-! ## ENDL, ACALL, ARET, SLIP -/

/-- The context with the registers rotated, where ENDL.R asks T for it (R240). -/
def Ctx.rotatedBy (c : Ctx) (rot : BitVec 1) (e : Eng) : Ctx := if rot = 1 ∧ e = .t then rotate c else c

theorem eng_rotate (c : Ctx) (e : Eng) : (rotate c).eng e = c.eng e := by cases e <;> rfl

theorem toNat_address (a : TextAddr) : (a.zeroExtend 64 : Word).toNat < 2 ^ 56 := by
  have h := a.isLt
  simp only [BitVec.toNat_setWidth]
  omega

section
variable (h : s.ctx.mayA s.eng = true)
include h

theorem exec_anop : exec .anop s = .next (s.aDone 1 (s.ctx.entered s.eng none)) := by
  show execAnop s = _
  rw [execAnop]
  exact (enters_none h).goes rfl

theorem endl_of_empty (hl : ((s.ctx.entered s.eng none).eng s.eng).loops = []) (rot : BitVec 1) :
    TrapsA s (exec (.endl rot) s) 0x05 := by
  show TrapsA s (execEndl rot s) 0x05
  rw [execEndl]
  exact (enters_none h).trapsA (u := s.ctx.entered s.eng none) (by simp [hl])

theorem exec_endl_last {rot : BitVec 1} {l : LoopEntry} {ls : List LoopEntry}
    (hl : ((s.ctx.entered s.eng none).eng s.eng).loops = l :: ls) (h1 : l.left = 1) :
    exec (.endl rot) s = .next (s.aDone 1 (((s.ctx.entered s.eng none).rotatedBy rot s.eng).setEng s.eng
      { (s.ctx.entered s.eng none).eng s.eng with loops := ls })) := by
  show execEndl rot s = _
  rw [execEndl]
  refine (enters_none h).goes ?_
  generalize s.ctx.entered s.eng none = c at hl ⊢
  generalize s.eng = e at hl ⊢
  by_cases hr : rot = 1 ∧ e = .t
  · obtain ⟨rfl, rfl⟩ := hr
    simp [hl, h1, Ctx.rotatedBy, eng_rotate]
  · simp only [BitVec.ofNat_eq_ofNat] at hr
    simp [hl, h1, Ctx.rotatedBy, hr]

theorem exec_endl_again {rot : BitVec 1} {l : LoopEntry} {ls : List LoopEntry}
    (hl : ((s.ctx.entered s.eng none).eng s.eng).loops = l :: ls) (h1 : l.left ≠ 1) :
    exec (.endl rot) s = .next (s.aJump 1 (((s.ctx.entered s.eng none).rotatedBy rot s.eng).setEng s.eng
      { (s.ctx.entered s.eng none).eng s.eng with loops := { l with left := l.left - 1 } :: ls }) (l.body.zeroExtend 64)) := by
  have hleft : ¬ l.left - 1#64 = 0#64 := by bv_omega
  show execEndl rot s = _
  rw [execEndl]
  refine (enters_none h).jumps ?_ (toNat_address _)
  generalize s.ctx.entered s.eng none = c at hl ⊢
  generalize s.eng = e at hl ⊢
  by_cases hr : rot = 1 ∧ e = .t
  · obtain ⟨rfl, rfl⟩ := hr
    simp [hl, hleft, Ctx.rotatedBy, eng_rotate]
  · simp only [BitVec.ofNat_eq_ofNat] at hr
    simp [hl, hleft, Ctx.rotatedBy, hr]

theorem acall_of_full (hr : 8 ≤ ((s.ctx.entered s.eng none).eng s.eng).rets.length) (off : BitVec 16) :
    TrapsA s (exec (.acall off) s) 0x04 := by
  show TrapsA s (execAcall off s) 0x04
  rw [execAcall]
  exact (enters_none h).trapsA (u := s.ctx.entered s.eng none) (by simp [hr])

theorem exec_acall {off : BitVec 16} (hr : ((s.ctx.entered s.eng none).eng s.eng).rets.length < 8)
    (h56 : (offsetBy (((s.ctx.entered s.eng none).eng s.eng).pc.zeroExtend 64) off.toInt).toNat < 2 ^ 56) :
    exec (.acall off) s = .next (s.aJump 2
      ((s.ctx.entered s.eng none).setEng s.eng { (s.ctx.entered s.eng none).eng s.eng with
        rets := (((s.ctx.entered s.eng none).eng s.eng).pc + 4) :: ((s.ctx.entered s.eng none).eng s.eng).rets })
      (offsetBy (((s.ctx.entered s.eng none).eng s.eng).pc.zeroExtend 64) off.toInt)) := by
  show execAcall off s = _
  rw [execAcall]
  exact (enters_none h).jumps (by simp [Nat.not_le.2 hr]) h56

theorem aret_of_empty (hr : ((s.ctx.entered s.eng none).eng s.eng).rets = []) : TrapsA s (exec .aret s) 0x05 := by
  show TrapsA s (execAret s) 0x05
  rw [execAret]
  exact (enters_none h).trapsA (u := s.ctx.entered s.eng none) (by simp [hr])

theorem exec_aret {r : TextAddr} {rs : List TextAddr} (hr : ((s.ctx.entered s.eng none).eng s.eng).rets = r :: rs) :
    exec .aret s = .next (s.aJump 1
      ((s.ctx.entered s.eng none).setEng s.eng { (s.ctx.entered s.eng none).eng s.eng with rets := rs }) (r.zeroExtend 64)) := by
  show execAret s = _
  rw [execAret]
  exact (enters_none h).jumps (by simp [hr]) (toNat_address r)

/-- SLIP sets the bound where its position is not in the log yet (notes/assumptions/22.md). -/
theorem exec_slip (n : BitVec 4) : exec (.slip n) s = .next (s.aDone 1
    (if logAt s.ctx ((s.ctx.eng s.eng).acount + 1) = none then { s.ctx.entered s.eng none with slipw := n.toNat }
      else s.ctx.entered s.eng none)) := by
  show execSlip n s = _
  rw [execSlip]
  refine (enters_none h).goes ?_
  cases logAt s.ctx ((s.ctx.eng s.eng).acount + 1) <;> simp

end

end Sys2Proof.Machine
end

section
/-! PROOFS. The obligation about loops, calls and branches, from the rules above. -/

namespace Sys2Proof.Machine

/-- Settles O37: what precedes an A-word stops it or lets its engine enter, and from there each word goes its own way. -/
theorem aWordsKeepTheEnginesInStep : Obligations.AWordsKeepTheEnginesInStep := by
  intro s
  refine ⟨fun hslip i hi => ?slip, fun hslip hw a ha hpc => ?other, fun hmay => ?may⟩
  case slip =>
    have hstall {n dec body} : aWord n dec body s = .next { s.aStart with stalls := s.stalls + 1 } := by
      rw [aWord_of_stall (enterA_of_slip hslip), noteStall_aStart]
    obtain hp | ⟨rfl, hh⟩ := hi
    · obtain ⟨n, dec, body, he⟩ := exec_of_plainA hp s
      exact he.trans hstall
    · have hact : (s.aStart.ctx.eng s.eng).halted = false := by rw [eng_aStart, hh]
      exact (exec_halt hstall).trans (congrArg _ (engineStopped_of_active hact))
  case other =>
    have htrap {n dec body} : aWord n dec body s =
        .next (s.aStart.trapped s.aStart 3 0x06 (a.addr.zeroExtend 64) (divergeInfo s.eng)).settled := by
      rw [aWord_of_trap (enterA_of_other hslip ha hpc) hw, aStart_trapped]
    refine ⟨fun i hi => ?_, exec_halt htrap⟩
    obtain ⟨n, dec, body, he⟩ := exec_of_plainA hi s
    exact he.trans htrap
  case may =>
    have hpc : (s.ctx.eng s.eng).pc = ((s.ctx.entered s.eng none).eng s.eng).pc := (pc_entered _ _ _).symm
    exact ⟨exec_anop hmay, fun n => loopsA_loop hmay n, fun x => decidesA_loopX hmay hpc x, endl_of_empty hmay,
      fun hr off => acall_of_full hmay hr off, aret_of_empty hmay,
      fun rot l ls hl => ⟨exec_endl_last hmay hl, exec_endl_again hmay hl⟩,
      fun r off => ⟨leavesA (enters_none hmay) rfl, branchesA (enters_none hmay) rfl, fun cond hc =>
        ⟨decidesA_leave hc hmay hpc r, decidesA_abr hc hmay hpc r off⟩⟩,
      fun off hr h56 => exec_acall hmay hr h56, fun r rs hr => exec_aret hmay hr, exec_slip hmay⟩

end Sys2Proof.Machine
end

section
/-! PROOFS. Handshakes, literals, skips, barrier registers and waits of the M and C engines (R236, R308, R427, R429, R430). -/

namespace Sys2Proof.Machine

variable {e : Eng} {s : State}

/-! ## What the engine finds -/

/-- The state as PUSHX and POPX find it: the literal run ended, the registers as T has committed them (notes/assumptions/18.md). -/
def State.committed (s : State) (e : Eng) : State := (s.setCtx (s.ctx.noLit e)).modCore s.turn Core.unwind

theorem eng_noLit (c : Ctx) (e : Eng) : (c.noLit e).eng e = { c.eng e with litRun := 0 } := Ctx.eng_setEng_same _ _ _

theorem eng_unwind (he : e ≠ .t) (k : Core) : k.unwind.ctx.eng e = k.ctx.eng e := by
  unfold Core.unwind
  split
  · rfl
  · cases e with
    | t => exact absurd rfl he
    | m => rfl
    | c => rfl

theorem eng_committed (he : e ≠ .t) (s : State) : (s.committed e).ctx.eng e = { s.ctx.eng e with litRun := 0 } := by
  have hk : (s.committed e).ctx = ((s.setCtx (s.ctx.noLit e)).core s.turn).unwind.ctx :=
    congrArg Core.ctx (State.core_modCore_same _ _ _)
  rw [hk, eng_unwind he, State.core_setCtx, eng_noLit]

@[simp] theorem stackOf_run (e : Eng) (s : State) : stackOf e s = .ok (s.ctx.eng e).params s := rfl

theorem push_run {v : Word} (h : (s.ctx.eng e).params.length < 8) :
    push e v s = .ok () (s.setCtx (s.ctx.setEng e { s.ctx.eng e with params := v :: (s.ctx.eng e).params })) := by
  rw [push, M.bind_ok (stackOf_run e s), if_neg (Nat.not_le.2 h)]
  rfl

theorem emptyReg_run {k : Kind} {r : Nat} (h : s.ctx.writable k r = true) :
    emptyReg k r s = .ok () (s.setCtx ((unbind s.ctx k r).setFill k r .empty)) := by
  rw [emptyReg, M.bind_ok (prepWrite_ok h), modCtx_run]

/-! ## PUSHX and POPX (Table 11-7) -/

/-- PUSHX of a register that is FULL. -/
theorem pushX_of_full {take trap : BitVec 1} {x : BitVec 6} {u : State} (he : e ≠ .t)
    (hf : ((s.committed e).ctx.regX x.toNat).fill = .full) (hl : (s.ctx.eng e).params.length < 8)
    (hlast : (if take == 1 && x != 0 then emptyReg .x x.toNat else pure () : M Unit)
      ((s.committed e).setCtx ((s.committed e).ctx.setEng e { s.ctx.eng e with
        params := ((s.committed e).ctx.regX x.toNat).val :: (s.ctx.eng e).params, litRun := 0 })) = .ok () u) :
    pushX e take trap x s = .next (u.retired e 1).settled := by
  have hempty : ¬ ((s.committed e).ctx.fill .x x.toNat == .empty && trap == 1) = true := by
    simp [Ctx.fill, hf]
  have hready : (s.committed e).ctx.xReady x.toNat = true := by simp [Ctx.xReady, hf]
  have hpush := push_run (e := e) (s := s.committed e) (v := ((s.committed e).ctx.regX x.toNat).val)
    (by rw [eng_committed he]; exact hl)
  rw [eng_committed he] at hpush
  exact engWord_ok ((M.bind_ok (modCur_run _ _)).trans ((M.bind_ok (curCtx_run _)).trans ((congrFun (if_neg hempty) _).trans
    ((M.bind_ok (readX_ready hready)).trans ((M.bind_ok hpush).trans hlast)))))

theorem pushX_keeps {take trap : BitVec 1} {x : BitVec 6} (he : e ≠ .t) (hf : ((s.committed e).ctx.regX x.toNat).fill = .full)
    (hl : (s.ctx.eng e).params.length < 8) (ht : take = 0 ∨ x = 0) :
    pushX e take trap x s = .next (((s.committed e).setCtx ((s.committed e).ctx.setEng e { s.ctx.eng e with
      params := ((s.committed e).ctx.regX x.toNat).val :: (s.ctx.eng e).params, litRun := 0 })).retired e 1).settled := by
  refine pushX_of_full he hf hl (congrFun (if_neg ?_) _)
  obtain rfl | rfl := ht <;> simp

theorem pushX_takes {trap : BitVec 1} {x : BitVec 6} {k : Ctx} (he : e ≠ .t) (hf : ((s.committed e).ctx.regX x.toNat).fill = .full)
    (hl : (s.ctx.eng e).params.length < 8) (hx : x ≠ 0) (hw : (s.committed e).ctx.writable .x x.toNat = true)
    (hk : (s.committed e).ctx.setEng e { s.ctx.eng e with
      params := ((s.committed e).ctx.regX x.toNat).val :: (s.ctx.eng e).params, litRun := 0 } = k) :
    pushX e 1 trap x s =
      .next (((s.committed e).setCtx ((unbind k .x x.toNat).setFill .x x.toNat .empty)).retired e 1).settled := by
  have hw' : k.writable .x x.toNat = true := by
    rw [← hk]
    cases e <;> exact hw
  refine pushX_of_full he hf hl ((congrFun (if_pos (Bool.and_eq_true_iff.2 ⟨rfl, bne_iff_ne.2 hx⟩)) _).trans ?_)
  rw [hk, emptyReg_run (by rwa [State.ctx_setCtx]), State.ctx_setCtx, State.setCtx_setCtx]

theorem setEng_eng (c : Ctx) (e : Eng) : c.setEng e (c.eng e) = c := by
  cases e <;> rfl

theorem eng_putX (c : Ctx) (n : Nat) (v : Word) (e : Eng) : (c.putX n v).eng e = c.eng e := by
  unfold Ctx.putX unbind
  split
  · rfl
  · split <;> cases e <;> rfl

theorem xWritable_of_writable {c : Ctx} {n : Nat} (h : n ≠ 0 → c.writable .x n = true) : c.xWritable n = true := by
  by_cases hn : n = 0
  · simp [Ctx.xWritable, hn]
  · simp [Ctx.xWritable, h hn]

/-- POPX of a stack that is not empty, to a register that is EMPTY and may be written, or to nowhere. -/
theorem popX_of_ok {x : BitVec 6} {t : Word} {st : List Word} (he : e ≠ .t) (hs : (s.ctx.eng e).params = t :: st)
    (hx : x ≠ 0 → ((s.committed e).ctx.regX x.toNat).fill = .empty ∧ (s.committed e).ctx.writable .x x.toNat = true) :
    popX e x s = .next (((s.committed e).setCtx (((s.committed e).ctx.putX x.toNat t).setEng e
      { s.ctx.eng e with params := st, litRun := 0 })).retired e 1).settled := by
  have hparams : ((s.committed e).ctx.eng e).params = t :: st := by rw [eng_committed he, ← hs]
  have htop : topN e 1 (s.committed e) = .ok [t] (s.committed e) := by
    rw [topN_run (by simp [hparams]), hparams]
    rfl
  have hgo : ¬ (x != 0 && (((s.committed e).ctx.regX x.toNat).fill != .empty ||
      ((s.committed e).ctx.regX x.toNat).pend.isSome)) = true := by
    intro h
    obtain ⟨h0, h1⟩ := Bool.and_eq_true_iff.1 h
    obtain ⟨hempty, hw⟩ := hx (bne_iff_ne.1 h0)
    obtain ⟨hpend, -⟩ := Bool.and_eq_true_iff.1 hw
    simp only [Ctx.pending, Bool.not_eq_true'] at hpend
    simp [hempty, hpend] at h1
  obtain ⟨u, hu, huctx, huset⟩ := writeX_sets (r := replay) (s := s.committed e) (n := x.toNat) (v := t)
    (xWritable_of_writable fun h0 => (hx fun h => h0 (by rw [h]; rfl)).2)
  have hdrop : u.used e 1 = (s.committed e).setCtx (((s.committed e).ctx.putX x.toNat t).setEng e
      { s.ctx.eng e with params := st, litRun := 0 }) := by
    rw [State.used, huset, huctx, eng_putX, hparams, eng_committed he]
    rfl
  rw [← hdrop]
  exact engWord_ok ((M.bind_ok (modCur_run _ _)).trans ((M.bind_ok htop).trans ((M.bind_ok (curCtx_run _)).trans
    ((congrFun (if_neg hgo) _).trans ((M.bind_ok hu).trans (drop_run e 1 u))))))

theorem popX_pops {x : BitVec 6} {t : Word} {st : List Word} (he : e ≠ .t) (hs : (s.ctx.eng e).params = t :: st)
    (hf : ((s.committed e).ctx.regX x.toNat).fill = .empty) (hw : (s.committed e).ctx.writable .x x.toNat = true) :
    popX e x s = .next (((s.committed e).setCtx ((((s.committed e).ctx.setEng e { s.ctx.eng e with litRun := 0 }).putX x.toNat
      t).setEng e { s.ctx.eng e with params := st, litRun := 0 })).retired e 1).settled := by
  rw [← eng_committed he s, setEng_eng]
  exact popX_of_ok he hs fun _ => ⟨hf, hw⟩

theorem popX_discards {t : Word} {st : List Word} (he : e ≠ .t) (hs : (s.ctx.eng e).params = t :: st) :
    popX e 0 s = .next ((s.committed e).engDone e { s.ctx.eng e with params := st, litRun := 0 }) := by
  rw [popX_of_ok he hs fun h => absurd rfl h, show (0 : BitVec 6).toNat = 0 from rfl, putX_zero, State.engDone]

/-! ## Literals and skips (R308, R427) -/

theorem literal_first {p : BitVec 13} (hr : (s.ctx.eng e).litRun = 0) (hl : (s.ctx.eng e).params.length < 8) :
    literal e p s = .next (s.engDone e { s.ctx.eng e with params := p.signExtend 64 :: (s.ctx.eng e).params, litRun := 1 }) := by
  refine mcWord_ok ?_
  simp [hr, push_run hl]

theorem literal_next {p : BitVec 13} {t : Word} {st : List Word} (hs : (s.ctx.eng e).params = t :: st)
    (h0 : 0 < (s.ctx.eng e).litRun) (h5 : (s.ctx.eng e).litRun < 5) :
    literal e p s = .next (s.engDone e { s.ctx.eng e with
      params := (t <<< 13 ||| p.zeroExtend 64) :: st, litRun := (s.ctx.eng e).litRun + 1 }) := by
  have htop : topN e 1 s = .ok [t] s := by
    rw [topN_run (by simp [hs]), hs]
    rfl
  refine mcWord_ok ?_
  simp [Nat.not_le.2 h5, Nat.ne_of_gt h0, htop, hs, setStack]

theorem literal_of_long {p : BitVec 13} (h5 : 5 ≤ (s.ctx.eng e).litRun) (hw : s.awaits e = false) :
    literal e p s = .next (s.trapped s (engCode e) 0x01 0 0).settled :=
  mcWord_trap (by simp [h5, illegal]) hw

theorem topN_noLit {t : Word} {st : List Word} (hs : (s.ctx.eng e).params = t :: st) :
    topN e 1 (s.setCtx (s.ctx.noLit e)) = .ok [t] (s.setCtx (s.ctx.noLit e)) := by
  have hp : ((s.setCtx (s.ctx.noLit e)).ctx.eng e).params = t :: st := by rw [State.ctx_setCtx, eng_noLit, ← hs]
  rw [topN_run (by rw [hp]; exact Nat.le_add_left 1 _), hp]
  rfl

theorem used_noLit {t : Word} {st : List Word} (hs : (s.ctx.eng e).params = t :: st) :
    (s.setCtx (s.ctx.noLit e)).used e 1 = s.setCtx (s.ctx.setEng e { s.ctx.eng e with params := st, litRun := 0 }) := by
  rw [State.used, State.ctx_setCtx, eng_noLit, hs, State.setCtx_setCtx]
  exact congrArg s.setCtx (Ctx.setEng_setEng s.ctx e _ _)

theorem skipz_of_zero {n : BitVec 8} {st : List Word} (hs : (s.ctx.eng e).params = 0 :: st) :
    skipz e n s = .next (s.engDone e { s.ctx.eng e with params := st, litRun := 0, skip := n.toNat }) := by
  refine engWord_ok ((M.bind_ok (topN_noLit hs)).trans ((M.bind_ok (drop_run e 1 _)).trans ?_))
  rw [used_noLit hs]
  refine (congrFun (if_pos rfl) _).trans ?_
  simp

theorem skipz_of_ne {n : BitVec 8} {t : Word} {st : List Word} (hs : (s.ctx.eng e).params = t :: st) (ht : t ≠ 0) :
    skipz e n s = .next (s.engDone e { s.ctx.eng e with params := st, litRun := 0 }) := by
  refine engWord_ok ((M.bind_ok (topN_noLit hs)).trans ((M.bind_ok (drop_run e 1 _)).trans ?_))
  rw [used_noLit hs]
  exact congrFun (if_neg (by simpa using ht)) _

/-! ## Barrier registers and waits (R429, R430) -/

theorem setBreg_of_zero {st : List Word} (hs : (s.ctx.eng e).params = 0 :: st) :
    setBreg e s = .next (s.engDone e { s.ctx.eng e with params := st, litRun := 0, breg := none }) := by
  refine engWord_ok ((M.bind_ok (topN_noLit hs)).trans ((congrFun (if_pos rfl) _).trans ((M.bind_ok (M.pure_run none _)).trans
    ((M.bind_ok (drop_run e 1 _)).trans ?_))))
  rw [used_noLit hs]
  simp

theorem setBreg_of_ne {t : Word} {st : List Word} {b : Nat} {u : State} (hs : (s.ctx.eng e).params = t :: st) (ht : t ≠ 0)
    (hb : barrierAddr t (s.setCtx (s.ctx.noLit e)) = .ok b u) :
    setBreg e s = .next (u.engDone e { u.ctx.eng e with params := (u.ctx.eng e).params.drop 1, breg := some b }) := by
  have hsome : (some <$> barrierAddr t) (s.setCtx (s.ctx.noLit e)) = .ok (some b) u := by rw [M.map_run, hb]
  refine engWord_ok ((M.bind_ok (topN_noLit hs)).trans
    ((congrFun (if_neg (by simpa using ht)) _).trans ((M.bind_ok hsome).trans ((M.bind_ok (drop_run e 1 _)).trans ?_))))
  simp [State.used]

/-- The four bytes of a barrier register's object, as WAIT meets them. -/
def barPiece (b : Nat) : Piece :=
  { pa := b, len := 4, cls := 0, defer := false, va := BitVec.ofNat 64 b, elem := 0, stash := false }

theorem waitWord_of_idle {ph : BitVec 1} (hb : (s.ctx.eng e).breg = none)
    (hl : (launchedHere (s.setCtx (s.ctx.noLit e))).any (fun o => o.eng == e) = false) :
    waitWord e ph s = .next (s.engDone e { s.ctx.eng e with litRun := 0 }) := by
  have hb' : ((s.setCtx (s.ctx.noLit e)).ctx.eng e).breg = none := by rw [State.ctx_setCtx, eng_noLit, ← hb]
  refine engWord_ok ((M.bind_ok (M.get_run _)).trans ?_)
  simp only [hb', hl]
  rfl

theorem waitWord_of_barrier {ph : BitVec 1} {b : Nat} {bs : List (BitVec 8)} {u : State} (hb : (s.ctx.eng e).breg = some b)
    (hown : ownPad s.turn (barPiece b) ≠ none) (hbar : isBarrier s b = true)
    (ha : access e 1 { act := .barWait (ph == 1), pieces := [barPiece b] } .none (s.setCtx (s.ctx.noLit e)) = .ok bs u) :
    waitWord e ph s = .next ((acquireAt u u.turn b).retired e 1).settled := by
  have hb' : ((s.setCtx (s.ctx.noLit e)).ctx.eng e).breg = some b := by rw [State.ctx_setCtx, eng_noLit, ← hb]
  have hown' : ¬ (ownPad (s.setCtx (s.ctx.noLit e)).turn (barPiece b)).isNone = true := by simpa using hown
  have hbar' : ¬ (!isBarrier (s.setCtx (s.ctx.noLit e)) b) = true := by
    rw [show isBarrier (s.setCtx (s.ctx.noLit e)) b = isBarrier s b from isBarrier_of_tags rfl, hbar]
    decide
  refine engWord_ok ((M.bind_ok (M.get_run _)).trans ?_)
  rw [hb']
  exact (congrFun (if_neg hown') _).trans ((congrFun (if_neg hbar') _).trans (M.bind_ok ha))

/-! ## Epilogue slots (R439) -/

theorem exec_mconst {c slot : BitVec 4} {t : Word} {st : List Word} (hs : s.ctx.m.params = t :: st) :
    exec (.mconst c slot) s = .next ((((s.setCtx (s.ctx.noLit .m)).used .m 1).modCore s.turn fun k =>
      { k with epis := mapSet k.epis slot.toNat { mapGet {} k.epis slot.toNat with
        consts := (mapGet {} k.epis slot.toNat).consts.set c.toNat (t.truncate 32) } }).retired .m 1).settled :=
  engWord_ok ((M.bind_ok (topN_noLit (e := .m) hs)).trans ((M.bind_ok (drop_run .m 1 _)).trans (modCur_run _ _)))

theorem exec_mepi {slot : BitVec 4} {t : Word} {st : List Word} {ps : List Piece} {bs : List (BitVec 8)} {u v : State}
    (hs : s.ctx.m.params = t :: st) (hr : t.toNat < 2 ^ 56) (hal : t.getLsbD 0 = false)
    (hps : rangePieces t aLoad 3 66 (s.setCtx (s.ctx.noLit .m)) = .ok ps u) (hc : ∀ p ∈ ps, isControl p.pa = false)
    (ha : access .m 1 { act := .load, pieces := ps } .again u = .ok bs v) :
    exec (.mepi slot) s = .next (((v.used .m 1).modCore v.turn fun k =>
      { k with epis := mapSet k.epis slot.toNat { mapGet {} k.epis slot.toNat with image := bs, filled := true } }).retired
        .m 1).settled := by
  have hfind : ps.find? (fun p => isControl p.pa) = none := by simpa using hc
  refine engWord_ok ((M.bind_ok (topN_noLit (e := .m) hs)).trans ((congrFun (if_neg (Nat.not_le.2 hr)) _).trans
    ((congrFun (if_neg (by simpa using hal)) _).trans ((M.bind_ok hps).trans ?_))))
  rw [hfind]
  exact (M.bind_ok ha).trans ((M.bind_ok (drop_run .m 1 _)).trans (modCur_run _ _))

/-! ## O34 -/

/-- Each word of the table of O34 is that of its engine. -/
theorem exec_engine_words {x : BitVec 6} {take trap ph : BitVec 1} {p : BitVec 13} {n : BitVec 8} {pushx popx lit skipz_ bar wait : Instr}
    (h : (e, pushx, popx, lit, skipz_, bar, wait) ∈
      [(Eng.m, Instr.mpushx take trap x, .mpopx x, .mlit p, .mskipz n, .mbar, .mwait ph),
       (Eng.c, Instr.cpushx take trap x, .cpopx x, .clit p, .cskipz n, .cbar, .cwait ph)]) :
    e ≠ .t ∧ exec pushx s = pushX e take trap x s ∧ exec popx s = popX e x s ∧ exec lit s = literal e p s ∧
      exec skipz_ s = skipz e n s ∧ exec bar s = setBreg e s ∧ exec wait s = waitWord e ph s := by
  simp only [List.mem_cons, List.not_mem_nil, or_false, Prod.mk.injEq] at h
  obtain ⟨rfl, rfl, rfl, rfl, rfl, rfl, rfl⟩ | ⟨rfl, rfl, rfl, rfl, rfl, rfl, rfl⟩ := h
  · exact ⟨by decide, rfl, rfl, rfl, rfl, rfl, rfl⟩
  · exact ⟨by decide, rfl, rfl, rfl, rfl, rfl, rfl⟩

/-- Settles O34: each word is that of its engine, and the lemmas above say what it does. -/
theorem engineHandshakesLiteralsSkipsAndWaits : Obligations.EngineHandshakesLiteralsSkipsAndWaits := by
  refine ⟨fun s x take trap ph p n e pushx popx lit skipz bar wait h => ?_, fun s slot c t st hs =>
    ⟨exec_mconst hs, fun hr hal ps bs s0 s1 hps hc ha => exec_mepi hs hr hal (ok_of_got hps) hc (ok_of_got ha)⟩⟩
  obtain ⟨he, hpush, hpop, hlit, hskip, hbar, hwait⟩ := exec_engine_words (s := s) h
  rw [hpush, hpop, hlit, hskip, hbar, hwait]
  refine ⟨fun hf hl => ⟨pushX_keeps he hf hl, fun ht hx hw => ?_⟩, fun t st hs => ⟨fun hf hx hw => ?_, fun hx => ?_,
    literal_next hs, ?_, ?_, fun ht b s1 hb => setBreg_of_ne hs ht (ok_of_got hb)⟩, literal_first, literal_of_long,
    waitWord_of_idle, fun b hb hown hbar bs t ha => waitWord_of_barrier hb hown hbar (ok_of_got ha)⟩
  · subst ht
    exact pushX_takes he hf hl hx hw rfl
  · exact popX_pops he hs hf hw
  · subst hx
    exact popX_discards he hs
  · by_cases ht : t = 0
    · subst ht
      exact skipz_of_zero hs
    · exact (skipz_of_ne hs ht).trans (by rw [if_neg ht])
  · rintro rfl
    exact setBreg_of_zero hs

end Sys2Proof.Machine
end

section
/-! PROOFS. ALLOT, ROTCFG and ROTSET (R229, R230, R351 to R353). -/

namespace Sys2Proof.Machine

variable {s : State}

/-! ## Register maps with entries taken out -/

theorem mapGet_filter {α : Type} (d : α) (p : Nat → Bool) {lo : Nat} (m : Map α) (k : Nat) (h : sortedFrom lo m = true) :
    mapGet d (m.filter fun e => p e.1) k = if p k then mapGet d m k else d := by
  induction m generalizing lo with
  | nil => simp [mapGet]
  | cons e r ih =>
    obtain ⟨a, w⟩ := e
    simp only [sortedFrom, Bool.and_eq_true, decide_eq_true_eq] at h
    obtain ⟨-, hr⟩ := h
    have hbelow : k < a → mapGet d r k = d := fun hk => mapGet_below d r k (by omega) hr
    rw [List.filter_cons]
    by_cases hp : p a = true
    · rw [if_pos hp]
      rcases Nat.lt_trichotomy k a with hk | rfl | hk
      · simp [mapGet, hk]
      · simp [mapGet, hp]
      · simpa [mapGet, Nat.not_lt.2 hk.le, hk.ne'] using ih hr
    · rw [if_neg hp, ih hr]
      rcases Nat.lt_trichotomy k a with hk | rfl | hk
      · simp [mapGet, hk, hbelow hk]
      · simp [hp]
      · simp [mapGet, Nat.not_lt.2 hk.le, hk.ne']

/-- What a grow leaves of the context, but for xd: the new vectors are FULL and 0 (R351). -/
def Ctx.grown (c : Ctx) (g : Nat) : Ctx :=
  { c with v := c.v.filter (fun e => decide (e.1 < c.vallot) || decide (e.1 ≥ g)), vallot := g }

theorem fill_grown {c : Ctx} {k : Kind} {r : Nat} (g : Nat) (hv : sortedFrom 0 c.v = true)
    (h : (c.grown g).fill k r = .dropped) : c.fill k r = .dropped := by
  cases k with
  | x => exact h
  | p => exact h
  | v =>
    have hget : (c.grown g).regV r = if (decide (r < c.vallot) || decide (r ≥ g)) = true then c.regV r else { val := 0 } :=
      mapGet_filter _ (fun n => decide (n < c.vallot) || decide (n ≥ g)) c.v r hv
    rw [Ctx.fill, hget] at h
    split at h
    · exact h
    · cases h

/-- A scalar register stays writable where no slot is bound anew and no register becomes DROPPED. -/
theorem xWritable_of_fewer_dropped {c d : Ctx} {n : Nat} (h : c.xWritable n = true) (hx : d.x = c.x)
    (hr : ∀ e ∈ d.recipes, e ∈ c.recipes) (hf : ∀ k r, d.fill k r = .dropped → c.fill k r = .dropped) : d.xWritable n = true := by
  refine xWritable_of_writable fun hn => ?_
  have hw : c.writable .x n = true := by simpa [Ctx.xWritable, hn] using h
  simp only [Ctx.writable, Bool.and_eq_true, Bool.not_eq_true', List.any_eq_false, beq_iff_eq] at hw ⊢
  obtain ⟨hpend, hpin⟩ := hw
  refine ⟨?_, fun e he hd => hpin e (hr e he) ⟨hd.1, hf _ _ hd.2⟩⟩
  rwa [Ctx.pending, Ctx.regX, hx, ← Ctx.regX]

theorem xWritable_grown {c : Ctx} {n : Nat} (g : Nat) (hv : sortedFrom 0 c.v = true) (h : c.xWritable n = true) :
    (c.grown g).xWritable n = true :=
  xWritable_of_fewer_dropped h rfl (fun _ => id) fun _ _ => fill_grown g hv

/-! ## ALLOT (R229, R230, R351) -/

theorem core_closed (s : State) : (closeWindow s).core (closeWindow s).turn = { s.core s.turn with ctx := s.ctx.closed } :=
  State.core_setCtx s _

theorem modCtx_closed (f : Ctx → Ctx) (s : State) : modCtx f (closeWindow s) = .ok () (s.setCtx (f s.ctx.closed)) := by
  rw [modCtx_run, ctx_closeWindow]
  exact congrArg (EStateM.Result.ok ()) (State.setCtx_setCtx s _ _)

theorem rdS_xprep {n : Nat} (h : s.ctx.xWritable n = true) : rdS.xprep n s = .ok () s :=
  (rdV_xprep h : (if n = 0 then pure () else prepWrite replay .x n) s = .ok () s)

theorem rdS_x_closed {n : Nat} (h : s.ctx.xReady n = true) (b : Bool) :
    rdS.x n b (closeWindow s) = .ok (s.ctx.regX n).val (closeWindow s) :=
  (rdV_x_closed h b : readX replay n b (closeWindow s) = _)

/-- A word that closes T's windows and then changes the context alone. -/
theorem tWordClosing_done {n : Nat} {body : M Unit} {c : Ctx} (h : body (closeWindow s) = .ok () (s.setCtx c)) :
    tWordClosing n body s = .next (s.wordDone n c) := tWordClosing_ok h

/-- ALLOT, once the allotment is the context `c`, writes xd. -/
theorem allot_done {n r : Nat} {v : Word} {body : M Unit} {c : Ctx} (h : body (closeWindow s) = writeX replay r v (s.setCtx c))
    (hw : c.xWritable r = true) : tWordClosing n body s = .next (s.wordDone n (c.putX r v)) := by
  refine (tWordClosing_writes h (by rwa [State.ctx_setCtx])).trans ?_
  rw [State.ctx_setCtx, State.wordDone, State.setCtx_setCtx, State.wordDone]

/-- A grow: it needs xd to be writable in the context that it leaves, too. -/
theorem exec_allot_grows {f : BForm} {g : Nat} (hg : g = min f.imm.toNat (s.ctx.vallot + (s.core s.turn).poolFree))
    (hn : s.ctx.vallot ≤ f.imm.toNat) (hd : s.ctx.xWritable f.xd.toNat = true)
    (hw : (s.ctx.closed.grown g).xWritable f.xd.toNat = true) :
    exec (.allot f) s = .next (s.wordDone 2 ((s.ctx.closed.grown g).putX f.xd.toNat (BitVec.ofNat 64 g))) := by
  have hprep : rdS.xprep f.xd.toNat (closeWindow s) = .ok () (closeWindow s) :=
    rdS_xprep (by rw [ctx_closeWindow]; exact xWritable_closed hd)
  show execAllot f s = _
  refine allot_done ((M.bind_ok (curCore_run _)).trans ?_) hw
  rw [core_closed]
  subst hg
  exact (congrFun (if_pos hn) _).trans ((M.bind_ok hprep).trans (M.bind_ok (modCtx_closed (Ctx.grown · _) s)))

/-- In the canonical form of the vector registers, a grow does as R351 says. -/
theorem exec_allot_grows_of_sorted {f : BForm} {g : Nat} (hg : g = min f.imm.toNat (s.ctx.vallot + (s.core s.turn).poolFree))
    (hv : sortedFrom 0 s.ctx.v = true) (hn : s.ctx.vallot ≤ f.imm.toNat) (hd : s.ctx.xWritable f.xd.toNat = true) :
    exec (.allot f) s = .next (s.wordDone 2 ((s.ctx.closed.grown g).putX f.xd.toNat (BitVec.ofNat 64 g))) :=
  exec_allot_grows hg hn hd (xWritable_grown (c := s.ctx.closed) g hv hd)

/-- A vector register that a shrink to `n` takes away. -/
def Ctx.goneAt (c : Ctx) (n r : Nat) : Bool := decide (n ≤ r) && decide (r < c.vallot)

/-- What a shrink leaves of the context, but for xd: no recipe on a register that goes (R230). -/
def Ctx.shrunk (c : Ctx) (n : Nat) : Ctx :=
  { c with
    recipes := c.recipes.filter (fun e => !((e.2.kind == Kind.v && c.goneAt n e.2.target) ||
      e.2.pins.any (fun p => p.1 == Kind.v && c.goneAt n p.2))),
    v := c.v.filter (fun e => decide (e.1 < n)), vallot := n }

theorem forM_of_nil {α : Type} {l : List α} {f : α → M Unit} (h : l = []) : l.forM f s = .ok () s := by
  subst h
  rfl

theorem shrinkTo_of_kept {n : Nat} (h : ∀ e ∈ s.ctx.recipes, s.ctx.fill e.2.kind e.2.target ≠ .dropped) :
    shrinkTo n s = .ok () (s.setCtx (s.ctx.shrunk n)) := by
  have hnone : (s.ctx.recipes.filter fun e => s.ctx.fill e.2.kind e.2.target == .dropped &&
      !(e.2.kind == .v && s.ctx.goneAt n e.2.target) && e.2.pins.any (fun p => p.1 == .v && s.ctx.goneAt n p.2)) = [] := by
    rw [List.filter_eq_nil_iff]
    intro e he
    simp [h e he]
  rw [shrinkTo, M.bind_ok (curCtx_run s)]
  exact (M.bind_ok (forM_of_nil hnone)).trans (modCtx_run _ s)

theorem fill_shrunk {c : Ctx} {k : Kind} {r n : Nat} (hv : sortedFrom 0 c.v = true)
    (h : (c.shrunk n).fill k r = .dropped) : c.fill k r = .dropped := by
  cases k with
  | x => exact h
  | p => exact h
  | v =>
    have hget : (c.shrunk n).regV r = if decide (r < n) = true then c.regV r else { val := 0 } :=
      mapGet_filter _ (fun m => decide (m < n)) c.v r hv
    rw [Ctx.fill, hget] at h
    split at h
    · exact h
    · cases h

theorem xWritable_shrunk {c : Ctx} {r n : Nat} (hv : sortedFrom 0 c.v = true) (h : c.xWritable r = true) :
    (c.shrunk n).xWritable r = true :=
  xWritable_of_fewer_dropped h rfl (fun _ he => (List.mem_filter.1 he).1) fun _ _ => fill_shrunk hv

/-- A shrink where nothing has to be replayed: it needs xd to be writable in the context that it leaves, too. -/
theorem exec_allot_shrinks {f : BForm} {n : Nat} (hf : n = f.imm.toNat) (hn : n < s.ctx.vallot) (hmin : 16 + s.ctx.vsize ≤ n)
    (hkept : ∀ e ∈ s.ctx.recipes, s.ctx.fill e.2.kind e.2.target ≠ .dropped)
    (hw : (s.ctx.closed.shrunk n).xWritable f.xd.toNat = true) :
    exec (.allot f) s = .next (s.wordDone 2 ((s.ctx.closed.shrunk n).putX f.xd.toNat (BitVec.ofNat 64 n))) := by
  have hshrink : shrinkTo n (closeWindow s) = .ok () (s.setCtx (s.ctx.closed.shrunk n)) := by
    rw [shrinkTo_of_kept (by rw [ctx_closeWindow]; exact hkept), ctx_closeWindow]
    exact congrArg (EStateM.Result.ok ()) (State.setCtx_setCtx s _ _)
  subst hf
  show execAllot f s = _
  refine allot_done ((M.bind_ok (curCore_run _)).trans ?_) hw
  rw [core_closed]
  exact (congrFun (if_neg (Nat.not_le.2 hn)) _).trans ((congrFun (if_neg (Nat.not_lt.2 hmin)) _).trans (M.bind_ok hshrink))

/-- In the canonical form of the vector registers, a shrink does as R230 says. -/
theorem exec_allot_shrinks_of_sorted {f : BForm} {n : Nat} (hf : n = f.imm.toNat) (hv : sortedFrom 0 s.ctx.v = true)
    (hn : n < s.ctx.vallot) (hmin : 16 + s.ctx.vsize ≤ n) (hd : s.ctx.xWritable f.xd.toNat = true)
    (hkept : ∀ e ∈ s.ctx.recipes, s.ctx.fill e.2.kind e.2.target ≠ .dropped) :
    exec (.allot f) s = .next (s.wordDone 2 ((s.ctx.closed.shrunk n).putX f.xd.toNat (BitVec.ofNat 64 n))) :=
  exec_allot_shrinks hf hn hmin hkept (xWritable_shrunk (c := s.ctx.closed) hv hd)

theorem exec_allot_refused {f : BForm} (hn : f.imm.toNat < s.ctx.vallot) (hmin : f.imm.toNat < 16 + s.ctx.vsize)
    (hw : s.awaits .t = false) : exec (.allot f) s = .next ((closeWindow s).trapped (closeWindow s) 0 0x02 0 0).settled := by
  show execAllot f s = _
  refine tWordClosing_trap ((M.bind_ok (curCore_run _)).trans ?_) hw
  rw [core_closed]
  exact (congrFun (if_neg (Nat.not_le.2 hn)) _).trans ((congrFun (if_pos hmin) _).trans (M.bind_error rfl))

/-! ## ROTCFG and ROTSET (R239, R352, R353) -/

theorem bits_imm (b : BitVec 9) : bits b.toNat 8 4 = b.toNat / 16 ∧ bits b.toNat 3 0 = b.toNat % 16 := by
  have := b.isLt
  simp only [bits]
  omega

theorem exec_rotcfg {f : BForm} {v p : Nat} (hv : v = 8 * (f.imm.toNat / 16)) (hp : p = 8 * (f.imm.toNat % 16))
    (h : v ≤ 128 ∧ p ≤ 64 ∧ 16 + v ≤ s.ctx.vallot) :
    exec (.rotcfg f) s = .next (s.wordDone 2 { s.ctx.closed with vsize := v, psize := p, vrrb := 0, prrb := 0 }) := by
  obtain ⟨hbv, hbp⟩ := bits_imm f.imm
  show execRotcfg f s = _
  refine tWordClosing_done ((M.bind_ok (curCtx_run _)).trans ?_)
  rw [ctx_closeWindow, hbv, hbp, ← hv, ← hp]
  have hfit : ¬ (v > 128 || p > 64 || 16 + v > s.ctx.closed.vallot) = true := by
    simpa [and_assoc, Ctx.closed] using h
  exact (congrFun (if_neg hfit) _).trans (modCtx_closed _ s)

theorem exec_rotcfg_refused {f : BForm} {v p : Nat} (hv : v = 8 * (f.imm.toNat / 16)) (hp : p = 8 * (f.imm.toNat % 16))
    (h : 128 < v ∨ 64 < p ∨ s.ctx.vallot < 16 + v) (hw : s.awaits .t = false) :
    exec (.rotcfg f) s = .next ((closeWindow s).trapped (closeWindow s) 0 0x02 0 0).settled := by
  obtain ⟨hbv, hbp⟩ := bits_imm f.imm
  show execRotcfg f s = _
  refine tWordClosing_trap ((M.bind_ok (curCtx_run _)).trans ?_) hw
  rw [ctx_closeWindow, hbv, hbp, ← hv, ← hp]
  have hbad : (v > 128 || p > 64 || 16 + v > s.ctx.closed.vallot) = true := by
    simpa [or_assoc, Ctx.closed] using h
  exact (congrFun (if_pos hbad) _).trans (M.bind_error rfl)

/-- The rotation bases that ROTSET takes from `a` lie in their regions (R353). -/
def Ctx.basesFit (c : Ctx) (a : Nat) : Prop :=
  a < 65536 ∧ (if 0 < c.vsize then a % 256 < c.vsize else a % 256 = 0) ∧
    (if 0 < c.psize then a / 256 % 256 < c.psize else a / 256 % 256 = 0)

/-- A base that does not lie in its region, as ROTSET tests it. -/
theorem base_bad_iff (size b : Nat) : (if size > 0 then decide (b ≥ size) else b != 0) = true ↔
    ¬ (if 0 < size then b < size else b = 0) := by
  split <;> simp

theorem rotset_bad_iff (c : Ctx) (a : Nat) :
    (a / 65536 != 0 || (if c.vsize > 0 then decide (bits a 7 0 ≥ c.vsize) else bits a 7 0 != 0) ||
      (if c.psize > 0 then decide (bits a 15 8 ≥ c.psize) else bits a 15 8 != 0)) = true ↔ ¬ c.basesFit a := by
  have h7 : bits a 7 0 = a % 256 := by simp [bits]
  have h15 : bits a 15 8 = a / 256 % 256 := by simp [bits]
  rw [Bool.or_eq_true, Bool.or_eq_true, base_bad_iff, base_bad_iff, h7, h15, Ctx.basesFit, bne_iff_ne]
  have hhigh : a / 65536 ≠ 0 ↔ ¬ a < 65536 := by omega
  rw [hhigh]
  tauto

theorem exec_rotset {f : AForm} {a : Nat} (hr : s.ctx.xReady f.xa.toNat = true) (ha : a = (s.ctx.regX f.xa.toNat).val.toNat)
    (hfit : s.ctx.basesFit a) :
    exec (.rotset f) s = .next (s.wordDone 2 { s.ctx.closed with vrrb := a % 256, prrb := a / 256 % 256 }) := by
  have hbits : bits a 7 0 = a % 256 ∧ bits a 15 8 = a / 256 % 256 := by simp [bits]
  show execRotset f s = _
  refine tWordClosing_done ((M.bind_ok (rdS_x_closed hr _)).trans ((M.bind_ok (curCtx_run _)).trans ?_))
  rw [← ha, ctx_closeWindow]
  refine (congrFun (if_neg fun h => (rotset_bad_iff s.ctx.closed a).1 h hfit) _).trans ((modCtx_closed _ s).trans ?_)
  rw [hbits.1, hbits.2]

theorem exec_rotset_refused {f : AForm} {a : Nat} (hr : s.ctx.xReady f.xa.toNat = true) (ha : a = (s.ctx.regX f.xa.toNat).val.toNat)
    (hfit : ¬ s.ctx.basesFit a) (hw : s.awaits .t = false) :
    exec (.rotset f) s = .next ((closeWindow s).trapped (closeWindow s) 0 0x02 0 0).settled := by
  show execRotset f s = _
  refine tWordClosing_trap ((M.bind_ok (rdS_x_closed hr _)).trans ((M.bind_ok (curCtx_run _)).trans ?_)) hw
  rw [← ha, ctx_closeWindow]
  exact (congrFun (if_pos ((rotset_bad_iff s.ctx.closed a).2 hfit)) _).trans (M.bind_error rfl)

/-! ## O11 -/

/-- A grow from 64 vectors to 100. -/
def growTo100 : BForm := { xd := 1, xa := 0, ba := 0, imm := 100 }

/-- Reset, with a list of vectors out of order: an entry for v70 hides the one that says that v10 is DROPPED. A slot with x1 as its
source is bound to v10. -/
def hiddenDropped : State := State.reset.setCtx { State.reset.ctx with
  v := [(70, { val := 0 }), (10, { val := 0, fill := .dropped })],
  recipes := [(0, { body := [], kind := .v, target := 10, pins := [(.x, 1)], rot := 0 })] }

/-- The fill state of v10 after a word. -/
def fillAfter : Host.Outcome State Fault Refusal → Fill
  | .next t => t.ctx.fill .v 10
  | _ => .empty

/-- The grow takes out the entry of v70 and so uncovers v10; the write of x1 then replays the slot. -/
theorem fillAfter_grow : fillAfter (exec (.allot growTo100) hiddenDropped) = .full := by decide

theorem fill_stated : (hiddenDropped.wordDone 2 ((hiddenDropped.ctx.closed.grown 100).putX 1 100)).ctx.fill .v 10 = .dropped := by
  decide

/-- Refutes O11: it speaks of every state, also of those whose list of vector registers is not in canonical form (`sortedFrom`), the form
that reset has and that writing keeps. Where an entry out of order hides a DROPPED register, a grow that takes the entry out uncovers
it, and the write of xd, its slot's source, replays it first. The rest stands. In canonical form ALLOT does as is said:
`exec_allot_grows_of_sorted`, `exec_allot_shrinks_of_sorted`; and in every state: `exec_allot_refused`, `exec_rotcfg`,
`exec_rotcfg_refused`, `exec_rotset`, `exec_rotset_refused`. -/
theorem not_allotAndRotationWordsChangeTheContext : ¬ Obligations.AllotAndRotationWordsChangeTheContext := by
  intro h
  obtain ⟨hgrow, -⟩ := h.1 growTo100 hiddenDropped
  have hexec := hgrow (by decide) (by decide)
  have hfill := fillAfter_grow
  rw [hexec] at hfill
  cases hfill.symm.trans fill_stated

end Sys2Proof.Machine
end

section
/-! PROOFS. Results of vector words and stream ports (R237, R238, R363, R364). -/

namespace Sys2Proof.Machine

variable {s : State}

/-! ## Writing a vector result (R363, R364) -/

theorem forM_of_ok {α : Type} {l : List α} {f : α → M Unit} (h : ∀ a ∈ l, f a s = .ok () s) : l.forM f s = .ok () s := by
  induction l with
  | nil => rfl
  | cons a l ih =>
    exact (M.bind_ok (h a (List.mem_cons_self ..))).trans (ih fun b hb => h b (List.mem_cons_of_mem _ hb))

/-- What the members of a group are where a word may write it at once. -/
theorem vWritable_iff {c : Ctx} {n g : Nat} {dt : Bool} : c.vWritable n g dt = true ↔
    n < 240 ∧ (∀ r ∈ members c n g, r < c.vallot) ∧
      ∀ r ∈ members c n g, c.fill .v r ≠ .dropped ∧ (dt = true ∨ c.writable .v r = true) := by
  simp [Ctx.vWritable, Ctx.vAllotted, Ctx.fill, and_assoc]

theorem allotted_any {c : Ctx} {rs : List Nat} (h : ∀ r ∈ rs, r < c.vallot) : ¬ rs.any (fun r => decide (r ≥ c.vallot)) = true := by
  simpa using h

theorem oldV_run {n g : Nat} {keep : Nat → Bool} {r : Nat → M Unit} (hn : n < 240) (ha : ∀ m ∈ members s.ctx n g, m < s.ctx.vallot)
    (hf : ∀ m ∈ members s.ctx n g, s.ctx.fill .v m ≠ .dropped) :
    oldV r n g keep s = .ok (s.ctx.liveGroup (members s.ctx n g)) s := by
  rw [oldV, if_neg (Nat.not_le.2 hn), M.bind_ok (curCtx_run s)]
  refine (congrFun (if_neg (allotted_any ha)) s).trans ((M.bind_ok (forM_of_ok fun e he => ?_)).trans rfl)
  have hkeep : ¬ (keep e.2 && s.ctx.fill .v e.1 == .dropped) = true := by
    simp [hf e.1 (List.of_mem_zip he).1]
  exact (M.bind_ok (curCtx_run s)).trans (congrFun (if_neg hkeep) s)

theorem writeV_run {n g : Nat} {dt : Bool} {bs : List Byte} {mask : List Bool} {r : Nat → M Unit}
    (h : s.ctx.vWritable n g dt = true) : writeV r n g dt bs mask s =
      .ok () (s.setCtx (if dt then s.ctx.note .v (rotV s.ctx n) (vecOf bs) else s.ctx.putGroup (members s.ctx n g) bs)) := by
  obtain ⟨hn, ha, hw⟩ := vWritable_iff.1 h
  rw [writeV, if_neg (Nat.not_le.2 hn), M.bind_ok (curCtx_run s)]
  refine (congrFun (if_neg (allotted_any ha)) s).trans ?_
  cases dt with
  | true => rfl
  | false =>
    refine (M.bind_ok (forM_of_ok fun m hm => prepWrite_ok ?_)).trans rfl
    obtain ⟨-, hdt | hm⟩ := hw m hm
    · cases hdt
    · exact hm

/-- A result written to a group of registers that may be written at once. -/
theorem putV_run {f : VForm} {r : VRes} (h : s.ctx.vWritable f.d.toNat (width f.dw) (f.dt == 1) = true) :
    putV rdV f r s = .ok () (s.setCtx (s.ctx.putRes f.d.toNat (width f.dw) (f.dt == 1) r)) := by
  obtain ⟨hn, ha, hw⟩ := vWritable_iff.1 h
  have hold : rdV.vOld f.d.toNat (width f.dw) (r.keepsAt f.d.toNat) s =
      .ok (s.ctx.liveGroup (members s.ctx f.d.toNat (width f.dw))) s := oldV_run hn ha fun m hm => (hw m hm).1
  have hlast : ∀ bs mask, bs = leBytes (64 * width f.dw) (if r.mask = allBits (width f.dw) then r.val else
        Nat.lor (s.ctx.vVal f.d.toNat (width f.dw) - Nat.land (s.ctx.vVal f.d.toNat (width f.dw)) r.mask) r.val) →
      (do rdV.vw f.d.toNat (width f.dw) (f.dt == 1) bs mask; rdV.flags r.flags : M Unit) s =
        .ok () (s.setCtx (s.ctx.putRes f.d.toNat (width f.dw) (f.dt == 1) r)) := by
    rintro bs mask rfl
    refine (M.bind_ok (writeV_run h)).trans ((orFlags_run _ _).trans ?_)
    rw [State.ctx_setCtx, State.setCtx_setCtx]
    rfl
  by_cases hm : r.mask = allBits (width f.dw)
  · exact (congrFun (if_pos hm) s).trans ((M.bind_ok (M.pure_run _ s)).trans (hlast _ _ (by rw [if_pos hm])))
  · exact (congrFun (if_neg hm) s).trans ((M.bind_ok hold).trans ((M.bind_ok (M.pure_run _ s)).trans
      (hlast _ _ (by rw [if_neg hm]; rfl))))

/-! ## Ports (R237, R238) -/

/-- A binding lets a word read, or write, its next elements. -/
def Stream.usable (q : Stream) (write : Bool) : Bool := q.write == write && decide (q.pos < q.total)

/-- The elements that a port's next access moves. -/
def Stream.next (q : Stream) : Nat := min (64 / q.es) (q.total - q.pos)

/-- The context with the position of port `j`, bound by `q`, moved past its next elements. -/
def Ctx.past (c : Ctx) (j : Nat) (q : Stream) : Ctx := { c with streams := mapSet c.streams j { q with pos := q.pos + q.next } }

variable {j : Nat} {q : Stream} {write : Bool}

theorem portOf_run (hq : mapFind s.ctx.streams j = some q) (hu : q.usable write = true) :
    portOf (240 + j) write s = .ok (q.next, q) s := by
  have hfree : ¬ (q.write != write || decide (q.pos ≥ q.total)) = true := by
    obtain ⟨hw, hpos⟩ := Bool.and_eq_true_iff.1 hu
    simpa [beq_iff_eq.1 hw] using hpos
  rw [portOf, M.bind_ok (curCtx_run s), Nat.add_sub_cancel_left, hq]
  exact congrFun (if_neg hfree) s

theorem portOf_unusable (h : (mapFind s.ctx.streams j).any (·.usable write) = false) :
    portOf (240 + j) write s = .error (.trap 0x02 0 (regInfo (240 + j))) s := by
  rw [portOf, M.bind_ok (curCtx_run s), Nat.add_sub_cancel_left]
  cases hq : mapFind s.ctx.streams j with
  | none => rfl
  | some q =>
    have hbad : (q.write != write || decide (q.pos ≥ q.total)) = true := by
      rw [hq, Option.any_some, Stream.usable, Bool.and_eq_false_iff] at h
      simpa [bne] using h
    exact congrFun (if_pos hbad) s

theorem portMove_run (j : Nat) (q : Stream) (s : State) : portMove (240 + j) q.next q s = .ok () (s.setCtx (s.ctx.past j q)) := by
  rw [portMove, modCtx_run, Nat.add_sub_cancel_left, Ctx.past]

variable {ps : List Piece} {bs : List Byte} {t u : State} {c : Ctx}

theorem portRead_run (hq : mapFind s.ctx.streams j = some q) (hu : q.usable false = true)
    (hps : portPieces q aLoad q.next q.pos s = .ok ps u) (ha : tAccess 0 { act := .load, pieces := ps } .again u = .ok bs t) :
    portRead (240 + j) s = .ok (slice bs 0 64) (t.setCtx (t.ctx.past j q)) := by
  rw [portRead, M.bind_ok (portOf_run hq hu)]
  exact (M.bind_ok hps).trans ((M.bind_ok ha).trans (M.bind_ok (portMove_run j q t)))

theorem portOld_run (hq : mapFind s.ctx.streams j = some q) (hu : q.usable true = true)
    (hps : portPieces q aStore q.next q.pos s = .ok ps u) (ha : tAccess 0 { act := .load, pieces := ps } .again u = .ok bs t) :
    portOld (240 + j) s = .ok (slice bs 0 64) t := by
  rw [portOld, M.bind_ok (portOf_run hq hu)]
  exact (M.bind_ok hps).trans (M.bind_ok ha)

theorem portWrite_run {data : List Byte} {mask : List Bool} (hq : mapFind s.ctx.streams j = some q) (hu : q.usable true = true)
    (hps : portPieces q aStore q.next q.pos s = .ok ps u)
    (ha : tAccess 0 { act := .store, pieces := ps, data := data, mask := mask } .again u = .ok bs t) :
    portWrite (240 + j) data mask s = .ok () (t.setCtx (t.ctx.past j q)) := by
  rw [portWrite, M.bind_ok (portOf_run hq hu)]
  exact (M.bind_ok hps).trans ((M.bind_ok ha).trans (portMove_run j q t))

/-! ## Ports as vector operands -/

theorem port_toNat (hj : j < 8) : (BitVec.ofNat 8 (240 + j)).toNat = 240 + j := by
  rw [BitVec.toNat_ofNat]
  omega

theorem readV_port {r : Nat → M Unit} {g : Nat} {b : Bool} : readV r (240 + j) g b = portRead (240 + j) :=
  if_pos (Nat.le_add_right 240 j)

theorem writeV_port {r : Nat → M Unit} {g : Nat} {dt : Bool} {data : List Byte} {mask : List Bool} :
    writeV r (240 + j) g dt data mask = portWrite (240 + j) data mask := if_pos (Nat.le_add_right 240 j)

theorem oldV_port {r : Nat → M Unit} {g : Nat} {keep : Nat → Bool} :
    oldV r (240 + j) g keep = if keep 0 then portOld (240 + j) else pure (List.replicate 64 0) :=
  if_pos (Nat.le_add_right 240 j)

theorem nib_ones {n i : Nat} (h : 4 * i + 4 ≤ n) : Nat.shiftRight (2 ^ n - 1) (4 * i) % 16 = 15 := by
  refine Nat.eq_of_testBit_eq fun k => ?_
  show ((2 ^ n - 1) >>> (4 * i) % 2 ^ 4).testBit k = (2 ^ 4 - 1).testBit k
  rw [Nat.testBit_mod_two_pow, Nat.testBit_shiftRight, Nat.testBit_two_pow_sub_one, Nat.testBit_two_pow_sub_one]
  by_cases hk : k < 4
  · simp [hk, show 4 * i + k < n by omega]
  · simp [hk]

/-- A result that writes every bit of a port's bytes keeps none. -/
theorem keepsAt_port_of_all {r : VRes} (h : r.mask = allBits 1) : r.keepsAt 240 0 = false := by
  refine List.any_eq_false.2 fun i hi => ?_
  have hi15 : r.nib i = 15 := by
    rw [VRes.nib, h]
    exact nib_ones (by have := List.mem_range.1 hi; omega)
  rw [hi15]
  decide

theorem keepsAt_port (r : VRes) : r.keepsAt (240 + j) 0 = r.keepsAt 240 0 := by
  unfold VRes.keepsAt
  rw [if_pos (Nat.le_add_right 240 j), if_pos (Nat.le_refl 240)]

theorem raise_zero (c : Ctx) : c.raise 0 = c := by
  simp [Ctx.raise]

/-- The bits that a port's bytes get from a result: it keeps old ones where it writes a nibble in part. -/
def VRes.over (r : VRes) (o : Nat) : Nat := Nat.lor (o - Nat.land o r.mask) r.val

theorem leNat_zeros (n : Nat) : leNat (List.replicate n 0) = 0 := by
  induction n with
  | zero => rfl
  | succ n ih =>
    rw [List.replicate_succ, leNat, ih]
    rfl

/-- A port's bytes, written, end a word whose result has no flag. -/
theorem putV_port_end {f : VForm} {r : VRes} {data : List Byte} (hd : f.d.toNat = 240 + j) (hf : r.flags = 0)
    (hw : portWrite (240 + j) data r.nibs s = .ok () (t.setCtx c)) :
    (do rdV.vw f.d.toNat (width f.dw) (f.dt == 1) data (if f.d.toNat ≥ 240 then r.nibs else []); rdV.flags r.flags : M Unit) s =
      .ok () (t.setCtx c) := by
  have hv : rdV.vw f.d.toNat (width f.dw) (f.dt == 1) data (if f.d.toNat ≥ 240 then r.nibs else []) s = .ok () (t.setCtx c) := by
    rw [hd, if_pos (Nat.le_add_right 240 j)]
    exact (congrFun writeV_port s).trans hw
  refine (M.bind_ok hv).trans ?_
  rw [hf]
  exact (orFlags_run 0 _).trans (by rw [raise_zero, State.ctx_setCtx, State.setCtx_setCtx])

/-- A result without flags, written to a port of which it needs no old bits. -/
theorem putV_port {f : VForm} {r : VRes} (hd : f.d.toNat = 240 + j) (hg : f.dw = 0) (hf : r.flags = 0)
    (hk : r.keepsAt 240 0 = false) (hw : portWrite (240 + j) (leBytes 64 r.val) r.nibs s = .ok () (t.setCtx c)) :
    putV rdV f r s = .ok () (t.setCtx c) := by
  have hwidth : width f.dw = 1 := by rw [hg]; rfl
  by_cases hm : r.mask = allBits (width f.dw)
  · refine (congrFun (if_pos hm) s).trans ((M.bind_ok (M.pure_run _ s)).trans (putV_port_end hd hf ?_))
    rwa [hwidth]
  · have hold : rdV.vOld f.d.toNat (width f.dw) (r.keepsAt f.d.toNat) s = .ok (List.replicate 64 0) s := by
      rw [hd]
      refine (congrFun oldV_port s).trans (congrFun (if_neg ?_) s)
      rw [keepsAt_port, hk]
      decide
    refine (congrFun (if_neg hm) s).trans ((M.bind_ok hold).trans ((M.bind_ok (M.pure_run _ s)).trans (putV_port_end hd hf ?_)))
    have hval : Nat.lor (0 - Nat.land 0 r.mask) r.val = r.val := by
      rw [Nat.zero_sub]
      exact Nat.zero_or r.val
    rw [hwidth, leNat_zeros, hval]
    exact hw

/-- A result without flags, written to a port of which it needs old bits. -/
theorem putV_port_over {f : VForm} {r : VRes} (hd : f.d.toNat = 240 + j) (hg : f.dw = 0) (hf : r.flags = 0)
    (hk : r.keepsAt 240 0 = true) (hold : portOld (240 + j) s = .ok bs u)
    (hw : portWrite (240 + j) (leBytes 64 (r.over (leNat bs))) r.nibs u = .ok () (t.setCtx c)) :
    putV rdV f r s = .ok () (t.setCtx c) := by
  have hwidth : width f.dw = 1 := by rw [hg]; rfl
  have hm : ¬ r.mask = allBits (width f.dw) := by
    rw [hwidth]
    intro hall
    rw [keepsAt_port_of_all hall] at hk
    cases hk
  have hv : rdV.vOld f.d.toNat (width f.dw) (r.keepsAt f.d.toNat) s = .ok bs u := by
    rw [hd]
    refine (congrFun oldV_port s).trans ((congrFun (if_pos ?_) s).trans hold)
    rw [keepsAt_port, hk]
  refine (congrFun (if_neg hm) s).trans ((M.bind_ok hv).trans ((M.bind_ok (M.pure_run _ u)).trans (putV_port_end hd hf ?_)))
  rw [hwidth]
  exact hw

/-- A result for a port that may not be written. -/
theorem putV_port_unusable {f : VForm} {r : VRes} (hd : f.d.toNat = 240 + j)
    (h : (mapFind s.ctx.streams j).any (·.usable true) = false) :
    putV rdV f r s = .error (.trap 0x02 0 (regInfo (240 + j))) s := by
  have hlast : ∀ data mask, (do rdV.vw f.d.toNat (width f.dw) (f.dt == 1) data mask; rdV.flags r.flags : M Unit) s =
      .error (.trap 0x02 0 (regInfo (240 + j))) s := fun data mask => by
    have hw : portWrite (240 + j) data mask s = .error (.trap 0x02 0 (regInfo (240 + j))) s := M.bind_error (portOf_unusable h)
    rw [hd]
    exact M.bind_error ((congrFun writeV_port s).trans hw)
  by_cases hm : r.mask = allBits (width f.dw)
  · exact (congrFun (if_pos hm) s).trans ((M.bind_ok (M.pure_run _ s)).trans (hlast _ _))
  · refine (congrFun (if_neg hm) s).trans ?_
    cases hk : r.keepsAt (240 + j) 0 with
    | true =>
      have hold : portOld (240 + j) s = .error (.trap 0x02 0 (regInfo (240 + j))) s := M.bind_error (portOf_unusable h)
      have hv : rdV.vOld f.d.toNat (width f.dw) (r.keepsAt f.d.toNat) s = .error (.trap 0x02 0 (regInfo (240 + j))) s := by
        rw [hd]
        exact (congrFun oldV_port s).trans ((congrFun (if_pos hk) s).trans hold)
      exact M.bind_error hv
    | false =>
      have hv : rdV.vOld f.d.toNat (width f.dw) (r.keepsAt f.d.toNat) s = .ok (List.replicate 64 0) s := by
        rw [hd]
        exact (congrFun oldV_port s).trans (congrFun (if_neg (by rw [hk]; decide)) s)
      exact (M.bind_ok hv).trans ((M.bind_ok (M.pure_run _ s)).trans (hlast _ _))

/-! ## O40 -/

theorem mapLanes_flags_zero (t : BitVec 4) (n : Nat) (act : Nat → Bool) (f : Nat → Nat) :
    (mapLanes t n act fun i => (f i, 0)).flags = 0 := by
  have hfold : ∀ (l : List Nat) (r : VRes), r.flags = 0 →
      (l.foldl (fun r i => if act i then r.add t i (f i) 0 else r) r).flags = 0 := by
    intro l
    induction l with
    | nil => exact fun r h => h
    | cons i l ih =>
      intro r h
      refine ih _ ?_
      show (if act i then r.add t i (f i) 0 else r).flags = 0
      split
      · simpa [VRes.add] using h
      · exact h
  exact hfold _ {} rfl

/-- What VMOV writes of its source (R379). -/
def movedRes (f : VForm) (pg : Pred) (a : Nat) : VRes :=
  mapLanes f.ty (lanesD f f.ty) (active pg f.ty) fun i => (elemOf f.ty a i, 0)

/-- VMOV, once it has read a and the predicate. -/
theorem vmov_run {f : VForm} (ha : readV replay f.a.toNat (width f.aw) (f.ab == 1) s = .ok bs t)
    (hpg : t.ctx.pReady f.pg.toNat = true) :
    vmovCore rdV f s = putV rdV f (movedRes f (t.ctx.opPg f) (leNat bs)) t := by
  have hread : readA rdV f s = .ok (leNat bs) t := (M.bind_ok ha).trans rfl
  exact (M.bind_ok hread).trans ((M.bind_ok (M.pure_run 0 t)).trans (M.bind_ok (readP_ready hpg)))

theorem vmov_of_regs {f : VForm} (hr : s.ctx.vReady f.a.toNat (width f.aw) = true) (hpg : s.ctx.pReady f.pg.toNat = true) :
    vmovCore rdV f s = putV rdV f (movedRes f (s.ctx.opPg f) (s.ctx.opA f)) s :=
  vmov_run (readV_ready hr) hpg

/-- VMOV from a port. -/
theorem exec_vmov_from_port {f : VForm} (ha : f.a.toNat = 240 + j) (hpg : s.ctx.pReady f.pg.toNat = true)
    (hd : s.ctx.vWritable f.d.toNat (width f.dw) (f.dt == 1) = true) (hq : mapFind s.ctx.streams j = some q)
    (hu : q.usable false = true) (hps : portPieces q aLoad q.next q.pos s = .ok ps u)
    (hl : tAccess 0 { act := .load, pieces := ps } .again u = .ok bs t) (ht : t.ctx = s.ctx) :
    exec (.vmov f) s = .next (t.wordDone 4 ((s.ctx.past j q).putRes f.d.toNat (width f.dw) (f.dt == 1)
      (movedRes f (s.ctx.opPg f) (leNat (slice bs 0 64))))) := by
  have hread : readV replay f.a.toNat (width f.aw) (f.ab == 1) s = .ok (slice bs 0 64) (t.setCtx (s.ctx.past j q)) := by
    rw [ha, readV_port, portRead_run hq hu hps hl, ht]
  have hput := putV_run (s := t.setCtx (s.ctx.past j q)) (f := f) (r := movedRes f (s.ctx.opPg f) (leNat (slice bs 0 64)))
    (by rw [State.ctx_setCtx]; exact hd)
  rw [State.ctx_setCtx, State.setCtx_setCtx] at hput
  show execVmov f s = _
  refine tWord_ok ((vmov_run hread (by rw [State.ctx_setCtx]; exact hpg)).trans ?_)
  rw [State.ctx_setCtx]
  exact hput

/-- VMOV to a port of which it needs no old bits. -/
theorem exec_vmov_to_port {f : VForm} (hd : f.d.toNat = 240 + j) (hdw : f.dw = 0) (hr : s.ctx.vReady f.a.toNat (width f.aw) = true)
    (hpg : s.ctx.pReady f.pg.toNat = true) (hq : mapFind s.ctx.streams j = some q) (hu : q.usable true = true)
    (hps : portPieces q aStore q.next q.pos s = .ok ps u) (hk : (movedRes f (s.ctx.opPg f) (s.ctx.opA f)).keepsAt 240 0 = false)
    (hs : tAccess 0 { act := .store, pieces := ps, data := leBytes 64 (movedRes f (s.ctx.opPg f)
      (s.ctx.opA f)).val, mask := (movedRes f (s.ctx.opPg f) (s.ctx.opA f)).nibs } .again u = .ok bs t) (ht : t.ctx = s.ctx) :
    exec (.vmov f) s = .next (t.wordDone 4 (s.ctx.past j q)) := by
  have hput := putV_port hd hdw (mapLanes_flags_zero _ _ _ _) hk (portWrite_run hq hu hps hs)
  rw [ht] at hput
  show execVmov f s = _
  exact tWord_ok ((vmov_of_regs hr hpg).trans hput)

/-- VMOV to a port that it writes a nibble of in part. -/
theorem exec_vmov_over_port {f : VForm} {v w : State} {os : List Piece} {cs : List Byte} (hd : f.d.toNat = 240 + j) (hdw : f.dw = 0)
    (hr : s.ctx.vReady f.a.toNat (width f.aw) = true) (hpg : s.ctx.pReady f.pg.toNat = true)
    (hq : mapFind s.ctx.streams j = some q) (hu : q.usable true = true)
    (hk : (movedRes f (s.ctx.opPg f) (s.ctx.opA f)).keepsAt 240 0 = true) (hps : portPieces q aStore q.next q.pos s = .ok ps u)
    (hl : tAccess 0 { act := .load, pieces := ps } .again u = .ok bs v) (hv : v.ctx = s.ctx)
    (hos : portPieces q aStore q.next q.pos v = .ok os w)
    (hs : tAccess 0 { act := .store, pieces := os, data := leBytes 64 ((movedRes f (s.ctx.opPg f) (s.ctx.opA f)).over
        (leNat (slice bs 0 64))), mask := (movedRes f (s.ctx.opPg f) (s.ctx.opA f)).nibs } .again w = .ok cs t)
    (ht : t.ctx = s.ctx) : exec (.vmov f) s = .next (t.wordDone 4 (s.ctx.past j q)) := by
  have hput := putV_port_over hd hdw (mapLanes_flags_zero _ _ _ _) hk (portOld_run hq hu hps hl)
    (portWrite_run (by rw [hv]; exact hq) hu hos hs)
  rw [ht] at hput
  show execVmov f s = _
  exact tWord_ok ((vmov_of_regs hr hpg).trans hput)

theorem exec_vmov_from_unusable {f : VForm} (ha : f.a.toNat = 240 + j) (hw : s.awaits .t = false)
    (h : (mapFind s.ctx.streams j).any (·.usable false) = false) :
    exec (.vmov f) s = .next (s.trapped s 0 0x02 0 (regInfo (240 + j))).settled := by
  have hread : readA rdV f s = .error (.trap 0x02 0 (regInfo (240 + j))) s := by
    have hport : portRead (240 + j) s = .error (.trap 0x02 0 (regInfo (240 + j))) s := M.bind_error (portOf_unusable h)
    have hv : readV replay f.a.toNat (width f.aw) (f.ab == 1) s = .error (.trap 0x02 0 (regInfo (240 + j))) s := by
      rw [ha, readV_port, hport]
    exact M.bind_error hv
  show execVmov f s = _
  exact tWord_trap (M.bind_error hread) hw

theorem exec_vmov_to_unusable {f : VForm} (hd : f.d.toNat = 240 + j) (hr : s.ctx.vReady f.a.toNat (width f.aw) = true)
    (hpg : s.ctx.pReady f.pg.toNat = true) (hw : s.awaits .t = false)
    (h : (mapFind s.ctx.streams j).any (·.usable true) = false) :
    exec (.vmov f) s = .next (s.trapped s 0 0x02 0 (regInfo (240 + j))).settled := by
  show execVmov f s = _
  exact tWord_trap ((vmov_of_regs hr hpg).trans (putV_port_unusable hd h)) hw

/-- Settles O40, by the five ways in which VMOV meets a port. -/
theorem streamPortsMoveTheElementsOfTheirBinding : Obligations.StreamPortsMoveTheElementsOfTheirBinding := by
  intro f j s hj
  have hport := port_toNat hj
  refine ⟨fun hpg hd q hq hu ps bs t0 t hps hload ht => ?_, fun hr hpg hdw q hq hu ps bs t0 t hps hk hstore ht => ?_,
    fun hr hpg hdw q hq hu ps bs t0 t1 os cs t2 t hps hk hload ht1 hos hstore ht => ?_,
    fun hw => ⟨fun h => ?_, fun hr hpg hdw h => ?_⟩⟩
  · exact exec_vmov_from_port hport hpg hd hq hu (ok_of_got hps) (ok_of_got hload) ht
  · exact exec_vmov_to_port hport hdw hr hpg hq hu (ok_of_got hps) hk (ok_of_got hstore) ht
  · exact exec_vmov_over_port hport hdw hr hpg hq hu hk (ok_of_got hps) (ok_of_got hload) ht1 (ok_of_got hos) (ok_of_got hstore) ht
  · exact exec_vmov_from_unusable hport hw h
  · exact exec_vmov_to_unusable hport hr hpg hw h

end Sys2Proof.Machine
end

section
/-! PROOFS. Operands that are not at hand: EMPTY scalars, vector members, predicates; UNALLOTTED vectors (R229, R234, R364). -/

namespace Sys2Proof.Machine

variable {s : State}

/-! ## What a word does up to an operand -/

/-- At `s`, `i` is a T word that goes on as `m`. -/
def RunsAs (s : State) (i : Instr) (m : M Unit) : Prop := ∃ n body, exec i s = tWord n body s ∧ body s = m s

section
variable {α : Type} {i : Instr} {x : M α} {k : α → M Unit}

theorem RunsAs.of_word {n : Nat} {m : M Unit} (h : exec i s = tWord n m s) : RunsAs s i m := ⟨n, m, h, rfl⟩

/-- Once an operand is at hand, the word goes on with it. -/
theorem RunsAs.after {a : α} (h : RunsAs s i (x >>= k)) (hx : x s = .ok a s) : RunsAs s i (k a) := by
  obtain ⟨n, body, hi, hb⟩ := h
  exact ⟨n, body, hi, hb.trans (M.bind_ok hx)⟩

theorem RunsAs.traps {c : Nat} {a j : Word} (h : RunsAs s i (x >>= k)) (hx : x s = .error (.trap c a j) s)
    (hw : s.awaits .t = false) : exec i s = .next (s.trapped s 0 c a j).settled := by
  obtain ⟨n, body, hi, hb⟩ := h
  exact hi.trans (tWord_trap (hb.trans (M.bind_error hx)) hw)

theorem RunsAs.waits (h : RunsAs s i (x >>= k)) (hx : x s = .error .stall s) :
    exec i s = .next { s with stalls := s.stalls + 1 } := by
  obtain ⟨n, body, hi, hb⟩ := h
  exact hi.trans (tWord_stall (hb.trans (M.bind_error hx)))

end

/-! ## Scalar operands -/

/-- What `i` does where `x` reads an EMPTY scalar register `n` with trap bit `b` (R234). -/
def EmptyScalar (s : State) (i : Instr) (n : Nat) (b : BitVec 1) : Prop :=
  (b = 1 → s.awaits .t = false → exec i s = .next (s.trapped s 0 0x07 (s.ctx.t.pc.zeroExtend 64) (BitVec.ofNat 64 (n * 2 ^ 48))).settled) ∧
  (b = 0 → exec i s = .next { s with stalls := s.stalls + 1 })

theorem emptyInfo_x (n : Nat) : emptyInfo n .x = BitVec.ofNat 64 (n * 2 ^ 48) := by
  rw [emptyInfo, Kind.code, Nat.zero_mul, Nat.add_zero]

theorem emptyInfo_v (n : Nat) : emptyInfo n .v = BitVec.ofNat 64 (n * 2 ^ 48 + 2 ^ 58) := by
  rw [emptyInfo, Kind.code, Nat.one_mul]

theorem emptyInfo_p (n : Nat) : emptyInfo n .p = BitVec.ofNat 64 (n * 2 ^ 48 + 2 * 2 ^ 58) := by
  rw [emptyInfo, Kind.code]

theorem emptyScalar {i : Instr} {n : Nat} {b : BitVec 1} {k : Word → M Unit} (h : RunsAs s i (readX replay n (b == 1) >>= k))
    (he : (s.ctx.regX n).fill = .empty) : EmptyScalar s i n b := by
  refine ⟨?_, ?_⟩
  · rintro rfl hw
    rw [← emptyInfo_x]
    exact h.traps (readX_empty_trap he) hw
  · rintro rfl
    exact h.waits (readX_empty_wait he)

/-- A word whose first operands are xa and xb. -/
def StartsXaXb (f : AForm) (s : State) (i : Instr) : Prop :=
  ∃ k : Word → Word → M Unit, RunsAs s i (readX replay f.xa.toNat (f.ba == 1) >>= fun a => readX replay f.xb.toNat (f.bb == 1) >>= k a)

theorem binA_starts {f : AForm} {i : Instr} {op : BitVec 2 → Word → Word → Alu} (h : exec i s = tWord 2 (binA rdS f op) s) :
    StartsXaXb f s i := ⟨_, .of_word h⟩

theorem two_source_words_start (f : AForm) (s : State) :
    ∀ i ∈ [Instr.add f, .sub f, .and f, .or f, .xor f, .shl f, .shr f, .mul f, .div f, .rem f, .min f, .max f, .cset f, .field f,
      .sel f], StartsXaXb f s i := by
  simp only [List.forall_mem_cons, List.not_mem_nil, false_implies, implies_true, and_true]
  exact ⟨binA_starts (show execAdd f s = _ from rfl), binA_starts (show execSub f s = _ from rfl),
    binA_starts (show execAnd f s = _ from rfl), binA_starts (show execOr f s = _ from rfl),
    binA_starts (show execXor f s = _ from rfl), binA_starts (show execShl f s = _ from rfl),
    binA_starts (show execShr f s = _ from rfl), binA_starts (show execMul f s = _ from rfl),
    binA_starts (show execDiv f s = _ from rfl), binA_starts (show execRem f s = _ from rfl),
    binA_starts (show execMin f s = _ from rfl), binA_starts (show execMax f s = _ from rfl),
    binA_starts (show execCset f s = _ from rfl), ⟨_, .of_word (show execField f s = tWord 2 _ s from rfl)⟩,
    ⟨_, .of_word (show execSel f s = tWord 2 _ s from rfl)⟩⟩

/-- The words of layout B that compute start with xa. -/
theorem immB_empty {f : BForm} {i : Instr} {op : BitVec 9 → Word → Alu} (he : (s.ctx.regX f.xa.toNat).fill = .empty)
    (h : exec i s = tWord 2 (immB rdS f op) s) : EmptyScalar s i f.xa.toNat f.ba :=
  emptyScalar (k := fun a => put rdS f.xd (op f.imm a)) (.of_word h) he

theorem immediate_words_empty (f : BForm) (he : (s.ctx.regX f.xa.toNat).fill = .empty) :
    ∀ i ∈ [Instr.addi f, .andi f, .ori f, .xori f, .shli f, .shri f, .shai f, .cseti f], EmptyScalar s i f.xa.toNat f.ba := by
  simp only [List.forall_mem_cons, List.not_mem_nil, false_implies, implies_true, and_true]
  exact ⟨immB_empty he (show execAddi f s = _ from rfl), immB_empty he (show execAndi f s = _ from rfl),
    immB_empty he (show execOri f s = _ from rfl), immB_empty he (show execXori f s = _ from rfl),
    immB_empty he (show execShli f s = _ from rfl), immB_empty he (show execShri f s = _ from rfl),
    immB_empty he (show execShai f s = _ from rfl), immB_empty he (show execCseti f s = _ from rfl)⟩

/-- What a word that closes T's windows does where it first reads an EMPTY scalar register `n` with trap bit `b`. -/
def EmptyScalarClosing (s : State) (i : Instr) (n : Nat) (b : BitVec 1) : Prop :=
  (b = 1 → s.awaits .t = false → exec i s = .next ((s.setCtx s.ctx.closed).trapped (s.setCtx s.ctx.closed) 0 0x07
    (s.ctx.t.pc.zeroExtend 64) (BitVec.ofNat 64 (n * 2 ^ 48))).settled) ∧
  (b = 0 → exec i s = .next { s.setCtx s.ctx.closed with stalls := s.stalls + 1 })

theorem emptyScalarClosing {i : Instr} {n : Nat} {b : BitVec 1} {body : M (Option Word)}
    (h : exec i s = runWord .t 0 2 body (closeWindow s)) (he : (s.ctx.regX n).fill = .empty)
    (hb : ∀ e, readX replay n (b == 1) (closeWindow s) = .error e (closeWindow s) →
      body (closeWindow s) = .error e (closeWindow s)) : EmptyScalarClosing s i n b := by
  have he' : ((closeWindow s).ctx.regX n).fill = .empty := by rw [ctx_closeWindow]; exact he
  refine ⟨?_, ?_⟩
  · rintro rfl hw
    have hread := readX_empty_trap (r := replay) he'
    rw [ctx_closeWindow, emptyInfo_x] at hread
    exact h.trans (runWord_trap (hb _ hread) ((awaits_setCtx s _ .t).trans hw))
  · rintro rfl
    exact h.trans (runWord_stall (hb _ (readX_empty_wait he')))

theorem xput_empty (f : AForm) (he : (s.ctx.regX f.xa.toNat).fill = .empty) :
    EmptyScalarClosing s (.xput f) f.xa.toNat f.ba :=
  emptyScalarClosing (show execXput f s = _ from rfl) he fun _ h => M.bind_error (M.bind_error h)

theorem xtake_empty (f : AForm) (he : (s.ctx.regX f.xa.toNat).fill = .empty) :
    EmptyScalarClosing s (.xtake f) f.xa.toNat f.ba :=
  emptyScalarClosing (show execXtake f s = _ from rfl) he fun _ h => M.bind_error (M.bind_error h)

theorem jr_empty (f : BForm) (he : (s.ctx.regX f.xa.toNat).fill = .empty) : EmptyScalarClosing s (.jr f) f.xa.toNat f.ba :=
  emptyScalarClosing (show execJr f s = _ from rfl) he fun _ h => M.bind_error h

/-- A compare-and-branch word has no trap bits: it waits for both of its sources. -/
theorem condBranch_waits {f : DForm} {p : Word → Word → Bool} (h : (s.ctx.regX f.xa.toNat).fill = .empty ∨
    (s.ctx.xReady f.xa.toNat = true ∧ (s.ctx.regX f.xb.toNat).fill = .empty)) :
    condBranch f p s = .next { s.setCtx s.ctx.closed with stalls := s.stalls + 1 } := by
  refine runWord_stall (s' := closeWindow s) ?_
  obtain ha | ⟨ha, hb⟩ := h
  · exact M.bind_error (readX_empty_wait (s := closeWindow s) (by rw [ctx_closeWindow]; exact ha))
  · exact (M.bind_ok (readX_ready (s := closeWindow s) (by rw [ctx_closeWindow]; exact ha))).trans
      (M.bind_error (readX_empty_wait (by rw [ctx_closeWindow]; exact hb)))

theorem compare_branches_wait (f : DForm) (h : (s.ctx.regX f.xa.toNat).fill = .empty ∨
    (s.ctx.xReady f.xa.toNat = true ∧ (s.ctx.regX f.xb.toNat).fill = .empty)) :
    ∀ i ∈ [Instr.beq f, .bne f, .blt f, .bge f, .bltu f, .bgeu f],
      exec i s = .next { s.setCtx s.ctx.closed with stalls := s.stalls + 1 } := by
  simp only [List.forall_mem_cons, List.not_mem_nil, false_implies, implies_true, and_true]
  exact ⟨(show execBeq f s = _ from condBranch_waits h), (show execBne f s = _ from condBranch_waits h),
    (show execBlt f s = _ from condBranch_waits h), (show execBge f s = _ from condBranch_waits h),
    (show execBltu f s = _ from condBranch_waits h), (show execBgeu f s = _ from condBranch_waits h)⟩

/-! ## Vector operands -/

/-- A member of a vector group that a reader gets at once. -/
def Ctx.atHand (c : Ctx) (r : Nat) : Prop := r < c.vallot ∧ ((c.liveAt .v r).isSome = true ∨ (c.regV r).fill = .full)

/-- What the words of `is` do where they read the group at `n` of `g` members and a member is not at hand (R229, R234). -/
def GroupRead (s : State) (n g : Nat) (bit : Bool) (is : List Instr) : Prop :=
  ∀ pre r post, n < 240 → members s.ctx n g = pre ++ r :: post → (∀ q ∈ pre, s.ctx.atHand q) → ∀ i ∈ is,
    (s.ctx.vallot ≤ r → s.awaits .t = false →
      exec i s = .next (s.trapped s 0 0x02 0 (BitVec.ofNat 64 (n * 2 ^ 48))).settled) ∧
    (r < s.ctx.vallot → s.ctx.liveAt .v r = none → (s.ctx.regV r).fill = .empty →
      (bit = true → s.awaits .t = false → exec i s = .next (s.trapped s 0 0x07 (s.ctx.t.pc.zeroExtend 64)
        (BitVec.ofNat 64 (n * 2 ^ 48 + 2 ^ 58))).settled) ∧
      (bit = false → exec i s = .next { s with stalls := s.stalls + 1 }))

theorem readV1_error {r : Nat → M Unit} {n m : Nat} {b : Bool} {e : Stop} (ha : m < s.ctx.vallot) (hl : s.ctx.liveAt .v m = none)
    (hr : ready r .v n m b s = .error e s) : readV1 r n m b s = .error e s := by
  rw [readV1, M.bind_ok (curCtx_run s), if_neg (Nat.not_le.2 ha), hl]
  exact M.bind_error hr

/-- A group is read up to its first member that is not at hand. -/
theorem readV_error {r : Nat → M Unit} {n g m : Nat} {b : Bool} {e : Stop} {pre post : List Nat} (hn : n < 240)
    (hm : members s.ctx n g = pre ++ m :: post) (hpre : ∀ q ∈ pre, s.ctx.atHand q) (h : readV1 r n m b s = .error e s) :
    readV r n g b s = .error e s := by
  rw [readV, if_neg (Nat.not_le.2 hn), M.bind_ok (curCtx_run s), hm]
  show readV.go r n b (pre ++ m :: post) s = _
  clear hm
  induction pre with
  | nil => exact M.bind_error h
  | cons q pre ih =>
    obtain ⟨ha, hq⟩ := hpre q (List.mem_cons_self ..)
    have hread : readV1 r n q b s = .ok _ s := readV1_ready ha (by simpa using hq)
    exact (M.bind_ok hread).trans (M.bind_error (ih fun p hp => hpre p (List.mem_cons_of_mem _ hp)))

/-- The bytes of a vector group as a number, as a word reads them. -/
def readNum (n g : Nat) (b : Bool) : M Nat := do return leNat (← readV replay n g b)

theorem groupRead {n g : Nat} {b : Bool} {is : List Instr}
    (h : ∀ i ∈ is, ∃ k : Nat → M Unit, RunsAs s i (readNum n g b >>= k)) : GroupRead s n g b is := by
  intro pre r post hn hm hpre i hi
  obtain ⟨k, hk⟩ := h i hi
  have herr : ∀ {e}, readV1 replay n r b s = .error e s → readNum n g b s = .error e s :=
    fun he => M.bind_error (readV_error hn hm hpre he)
  refine ⟨fun hr hw => hk.traps (herr ?_) hw, fun hr hl he => ⟨?_, ?_⟩⟩
  · rw [readV1, M.bind_ok (curCtx_run s), if_pos hr]
    rfl
  · rintro rfl hw
    refine hk.traps (herr (readV1_error hr hl ?_)) hw
    rw [ready, M.bind_ok (curCtx_run s), show s.ctx.fill .v r = .empty from he, ← emptyInfo_v]
    rfl
  · rintro rfl
    refine hk.waits (herr (readV1_error hr hl ?_))
    rw [ready, M.bind_ok (curCtx_run s), show s.ctx.fill .v r = .empty from he]
    rfl

theorem readNum_ready {n g : Nat} {b : Bool} (h : s.ctx.vReady n g = true) :
    readNum n g b s = .ok (leNat (s.ctx.liveGroup (members s.ctx n g))) s := (M.bind_ok (readV_ready h)).trans rfl

/-! ## The vector words and what they read, in order (R364) -/

/-- The words that read a. -/
def StartsA (f : VForm) (s : State) (i : Instr) : Prop :=
  ∃ k : Nat → M Unit, RunsAs s i (readNum f.a.toNat (width f.aw) (f.ab == 1) >>= k)

/-- The words that read a and the predicate. -/
def StartsAPg (f : VForm) (s : State) (i : Instr) : Prop :=
  ∃ k : Nat → Pred → M Unit, RunsAs s i (readNum f.a.toNat (width f.aw) (f.ab == 1) >>= fun a => readPg rdV f >>= k a)

/-- The words that read a, b and the predicate. -/
def StartsABPg (f : VForm) (s : State) (i : Instr) : Prop :=
  ∃ k : Nat → Nat → Pred → M Unit, RunsAs s i (readNum f.a.toNat (width f.aw) (f.ab == 1) >>= fun a =>
    readNum f.b.toNat (width f.bw) (f.bb == 1) >>= fun b => readPg rdV f >>= k a b)

/-- The words that read a, b, d and the predicate. -/
def StartsABDPg (f : VForm) (s : State) (i : Instr) : Prop :=
  ∃ k : Nat → Nat → Nat → Pred → M Unit, RunsAs s i (readNum f.a.toNat (width f.aw) (f.ab == 1) >>= fun a =>
    readNum f.b.toNat (width f.bw) (f.bb == 1) >>= fun b => readNum f.d.toNat (width f.dw) false >>= fun d => readPg rdV f >>= k a b d)

variable {f : VForm} {i : Instr}

theorem elementwise_a {op : EOp} (h : exec i s = tWord 4 (elementwise rdV f false false op) s) : StartsAPg f s i :=
  ⟨_, 4, _, h, rfl⟩

theorem elementwise_ab {op : EOp} (h : exec i s = tWord 4 (elementwise rdV f true false op) s) : StartsABPg f s i :=
  ⟨_, 4, _, h, rfl⟩

theorem elementwise_abd {op : EOp} (h : exec i s = tWord 4 (elementwise rdV f true true op) s) : StartsABDPg f s i :=
  ⟨_, 4, _, h, rfl⟩

theorem pick_a {sel : Nat → Nat → Nat → Nat → Nat} (h : exec i s = tWord 4 (pick rdV f false sel) s) : StartsAPg f s i :=
  ⟨_, 4, _, h, rfl⟩

theorem pick_ab {sel : Nat → Nat → Nat → Nat → Nat} (h : exec i s = tWord 4 (pick rdV f true sel) s) : StartsABPg f s i :=
  ⟨_, 4, _, h, rfl⟩

theorem bitwise_ab {op : Nat → Nat → Nat → Nat} (h : exec i s = tWord 4 (bitwise rdV f true op) s) : StartsABPg f s i :=
  ⟨_, 4, _, h, rfl⟩

theorem quantise_a {e : BitVec 4} {q : Nat → Bool → List Val → (Nat → Nat) → Nat × List (Nat × BitVec 7) × BitVec 7}
    (h : exec i s = tWord 4 (quantise rdV f e q) s) : StartsAPg f s i := ⟨_, 4, _, h, rfl⟩

theorem dequantise_a {e : BitVec 4} {value : Nat → Nat → Val} (h : exec i s = tWord 4 (dequantise rdV f e value) s) :
    StartsAPg f s i := ⟨_, 4, _, h, rfl⟩

theorem one_source_words_start (f : VForm) (s : State) :
    ∀ i ∈ [Instr.vabs f, .vneg f, .vsqrt f, .vrcp f, .vrsq f, .vexp2 f, .vlog2 f, .vnot f, .vcvt f, .vqmx f, .vdqmx f, .vqnb f, .vdqnb f,
      .vred f, .vscan f, .vslide f, .vmov f], StartsAPg f s i := by
  simp only [List.forall_mem_cons, List.not_mem_nil, false_implies, implies_true, and_true]
  exact ⟨elementwise_a (show execVabs f s = _ from rfl), elementwise_a (show execVneg f s = _ from rfl),
    elementwise_a (show execVsqrt f s = _ from rfl), elementwise_a (show execVrcp f s = _ from rfl),
    elementwise_a (show execVrsq f s = _ from rfl), elementwise_a (show execVexp2 f s = _ from rfl),
    elementwise_a (show execVlog2 f s = _ from rfl), ⟨_, 4, _, show execVnot f s = _ from rfl, rfl⟩,
    ⟨_, 4, _, show execVcvt f s = _ from rfl, rfl⟩, quantise_a (show execVqmx f s = _ from rfl),
    dequantise_a (show execVdqmx f s = _ from rfl), quantise_a (show execVqnb f s = _ from rfl),
    dequantise_a (show execVdqnb f s = _ from rfl), ⟨_, 4, _, show execVred f s = _ from rfl, rfl⟩,
    ⟨_, 4, _, show execVscan f s = _ from rfl, rfl⟩, pick_a (show execVslide f s = _ from rfl), pick_a (show execVmov f s = _ from rfl)⟩

theorem two_vector_words_start (f : VForm) (s : State) :
    ∀ i ∈ [Instr.vadd f, .vsub f, .vmul f, .vmin f, .vmax f, .vdiv f, .vscl f, .vcmp f, .vsel f, .vand f, .vor f, .vxor f, .vpack f, .vperm f,
      .vzip f, .vunzip f], StartsABPg f s i := by
  simp only [List.forall_mem_cons, List.not_mem_nil, false_implies, implies_true, and_true]
  exact ⟨elementwise_ab (show execVadd f s = _ from rfl), elementwise_ab (show execVsub f s = _ from rfl),
    elementwise_ab (show execVmul f s = _ from rfl), elementwise_ab (show execVmin f s = _ from rfl),
    elementwise_ab (show execVmax f s = _ from rfl), elementwise_ab (show execVdiv f s = _ from rfl),
    elementwise_ab (show execVscl f s = _ from rfl), ⟨_, 4, _, show execVcmp f s = _ from rfl, rfl⟩,
    ⟨_, 4, _, show execVsel f s = _ from rfl, rfl⟩, bitwise_ab (show execVand f s = _ from rfl),
    bitwise_ab (show execVor f s = _ from rfl), bitwise_ab (show execVxor f s = _ from rfl),
    ⟨_, 4, _, show execVpack f s = _ from rfl, rfl⟩, pick_ab (show execVperm f s = _ from rfl), pick_ab (show execVzip f s = _ from rfl),
    pick_ab (show execVunzip f s = _ from rfl)⟩

theorem three_vector_words_start (f : VForm) (s : State) : ∀ i ∈ [Instr.vfma f, .vfms f, .vbdot f], StartsABDPg f s i := by
  simp only [List.forall_mem_cons, List.not_mem_nil, false_implies, implies_true, and_true]
  exact ⟨elementwise_abd (show execVfma f s = _ from rfl), elementwise_abd (show execVfms f s = _ from rfl),
    ⟨_, 4, _, show execVbdot f s = _ from rfl, rfl⟩⟩

theorem shifts_and_extract_start (f : VForm) (s : State) : ∀ i ∈ [Instr.vshl f, .vshr f, .vextr f], StartsA f s i := by
  simp only [List.forall_mem_cons, List.not_mem_nil, false_implies, implies_true, and_true]
  exact ⟨⟨_, 4, _, show execVshl f s = _ from rfl, rfl⟩, ⟨_, 4, _, show execVshr f s = _ from rfl, rfl⟩,
    ⟨_, 4, _, show execVextr f s = _ from rfl, rfl⟩⟩

/-- The predicate words that start with the predicate at a. -/
def StartsPa (f : VForm) (s : State) (i : Instr) : Prop :=
  ∃ k : Pred → M Unit, RunsAs s i (readP replay f.a.toNat (f.ab == 1) >>= k)

theorem predicate_words_start (f : VForm) (s : State) :
    ∀ i ∈ [Instr.pand f, .por f, .pxor f, .pnot f, .pcnt f, .pfirst f], StartsPa f s i := by
  simp only [List.forall_mem_cons, List.not_mem_nil, false_implies, implies_true, and_true]
  exact ⟨⟨_, 4, _, show execPand f s = _ from rfl, rfl⟩, ⟨_, 4, _, show execPor f s = _ from rfl, rfl⟩,
    ⟨_, 4, _, show execPxor f s = _ from rfl, rfl⟩, ⟨_, 4, _, show execPnot f s = _ from rfl, rfl⟩,
    ⟨_, 4, _, show execPcnt f s = _ from rfl, rfl⟩, ⟨_, 4, _, show execPfirst f s = _ from rfl, rfl⟩⟩

/-! ## Predicate operands -/

/-- A predicate that is EMPTY and not live. -/
def Ctx.pEmpty (c : Ctx) (n : Nat) : Prop := (c.liveAt .p (rotP c n)).isNone = true ∧ (c.regP (rotP c n)).fill = .empty

theorem readP_error {r : Nat → M Unit} {n : Nat} {b : Bool} {e : Stop} (h : s.ctx.pEmpty n)
    (hr : ready r .p n (rotP s.ctx n) b s = .error e s) : readP r n b s = .error e s := by
  rw [readP, M.bind_ok (curCtx_run s), M.bind_ok (curCtx_run s), Option.isNone_iff_eq_none.1 h.1]
  exact M.bind_error hr

theorem ready_empty_p {r : Nat → M Unit} {n : Nat} {b : Bool} (h : s.ctx.pEmpty n) : ready r .p n (rotP s.ctx n) b s =
    (if b then trap 0x07 (s.ctx.t.pc.zeroExtend 64) (emptyInfo n .p) else stall : M Unit) s := by
  rw [ready, M.bind_ok (curCtx_run s), show s.ctx.fill .p (rotP s.ctx n) = .empty from h.2]

theorem readP_empty_wait {r : Nat → M Unit} {n : Nat} (h : s.ctx.pEmpty n) : readP r n false s = .error .stall s :=
  readP_error h (ready_empty_p h)

theorem readP_empty_trap {r : Nat → M Unit} {n : Nat} (h : s.ctx.pEmpty n) :
    readP r n true s = .error (.trap 0x07 (s.ctx.t.pc.zeroExtend 64) (emptyInfo n .p)) s :=
  readP_error h (ready_empty_p h)

theorem predicate_words_empty (f : VForm) (h : s.ctx.pEmpty f.a.toNat) :
    ∀ i ∈ [Instr.pand f, .por f, .pxor f, .pnot f, .pcnt f, .pfirst f],
      (f.ab = 1 → s.awaits .t = false → exec i s = .next (s.trapped s 0 0x07 (s.ctx.t.pc.zeroExtend 64)
        (BitVec.ofNat 64 (f.a.toNat * 2 ^ 48 + 2 * 2 ^ 58))).settled) ∧
      (f.ab = 0 → exec i s = .next { s with stalls := s.stalls + 1 }) := by
  intro i hi
  obtain ⟨k, hk⟩ := predicate_words_start f s i hi
  refine ⟨fun hb hw => ?_, fun hb => ?_⟩
  · rw [hb] at hk
    rw [← emptyInfo_p]
    exact hk.traps (readP_empty_trap h) hw
  · rw [hb] at hk
    exact hk.waits (readP_empty_wait h)

/-! ## O4 -/

theorem empty_scalars (f : AForm) (s : State) :
    ((s.ctx.regX f.xa.toNat).fill = .empty → ∀ i ∈ Instr.bits f :: [Instr.add f, .sub f, .and f, .or f, .xor f, .shl f, .shr f,
      .mul f, .div f, .rem f, .min f, .max f, .cset f, .field f, .sel f], EmptyScalar s i f.xa.toNat f.ba) ∧
    (s.ctx.xReady f.xa.toNat = true → (s.ctx.regX f.xb.toNat).fill = .empty → ∀ i ∈ [Instr.add f, .sub f, .and f, .or f, .xor f,
      .shl f, .shr f, .mul f, .div f, .rem f, .min f, .max f, .cset f, .field f, .sel f], EmptyScalar s i f.xb.toNat f.bb) := by
  refine ⟨fun he => List.forall_mem_cons.2 ⟨?_, fun i hi => ?_⟩, fun ha he i hi => ?_⟩
  · exact emptyScalar (k := fun a => put rdS f.xd (bitsOp f.fn a)) ⟨2, _, show execBits f s = _ from rfl, rfl⟩ he
  · obtain ⟨k, hk⟩ := two_source_words_start f s i hi
    exact emptyScalar hk he
  · obtain ⟨k, hk⟩ := two_source_words_start f s i hi
    exact emptyScalar (hk.after (readX_ready ha)) he

theorem StartsAPg.startsA (h : StartsAPg f s i) : StartsA f s i := h.elim fun _ hk => ⟨_, hk⟩
theorem StartsABPg.startsA (h : StartsABPg f s i) : StartsA f s i := h.elim fun _ hk => ⟨_, hk⟩
theorem StartsABDPg.startsA (h : StartsABDPg f s i) : StartsA f s i := h.elim fun _ hk => ⟨_, hk⟩

/-- The words of the four tables above read a first. -/
theorem startsA_of_mem {l a ab abd : List Instr} (hl : ∀ i ∈ l, StartsA f s i) (ha : ∀ i ∈ a, StartsAPg f s i)
    (hab : ∀ i ∈ ab, StartsABPg f s i) (habd : ∀ i ∈ abd, StartsABDPg f s i) :
    ∀ i ∈ l ++ (a ++ ab ++ abd), StartsA f s i := by
  intro i hi
  rw [List.mem_append, List.mem_append, List.mem_append] at hi
  obtain h | (h | h) | h := hi
  · exact hl i h
  · exact (ha i h).startsA
  · exact (hab i h).startsA
  · exact (habd i h).startsA

/-- Once a is at hand, the words of the last two tables read b. -/
theorem readsB_of_mem {ab abd : List Instr} (hr : s.ctx.vReady f.a.toNat (width f.aw) = true)
    (hab : ∀ i ∈ ab, StartsABPg f s i) (habd : ∀ i ∈ abd, StartsABDPg f s i) :
    ∀ i ∈ ab ++ abd, ∃ k : Nat → M Unit, RunsAs s i (readNum f.b.toNat (width f.bw) (f.bb == 1) >>= k) := by
  intro i hi
  obtain h | h := List.mem_append.1 hi
  · obtain ⟨k, hk⟩ := hab i h
    exact ⟨_, hk.after (readNum_ready hr)⟩
  · obtain ⟨k, hk⟩ := habd i h
    exact ⟨_, hk.after (readNum_ready hr)⟩

theorem StartsAPg.waits (h : StartsAPg f s i) (hp : s.ctx.pEmpty f.pg.toNat) (ha : s.ctx.vReady f.a.toNat (width f.aw) = true) :
    exec i s = .next { s with stalls := s.stalls + 1 } :=
  h.elim fun _ hk => (hk.after (readNum_ready ha)).waits (readP_empty_wait hp)

theorem StartsABPg.waits (h : StartsABPg f s i) (hp : s.ctx.pEmpty f.pg.toNat) (ha : s.ctx.vReady f.a.toNat (width f.aw) = true)
    (hb : s.ctx.vReady f.b.toNat (width f.bw) = true) : exec i s = .next { s with stalls := s.stalls + 1 } :=
  h.elim fun _ hk => ((hk.after (readNum_ready ha)).after (readNum_ready hb)).waits (readP_empty_wait hp)

theorem StartsABDPg.readsD (h : StartsABDPg f s i) (ha : s.ctx.vReady f.a.toNat (width f.aw) = true)
    (hb : s.ctx.vReady f.b.toNat (width f.bw) = true) : ∃ k : Nat → Pred → M Unit,
      RunsAs s i (readNum f.d.toNat (width f.dw) false >>= fun d => readPg rdV f >>= k d) :=
  h.elim fun _ hk => ⟨_, (hk.after (readNum_ready ha)).after (readNum_ready hb)⟩

theorem StartsABDPg.waits (h : StartsABDPg f s i) (hp : s.ctx.pEmpty f.pg.toNat) (ha : s.ctx.vReady f.a.toNat (width f.aw) = true)
    (hb : s.ctx.vReady f.b.toNat (width f.bw) = true) (hd : s.ctx.vReady f.d.toNat (width f.dw) = true) :
    exec i s = .next { s with stalls := s.stalls + 1 } :=
  (h.readsD ha hb).elim fun _ hk => (hk.after (readNum_ready hd)).waits (readP_empty_wait hp)

/-- Settles O4: the tables say which operands each word reads first, and the reads where they trap or wait. -/
theorem emptyOperandTrapsOrWaits : Obligations.EmptyOperandTrapsOrWaits := by
  refine ⟨fun f s => ⟨fun he => ?_, fun ha he i hi => (empty_scalars f s).2 ha he i hi⟩, fun f s he => ?_,
    fun f s h => compare_branches_wait f h, fun f s => ?_⟩
  · have hwords := (empty_scalars f s).1 he
    exact ⟨fun hb hw => ⟨fun i hi => (hwords i hi).1 hb hw, List.forall_mem_cons.2 ⟨(xput_empty f he).1 hb hw,
        List.forall_mem_singleton.2 ((xtake_empty f he).1 hb hw)⟩⟩,
      fun hb => ⟨fun i hi => (hwords i hi).2 hb, List.forall_mem_cons.2 ⟨(xput_empty f he).2 hb,
        List.forall_mem_singleton.2 ((xtake_empty f he).2 hb)⟩⟩⟩
  · have hwords := immediate_words_empty f he
    exact ⟨fun hb hw => ⟨fun i hi => (hwords i hi).1 hb hw, (jr_empty f he).1 hb hw⟩,
      fun hb => ⟨fun i hi => (hwords i hi).2 hb, (jr_empty f he).2 hb⟩⟩
  · have hone := one_source_words_start f s
    have htwo := two_vector_words_start f s
    have hthree := three_vector_words_start f s
    exact ⟨groupRead (startsA_of_mem (shifts_and_extract_start f s) hone htwo hthree), fun ha =>
      ⟨groupRead (readsB_of_mem ha htwo hthree), fun hp i hi => (hone i hi).waits hp ha, fun hb =>
        ⟨fun hp i hi => (htwo i hi).waits hp ha hb,
          groupRead fun i hi => ((hthree i hi).readsD ha hb).elim fun _ hk => ⟨_, hk⟩,
          fun hd hp i hi => (hthree i hi).waits hp ha hb hd⟩⟩,
      fun i hi hn he => predicate_words_empty f ⟨hn, he⟩ i hi⟩

end Sys2Proof.Machine
end

section
/-! PROOFS. Recipe words, replays, and the words that start one (R246 to R250, R412 to R415). -/

namespace Sys2Proof.Machine

variable {s t u : State}

/-! ## Loops of a word and lists in order -/

/-- A loop whose steps leave the state alone stops at the first that does not succeed. -/
theorem forM_error {α : Type} {l : List α} {f : α → M Unit} {e : Stop} (hstep : ∀ a ∈ l, f a s = .ok () s ∨ f a s = .error e s)
    (hbad : ∃ a ∈ l, f a s = .error e s) : l.forM f s = .error e s := by
  induction l with
  | nil => simp at hbad
  | cons a l ih =>
    by_cases ha : f a s = .error e s
    · exact M.bind_error ha
    · have hok : f a s = .ok () s := (hstep a (List.mem_cons_self ..)).resolve_right ha
      refine (M.bind_ok hok).trans (ih (fun b hb => hstep b (List.mem_cons_of_mem _ hb)) ?_)
      obtain ⟨b, hb, he⟩ := hbad
      obtain rfl | hb := List.mem_cons.1 hb
      · exact absurd he ha
      · exact ⟨b, hb, he⟩

theorem mem_putInOrder {α : Type} {le : α → α → Bool} {a b : α} {l : List α} : a ∈ putInOrder le b l ↔ a = b ∨ a ∈ l := by
  induction l with
  | nil => simp [putInOrder]
  | cons c l ih =>
    rw [putInOrder]
    split
    · simp
    · rw [List.mem_cons, ih, List.mem_cons]
      tauto

theorem mem_inOrder {α : Type} {le : α → α → Bool} {a : α} {l : List α} : a ∈ inOrder le l ↔ a ∈ l := by
  induction l with
  | nil => rfl
  | cons b l ih =>
    show a ∈ putInOrder le b (inOrder le l) ↔ _
    rw [mem_putInOrder, ih, List.mem_cons]

/-! ## RCPDEF, RCPDROP, RCPKILL (R412, R413) -/

section
variable {f : VForm}

theorem curCtx_closed (s : State) : curCtx (closeWindow s) = .ok s.ctx.closed (closeWindow s) :=
  (curCtx_run _).trans (by rw [ctx_closeWindow])

/-- The slot that a recipe word names. -/
def slotNamed (f : VForm) : Nat := (f.fn8.extractLsb' 3 5).toNat

/-- The kind of the register that a recipe word names. -/
def kindNamed (f : VForm) : Kind := kindOfCode (kindOf f)

/-- What RCPDEF asks of its address and of its target, a register `r`. -/
def DefinesReg (s : State) (f : VForm) (r : Nat) : Prop :=
  s.ctx.xReady f.a.toNat = true ∧ (s.ctx.regX f.a.toNat).val.toNat < 2 ^ 56 ∧ (s.ctx.regX f.a.toNat).val.toNat % 2 = 0 ∧
    r = namedReg s.ctx.closed (kindNamed f) f.d.toNat ∧ isZeroReg (kindNamed f) r = false ∧
    (kindNamed f = .v → f.d.toNat < 240 ∧ r < s.ctx.vallot)

/-- The slots of a context once slot `j` is bound to a register, and no other is (R412). -/
def Ctx.defined (c : Ctx) (j : Nat) (w : Recipe) : Ctx :=
  { c with recipes := mapSet ((mapDel c.recipes j).filter fun (e : Nat × Recipe) =>
      !(e.2.kind == w.kind && e.2.target == w.target)) j w }

/-- The rotation that a recipe keeps (R246). -/
def Ctx.rotWord (c : Ctx) : BitVec 32 := BitVec.ofNat 32 (c.vsize + c.psize * 256 + c.vrrb * 65536 + c.prrb * 2 ^ 24)

theorem target_allowed {r : Nat} (h : DefinesReg s f r) :
    ¬ (isZeroReg (kindNamed f) r || (kindNamed f == .v && (decide (f.d.toNat ≥ 240) || decide (r ≥ s.ctx.closed.vallot)))) = true := by
  obtain ⟨-, -, -, -, hz, hv⟩ := h
  rw [hz, Bool.false_or, Bool.and_eq_true, beq_iff_eq, Bool.or_eq_true, decide_eq_true_eq, decide_eq_true_eq]
  rintro ⟨hk, hd⟩
  obtain ⟨h240, hr⟩ := hv hk
  have hr' : r < s.ctx.closed.vallot := hr
  omega

theorem exec_rcpdef {r : Nat} {body : List Instr} {pins : List (Kind × Nat)} (h : DefinesReg s f r)
    (hb : bodyWords (s.ctx.regX f.a.toNat).val (f.imm.toNat % 4 + 1) (closeWindow s) = .ok body t) (ht : t.ctx = s.ctx.closed)
    (hp : checkBody s.ctx.closed (kindNamed f, r) body false [] = some pins)
    (hold : ∀ old, mapFind s.ctx.recipes (slotNamed f) = some old → s.ctx.fill old.kind old.target ≠ .dropped) :
    exec (.rcpdef f) s = .next (t.wordDone 4 (s.ctx.closed.defined (slotNamed f)
      ⟨body, kindNamed f, r, pins, s.ctx.closed.rotWord⟩)) := by
  have htarget := target_allowed h
  obtain ⟨hx, hlt, heven, hr, -⟩ := h
  rw [hr] at htarget hp ⊢
  rw [← ht] at htarget hp ⊢
  show execRcpdef f s = _
  refine tWordClosing_ok ((M.bind_ok (rdV_x_closed hx _)).trans ((congrFun (if_neg (Nat.not_le.2 hlt)) _).trans
    ((congrFun (if_neg (by simp [heven])) _).trans ((M.bind_ok hb).trans ((M.bind_ok (curCtx_run t)).trans
    ((congrFun (if_neg htarget) t).trans ?_))))))
  rw [show checkBody t.ctx (kindOfCode (kindOf f), namedReg t.ctx (kindOfCode (kindOf f)) f.d.toNat) body false [] = some pins from hp]
  cases ho : mapFind t.ctx.recipes (f.fn8.extractLsb' 3 5).toNat with
  | none => exact modCtx_run _ t
  | some old =>
    rw [ht] at ho
    have hkept : ¬ (t.ctx.fill old.kind old.target == .dropped) = true := by
      rw [ht, beq_iff_eq]
      exact hold old ho
    exact (congrFun (if_neg hkept) t).trans (modCtx_run _ t)

theorem exec_rcpdef_refused {r : Nat} {body : List Instr} (h : DefinesReg s f r)
    (hb : bodyWords (s.ctx.regX f.a.toNat).val (f.imm.toNat % 4 + 1) (closeWindow s) = .ok body t) (ht : t.ctx = s.ctx.closed)
    (hp : checkBody s.ctx.closed (kindNamed f, r) body false [] = none) (hw : s.awaits .t = false) :
    exec (.rcpdef f) s = .next ((closeWindow s).trapped t 0 0x09 0 0).settled := by
  have htarget := target_allowed h
  obtain ⟨hx, hlt, heven, hr, -⟩ := h
  rw [hr, ← ht] at htarget hp
  show execRcpdef f s = _
  refine tWordClosing_trap ((M.bind_ok (rdV_x_closed hx _)).trans ((congrFun (if_neg (Nat.not_le.2 hlt)) _).trans
    ((congrFun (if_neg (by simp [heven])) _).trans ((M.bind_ok hb).trans ((M.bind_ok (curCtx_run t)).trans
    ((congrFun (if_neg htarget) t).trans ?_)))))) hw
  rw [show checkBody t.ctx (kindOfCode (kindOf f), namedReg t.ctx (kindOfCode (kindOf f)) f.d.toNat) body false [] = none from hp]
  rfl

theorem not_port (hd : kindNamed f = .v → f.d.toNat < 240) : ¬ (kindNamed f == .v && decide (f.d.toNat ≥ 240)) = true := by
  rw [Bool.and_eq_true, beq_iff_eq, decide_eq_true_eq]
  exact fun h => Nat.not_le.2 (hd h.1) h.2

theorem exec_rcpdrop {r : Nat} (hr : r = namedReg s.ctx.closed (kindNamed f) f.d.toNat) (hd : kindNamed f = .v → f.d.toNat < 240)
    (hs : s.ctx.closed.slotOf (kindNamed f) r ≠ none) (hp : s.ctx.closed.pending (kindNamed f) r = false) :
    exec (.rcpdrop f) s = .next (s.wordDone 4 (s.ctx.closed.setFill (kindNamed f) r .dropped)) := by
  subst hr
  show execRcpdrop f s = _
  refine tWordClosing_done ((M.bind_ok (curCtx_closed s)).trans ((congrFun (if_neg (not_port hd)) _).trans ?_))
  obtain ⟨e, he⟩ := Option.ne_none_iff_exists'.1 hs
  rw [show s.ctx.closed.slotOf (kindOfCode (kindOf f)) (namedReg s.ctx.closed (kindOfCode (kindOf f)) f.d.toNat) = some e from he]
  refine (congrFun (if_neg ?_) _).trans (modCtx_closed _ s)
  rw [show s.ctx.closed.pending (kindOfCode (kindOf f)) (namedReg s.ctx.closed (kindOfCode (kindOf f)) f.d.toNat) = false from hp]
  decide

theorem exec_rcpdrop_refused (hd : kindNamed f = .v → f.d.toNat < 240) (hw : s.awaits .t = false)
    (hs : s.ctx.closed.slotOf (kindNamed f) (namedReg s.ctx.closed (kindNamed f) f.d.toNat) = none) :
    exec (.rcpdrop f) s = .next ((closeWindow s).trapped (closeWindow s) 0 0x09 0 0).settled := by
  show execRcpdrop f s = _
  refine tWordClosing_trap ((M.bind_ok (curCtx_closed s)).trans ((congrFun (if_neg (not_port hd)) _).trans ?_)) hw
  rw [show s.ctx.closed.slotOf (kindOfCode (kindOf f)) (namedReg s.ctx.closed (kindOfCode (kindOf f)) f.d.toNat) = none from hs]
  rfl

theorem exec_rcpkill_unbound (h : mapFind s.ctx.recipes (slotNamed f) = none) : exec (.rcpkill f) s = .next (s.wordDone 4 s.ctx.closed) := by
  show execRcpkill f s = _
  refine tWordClosing_done ((M.bind_ok (curCtx_closed s)).trans ?_)
  rw [show mapFind s.ctx.closed.recipes (f.fn8.extractLsb' 3 5).toNat = none from h]
  rfl

theorem exec_rcpkill {old : Recipe} (h : mapFind s.ctx.recipes (slotNamed f) = some old)
    (hf : s.ctx.fill old.kind old.target ≠ .dropped) : exec (.rcpkill f) s =
      .next (s.wordDone 4 { s.ctx.closed with recipes := mapDel s.ctx.recipes (slotNamed f) }) := by
  have hkept : ¬ (s.ctx.closed.fill old.kind old.target == .dropped) = true := by
    rw [beq_iff_eq]
    exact hf
  show execRcpkill f s = _
  refine tWordClosing_done ((M.bind_ok (curCtx_closed s)).trans ?_)
  rw [show mapFind s.ctx.closed.recipes (f.fn8.extractLsb' 3 5).toNat = some old from h]
  exact (congrFun (if_neg hkept) _).trans (modCtx_closed _ s)

/-! ## REMPTY and RSTATE (R414, R415) -/

theorem exec_rempty_zero (h : isZeroReg (kindNamed f) (namedReg s.ctx.closed (kindNamed f) f.d.toNat) = true) :
    exec (.rempty f) s = .next (s.wordDone 4 s.ctx.closed) := by
  show execRempty f s = _
  exact tWordClosing_done ((M.bind_ok (curCtx_closed s)).trans ((congrFun (if_pos h) _).trans rfl))

theorem exec_rempty {r : Nat} (hr : r = namedReg s.ctx.closed (kindNamed f) f.d.toNat) (hz : isZeroReg (kindNamed f) r = false)
    (hv : kindNamed f = .v → r < s.ctx.vallot) (hw : s.ctx.closed.writable (kindNamed f) r = true) :
    exec (.rempty f) s = .next (s.wordDone 4 ((unbind s.ctx.closed (kindNamed f) r).setFill (kindNamed f) r .empty)) := by
  subst hr
  have hallot : ¬ (kindNamed f == .v && decide (namedReg s.ctx.closed (kindNamed f) f.d.toNat ≥ s.ctx.closed.vallot)) = true := by
    rw [Bool.and_eq_true, beq_iff_eq, decide_eq_true_eq]
    exact fun h => Nat.not_le.2 (hv h.1) h.2
  show execRempty f s = _
  refine tWordClosing_done ((M.bind_ok (curCtx_closed s)).trans ((congrFun (if_neg (Bool.eq_false_iff.1 hz)) _).trans
    ((congrFun (if_neg hallot) _).trans ((emptyReg_run (by rw [ctx_closeWindow]; exact hw)).trans ?_))))
  rw [ctx_closeWindow]
  exact congrArg (EStateM.Result.ok ()) (State.setCtx_setCtx s _ _)

theorem exec_rempty_unallotted {r : Nat} (hr : r = namedReg s.ctx.closed (kindNamed f) f.d.toNat) (hk : kindNamed f = .v)
    (hv : s.ctx.vallot ≤ r) (hw : s.awaits .t = false) : exec (.rempty f) s =
      .next ((closeWindow s).trapped (closeWindow s) 0 0x02 0 (regInfo f.d.toNat)).settled := by
  subst hr
  have hz : ¬ isZeroReg (kindNamed f) (namedReg s.ctx.closed (kindNamed f) f.d.toNat) = true := by
    rw [hk]
    exact Bool.false_ne_true
  have hout : (kindNamed f == .v && decide (namedReg s.ctx.closed (kindNamed f) f.d.toNat ≥ s.ctx.closed.vallot)) = true :=
    Bool.and_eq_true_iff.2 ⟨beq_iff_eq.2 hk, decide_eq_true hv⟩
  show execRempty f s = _
  exact tWordClosing_trap ((M.bind_ok (curCtx_closed s)).trans ((congrFun (if_neg hz) _).trans ((congrFun (if_pos hout) _).trans rfl))) hw

theorem exec_rstate (hd : s.ctx.xWritable f.d.toNat = true) : exec (.rstate f) s = .next (s.wordDone 4 (s.ctx.closed.putX f.d.toNat
    (BitVec.ofNat 64 (regState s.ctx.closed (kindNamed f) (namedReg s.ctx.closed (kindNamed f) f.a.toNat))))) := by
  show execRstate f s = _
  exact allot_done (c := s.ctx.closed) (M.bind_ok (curCtx_closed s)) (xWritable_closed hd)

end

/-! ## Replays (R249) -/

theorem M.tryCatch_ok {α : Type} {x : M α} {h : Stop → M α} {a : α} (hx : x s = .ok a t) : tryCatch x h s = .ok a t := by
  show EStateM.tryCatch x h s = _
  rw [EStateM.tryCatch, hx]

/-- What a word has done before it stops stays where the stop is caught. -/
theorem M.tryCatch_error {α : Type} {x : M α} {h : Stop → M α} {e : Stop} (hx : x s = .error e t) : tryCatch x h s = h e t := by
  show EStateM.tryCatch x h s = _
  rw [EStateM.tryCatch, hx]
  rfl

/-- The order in which a replay prepares its sources. -/
def pinOrder (a b : Kind × Nat) : Bool := decide (srcKey a ≤ srcKey b)

/-- A replay prepares one source. -/
def preparePin (n : Nat) (src : Kind × Nat) : M Unit := do
  let c ← curCtx
  match c.fill src.1 src.2 with
  | .full => pure ()
  | .empty => stall
  | .dropped =>
    match c.slotOf src.1 src.2 with
    | some (s', _) => replayF n s'
    | none => pure ()

theorem preparePin_full {n : Nat} {p : Kind × Nat} (h : s.ctx.fill p.1 p.2 = .full) : preparePin n p s = .ok () s := by
  rw [preparePin, M.bind_ok (curCtx_run s), h]
  rfl

theorem preparePin_empty {n : Nat} {p : Kind × Nat} (h : s.ctx.fill p.1 p.2 = .empty) : preparePin n p s = .error .stall s := by
  rw [preparePin, M.bind_ok (curCtx_run s), h]
  rfl

theorem preparePin_dropped {n j : Nat} {w : Recipe} {p : Kind × Nat} (h : s.ctx.fill p.1 p.2 = .dropped)
    (hs : s.ctx.slotOf p.1 p.2 = some (j, w)) : preparePin n p s = replayF n j s := by
  rw [preparePin, M.bind_ok (curCtx_run s), h]
  simp only
  rw [hs]

variable {n j : Nat} {w : Recipe}

/-- A replay whose sources cannot be prepared ends there. -/
theorem replayF_of_pins_error {e : Stop} (hw : mapFind s.ctx.recipes j = some w)
    (h : (inOrder pinOrder w.pins).forM (preparePin n) s = .error e u) : replayF (n + 1) j s = .error e u := by
  rw [replayF, M.bind_ok (curCtx_run s), hw]
  exact M.bind_error h

/-- A replay whose sources are FULL runs its body. -/
theorem replayF_of_full (hw : mapFind s.ctx.recipes j = some w) (hp : ∀ p ∈ w.pins, s.ctx.fill p.1 p.2 = .full)
    (hb : w.body.forM (runBody (bodyRd (replayF n) w.rot)) s = .ok () t) :
    replayF (n + 1) j s = .ok () (t.setCtx (t.ctx.setFill w.kind w.target .full)) := by
  have hpins : (inOrder pinOrder w.pins).forM (preparePin n) s = .ok () s :=
    forM_of_ok fun p h => preparePin_full (hp p (mem_inOrder.1 h))
  rw [replayF, M.bind_ok (curCtx_run s), hw]
  exact (M.bind_ok hpins).trans ((M.bind_ok (M.tryCatch_ok hb)).trans (modCtx_run _ t))

theorem replayF_of_body_trap {c : Nat} {a i : Word} (hw : mapFind s.ctx.recipes j = some w)
    (hp : ∀ p ∈ w.pins, s.ctx.fill p.1 p.2 = .full)
    (hb : w.body.forM (runBody (bodyRd (replayF n) w.rot)) s = .error (.trap c a i) t) :
    replayF (n + 1) j s = .error (.trap c a (replayInfo j i)) t := by
  have hpins : (inOrder pinOrder w.pins).forM (preparePin n) s = .ok () s :=
    forM_of_ok fun p h => preparePin_full (hp p (mem_inOrder.1 h))
  rw [replayF, M.bind_ok (curCtx_run s), hw]
  exact (M.bind_ok hpins).trans (M.bind_error ((M.tryCatch_error hb).trans rfl))

/-- A source that is EMPTY, where none is DROPPED, makes a replay wait. -/
theorem replay_waits (hw : mapFind s.ctx.recipes j = some w) (he : ∃ p ∈ w.pins, s.ctx.fill p.1 p.2 = .empty)
    (hd : ∀ p ∈ w.pins, s.ctx.fill p.1 p.2 ≠ .dropped) : replay j s = .error .stall s := by
  refine replayF_of_pins_error hw (forM_error (fun p hp => ?_) ?_)
  · cases hf : s.ctx.fill p.1 p.2 with
    | full => exact .inl (preparePin_full hf)
    | empty => exact .inr (preparePin_empty hf)
    | dropped => exact absurd hf (hd p (mem_inOrder.1 hp))
  · obtain ⟨p, hp, hf⟩ := he
    exact ⟨p, mem_inOrder.2 hp, preparePin_empty hf⟩

/-- A replay whose one source is DROPPED replays that source's slot first. -/
theorem replayF_of_dropped {p : Kind × Nat} {i : Nat} {v : Recipe} {e : Stop} (hw : mapFind s.ctx.recipes j = some w)
    (hp : w.pins = [p]) (hd : s.ctx.fill p.1 p.2 = .dropped) (hs : s.ctx.slotOf p.1 p.2 = some (i, v))
    (h : replayF n i s = .error e u) : replayF (n + 1) j s = .error e u := by
  refine replayF_of_pins_error hw ?_
  rw [hp]
  exact M.bind_error ((preparePin_dropped hd hs).trans h)

/-- A third depth traps 0x08 with the slot of that depth. -/
theorem replay_too_deep {p q : Kind × Nat} {j2 j3 : Nat} {w2 w2' w3 : Recipe} (hw : mapFind s.ctx.recipes j = some w)
    (hp : w.pins = [p]) (hpd : s.ctx.fill p.1 p.2 = .dropped) (hps : s.ctx.slotOf p.1 p.2 = some (j2, w2'))
    (hw2 : mapFind s.ctx.recipes j2 = some w2) (hq : w2.pins = [q]) (hqd : s.ctx.fill q.1 q.2 = .dropped)
    (hqs : s.ctx.slotOf q.1 q.2 = some (j3, w3)) : replay j s = .error (.trap 0x08 0 (replayInfo j3 0)) s :=
  replayF_of_dropped hw hp hpd hps (replayF_of_dropped hw2 hq hqd hqs rfl)

/-! ## A body of one immediate word or one load -/

/-- The immediate words of layout B with what they compute. -/
def immediates (g : BForm) : List (Instr × (Word → Alu)) :=
  [(.addi g, addiOp g.imm), (.andi g, andiOp g.imm), (.ori g, oriOp g.imm), (.xori g, xoriOp g.imm),
   (.shli g, shliOp g.imm), (.shri g, shriOp g.imm), (.shai g, shaiOp g.imm), (.cseti g, csetiOp g.imm)]

variable {b : BForm}

/-- A body's immediate word reads xa and writes xd alone; its flags are dropped (R247). -/
theorem runBody_immediate {rd : Rd} : ∀ e ∈ immediates b, runBody rd e.1 =
    rd.x b.xa.toNat (b.ba == 1) >>= fun a => put rd b.xd (e.2 a) := by
  simp only [immediates, List.forall_mem_cons, List.not_mem_nil, false_implies, implies_true, and_true]
  exact ⟨rfl, rfl, rfl, rfl, rfl, rfl, rfl, rfl⟩

/-- A scalar register written in a body: bindings stay. -/
def Ctx.setX (c : Ctx) (r : Nat) (v : Word) : Ctx := { c with x := mapSet c.x r { val := v } }

theorem immediate_in_body {e : Instr × (Word → Alu)} {r : Nat → M Unit} {rot : BitVec 32} (he : e ∈ immediates b) (hd : b.xd.toNat ≠ 0) :
    runBody (bodyRd r rot) e.1 s = .ok () (s.setCtx (s.ctx.setX b.xd.toNat (e.2 (s.ctx.regX b.xa.toNat).val).1)) := by
  have hread : (bodyRd r rot).x b.xa.toNat (b.ba == 1) s = .ok (s.ctx.regX b.xa.toNat).val s := rfl
  have hwrite : ∀ v, (bodyRd r rot).xw b.xd.toNat v s = .ok () (s.setCtx (s.ctx.setX b.xd.toNat v)) := fun v => by
    show modCtx (fun c => if b.xd.toNat = 0 then c else c.setX b.xd.toNat v) s = _
    rw [modCtx_run, if_neg hd]
  rw [runBody_immediate e he]
  exact (M.bind_ok hread).trans ((M.bind_ok (hwrite _)).trans rfl)

theorem regX_setX {c : Ctx} {r m : Nat} {v : Word} (h0 : r ≠ 0) : (c.setX r v).regX m = if m = r then { val := v } else c.regX m := by
  unfold Ctx.setX Ctx.regX
  by_cases hm : m = r
  · subst hm
    simp [h0]
  · simp [hm, mapGet_mapSet_other]

theorem setFill_x {c : Ctx} {r : Nat} {g : Fill} (h0 : r ≠ 0) :
    c.setFill .x r g = { c with x := mapSet c.x r { c.regX r with fill := g } } := if_neg h0

theorem regX_setFill {c : Ctx} {r m : Nat} {g : Fill} (h0 : r ≠ 0) :
    (c.setFill .x r g).regX m = if m = r then { c.regX r with fill := g } else c.regX m := by
  rw [setFill_x h0]
  by_cases hm : m = r
  · subst hm
    simp [Ctx.regX, h0]
  · simp [Ctx.regX, hm, mapGet_mapSet_other]

/-- A replay of a body of one immediate word writes its target alone. -/
theorem replay_immediate {e : Instr × (Word → Alu)} (hw : mapFind s.ctx.recipes j = some w)
    (hp : ∀ p ∈ w.pins, s.ctx.fill p.1 p.2 = .full) (hk : w.kind = .x) (ht : w.target = b.xd.toNat) (h0 : w.target ≠ 0)
    (he : e ∈ immediates b) (hb : w.body = [e.1]) :
    ∃ t, replay j s = .ok () t ∧ t.ctx.regX w.target = { val := (e.2 (s.ctx.regX b.xa.toNat).val).1 } ∧
      (∀ m, m ≠ w.target → t.ctx.regX m = s.ctx.regX m) ∧ t.ctx.flags = s.ctx.flags ∧ t.ctx.recipes = s.ctx.recipes := by
  have hbody : w.body.forM (runBody (bodyRd (replayF 1) w.rot)) s =
      .ok () (s.setCtx (s.ctx.setX w.target (e.2 (s.ctx.regX b.xa.toNat).val).1)) := by
    rw [hb, ht]
    exact (M.bind_ok (immediate_in_body he (by rwa [← ht]))).trans rfl
  refine ⟨_, replayF_of_full hw hp hbody, ?_⟩
  rw [State.ctx_setCtx, State.ctx_setCtx, hk]
  refine ⟨?_, fun m hm => ?_, ?_, ?_⟩
  · rw [regX_setFill h0, if_pos rfl, regX_setX h0, if_pos rfl]
  · rw [regX_setFill h0, if_neg hm, regX_setX h0, if_neg hm]
  · rw [setFill_x h0]
    rfl
  · rw [setFill_x h0]
    rfl

/-- The plain loads with their sizes. -/
def plainLoads (b : BForm) : List (Instr × Nat) :=
  [(.ldb b, 1), (.ldh b, 2), (.ldw b, 4), (.ldd b, 8), (.ldbs b, 1), (.ldhs b, 2), (.ldws b, 4)]

theorem runBody_load {rd : Rd} : ∀ e ∈ plainLoads b, ∃ signed, runBody rd e.1 = loadCore rd b e.2 signed := by
  simp only [plainLoads, List.forall_mem_cons, List.not_mem_nil, false_implies, implies_true, and_true]
  exact ⟨⟨_, rfl⟩, ⟨_, rfl⟩, ⟨_, rfl⟩, ⟨_, rfl⟩, ⟨_, rfl⟩, ⟨_, rfl⟩, ⟨_, rfl⟩⟩

/-- A replay of a load of a page with W or DEFER set traps 0x09. -/
theorem replay_load_traps {e : Instr × Nat} {p : Piece} {l : Leaf} (hw : mapFind s.ctx.recipes j = some w)
    (hp : ∀ p ∈ w.pins, s.ctx.fill p.1 p.2 = .full) (he : e ∈ plainLoads b) (hb : w.body = [e.1])
    (hpl : placeAligned ((s.ctx.regX b.xa.toNat).val + b.imm.signExtend 64 * BitVec.ofNat 64 e.2) e.2 e.2 aLoad s = .ok p t)
    (hl : translateHere t p.va aLoad = .ok l) (hbad : l.w = true ∨ l.defer = true) :
    replay j s = .error (.trap 0x09 p.va (replayInfo j 0)) t := by
  refine replayF_of_body_trap hw hp ?_
  rw [hb]
  obtain ⟨signed, hrun⟩ := runBody_load e he
  have hread : (bodyRd (replayF 1) w.rot).x b.xa.toNat (b.ba == 1) s = .ok (s.ctx.regX b.xa.toNat).val s := rfl
  have hload : ∀ d, (bodyRd (replayF 1) w.rot).load { act := .load, pieces := [p], scalar := true } d t =
      .error (.trap 0x09 p.va 0) t := fun d => by
    have htrue : (l.w || l.defer) = true := by simpa using hbad
    refine (M.bind_ok (M.get_run t)).trans ?_
    simp only [List.find?_cons, hl, htrue]
    rfl
  refine M.bind_error ?_
  rw [hrun]
  exact (M.bind_ok hread).trans ((M.bind_ok hpl).trans ((M.bind_ok (M.pure_run () t)).trans (M.bind_error (hload _))))

/-! ## Words that start a replay (R249, R250) -/

theorem exec_immediate {g : BForm} : ∀ e ∈ immediates g,
    exec e.1 s = tWord 2 (readX replay g.xa.toNat (g.ba == 1) >>= fun a => put rdS g.xd (e.2 a)) s := by
  simp only [immediates, List.forall_mem_cons, List.not_mem_nil, false_implies, implies_true, and_true]
  exact ⟨show execAddi g s = _ from rfl, show execAndi g s = _ from rfl, show execOri g s = _ from rfl,
    show execXori g s = _ from rfl, show execShli g s = _ from rfl, show execShri g s = _ from rfl,
    show execShai g s = _ from rfl, show execCseti g s = _ from rfl⟩

/-- A word ends as the replay that it starts where that waits or traps. -/
def FailsWith (s : State) (i : Instr) (j : Nat) : Prop :=
  (∀ u, replay j s = .error .stall u → exec i s = .next (noteStall s)) ∧
  (∀ cause addr info u, replay j s = .error (.trap cause addr info) u → s.awaits .t = false →
    exec i s = .next (s.trapped u 0 cause addr info).settled)

theorem RunsAs.failsWith {i : Instr} {m : M Unit} (h : RunsAs s i m)
    (hm : ∀ e u, replay j s = .error e u → m s = .error e u) : FailsWith s i j := by
  obtain ⟨n, body, hi, hb⟩ := h
  exact ⟨fun u hu => hi.trans (tWord_stall (hb.trans (hm _ u hu))),
    fun c a info u hu hw => hi.trans (tWord_trap (hb.trans (hm _ u hu)) hw)⟩

theorem M.bind_congr_run {α β : Type} {x y : M α} {f : α → M β} (h : x s = y s) : (x >>= f) s = (y >>= f) s := by
  show EStateM.bind x f s = EStateM.bind y f s
  rw [EStateM.bind, EStateM.bind, h]

/-- A DROPPED register is replayed for its reader. -/
theorem ready_dropped {r : Nat → M Unit} {m : Nat} {bit : Bool} (hf : s.ctx.fill .x m = .dropped)
    (hs : s.ctx.slotOf .x m = some (j, w)) : ready r .x m m bit s = r j s := by
  rw [ready, M.bind_ok (curCtx_run s), hf]
  simp only
  rw [hs]

theorem readX_dropped_error {r : Nat → M Unit} {m : Nat} {bit : Bool} {e : Stop} (hf : s.ctx.fill .x m = .dropped)
    (hs : s.ctx.slotOf .x m = some (j, w)) (hr : r j s = .error e u) : readX r m bit s = .error e u :=
  M.bind_error ((ready_dropped hf hs).trans hr)

theorem readX_dropped {r : Nat → M Unit} {m : Nat} {bit : Bool} (hf : s.ctx.fill .x m = .dropped)
    (hs : s.ctx.slotOf .x m = some (j, w)) (hr : r j s = .ok () t) : readX r m bit s = .ok (t.ctx.regX m).val t :=
  (M.bind_ok ((ready_dropped hf hs).trans hr)).trans rfl

/-- The one slot that pins register `m` and whose target is DROPPED. -/
def Ctx.onePinned (c : Ctx) (m j : Nat) (w : Recipe) : Prop :=
  c.recipes.filter (fun e => e.2.pins.contains (.x, m) && c.fill e.2.kind e.2.target == .dropped) = [(j, w)]

/-- A write of a register that a DROPPED register's slot pins replays that slot first. -/
theorem prepWrite_pinned {r : Nat → M Unit} {m : Nat} (hp : s.ctx.pending .x m = false) (h : s.ctx.onePinned m j w) :
    prepWrite r .x m s = (r j >>= fun _ => pure ()) s := by
  have hmem : (j, w) ∈ s.ctx.recipes.filter fun e => e.2.pins.contains (.x, m) && s.ctx.fill e.2.kind e.2.target == .dropped := by
    rw [h]
    exact List.mem_singleton_self _
  have hd : (s.ctx.fill w.kind w.target == .dropped) = true := (Bool.and_eq_true_iff.1 (List.mem_filter.1 hmem).2).2
  rw [prepWrite, M.bind_ok (curCtx_run s)]
  refine (congrFun (if_neg (Bool.eq_false_iff.1 hp)) s).trans ?_
  simp only
  rw [h]
  exact M.bind_congr_run ((M.bind_ok (curCtx_run s)).trans (congrFun (if_pos hd) s))

theorem put_pinned_error {d : BitVec 6} {r : Alu} {e : Stop} (h0 : d.toNat ≠ 0) (hp : s.ctx.pending .x d.toNat = false)
    (h : s.ctx.onePinned d.toNat j w) (hr : replay j s = .error e u) : put rdS d r s = .error e u := by
  have hw : writeX replay d.toNat r.1 s = .error e u :=
    (congrFun (if_neg h0) s).trans (M.bind_error ((prepWrite_pinned hp h).trans (M.bind_error hr)))
  exact M.bind_error hw

theorem put_pinned {d : BitVec 6} {r : Alu} (h0 : d.toNat ≠ 0) (hp : s.ctx.pending .x d.toNat = false)
    (h : s.ctx.onePinned d.toNat j w) (hr : replay j s = .ok () t) :
    put rdS d r s = .ok () (t.setCtx ((t.ctx.putX d.toNat r.1).raise r.2)) := by
  have hw : writeX replay d.toNat r.1 s = .ok () (t.setCtx (t.ctx.putX d.toNat r.1)) :=
    (congrFun (if_neg h0) s).trans ((M.bind_ok ((prepWrite_pinned hp h).trans (M.bind_ok hr))).trans (modCtx_run _ t))
  refine (M.bind_ok hw).trans ((orFlags_run _ _).trans ?_)
  rw [State.ctx_setCtx, State.setCtx_setCtx]

/-- A written register is in no slot (R250). -/
theorem mem_recipes_putX {c : Ctx} {d : Nat} {v : Word} {e : Nat × Recipe} (h0 : d ≠ 0) (h : e ∈ (c.putX d v).recipes) :
    (Kind.x, d) ∉ e.2.pins ∧ ¬ (e.2.kind = .x ∧ e.2.target = d) := by
  rw [Ctx.putX, if_neg h0] at h
  have h' : e ∈ (unbind c .x d).recipes := h
  unfold unbind at h'
  split at h'
  · next hempty => simp [List.isEmpty_iff.1 hempty] at h'
  · have hkeep := (List.mem_filter.1 h').2
    simp only [Bool.not_eq_true', Bool.or_eq_false_iff, Bool.and_eq_false_iff, beq_eq_false_iff_ne, List.contains_eq_mem,
      decide_eq_false_iff_not] at hkeep
    tauto

/-- An immediate word of a DROPPED register runs with what its replay brings. -/
theorem immediate_of_dropped {g : BForm} {e : Instr × (Word → Alu)} (he : e ∈ immediates g)
    (hf : s.ctx.fill .x g.xa.toNat = .dropped) (hs : s.ctx.slotOf .x g.xa.toNat = some (j, w)) :
    FailsWith s e.1 j ∧ ∀ t, replay j s = .ok () t → t.ctx.xWritable g.xd.toNat = true →
      exec e.1 s = .next (t.aluDone g.xd (e.2 (t.ctx.regX g.xa.toNat).val)) := by
  have hrun := exec_immediate (s := s) e he
  refine ⟨(RunsAs.of_word hrun).failsWith fun _ u hr => M.bind_error (readX_dropped_error hf hs hr), fun t hr hd => ?_⟩
  exact hrun.trans (tWord_ok ((M.bind_ok (readX_dropped hf hs hr)).trans (put_ready hd)))

/-- An immediate word that writes a source of a DROPPED register's slot replays that slot first. -/
theorem immediate_over_pinned {g : BForm} {e : Instr × (Word → Alu)} (he : e ∈ immediates g)
    (ha : s.ctx.xReady g.xa.toNat = true) (h0 : g.xd.toNat ≠ 0) (hp : s.ctx.pending .x g.xd.toNat = false)
    (h : s.ctx.onePinned g.xd.toNat j w) : FailsWith s e.1 j ∧ ∀ t, replay j s = .ok () t →
      exec e.1 s = .next (t.aluDone g.xd (e.2 (s.ctx.regX g.xa.toNat).val)) := by
  have hrun := exec_immediate (s := s) e he
  refine ⟨(RunsAs.of_word hrun).failsWith fun _ u hr => ?_, fun t hr => ?_⟩
  · exact (M.bind_ok (readX_ready ha)).trans (put_pinned_error h0 hp h hr)
  · exact hrun.trans (tWord_ok ((M.bind_ok (readX_ready ha)).trans (put_pinned h0 hp h hr)))

/-- Settles O27, word by word and replay by replay. -/
theorem recipeWordsBindDropAndUnbind : Obligations.RecipeWordsBindDropAndUnbind := by
  intro f s
  refine ⟨fun hx hlt heven hz hv body t hb ht => ⟨fun pins hp hold => ?_, fun hp hw => ?_⟩,
    fun hd => ⟨fun hs hp => exec_rcpdrop rfl hd hs hp, fun hs hw => exec_rcpdrop_refused hd hw hs⟩,
    exec_rcpkill_unbound, fun old => exec_rcpkill, exec_rempty_zero, exec_rempty rfl, exec_rempty_unallotted rfl, exec_rstate,
    fun j w hw => ⟨fun hp b => ⟨fun hk htg h0 e he hb => ?_, fun e he hb p t hpl l hl hbad => ?_⟩, replay_waits hw, ?_⟩,
    fun g => ⟨fun j w hf hs hw e he => ?_, fun j w ha h0 hp h e he => ?_⟩⟩
  · exact exec_rcpdef ⟨hx, hlt, heven, rfl, hz, hv⟩ (ok_of_got hb) ht hp hold
  · exact exec_rcpdef_refused ⟨hx, hlt, heven, rfl, hz, hv⟩ (ok_of_got hb) ht hp hw
  · have hmem : e ∈ (immediates b).map fun e' => (e'.1, e'.2 (s.ctx.regX b.xa.toNat).val) := he
    obtain ⟨e', he', rfl⟩ := List.mem_map.1 hmem
    obtain ⟨t, ht, hrest⟩ := replay_immediate hw hp hk htg h0 he' hb
    exact ⟨t, by rw [got, ht], hrest⟩
  · exact replay_load_traps hw hp he hb (ok_of_got hpl) hl hbad
  · exact fun p j2 w2 w2' hp hpd hps hw2 q j3 w3 hq hqd hqs => replay_too_deep hw hp hpd hps hw2 hq hqd hqs
  · obtain ⟨hfail, hok⟩ := immediate_of_dropped he hf hs
    exact ⟨hfail, fun t ht => hok t (ok_of_got ht)⟩
  · obtain ⟨hfail, hok⟩ := immediate_over_pinned he ha h0 hp h
    exact ⟨hfail, fun t ht => ⟨hok t (ok_of_got ht), fun v r hr => mem_recipes_putX h0 hr⟩⟩

end Sys2Proof.Machine
end

section
/-! PROOFS. One step of the module: it runs the word that the engine stands at, every instruction answers a next state, and a word that
retires moves only its engine on (R221, R222, R243, R254, R269, R312). -/

namespace Sys2Proof.Machine

variable {s t : State}

/-! ## Every instruction answers a next state -/

theorem tWordClosing_answers (n : Nat) (body : M Unit) (s : State) : ∃ u, tWordClosing n body s = .next u := runWord_next ..

theorem tWord_answers (n : Nat) (body : M Unit) (s : State) : ∃ u, tWord n body s = .next u := runWord_next ..

theorem tBranch_answers (n : Nat) (body : M (Option Word)) (s : State) : ∃ u, tBranch n body s = .next u := runWord_next ..

theorem engWord_answers (e : Eng) (body : M Unit) (s : State) : ∃ u, engWord e body s = .next u := runWord_next ..

theorem mcWord_answers (e : Eng) (body : M Unit) (s : State) : ∃ u, mcWord e body s = .next u := runWord_next ..

theorem breakWord_answers (e : Eng) (s : State) : ∃ u, breakWord e s = .next u := by
  unfold breakWord
  exact mcWord_answers ..

theorem leaveWord_answers (body : M Unit) (s : State) : ∃ u, leaveWord body s = .next u := by
  unfold leaveWord
  split
  · exact ⟨_, rfl⟩
  · exact runWord_next ..
  · exact ⟨_, rfl⟩

theorem meet_go_answers (commit : State → State) (e : Eng) (s : State) (c : Ctx) : ∃ u, meet.go commit e s c = .next u := by
  unfold meet.go
  simp only
  split <;> exact ⟨_, rfl⟩

theorem meet_answers (commit : State → State) (s : State) : ∃ u, meet commit s = .next u := by
  unfold meet
  simp only
  generalize (if s.eng == .t then closeWindow s else s) = s0
  split
  · exact ⟨_, rfl⟩
  · split
    · split
      · exact runWord_next ..
      · exact meet_go_answers ..
    · exact meet_go_answers ..

theorem parkStep_answers (n cause : Nat) (a i : Word) (s : State) : ∃ u, parkStep n cause a i s = .next u := by
  unfold parkStep
  split <;> exact ⟨_, rfl⟩

theorem execPark_answers (s : State) : ∃ u, execPark s = .next u := by
  unfold execPark
  simp only
  split
  · exact parkStep_answers ..
  · exact leaveWord_answers ..

theorem execSync_answers (s : State) : ∃ u, execSync s = .next u := by
  unfold execSync
  split
  · exact ⟨_, rfl⟩
  · exact meet_answers ..

theorem execIllegalEncoding_answers (s : State) : ∃ u, execIllegalEncoding s = .next u := by
  unfold execIllegalEncoding
  split
  · exact ⟨_, rfl⟩
  · exact runWord_next ..

theorem aWord_answers (n : Nat) (dec : Option (M (Bool × Word))) (body : Eng → Bool × Word → M (Option Word)) (s : State) :
    ∃ u, aWord n dec body s = .next u := runWord_next ..

theorem execSlip_answers (n : BitVec 4) (s : State) : ∃ u, execSlip n s = .next u := by
  unfold execSlip
  exact aWord_answers ..

theorem execHalt_answers (s : State) : ∃ u, execHalt s = .next u := by
  unfold execHalt
  obtain ⟨u, hu⟩ := aWord_answers 1 none (fun e _ => do
    let pc ← pcOf e
    modEng e fun g => { g with halted := true }
    return some pc) s
  rw [hu]
  simp only
  split <;> exact ⟨_, rfl⟩

/-- The words end as `runWord` says; SYNC, NEXT and ABRK meet, HALT, PARK and the returns of the supervisor leave; the rows that are no
words are events. -/
theorem exec_answers (i : Instr) (s : State) : ∃ u, exec i s = .next u := by
  cases i with
  | add | sub | and | or | xor | shl | shr | mul | div | rem | min | max | cset | bits | field | sel | addi | andi | ori | xori | shli
  | shri | shai | cseti | xput | xtake | call | jr | beq | bne | blt | bge | bltu | bgeu | bp | csrr | csrw | csrs | csrc | fence
  | icinv | getid | ldb | ldh | ldw | ldd | ldbs | ldhs | ldws | stb | sth | stw | std | ldf | ldc | ste | sts | stn | allot | rotcfg
  | rotset | ctxsv | ctxld | grpset | asgen | cohset | probe | lix | vadd | vsub | vmul | vfma | vfms | vmin | vmax | vabs | vneg
  | vdiv | vsqrt | vrcp | vrsq | vexp2 | vlog2 | vscl | vcmp | vsel | vand | vor | vxor | vnot | vshl | vshr | vcvt | vqmx | vdqmx
  | vqnb | vdqnb | vrand | vbdot | vpack | vred | vscan | vperm | vbcast | vextr | vins | vslide | vzip | vunzip | vmov | viota | pand
  | por | pxor | pnot | pwhile | pcnt | pfirst | vld | vst | vldx | vstx | vldf | vste | vgath | vscat | touch | cstat | waitc | defer
  | resolve | poison | rcpdef | rcpdrop | rcpkill | rempty | rstate | amoadd | amomin | amomax | amoand | amoor | amoxor | amoswp
  | amocas | amofadd | vamoadd | fadd | fset | farm | binit | bexp | bwait | btest | binv | rginit | rgtake | sbind | sstat | mpushx
  | mpopx | mshl | mmma | mmva | mepi | mwait | mskipz | mconst | mlit | cpushx | cpopx | cshl | ccopy | ccopy2 | cgath | cscat | cfill
  | cpage | ccoll | cwait | cskipz | clit | loop | loopX | endl | leave | abr | acall | trapf | mdup | mdrop | mswap | mover | madd
  | mor | mswpw | mbar | cdup | cdrop | cswap | cover | cadd | cor | cdecomp | cpref | choff | cflush | cbar | anop | aret =>
    exact runWord_next ..
  | b f => exact (show ∃ u, execB f s = .next u from tBranch_answers ..)
  | svc n => exact (show ∃ u, execSvc n s = .next u from tWordClosing_answers ..)
  | sunbind f => exact (show ∃ u, execSunbind f s = .next u from tWordClosing_answers ..)
  | brk => exact (show ∃ u, execBrk s = .next u from tWord_answers ..)
  | brkl => exact (show ∃ u, execBrkl s = .next u from tWord_answers ..)
  | isync => exact (show ∃ u, execIsync s = .next u from tWordClosing_answers ..)
  | pause => exact (show ∃ u, execPause s = .next u from tWordClosing_answers ..)
  | mnop => exact (show ∃ u, execMnop s = .next u from engWord_answers ..)
  | cnop => exact (show ∃ u, execCnop s = .next u from engWord_answers ..)
  | mbrk => exact (show ∃ u, execMbrk s = .next u from breakWord_answers ..)
  | cbrk => exact (show ∃ u, execCbrk s = .next u from breakWord_answers ..)
  | slip n => exact execSlip_answers n s
  | halt => exact execHalt_answers s
  | sync => exact execSync_answers s
  | next => exact (show ∃ u, execNext s = .next u from meet_answers ..)
  | abrk => exact (show ∃ u, execAbrk s = .next u from meet_answers ..)
  | sret => exact (show ∃ u, execSret s = .next u from leaveWord_answers ..)
  | xdisp => exact (show ∃ u, execXdisp s = .next u from leaveWord_answers ..)
  | swctx => exact (show ∃ u, execSwctx s = .next u from leaveWord_answers ..)
  | park => exact execPark_answers s
  | illegalEncoding => exact execIllegalEncoding_answers s
  | elda | eadd | emul | efma | emax | econ | erow | eact | ecvt | estat | eqkv | eres | est | esel | emov | eend | powerUp
  | stageOverrun | startRetryReset | inputPowerRemoved | sensorSample | thstatWarnClear | tlimWrite | lpwrWrite | layerTransitionDone
  | capTick | droopAlarm | droopHoldEnd | heldStartAdmit | staggeredRegionStart | registerWrite | flitReceive | nakReceive
  | nullFlitSend | retrainStart | linkForceRetrain | retrainAttemptEnd | retrainAttemptTimeout | fabricFlitReceive | fabricNakReceive
  | portRetrainStart | portRetrainAttemptEnd | portRetrainAttemptTimeout | rdline | rdpart | wrmask | tagst | tagld | slotAmoadd
  | slotAmomin | slotAmomax | slotAmoand | slotAmoor | slotAmoxor | slotAmoswp | slotAmocas | slotAmofadd | slotVamoadd | slotFadd
  | slotFset | slotFarm | cellopTouch | cellopCstat | cellopDefer | cellopResolve | cellopPoison | cellopWaitc | cellopHeadQuery
  | bopen | bulkFlit | ldata | lwrite | lwritev | rdata | done | err | pend | pendTimer | responseTimeout | hostMemRead | hostMemWrite
  | submit | slotFree | slotStateUndo | cancelWord | evheadWrite | msixUnmask | identify | status | attest | bootlog | updateConfig
  | setPlan | loadText | loadWeights | loadWeightsDone | mapRegion | unmap | openSpace | closeSpace | setTier | cancel | drain
  | drainComplete | queryStream | lend | borrow | reclaim | reclaimAnswer | reclaimGraceExpire | debugHalt | debugResume | debugRead
  | debugWrite | debugBreak | resetModule | moduleReset | thermalRead | thermalSet | powerCap | spdmRequest | admission | streamEnd
  | retirement | tiermissEvent | ltimeWarn | ltimeSelfDrain | ltimeLimit | logicalTimeTick | handoffSend | hblkSent
  | handoffTimerExpire | hblk | blockLanded | cack | hcancel | cmark | cxack | cxackSequencer | srcdone | cnote | hfail | hrej
  | frefopAttach | frefopRead | tkpost | predDecrement | ringDescriptorWrite | dispatchSelect | contextSwap | backgroundSpillDone
  | debugHaltTake | asyncRetire | fqcmdResume | fqcmdKill | fqcmdComplete | faultQueueTimeout | tileTaskIssue | tileTaskComplete
  | bankPairSwap | evalTableRetry | evalPostRetry | waiterTableRetry | tagwaitRetry | engineEvalEnd | stashConfigWrite | stmapdWrite
  | poolPeerRequest => exact ⟨_, rfl⟩

/-! ## Every step answers a next state -/

/-- A step of the module answers a next state. -/
def Move.answers : Move → Prop
  | .row _ _ => True
  | .ends o => ∃ u, o = .next u

theorem step_answers (h : (nextMove (tickCycle s)).answers) : ∃ u, step s = .next u := by
  unfold step
  cases hm : nextMove (tickCycle s) with
  | row i t => exact exec_answers i t
  | ends o =>
    rw [hm] at h
    exact h

theorem supervisorAction_answers (s : State) : ∃ u, supervisorAction s = .next u := by
  unfold supervisorAction
  simp only
  split
  · exact ⟨_, rfl⟩
  · split
    · exact leaveWord_answers ..
    · split
      · exact ⟨_, rfl⟩
      · exact parkStep_answers ..
    · exact ⟨_, rfl⟩
    · exact parkStep_answers ..
    · exact parkStep_answers ..

theorem engineMove_answers (s : State) : (engineMove s).answers := by
  unfold engineMove
  simp only
  split
  · exact parkStep_answers ..
  · split
    · exact supervisorAction_answers s
    · split
      · exact runWord_next ..
      · exact ⟨_, rfl⟩
      · split
        · split
          · exact ⟨_, rfl⟩
          · trivial
        · trivial

theorem ownMove_answers {m : Move} (h : ownMove s = some m) : m.answers := by
  unfold ownMove at h
  split at h
  · obtain rfl := Option.some.inj h
    trivial
  · simp only at h
    split at h
    · obtain rfl := Option.some.inj h
      trivial
    · cases h

theorem moduleMove_answers (s : State) : (moduleMove s).answers := by
  unfold moduleMove
  simp only
  split
  · exact engineMove_answers _
  · split
    · next m _ hm =>
      split at hm
      · cases hm
      · exact ownMove_answers hm
    · exact engineMove_answers _
    · exact ⟨_, rfl⟩

theorem epiMove_answers (s : State) (k : Nat) : (epiMove s k).answers := by
  unfold epiMove
  split
  · split <;> trivial
  · trivial

theorem resetMove_answers (s : State) : (resetMove s).answers := by
  unfold resetMove
  split <;> trivial

theorem nextMove_answers (h : s.agendaOk = true) : (nextMove s).answers := by
  unfold nextMove
  split
  · exact resetMove_answers s
  · split
    · next i a r hagenda =>
      have hhead : ¬ (!argsOk i a || isWord i) = true := by
        rw [State.agendaOk, hagenda, List.all_cons, Bool.and_eq_true, Bool.and_eq_true, Bool.not_eq_true'] at h
        obtain ⟨⟨hargs, hword⟩, -⟩ := h
        simp [hargs, hword]
      simp only [if_neg hhead]
      split
      · exact ⟨_, rfl⟩
      · trivial
    · simp only
      split
      · exact ⟨_, rfl⟩
      · trivial
    · split
      · trivial
      · split
        · trivial
        · split
          · exact epiMove_answers s _
          · exact moduleMove_answers s

/-! ## A clock edge leaves the agenda -/

theorem agenda_dropRequests (s : State) : (dropRequests s).agenda = s.agenda := by
  have hprep : ∀ t : State, (dropPrepared t).agenda = t.agenda := fun t => by
    unfold dropPrepared
    split <;> rfl
  have hfold : ∀ (l : Map Die) (t : State), (l.foldl (fun s d => dropStale s d.1) t).agenda = t.agenda := by
    intro l
    induction l with
    | nil => exact fun _ => rfl
    | cons d l ih => exact fun t => ih _
  unfold dropRequests
  rw [hprep]
  split
  · exact hfold _ s
  · rfl

theorem agenda_tickCycle (s : State) : (tickCycle s).agenda = s.agenda := by
  unfold tickCycle
  simp only
  split
  · exact agenda_dropRequests _
  · exact agenda_dropRequests _

theorem step_answers_of_agendaOk (h : s.agendaOk = true) : ∃ u, step s = .next u := by
  refine step_answers (nextMove_answers ?_)
  rwa [State.agendaOk, agenda_tickCycle]

/-! ## What a step runs -/

/-- Nothing comes before the turn of an engine or an E-op. -/
def State.quiet (s : State) : Prop :=
  s.agenda = [] ∧ s.msgs = [] ∧ s.fw.started = true ∧ s.fw.retryReset = false ∧ resetPending s = false

theorem nextMove_of_epilogue {k : Nat} (h : s.quiet) (hk : s.epi.at_ = some k) : nextMove s = epiMove s k := by
  obtain ⟨ha, hm, hs, hr, hp⟩ := h
  simp only [nextMove, ha, hm, hs, hr, hp, hk, Bool.false_eq_true, Bool.not_true, if_false]

theorem nextMove_of_quiet (h : s.quiet) (hk : s.epi.at_ = none) : nextMove s = moduleMove s := by
  obtain ⟨ha, hm, hs, hr, hp⟩ := h
  simp only [nextMove, ha, hm, hs, hr, hp, hk, Bool.false_eq_true, Bool.not_true, if_false]

theorem step_row {i : Instr} (h : nextMove (tickCycle s) = .row i t) : step s = exec i t := by
  unfold step
  rw [h]

theorem step_ends {o : Host.Outcome State Fault Refusal} (h : nextMove (tickCycle s) = .ends o) : step s = o := by
  unfold step
  rw [h]

/-- The engine whose turn it is: the next in order, or the first once the module has had its own step. -/
def State.isNext (s : State) (n : Nat) (e : Eng) : Prop :=
  (readyEngines s).find? (turnAfter s) = some (n, e) ∨
    ((readyEngines s).find? (turnAfter s) = none ∧ s.turn = noCore ∧ (readyEngines s).head? = some (n, e))

theorem moduleMove_of_isNext {n : Nat} {e : Eng} (h : s.isNext n e) : moduleMove s = engineMove { s with turn := n, eng := e } := by
  unfold moduleMove
  obtain hf | ⟨hf, hturn, hhead⟩ := h
  · simp only [hf]
  · have hrun : (decide (s.turn = noCore) && !(readyEngines s).isEmpty) = true := by
      cases hl : readyEngines s with
      | nil => simp [hl] at hhead
      | cons x l => simp [hturn]
    simp only [hf]
    rw [if_pos hrun, hhead]

/-- An engine outside a trap that finds a word. -/
theorem engineMove_of_word {ps : List Parcel} {i : Instr} (hp : (s.core s.turn).parkPending = none)
    (hi : (s.core s.turn).intrap = false) (hf : found s s.eng = .word ps) (hd : decode ps = .ok i) :
    engineMove s = if heldBack s i then .ends (.next (noteStall s)) else .row i (wordFetched s s.eng ps.length) := by
  simp only [engineMove, hp, hi, hf, hd, Bool.false_and, Bool.false_eq_true, if_false]

/-- An engine outside a trap that finds parcels which are no word. -/
theorem engineMove_of_undecoded {ps : List Parcel} {x : DecodeError} (hp : (s.core s.turn).parkPending = none)
    (hi : (s.core s.turn).intrap = false) (hf : found s s.eng = .word ps) (hd : decode ps = .error x) :
    engineMove s = .row .illegalEncoding (wordFetched s s.eng ps.length) := by
  simp only [engineMove, hp, hi, hf, hd, Bool.false_and, Bool.false_eq_true, if_false]

theorem displacedAt_of_unarmed {k : Core} (e : Eng) (h : k.subst = none) : displacedAt k e = none := by
  rw [displacedAt, h]

/-- An engine without a substitution finds the word of its tag at its address. -/
theorem found_of_fetched {e : Eng} {p : Parcel} {ps : List Parcel} (hs : (s.core s.turn).subst = none)
    (hp : fetchParcel s (((s.core s.turn).ctx.eng e).pc.zeroExtend 64) = .ok p) (ht : tagFits (tagOf p) e = true)
    (hk : ((s.core s.turn).ctx.eng e).skip = 0)
    (hps : fetchParcels s (((s.core s.turn).ctx.eng e).pc.zeroExtend 64) (parcelsOf p) = .ok ps) : found s e = .word ps := by
  unfold found
  simp only [displacedAt_of_unarmed e hs, hp, ht, hk, hps]
  rfl

theorem wordFetched_of_unarmed {e : Eng} (h : (s.core s.turn).subst = none) (n : Nat) : wordFetched s e n = fetched s e n := by
  rw [wordFetched, displacedAt_of_unarmed e h]
  rfl

theorem heldBack_iff {i : Instr} : heldBack s i = true ↔ (s.eng = .t ∧ (s.core s.turn).ahead ≠ none ∧ aheadWord i = false) := by
  simp [heldBack, and_assoc, Option.isSome_iff_ne_none]

/-! ## A word that retires moves only its engine on -/

theorem ctx_disarm (k : Core) (e : Eng) (pc : TextAddr) : (k.disarm e pc).ctx = k.ctx := by
  unfold Core.disarm
  split
  · simp only
    split <;> rfl
  · rfl

theorem ctx_countAhead (k : Core) (e : Eng) : (k.countAhead e).ctx = k.ctx := by
  unfold Core.countAhead
  split <;> rfl

theorem core_dropArrived (s : State) (n : Nat) : (dropArrived s).core n = s.core n := by
  unfold dropArrived
  split <;> rfl

theorem turn_dropArrived (s : State) : (dropArrived s).turn = s.turn := by
  unfold dropArrived
  split <;> rfl

theorem core_retired (s : State) (e : Eng) (k : Nat) : (s.retired e k).core s.turn =
    (({ s.core s.turn with ctx := retire s.ctx e k } : Core).disarm e (s.ctx.eng e).pc).countAhead e := by
  have hcore : (((dropArrived s).setCtx (retire s.ctx e k)).goOn).core s.turn = { s.core s.turn with ctx := retire s.ctx e k } := by
    show ((dropArrived s).setCtx (retire s.ctx e k)).core s.turn = _
    rw [State.setCtx, turn_dropArrived, State.core_modCore_same, core_dropArrived]
  rw [State.retired, State.core_modCore_same, hcore]

theorem core_retired_other {n : Nat} (h : n ≠ s.turn) (e : Eng) (k : Nat) : (s.retired e k).core n = s.core n := by
  rw [State.retired, State.core_modCore_other _ _ _ _ h]
  show ((dropArrived s).setCtx (retire s.ctx e k)).core n = _
  rw [State.setCtx, turn_dropArrived, State.core_modCore_other _ _ _ _ h, core_dropArrived]

theorem turn_retired (s : State) (e : Eng) (k : Nat) : (s.retired e k).turn = s.turn := turn_dropArrived s

theorem ctx_retired (s : State) (e : Eng) (k : Nat) : (s.retired e k).ctx = retire s.ctx e k := by
  rw [State.ctx, turn_retired, core_retired, ctx_countAhead, ctx_disarm]

/-- Outside its cores and its bookkeeping, a state is as it was. -/
theorem frame_retired (s : State) (e : Eng) (k : Nat) :
    { s.retired e k with cores := s.cores, arrived := s.arrived, stalls := s.stalls } = s := by
  show { dropArrived s with cores := s.cores, arrived := s.arrived, stalls := s.stalls } = s
  unfold dropArrived
  split <;> rfl

theorem eng_retire (c : Ctx) (e : Eng) (k : Nat) :
    (retire c e k).eng e = { c.eng e with pc := (c.eng e).pc + BitVec.ofNat 56 (2 * k) } := by
  cases e <;> rfl

theorem eng_retire_other {e g : Eng} (h : g ≠ e) (c : Ctx) (k : Nat) : (retire c e k).eng g = c.eng g := by
  have hset : (retire c e k).eng g = (c.setEng e { c.eng e with pc := (c.eng e).pc + BitVec.ofNat 56 (2 * k) }).eng g := by
    cases e <;> rfl
  rw [hset, Ctx.eng_setEng_other _ _ _ _ h]

theorem ageWindow_eq (w : List Transient) :
    ageWindow w = (w.map fun x => { x with left := x.left - 1 }).filter fun x => x.left != 0 := by
  unfold ageWindow
  split
  · next h => simp [List.isEmpty_iff.1 h]
  · rfl

theorem window_retire (c : Ctx) (e : Eng) (k : Nat) : (retire c e k).window =
    if e = .t then (c.window.map fun x => { x with left := x.left - 1 }).filter fun x => x.left != 0 else c.window := by
  cases e with
  | t => exact ageWindow_eq c.window
  | m => rfl
  | c => rfl

theorem frame_retire (c : Ctx) (e : Eng) (k : Nat) :
    { retire c e k with t := c.t, m := c.m, c := c.c, window := c.window } = c := by
  cases e <;> rfl

theorem disarm_of_unarmed {k : Core} (h : k.subst = none) (e : Eng) (pc : TextAddr) : k.disarm e pc = k := by
  unfold Core.disarm
  rw [h]

theorem countAhead_eq (k : Core) (e : Eng) : k.countAhead e =
    { k with ahead := if e = .t then k.ahead.map fun a => { a with words := a.words + 1 } else k.ahead } := by
  cases k with
  | mk _ ahead =>
    cases e with
    | t => cases ahead <;> rfl
    | m => rfl
    | c => rfl

/-- Of the core, without an armed substitution, only the count of words behind an access moves. -/
theorem core_retired_unarmed {e : Eng} (h : (s.core s.turn).subst = none) (k : Nat) :
    { (s.retired e k).core s.turn with ctx := s.ctx } = { s.core s.turn with
      ahead := if e = .t then (s.core s.turn).ahead.map fun a => { a with words := a.words + 1 } else (s.core s.turn).ahead } := by
  have hcore : (s.retired e k).core s.turn = ({ s.core s.turn with ctx := retire s.ctx e k } : Core).countAhead e := by
    rw [core_retired, disarm_of_unarmed (by exact h)]
  rw [hcore, countAhead_eq]
  rfl

/-! ## O59 -/

theorem step_epilogue {k : Nat} {p : Parcel} (h : (tickCycle s).quiet) (hk : (tickCycle s).epi.at_ = some k)
    (hp : (tickCycle s).epi.prog[k]? = some p) :
    (∀ i, decodeEop p = .ok i → step s = exec i (tickCycle s)) ∧
      (∀ x, decodeEop p = .error x → step s = exec .illegalEncoding (tickCycle s)) := by
  have hmove := nextMove_of_epilogue h hk
  refine ⟨fun i hi => step_row (hmove.trans ?_), fun x hx => step_row (hmove.trans ?_)⟩
  · simp only [epiMove, hp, hi]
  · simp only [epiMove, hp, hx]

variable {n : Nat} {e : Eng}

/-- The state in which engine `e` of core `n` has its turn. -/
def State.atTurn (s : State) (n : Nat) (e : Eng) : State := { s with turn := n, eng := e }

theorem nextMove_of_turn (h : (tickCycle s).quiet) (hk : (tickCycle s).epi.at_ = none) (hn : (tickCycle s).isNext n e) :
    nextMove (tickCycle s) = engineMove ((tickCycle s).atTurn n e) := by
  rw [nextMove_of_quiet h hk, moduleMove_of_isNext hn, State.atTurn]

theorem step_word {ps : List Parcel} {u : State} (hm : nextMove (tickCycle s) = engineMove u)
    (hp : (u.core u.turn).parkPending = none) (hi : (u.core u.turn).intrap = false) (hf : found u u.eng = .word ps) :
    (∀ i, decode ps = .ok i → (heldBack u i = false → step s = exec i (wordFetched u u.eng ps.length)) ∧
      (heldBack u i = true → step s = .next (noteStall u))) ∧
    (∀ x, decode ps = .error x → step s = exec .illegalEncoding (wordFetched u u.eng ps.length)) := by
  refine ⟨fun i hd => ?_, fun x hd => step_row (hm.trans (engineMove_of_undecoded hp hi hf hd))⟩
  have hmove := hm.trans (engineMove_of_word hp hi hf hd)
  exact ⟨fun hh => step_row (hmove.trans (if_neg (Bool.eq_false_iff.1 hh))), fun hh => step_ends (hmove.trans (if_pos hh))⟩

/-- Settles O59: what a step runs, that it answers, and what a word that retires changes. -/
theorem aStepRunsTheDecodedWordAndNeverStops : Obligations.AStepRunsTheDecodedWordAndNeverStops := by
  intro s
  refine ⟨fun ha hm hs hr hp => ?_, fun i => heldBack_iff, fun i => exec_answers i s, step_answers_of_agendaOk, settled_of_none,
    fun e k => ?_⟩
  · have hq : (tickCycle s).quiet := ⟨ha, hm, hs, hr, hp⟩
    refine ⟨fun k hk p hprog => step_epilogue hq hk hprog, fun hk n e hn => ?_⟩
    have hmove := nextMove_of_turn hq hk hn
    refine fun hpark htrap => ⟨fun ps hf => step_word hmove hpark htrap hf, fun hsub p hp ht hskip ps hps i hi hh => ?_⟩
    have hf := found_of_fetched (s := (tickCycle s).atTurn n e) (e := e) hsub hp ht hskip hps
    rw [((step_word hmove hpark htrap hf).1 i hi).1 hh]
    exact congrArg (exec i) (wordFetched_of_unarmed (s := (tickCycle s).atTurn n e) hsub _)
  · refine ⟨?_, fun g hg => ?_, ?_, ?_, fun h => core_retired_unarmed h k, fun n hn => core_retired_other hn e k, frame_retired s e k⟩
    · rw [ctx_retired, eng_retire]
    · rw [ctx_retired, eng_retire_other hg]
    · rw [ctx_retired, window_retire]
    · rw [ctx_retired, frame_retire]

end Sys2Proof.Machine
end
